-- ==== Sys2Proof/Word.lean ====
section
/-!
DEFINITION. The words of the machine and its sparse tables: plain bit vectors, a block and a vector with the
tags they carry, and the canonical key and value list that every sparse piece of state is held in.
-/

namespace Sys2Proof

/-- Eight bits of memory. -/
abbrev Byte := BitVec 8

/-- A scalar register's width (R25). -/
abbrev Word := BitVec 64

/-- An instruction or micro-order word (R208, R223). -/
abbrev W32 := BitVec 32

/-- A block tag: format in [15:8], scale in [7:0] (R66). -/
abbrev Tag := BitVec 16

/-- A sparse table: keys strictly rising, and no entry equal to what an unlisted key reads as.
The operations that keep this form stand in Machine/Map.lean. -/
abbrev SMap (α : Type) := List (Nat × α)

/-- A 64-byte block with its tag; byte k of the block is bits [8k+7:8k] of data (R4, R66). -/
structure Blk where
  data : BitVec 512
  tag : Tag
  deriving DecidableEq, Repr

/-- A 256-byte vector with its four quarter tags; quarter q's tag is bits [16q+15:16q] of tags (R26, R66). -/
structure Vec where
  data : BitVec 2048
  tags : BitVec 64
  deriving DecidableEq, Repr

/-- A vector of zero bytes tagged 0x0000. -/
def Vec.zero : Vec := ⟨0, 0⟩

/-- A block of zero bytes tagged 0x0000. -/
def Blk.zero : Blk := ⟨0, 0⟩

/-- The six streams of a core (R17). -/
inductive Stream where
  | c | l | a | s | m | x
  deriving DecidableEq, Repr

end Sys2Proof
end

