-- ==== Sys2Proof/Syntax.lean ====
section
/-!
DEFINITION. The syntax of the machine: one constructor of Instr per row of the opcode table. The first 220
rows (and the table-end mark) are words of the six opcode spaces, with their fields as 10_encodings.md lays
them out; the other rows are the steps that the device or its surroundings take, whose arguments say which
unit acts and what an outside party sends.
-/

namespace Sys2Proof

/-! ## Fields of control-stream words (R208, R213, R218) -/

/-- Destination and two sources with their pop bits: format R, layout YR, and layout YT's operands. -/
structure RForm where
  d : BitVec 6
  a : BitVec 6
  b : BitVec 6
  p : Bool
  q : Bool
  deriving DecidableEq, Repr

/-- Destination and one source with its pop bit. -/
structure UForm where
  d : BitVec 6
  a : BitVec 6
  p : Bool
  deriving DecidableEq, Repr

/-- Two sources with their pop bits. -/
structure SForm where
  a : BitVec 6
  b : BitVec 6
  p : Bool
  q : Bool
  deriving DecidableEq, Repr

/-- One source with its pop bit. -/
structure OForm where
  a : BitVec 6
  p : Bool
  deriving DecidableEq, Repr

/-- Destination, source and a 13-bit immediate: format I. -/
structure IForm where
  d : BitVec 6
  a : BitVec 6
  p : Bool
  i : BitVec 13
  deriving DecidableEq, Repr

/-- Destination, source and a shift amount 0 to 63 (R213). -/
structure HForm where
  d : BitVec 6
  a : BitVec 6
  p : Bool
  s : BitVec 6
  deriving DecidableEq, Repr

/-- Destination, source, condition and a 10-bit immediate: `cmpi` (R213). -/
structure CForm where
  d : BitVec 6
  a : BitVec 6
  p : Bool
  c : BitVec 3
  i : BitVec 10
  deriving DecidableEq, Repr

/-- Destination, source, POS, LEN minus one and the sign bit: `ext` and `ins` (R213, R244). -/
structure XForm where
  d : BitVec 6
  a : BitVec 6
  p : Bool
  pos : BitVec 6
  len : BitVec 6
  sgn : Bool
  deriving DecidableEq, Repr

/-- Condition, source and displacement: format B (R208). -/
structure BForm where
  c : BitVec 4
  a : BitVec 6
  p : Bool
  n : BitVec 15
  deriving DecidableEq, Repr

/-- A control-register access: destination, source with its pop bit, register number (R219). -/
structure KForm where
  d : BitVec 6
  a : BitVec 6
  p : Bool
  n : BitVec 7
  deriving DecidableEq, Repr

/-- A vector register, a source and a lease slot: layout YV (R218). -/
structure VForm where
  v : BitVec 6
  a : BitVec 6
  p : Bool
  s : BitVec 4
  deriving DecidableEq, Repr

/-! ## Fields of micro-orders (R224 to R231) -/

/-- An L or S micro-order on a vector register: register, base, offset in 64-byte units, link tokens (R226). -/
structure GForm where
  v : BitVec 6
  b : BitVec 4
  o : BitVec 12
  k : BitVec 4
  deriving DecidableEq, Repr

/-- An A micro-order: d, a, b operand codes or control values, guard, sense, link tokens (R227, R229). -/
structure AForm where
  d : BitVec 6
  a : BitVec 6
  b : BitVec 6
  g : BitVec 3
  s : Bool
  k : BitVec 4
  deriving DecidableEq, Repr

/-- An A micro-order of the unary group, whose field b is its selector (R229). -/
structure AUForm where
  d : BitVec 6
  a : BitVec 6
  g : BitVec 3
  s : Bool
  k : BitVec 4
  deriving DecidableEq, Repr

/-- An X micro-order: token, base p, field q, descriptor index (R231). -/
structure XOForm where
  e : BitVec 6
  p : BitVec 4
  q : BitVec 4
  i : BitVec 12
  deriving DecidableEq, Repr

/-! ## What outside parties send -/

/-- A firmware bundle as it lies in flash: the header fields of R404 and the body. -/
structure Bundle where
  magic : W32
  svn : W32
  length : Word
  digest : BitVec 384
  ekey : BitVec 768
  lkey : BitVec 448
  reserved : List Byte
  esig : BitVec 768
  lsig : List Byte
  body : List Byte
  deriving DecidableEq, Repr

/-- The PCIe AtomicOps (R410); other stands for every AtomicOp the function does not complete. -/
inductive HostAtomic where
  | fetchAdd | swap | cas | other
  deriving DecidableEq, Repr

/-- What a transaction from a peer package asks for (R168). -/
inductive PeerOp where
  | read (width : Nat)
  | write (width : Nat) (v : Word)
  | atomic (op : Nat) (width : Nat) (b cmp : Word)
  deriving DecidableEq, Repr

/-- A transaction received from a peer package (R168, R418); core is the die-local core that issued it, and its die stands in
[31:29] of the chain (R176, R449). -/
structure Transaction where
  port : Nat
  src : Nat
  core : Nat
  pown : Nat
  va : Word
  op : PeerOp
  chain : Nat
  depth : Nat
  issue : Nat
  deriving DecidableEq, Repr

/-- One block of a send received from a peer, with the sync word it counts into (R341, R110). -/
structure SendFlit where
  port : Nat
  src : Nat
  core : Nat
  pown : Nat
  va : Word
  blk : Blk
  bytes : Nat
  syncen : Bool
  sync : Nat
  issue : Nat
  chain : Nat
  deriving DecidableEq, Repr

/-- A write-with-enqueue received from a peer (R169, R342): payload blocks, ring descriptor address, notification. -/
structure EnqueueFlit where
  port : Nat
  src : Nat
  core : Nat
  pown : Nat
  va : Word
  len : Nat
  blks : List Blk
  ring : Word
  note : BitVec 128
  syncen : Bool
  sync : Nat
  issue : Nat
  chain : Nat
  deriving DecidableEq, Repr

/-- What a flit brings: a block of a send, or a whole write-with-enqueue; or one of a type from 6 to 15, which means nothing
(R158). -/
inductive SendData where
  | block (f : SendFlit)
  | enqueue (f : EnqueueFlit)
  | unknown (port type : Nat)
  deriving DecidableEq, Repr

/-- A collective packet (R171): the header fields and the chunks of 512 bytes. -/
structure CollPacket where
  seq : Nat
  handle : Nat
  left : Nat
  chunk : Nat
  mode : Nat
  route : List (BitVec 16)
  chunks : List (BitVec 4096)
  deriving DecidableEq, Repr

/-- What a control frame carries (R159, R161, R471): fabric time, the measured flight time, the sender's
width and a report of lock. -/
structure ControlInfo where
  port : Nat
  time : Nat
  flight : Nat
  offset : Int
  narrow : Bool
  lock : Bool
  deriving DecidableEq, Repr

/-- A granule record received by the pre-copy engine (R476). -/
structure GranuleRec where
  session : W32
  seq : Nat
  va : Word
  tags : List Tag
  data : List Byte
  gcm : BitVec 128
  deriving DecidableEq, Repr

/-- A typed state record as it travels (R476, R480): the record's length in bytes, and the words of its head and body, encrypted. -/
structure StateRec where
  session : W32
  seq : Nat
  len : Nat
  words : List Word
  gcm : BitVec 128
  deriving DecidableEq, Repr

/-- Where a launch packet comes from (R433): an endpoint of Ultra Ethernet, or a package of the Naob link. -/
inductive LaunchSrc where
  | endpoint (n : Nat)
  | package (n : Nat)
  deriving DecidableEq, Repr

/-- A launch packet as it comes: its source and its words (R433, R434). -/
structure LaunchMsg where
  src : LaunchSrc
  words : List Word
  deriving DecidableEq, Repr

/-- The bytes of a host write, and tags that come with its first whole blocks (R207, R409, log 160). -/
structure HostData where
  bytes : List Byte
  tags : List Tag
  deriving DecidableEq, Repr

/-- An abort flit that arrives at a port, for the runs of a handle (R174). -/
structure AbortFrom where
  port : Nat
  handle : Nat
  deriving DecidableEq, Repr

/-- A slot's header at the station of a mortise comes with some bits inverted (R139). -/
structure HeaderNoise where
  mort : Nat
  noise : BitVec 256
  deriving DecidableEq, Repr

/-- A launch packet of the scheduler node (R434); each descriptor is its sixteen 64-bit words (R41). -/
structure Launch where
  kind : Nat
  owner : Nat
  seq : Nat
  slice : Nat
  prior : Nat
  sframe : Nat
  soffset : Nat
  descs : List (List Word)
  deriving DecidableEq, Repr

/-- One constructor per row of the opcode table, in the table's order. -/
inductive Instr where
  /-- `add` d, a, b -/
  | add (o : RForm)
  /-- `sub` d, a, b -/
  | sub (o : RForm)
  /-- `mul` d, a, b -/
  | mul (o : RForm)
  /-- `mulh` d, a, b -/
  | mulh (o : RForm)
  /-- `mulhn` d, a, b -/
  | mulhn (o : RForm)
  /-- `div` d, a, b -/
  | div (o : RForm)
  /-- `divn` d, a, b -/
  | divn (o : RForm)
  /-- `rem` d, a, b -/
  | rem (o : RForm)
  /-- `remn` d, a, b -/
  | remn (o : RForm)
  /-- `and` d, a, b -/
  | and_ (o : RForm)
  /-- `or` d, a, b -/
  | or_ (o : RForm)
  /-- `xor` d, a, b -/
  | xor (o : RForm)
  /-- `andn` d, a, b -/
  | andn (o : RForm)
  /-- `shl` d, a, b -/
  | shl (o : RForm)
  /-- `shr` d, a, b -/
  | shr (o : RForm)
  /-- `sra` d, a, b -/
  | sra (o : RForm)
  /-- `rotl` d, a, b -/
  | rotl (o : RForm)
  /-- `min` d, a, b -/
  | min_ (o : RForm)
  /-- `max` d, a, b -/
  | max_ (o : RForm)
  /-- `minn` d, a, b -/
  | minn (o : RForm)
  /-- `maxn` d, a, b -/
  | maxn (o : RForm)
  /-- `clz` d, a -/
  | clz (o : UForm)
  /-- `ctz` d, a -/
  | ctz (o : UForm)
  /-- `popc` d, a -/
  | popc (o : UForm)
  /-- `sel` d, a, b -/
  | sel (o : RForm)
  /-- `adds` d, a, b, S -/
  | adds (o : RForm) (s : BitVec 3)
  /-- `cmp.COND` d, a, b -/
  | cmp (o : RForm) (c : BitVec 3)
  /-- `addi` d, a, IMM -/
  | addi (o : IForm)
  /-- `andi` d, a, IMM -/
  | andi (o : IForm)
  /-- `ori` d, a, IMM -/
  | ori (o : IForm)
  /-- `xori` d, a, IMM -/
  | xori (o : IForm)
  /-- `shli` d, a, S -/
  | shli (o : HForm)
  /-- `shri` d, a, S -/
  | shri (o : HForm)
  /-- `srai` d, a, S -/
  | srai (o : HForm)
  /-- `cmpi.COND` d, a, IMM -/
  | cmpi (o : CForm)
  /-- `ext` d, a, POS, LEN[, s] -/
  | ext_ (o : XForm)
  /-- `ins` d, a, POS, LEN; the sign bit must be 0 -/
  | ins (o : XForm)
  /-- `movh` d, IMM -/
  | movh (d : BitVec 6) (i : BitVec 20)
  /-- `ld.i8` d, a, IMM -/
  | ldI8 (o : IForm)
  /-- `ld.b16` d, a, IMM -/
  | ldB16 (o : IForm)
  /-- `ld.i32` d, a, IMM -/
  | ldI32 (o : IForm)
  /-- `ld.n32` d, a, IMM -/
  | ldN32 (o : IForm)
  /-- `ld.i64` d, a, IMM -/
  | ldI64 (o : IForm)
  /-- `st.i8` d, a, IMM -/
  | stI8 (o : IForm)
  /-- `st.b16` d, a, IMM -/
  | stB16 (o : IForm)
  /-- `st.i32` d, a, IMM -/
  | stI32 (o : IForm)
  /-- `st.i64` d, a, IMM -/
  | stI64 (o : IForm)
  /-- `br.COND` a, LABEL -/
  | br (o : BForm)
  /-- `loop` a, LABEL -/
  | loop (a : BitVec 6) (n : BitVec 15)
  /-- `jmp` LABEL -/
  | jmp (n : BitVec 26)
  /-- `jal` LABEL -/
  | jal (n : BitVec 26)
  /-- `amo.OP.i32.SCOPE` d, a, b -/
  | amoI32 (o : RForm) (op : BitVec 3) (sc : BitVec 2)
  /-- `amo.fadd.f32.SCOPE` d, a, b -/
  | amoFadd (o : RForm) (sc : BitVec 2)
  /-- `amo.OP.n32.SCOPE` d, a, b -/
  | amoN32 (o : RForm) (op : BitVec 3) (sc : BitVec 2)
  /-- `amo.OP.i64.SCOPE` d, a, b -/
  | amoI64 (o : RForm) (op : BitVec 3) (sc : BitVec 2)
  /-- `cas.i32.SCOPE` d, a, b -/
  | casI32 (o : RForm) (sc : BitVec 2)
  /-- `cas.n32.SCOPE` d, a, b -/
  | casN32 (o : RForm) (sc : BitVec 2)
  /-- `cas.i64.SCOPE` d, a, b -/
  | casI64 (o : RForm) (sc : BitVec 2)
  /-- `sqadd.SCOPE` a, b -/
  | sqadd (o : SForm) (sc : BitVec 2)
  /-- `qalign` -/
  | qalign
  /-- `mjoin` -/
  | mjoin
  /-- `spal` d, a -/
  | spal (o : UForm)
  /-- `spfree` a -/
  | spfree (o : OForm)
  /-- `waddr.i32` d, a, b -/
  | waddrI32 (o : RForm)
  /-- `waddr.i64` d, a, b -/
  | waddrI64 (o : RForm)
  /-- `wake` a, b -/
  | wake (o : SForm)
  /-- `sqwait` a, b -/
  | sqwait (o : SForm)
  /-- `swinit` a, b -/
  | swinit (o : SForm)
  /-- `swait` a, b -/
  | swait (o : SForm)
  /-- `gjoin` d, a -/
  | gjoin (o : UForm)
  /-- `gleave` a -/
  | gleave (o : OForm)
  /-- `gbar` a -/
  | gbar (o : OForm)
  /-- `jr` a -/
  | jr (o : OForm)
  /-- `chlvl` d, a -/
  | chlvl (d a : BitVec 6)
  /-- `chdrop` a -/
  | chdrop (a : BitVec 6)
  /-- `wait` LOADS, STORES, COPIES, TILES -/
  | wait (l s c t : BitVec 5)
  /-- `chbind` d, KIND, SELECTOR -/
  | chbind (d : BitVec 6) (k : BitVec 3) (sel : BitVec 10)
  /-- a word of the hint space -/
  | nop (h : BitVec 26)
  /-- `fork` SET, a, b -/
  | fork (o : SForm) (m : BitVec 5)
  /-- `rdv` SET -/
  | rdv (m : BitVec 5)
  /-- `estop` SET -/
  | estop (m : BitVec 5)
  /-- `ebase` SET, a -/
  | ebase (o : OForm) (m : BitVec 5)
  /-- `mfence` SET -/
  | mfence (m : BitVec 5)
  /-- `tbind` bN, RIGHTS, a, b -/
  | tbind (n : BitVec 4) (r : BitVec 2) (o : SForm)
  /-- `tunbind` bN -/
  | tunbind (n : BitVec 4)
  /-- `post` d, a -/
  | post (o : UForm)
  /-- `tail` -/
  | tail
  /-- `halt` -/
  | halt
  /-- `ppoint` MASK -/
  | ppoint (m : BitVec 8)
  /-- `tfence` -/
  | tfence
  /-- `sysc` CODE -/
  | sysc (c : BitVec 20)
  /-- `brk` CODE -/
  | brk (c : BitVec 20)
  /-- `eret` -/
  | eret
  /-- `csrr` d, CSR -/
  | csrr (d : BitVec 6) (n : BitVec 7)
  /-- `csrw` d, CSR, a -/
  | csrw (o : KForm)
  /-- `csrs` d, CSR, a -/
  | csrs (o : KForm)
  /-- `csrc` d, CSR, a -/
  | csrc (o : KForm)
  /-- `stset` d, a, b -/
  | stset (o : RForm)
  /-- `stclr` d, a -/
  | stclr (o : UForm)
  /-- `sfwait` d, a, b -/
  | sfwait (o : RForm)
  /-- `bemsg` d, a, b -/
  | bemsg (o : RForm)
  /-- `hand` d, a -/
  | hand (o : UForm)
  /-- `deal` d, a -/
  | deal (o : UForm)
  /-- `undeal` d, a, b -/
  | undeal (o : RForm)
  /-- `rcirc` d, a -/
  | rcirc (o : UForm)
  /-- `cgen` d, a -/
  | cgen (o : UForm)
  /-- `ctab` d, a -/
  | ctab (o : UForm)
  /-- `fdown` d, a, b -/
  | fdown (o : RForm)
  /-- `fpeek` d, a -/
  | fpeek (o : UForm)
  /-- `fup` d, a, b -/
  | fup (o : RForm)
  /-- `lease` d, a, b -/
  | lease (o : RForm)
  /-- `spill` vN, a, SLOT -/
  | spill (o : VForm)
  /-- `fill` vN, a, SLOT -/
  | fill (o : VForm)
  /-- `unlease` a -/
  | unlease (o : OForm)
  /-- `tok` eA, eB, eC -/
  | tok (a b c : BitVec 6)
  /-- `rloop` TARGET, COUNT, LEVEL -/
  | rloop (t : BitVec 13) (l : Bool) (n : BitVec 12)
  /-- the table-end mark 0x0000_0000 reached by a stream -/
  | tableEnd
  /-- `lport` iP, jN, CONSUMER -/
  | lport (p : BitVec 3) (n : BitVec 4) (c : Bool) (k : BitVec 4)
  /-- `lglob` vD, bK, OFFSET -/
  | lglob (o : GForm)
  /-- `lbc` vD, bK, OFFSET -/
  | lbc (o : GForm)
  /-- `lnest` jN, bK, OFFSET -/
  | lnest (n b : BitVec 4) (o : BitVec 14) (k : BitVec 4)
  /-- `sport` oP, jN -/
  | sport (p : BitVec 3) (n : BitVec 4) (k : BitVec 4)
  /-- `sglob` vA, bK, OFFSET -/
  | sglob (o : GForm)
  /-- `vaddI8`, source names of R228 -/
  | vaddI8 (o : AForm)
  /-- `vaddI32`, source names of R228 -/
  | vaddI32 (o : AForm)
  /-- `vaddF32`, source names of R228 -/
  | vaddF32 (o : AForm)
  /-- `vaddB16`, source names of R228 -/
  | vaddB16 (o : AForm)
  /-- `vsubI8`, source names of R228 -/
  | vsubI8 (o : AForm)
  /-- `vsubI32`, source names of R228 -/
  | vsubI32 (o : AForm)
  /-- `vsubF32`, source names of R228 -/
  | vsubF32 (o : AForm)
  /-- `vsubB16`, source names of R228 -/
  | vsubB16 (o : AForm)
  /-- `vmulI32`, source names of R228 -/
  | vmulI32 (o : AForm)
  /-- `vmulF32`, source names of R228 -/
  | vmulF32 (o : AForm)
  /-- `vmulB16`, source names of R228 -/
  | vmulB16 (o : AForm)
  /-- `vfmaF32`, source names of R228 -/
  | vfmaF32 (o : AForm)
  /-- `vfmaB16`, source names of R228 -/
  | vfmaB16 (o : AForm)
  /-- `vfmsF32`, source names of R228 -/
  | vfmsF32 (o : AForm)
  /-- `vfmsB16`, source names of R228 -/
  | vfmsB16 (o : AForm)
  /-- `vminI32`, source names of R228 -/
  | vminI32 (o : AForm)
  /-- `vminF32`, source names of R228 -/
  | vminF32 (o : AForm)
  /-- `vminB16`, source names of R228 -/
  | vminB16 (o : AForm)
  /-- `vmaxI32`, source names of R228 -/
  | vmaxI32 (o : AForm)
  /-- `vmaxF32`, source names of R228 -/
  | vmaxF32 (o : AForm)
  /-- `vmaxB16`, source names of R228 -/
  | vmaxB16 (o : AForm)
  /-- `vand`, source names of R228 -/
  | vand (o : AForm)
  /-- `vor`, source names of R228 -/
  | vor (o : AForm)
  /-- `vxor`, source names of R228 -/
  | vxor (o : AForm)
  /-- `vandn`, source names of R228 -/
  | vandn (o : AForm)
  /-- `vshl`, source names of R228 -/
  | vshl (o : AForm)
  /-- `vshr`, source names of R228 -/
  | vshr (o : AForm)
  /-- `vsra`, source names of R228 -/
  | vsra (o : AForm)
  /-- `vcmpEqI32`, source names of R228 -/
  | vcmpEqI32 (o : AForm)
  /-- `vcmpEqF32`, source names of R228 -/
  | vcmpEqF32 (o : AForm)
  /-- `vcmpEqB16`, source names of R228 -/
  | vcmpEqB16 (o : AForm)
  /-- `vcmpLtI32`, source names of R228 -/
  | vcmpLtI32 (o : AForm)
  /-- `vcmpLtF32`, source names of R228 -/
  | vcmpLtF32 (o : AForm)
  /-- `vcmpLtB16`, source names of R228 -/
  | vcmpLtB16 (o : AForm)
  /-- `vcmpLeI32`, source names of R228 -/
  | vcmpLeI32 (o : AForm)
  /-- `vcmpLeF32`, source names of R228 -/
  | vcmpLeF32 (o : AForm)
  /-- `vcmpLeB16`, source names of R228 -/
  | vcmpLeB16 (o : AForm)
  /-- `vsel`, source names of R228 -/
  | vsel (o : AForm)
  /-- `vpermI8`, source names of R228 -/
  | vpermI8 (o : AForm)
  /-- `vpermI32`, source names of R228 -/
  | vpermI32 (o : AForm)
  /-- `vclampI32`, source names of R228 -/
  | vclampI32 (o : AForm)
  /-- `vclampF32`, source names of R228 -/
  | vclampF32 (o : AForm)
  /-- `vclampB16`, source names of R228 -/
  | vclampB16 (o : AForm)
  /-- `vmovI8`, unary group (R229) -/
  | vmovI8 (o : AUForm)
  /-- `vmovI32`, unary group (R229) -/
  | vmovI32 (o : AUForm)
  /-- `vmovF32`, unary group (R229) -/
  | vmovF32 (o : AUForm)
  /-- `vmovB16`, unary group (R229) -/
  | vmovB16 (o : AUForm)
  /-- `vabsI8`, unary group (R229) -/
  | vabsI8 (o : AUForm)
  /-- `vabsI32`, unary group (R229) -/
  | vabsI32 (o : AUForm)
  /-- `vabsF32`, unary group (R229) -/
  | vabsF32 (o : AUForm)
  /-- `vabsB16`, unary group (R229) -/
  | vabsB16 (o : AUForm)
  /-- `vnegI8`, unary group (R229) -/
  | vnegI8 (o : AUForm)
  /-- `vnegI32`, unary group (R229) -/
  | vnegI32 (o : AUForm)
  /-- `vnegF32`, unary group (R229) -/
  | vnegF32 (o : AUForm)
  /-- `vnegB16`, unary group (R229) -/
  | vnegB16 (o : AUForm)
  /-- `vsumI32`, unary group (R229) -/
  | vsumI32 (o : AUForm)
  /-- `vsumF32`, unary group (R229) -/
  | vsumF32 (o : AUForm)
  /-- `vsumB16`, unary group (R229) -/
  | vsumB16 (o : AUForm)
  /-- `vscanI32`, unary group (R229) -/
  | vscanI32 (o : AUForm)
  /-- `vscanF32`, unary group (R229) -/
  | vscanF32 (o : AUForm)
  /-- `vscanB16`, unary group (R229) -/
  | vscanB16 (o : AUForm)
  /-- `vrcpF32`, unary group (R229) -/
  | vrcpF32 (o : AUForm)
  /-- `vrcpB16`, unary group (R229) -/
  | vrcpB16 (o : AUForm)
  /-- `vrsqF32`, unary group (R229) -/
  | vrsqF32 (o : AUForm)
  /-- `vrsqB16`, unary group (R229) -/
  | vrsqB16 (o : AUForm)
  /-- `vex2F32`, unary group (R229) -/
  | vex2F32 (o : AUForm)
  /-- `vex2B16`, unary group (R229) -/
  | vex2B16 (o : AUForm)
  /-- `vlg2F32`, unary group (R229) -/
  | vlg2F32 (o : AUForm)
  /-- `vlg2B16`, unary group (R229) -/
  | vlg2B16 (o : AUForm)
  /-- `vbc.n32` vD, vA, LANE -/
  | vbc (o : AUForm) (l : BitVec 6)
  /-- `vcvt.T` vD, vA, SRC, MODE -/
  | vcvtI8 (o : AUForm) (m : BitVec 2) (f : BitVec 4)
  /-- `vcvt.T` vD, vA, SRC, MODE -/
  | vcvtI32 (o : AUForm) (m : BitVec 2) (f : BitVec 4)
  /-- `vcvt.T` vD, vA, SRC, MODE -/
  | vcvtF32 (o : AUForm) (m : BitVec 2) (f : BitVec 4)
  /-- `vcvt.T` vD, vA, SRC, MODE -/
  | vcvtB16 (o : AUForm) (m : BitVec 2) (f : BitVec 4)
  /-- `vcvt.T` vD, vA, SRC, MODE -/
  | vcvtE4 (o : AUForm) (m : BitVec 2) (f : BitVec 4)
  /-- `vcvt.T` vD, vA, SRC, MODE -/
  | vcvtE5 (o : AUForm) (m : BitVec 2) (f : BitVec 4)
  /-- `vcvt.T` vD, vA, SRC, MODE -/
  | vcvtF4 (o : AUForm) (m : BitVec 2) (f : BitVec 4)
  /-- `vcvt.T` vD, vA, SRC, MODE -/
  | vcvtDs8 (o : AUForm) (m : BitVec 2) (f : BitVec 4)
  /-- `vqmax.SRC` vD, vA, T -/
  | vqmax (o : AUForm) (t : BitVec 4) (f : BitVec 2)
  /-- `vqcvt.T` vD, vA, SRC, MODE -/
  | vqcvt (o : AUForm) (m t f : BitVec 2)
  /-- `vdq.T` vD, vA -/
  | vdq (o : AUForm) (t : BitVec 2)
  /-- `gop.OP` gD, gA, gB -/
  | gop (op : BitVec 2) (w x y k : BitVec 4)
  /-- `vqcvt.i8` vD, vA, SRC, MODE -/
  | vqcvtI8 (o : AUForm) (m f : BitVec 2)
  /-- `mmac` aT, iP, ROWS, OFFSET -> eN -/
  | mmac (e : BitVec 6) (p t : BitVec 3) (r : BitVec 8) (o : BitVec 6)
  /-- `mclr` aT -> eN -/
  | mclr (e : BitVec 6) (t : BitVec 3)
  /-- `mret` aT, jN, FORMAT, MODE[, clr] -> eN -/
  | mret (e : BitVec 6) (n : BitVec 4) (t f : BitVec 3) (m : BitVec 2) (c : Bool)
  /-- `mwsel` wN -> eN -/
  | mwsel (e : BitVec 6) (w : BitVec 4)
  /-- `mstamp.abs` -> eN -/
  | mstampAbs (e : BitVec 6)
  /-- `mstamp.add` BEATS -> eN -/
  | mstampAdd (e : BitVec 6) (b : BitVec 19)
  /-- `mnop` -> eN -/
  | mnop (e : BitVec 6)
  /-- `xcopy` bP, q, DESC -> eN -/
  | xcopy (o : XOForm)
  /-- `xgat` bP, q, DESC -> eN -/
  | xgat (o : XOForm)
  /-- `xsct` bP, q, DESC -> eN -/
  | xsct (o : XOForm)
  /-- `xwload` bP, q, DESC -> eN -/
  | xwload (o : XOForm)
  /-- `xred` bP, q, DESC -> eN -/
  | xred (o : XOForm)
  /-- `xwenq` bP, q, DESC -> eN -/
  | xwenq (o : XOForm)
  /-- `xsend` bP, q, DESC -> eN -/
  | xsend (o : XOForm)
  /-- `xcoll` bP, q, DESC -> eN -/
  | xcoll (o : XOForm)
  /-- POWER_ON: flash holds b -/
  | powerOn (b : Bundle)
  /-- FUNCTION_LEVEL_RESET -/
  | functionLevelReset
  /-- LINK_HBM_TRAINING_DONE; ok: training succeeded -/
  | linkHbmTrainingDone (ok : Bool)
  /-- FEATURE_GO -/
  | featureGo
  /-- REGISTER_IMAGE: command word 1 -/
  | registerImage
  /-- UNREGISTER_IMAGE: command word 2 -/
  | unregisterImage
  /-- UNMAP: command word 3 -/
  | unmap
  /-- UNMAP_PINS_DROPPED -/
  | unmapPinsDropped
  /-- RELOCATE: command word 4 -/
  | relocate
  /-- UNDEAL_COMMAND: command word 5 -/
  | undealCommand
  /-- COMMIT_SVN: command word 6 -/
  | commitSvn
  /-- KEY_INSTALL: the write of the last key word -/
  | keyInstall (owner : Nat) (w : Word)
  /-- OCTL_WRITE -/
  | octlWrite (owner : Nat) (w : Word)
  /-- HOST_READ of len bytes at BAR4 offset off -/
  | hostRead (off len : Nat)
  /-- HOST_WRITE at BAR4 offset off -/
  | hostWrite (off : Nat) (data : HostData)
  /-- HOST_ATOMICOP at BAR4 offset off; width in bytes -/
  | hostAtomicop (off width : Nat) (op : HostAtomic) (b cmp : Word)
  /-- MAILBOX_PUSH -/
  | mailboxPush (core : Nat) (w : Word)
  /-- POST_PORT_POST: w is written to the control word -/
  | postPortPost (die : Nat) (w : Word)
  /-- DIRTY_SNAPSHOT: w is written to dsel -/
  | dirtySnapshot (slice : Nat) (w : Word)
  /-- TABLE_REWRITE_COMMIT -/
  | tableRewriteCommit
  /-- TABLE_REWRITE_DRAINED -/
  | tableRewriteDrained
  /-- HVEC_WRITE -/
  | hvecWrite (die : Nat) (w : Word)
  /-- PREEMPT_REQUEST -/
  | preemptRequest (die core : Nat)
  /-- PREEMPT_CANCEL -/
  | preemptCancel (die core : Nat)
  /-- DRIVER_INTERRUPT -/
  | driverInterrupt (die core : Nat) (data : W32)
  /-- MODULE_RETRAIN_REQUEST -/
  | moduleRetrainRequest (mort strand : Nat)
  /-- MODULE_WINDOW_BOUNDARY -/
  | moduleWindowBoundary (mort strand : Nat)
  /-- PORT_REOPEN -/
  | portReopen (port : Nat)
  /-- PORT_HEALTH_WINDOW -/
  | portHealthWindow (port : Nat)
  /-- PORT_PARK -/
  | portPark (port : Nat)
  /-- PORT_WAKE -/
  | portWake (port : Nat)
  /-- PORT_IDLE_TIMEOUT -/
  | portIdleTimeout (port : Nat)
  /-- WIDTH_CHANGE_BOUNDARY -/
  | widthChangeBoundary (port : Nat)
  /-- WAVELENGTH_RELOCK_DONE -/
  | wavelengthRelockDone (port : Nat)
  /-- WAKE_BUDGET_EXPIRED -/
  | wakeBudgetExpired (port : Nat)
  /-- MIGRATION_PASS -/
  | migrationPass
  /-- MIGRATION_RECEIVE -/
  | migrationReceive
  /-- MIGRATION_ABORT -/
  | migrationAbort
  /-- SESSION_KEY_INSTALL: the last word of mkey -/
  | sessionKeyInstall (w : Word)
  /-- MSESS_WRITE -/
  | msessWrite (w : Word)
  /-- GRANULE_RECORD -/
  | granuleRecord (g : GranuleRec)
  /-- RECORD_ACK -/
  | recordAck (seq : Nat)
  /-- TASK_EXPORT -/
  | taskExport
  /-- TASK_IMPORT -/
  | taskImport
  /-- TYPED_STATE_RECORD -/
  | typedStateRecord (g : StateRec)
  /-- QUOTE -/
  | quote
  /-- QUOTE_SIGNED -/
  | quoteSigned
  /-- NONCE_WRITE: word i of the nonce -/
  | nonceWrite (i : Nat) (w : Word)
  /-- UPDATE_VERIFY -/
  | updateVerify
  /-- UPDATE_VERIFY_DONE -/
  | updateVerifyDone
  /-- UPDATE_INSTALL -/
  | updateInstall
  /-- UPDATE_INSTALL_DONE; ok: the flash write succeeded -/
  | updateInstallDone (ok : Bool)
  /-- UPLOAD_WINDOW_WRITE -/
  | uploadWindowWrite (off : Nat) (bytes : List Byte)
  /-- THERMAL_CHANGE: the hottest sensor of a mortise reads temp, in units of 0.25 degrees -/
  | thermalChange (mort temp : Nat)
  /-- REGISTER_WRITE of a 64-bit word -/
  | registerWrite (bar off : Nat) (w : Word)
  /-- LAUNCH_PACKET -/
  | launchPacket (g : LaunchMsg)
  /-- SLICE_SET_ASIDE -/
  | sliceSetAside
  /-- COLLECTIVE_ABORT -/
  | collectiveAbort (handle seq : Nat)
  /-- DOMAIN_JOIN as package pkg at fabric time -/
  | domainJoin (pkg time : Nat)
  /-- CIRCUIT_SLOT_START -/
  | circuitSlotStart
  /-- DATA_WINDOW_OPEN -/
  | dataWindowOpen (port : Nat)
  /-- CIRCUIT_COMMIT -/
  | circuitCommit
  /-- SEND_DATA_FLIT -/
  | sendDataFlit (f : SendData)
  /-- TRANSACTION_FLIT -/
  | transactionFlit (t : Transaction)
  /-- COLLECTIVE_PACKET at a port -/
  | collectivePacket (port : Nat) (g : CollPacket)
  /-- ABORT_FLIT -/
  | abortFlit (f : AbortFrom) (seq : Nat)
  /-- CONTROL_FRAME -/
  | controlFrame (g : ControlInfo)
  /-- FEC_FRAME_UNCORRECTABLE -/
  | fecFrameUncorrectable (port seq : Nat)
  /-- FRAME_REPLAY_REQUEST -/
  | frameReplayRequest (port seq : Nat)
  /-- SEND_ACCEPTED: the peer accepted the send, with the result code of R333 -/
  | sendAccepted (port id bytes code : Nat)
  /-- SWEEP_ADD -/
  | sweepAdd (die stage chunk : Nat)
  /-- UCIE_FLIT_RECEIVED; up: from passenger to sill -/
  | ucieFlitReceived (mort strand : Nat) (up crcOk : Bool)
  /-- RETRY_TIMEOUT -/
  | retryTimeout (mort strand : Nat) (up : Bool)
  /-- MODULE_RETRAIN_END; lo, hi: lanes 0 to 31, 32 to 63 pass -/
  | moduleRetrainEnd (mort strand : Nat) (lo hi : Bool)
  /-- STATION_LOAD -/
  | stationLoad (strand mort : Nat)
  /-- STATION_ADD -/
  | stationAdd (strand mort : Nat)
  /-- STATION_COPY -/
  | stationCopy (strand mort : Nat)
  /-- STATION_TAKE -/
  | stationTake (strand mort : Nat)
  /-- STATION_FLAG_RAISE -/
  | stationFlagRaise (die : Nat)
  /-- HAND_TAKES_EFFECT for the slot now at a station -/
  | handTakesEffect (strand mort : Nat)
  /-- HAND_WITHHOLD for the slot now at a station -/
  | handWithhold (strand mort : Nat)
  /-- PARCEL_BOARD -/
  | parcelBoard (strand mort : Nat)
  /-- SLOT_CLAIM -/
  | slotClaim (strand mort : Nat)
  /-- PARCEL_DELIVERY -/
  | parcelDelivery (strand mort : Nat)
  /-- FULL_SLOT_RETURN -/
  | fullSlotReturn (strand mort : Nat)
  /-- GROUP_QUARANTINE_END -/
  | groupQuarantineEnd (gid : Nat)
  /-- HOME_SLICE_OPERATION of access acc -/
  | homeSliceOperation (acc : Nat)
  /-- HOME_SLICE_LOAD of access acc -/
  | homeSliceLoad (acc : Nat)
  /-- WRITE_BACK -/
  | writeBack (slice : Nat)
  /-- BANK_OPERATION -/
  | bankOperation (die bank : Nat)
  /-- ACCESS_COMPLETION of access acc -/
  | accessCompletion (acc : Nat)
  /-- TIMETABLE_POST of the post access acc -/
  | timetablePost (acc : Nat)
  /-- COUNTER_REPORT: the oldest report due at the die -/
  | counterReport (die : Nat)
  /-- RELEASE_TICK -/
  | releaseTick (die : Nat)
  /-- PLACEMENT -/
  | placement (die : Nat)
  /-- OVERLAY_LOAD_DONE -/
  | overlayLoadDone (core : Nat)
  /-- FRAME_BARRIER -/
  | frameBarrier
  /-- POWER_HOLD_END -/
  | powerHoldEnd
  /-- DEADLINE_PASSED -/
  | deadlinePassed (task : Nat)
  /-- TASK_RETIRE -/
  | taskRetire (task : Nat)
  /-- PREEMPT_AT_RETIREMENT -/
  | preemptAtRetirement (core : Nat)
  /-- CONTEXT_SAVE -/
  | contextSave (core : Nat)
  /-- SAVE_COMMIT -/
  | saveCommit (core : Nat)
  /-- CONTEXT_SLOT_ACQUIRE -/
  | contextSlotAcquire (die : Nat)
  /-- RESTORE_DONE -/
  | restoreDone (core : Nat)
  /-- CHECKPOINT_WRITEBACK of one unit -/
  | checkpointWriteback (core unit_ : Nat)
  /-- WATCHDOG_STALL -/
  | watchdogStall (core : Nat)
  /-- WATCHDOG_LATE -/
  | watchdogLate (core : Nat)
  /-- WATCHDOG_SAVE -/
  | watchdogSave (core : Nat)
  /-- EVENT_TAKEN -/
  | eventTaken (core : Nat)
  /-- PORT_WALK_FETCH -/
  | portWalkFetch (core port : Nat)
  /-- PORT_DRAIN -/
  | portDrain (core port : Nat)
  /-- ENGINE_COMPLETION -/
  | engineCompletion (core job : Nat)
  /-- BUNDLE_VERIFIED -/
  | bundleVerified
  /-- HEADER_ERROR -/
  | headerError (strand : Nat) (e : HeaderNoise)
  deriving DecidableEq, Repr

end Sys2Proof
end

