-- ==== Sys2Proof/WellFormed.lean ====
section
/-!
DEFINITION. Well-formed instructions: the class rules of R209, the ranges of R213 to R219 and R226 to R231, and
the numbers of the units that the rows without an encoding name.
-/

namespace Sys2Proof

/-- A source field names a register with its pop bit 0, or a channel (R209). -/
def srcOk (a : BitVec 6) (p : Bool) : Bool := a.getLsbD 5 || !p
/-- The field names a scalar register (R209). -/
def isReg (a : BitVec 6) : Bool := !a.getLsbD 5
/-- The field names a channel (R209). -/
def isChan (a : BitVec 6) : Bool := a.getLsbD 5

/-- Both sources keep R209. -/
def RForm.ok (o : RForm) : Bool := srcOk o.a o.p && srcOk o.b o.q
/-- The source keeps R209. -/
def UForm.ok (o : UForm) : Bool := srcOk o.a o.p
/-- Both sources keep R209. -/
def SForm.ok (o : SForm) : Bool := srcOk o.a o.p && srcOk o.b o.q
/-- The source keeps R209. -/
def OForm.ok (o : OForm) : Bool := srcOk o.a o.p
/-- The source keeps R209. -/
def IForm.ok (o : IForm) : Bool := srcOk o.a o.p
/-- The source keeps R209. -/
def HForm.ok (o : HForm) : Bool := srcOk o.a o.p
/-- The source keeps R209, and the condition is one of R214. -/
def CForm.ok (o : CForm) : Bool := srcOk o.a o.p && decide (o.c.toNat < 6)
/-- The source keeps R209, and POS + LEN ≤ 64 (R213). -/
def XForm.ok (o : XForm) : Bool := srcOk o.a o.p && decide (o.pos.toNat + o.len.toNat + 1 ≤ 64)
/-- The source keeps R209, and the condition is one of R214. -/
def BForm.ok (o : BForm) : Bool := srcOk o.a o.p && decide (o.c.toNat < 8)
/-- The number is assigned to a control register (R348, R441). -/
def csrOk (n : BitVec 7) : Bool :=
  decide (n.toNat ≤ 0x0C) || (decide (0x40 ≤ n.toNat) && decide (n.toNat ≤ 0x48))
    || (decide (0x4A ≤ n.toNat) && decide (n.toNat ≤ 0x4C)) || (decide (0x50 ≤ n.toNat) && decide (n.toNat ≤ 0x57))

/-- Every field of a control-register access is a register (R209), and the register exists (R348). -/
def KForm.ok (o : KForm) : Bool := isReg o.d && isReg o.a && !o.p && csrOk o.n
/-- The vector index is 0 to 55 (R218). -/
def VForm.ok (o : VForm) : Bool := decide (o.v.toNat < 56) && srcOk o.a o.p

/-- L has no left neighbour (R232). -/
def tokensL (k : BitVec 4) : Bool := !k.getLsbD 3 && !k.getLsbD 1
/-- S has no right neighbour (R232). -/
def tokensS (k : BitVec 4) : Bool := !k.getLsbD 2 && !k.getLsbD 0
/-- The vector register is v0 to v55 (R226). -/
def GForm.ok (o : GForm) : Bool := decide (o.v.toNat < 56)
/-- Sense 1 with guard 7 is illegal (R227). -/
def AForm.ok (o : AForm) : Bool := !(o.g == 7 && o.s)
/-- Sense 1 with guard 7 is illegal (R227). -/
def AUForm.ok (o : AUForm) : Bool := !(o.g == 7 && o.s)

/-- The channel kinds and selectors of R213. -/
def chanOk (k : BitVec 3) (sel : BitVec 10) : Bool :=
  match k.toNat with
  | 0 => decide (sel.toNat < 5)
  | 1 => decide (sel.toNat < 5)
  | 2 => decide (sel.toNat < 16)
  | 3 => sel == 0
  | 4 => decide (sel.toNat < 16)
  | _ => false

/-- Exactly one stream (R219). -/
def oneStream (m : BitVec 5) : Bool := [1#5, 2#5, 4#5, 8#5, 16#5].contains m

/-- Every field lies in the range the encoding chapter states; the rows without an encoding name units that the
package has. -/
def Instr.wf (i : Instr) : Bool :=
  match i with
  | .add o => o.ok
  | .sub o => o.ok
  | .mul o => o.ok
  | .mulh o => o.ok
  | .mulhn o => o.ok
  | .div o => o.ok
  | .divn o => o.ok
  | .rem o => o.ok
  | .remn o => o.ok
  | .and_ o => o.ok
  | .or_ o => o.ok
  | .xor o => o.ok
  | .andn o => o.ok
  | .shl o => o.ok
  | .shr o => o.ok
  | .sra o => o.ok
  | .rotl o => o.ok
  | .min_ o => o.ok
  | .max_ o => o.ok
  | .minn o => o.ok
  | .maxn o => o.ok
  | .clz o => o.ok
  | .ctz o => o.ok
  | .popc o => o.ok
  | .sel o => o.ok && isReg o.d
  | .adds o _ => o.ok
  | .cmp o c => o.ok && decide (c.toNat < 6)
  | .addi o => o.ok
  | .andi o => o.ok
  | .ori o => o.ok
  | .xori o => o.ok
  | .shli o => o.ok
  | .shri o => o.ok
  | .srai o => o.ok
  | .cmpi o => o.ok
  | .ext_ o => o.ok
  | .ins o => o.ok && !o.sgn
  | .movh _ _ => true
  | .ldI8 o => o.ok
  | .ldB16 o => o.ok
  | .ldI32 o => o.ok
  | .ldN32 o => o.ok
  | .ldI64 o => o.ok
  | .stI8 o => o.ok && isReg o.d
  | .stB16 o => o.ok && isReg o.d
  | .stI32 o => o.ok && isReg o.d
  | .stI64 o => o.ok && isReg o.d
  | .br o => o.ok
  | .loop a _ => isReg a && a != 0
  | .jmp _ => true
  | .jal _ => true
  | .amoI32 o _ _ => o.ok
  | .amoFadd o _ => o.ok
  | .amoN32 o _ _ => o.ok
  | .amoI64 o _ _ => o.ok
  | .casI32 o _ => o.ok && isReg o.d
  | .casN32 o _ => o.ok && isReg o.d
  | .casI64 o _ => o.ok && isReg o.d
  | .sqadd o _ => o.ok
  | .qalign => true
  | .mjoin => true
  | .spal o => o.ok
  | .spfree o => o.ok
  | .waddrI32 o => o.ok
  | .waddrI64 o => o.ok
  | .wake o => o.ok
  | .sqwait o => o.ok
  | .swinit o => o.ok
  | .swait o => o.ok
  | .gjoin o => o.ok
  | .gleave o => o.ok
  | .gbar o => o.ok
  | .jr o => o.ok
  | .chlvl _ a => isChan a
  | .chdrop a => isChan a
  | .wait _ _ _ _ => true
  | .chbind d k z => isChan d && chanOk k z
  | .nop _ => true
  | .fork o m => o.ok && m != 0
  | .rdv m => m != 0
  | .estop m => m != 0
  | .ebase o m => o.ok && oneStream m
  | .mfence m => m != 0
  | .tbind _ r o => o.ok && r != 0
  | .tunbind _ => true
  | .post o => o.ok
  | .tail => true
  | .halt => true
  | .ppoint _ => true
  | .tfence => true
  | .sysc _ => true
  | .brk _ => true
  | .eret => true
  | .csrr d n => isReg d && csrOk n
  | .csrw o => o.ok
  | .csrs o => o.ok
  | .csrc o => o.ok
  | .stset o => o.ok
  | .stclr o => o.ok
  | .sfwait o => o.ok
  | .bemsg o => o.ok
  | .hand o => o.ok
  | .deal o => o.ok
  | .undeal o => o.ok
  | .rcirc o => o.ok
  | .cgen o => o.ok
  | .ctab o => o.ok
  | .fdown o => o.ok
  | .fpeek o => o.ok
  | .fup o => o.ok
  | .lease o => o.ok
  | .spill o => o.ok
  | .fill o => o.ok
  | .unlease o => o.ok
  | .tok _ _ _ => true
  | .rloop _ _ _ => true
  | .tableEnd => true
  | .lport _ _ _ k => tokensL k
  | .lglob o => o.ok && tokensL o.k
  | .lbc o => o.ok && tokensL o.k
  | .lnest _ _ _ k => tokensL k
  | .sport _ _ k => tokensS k
  | .sglob o => o.ok && tokensS o.k
  | .vaddI8 o => o.ok
  | .vaddI32 o => o.ok
  | .vaddF32 o => o.ok
  | .vaddB16 o => o.ok
  | .vsubI8 o => o.ok
  | .vsubI32 o => o.ok
  | .vsubF32 o => o.ok
  | .vsubB16 o => o.ok
  | .vmulI32 o => o.ok
  | .vmulF32 o => o.ok
  | .vmulB16 o => o.ok
  | .vfmaF32 o => o.ok
  | .vfmaB16 o => o.ok
  | .vfmsF32 o => o.ok
  | .vfmsB16 o => o.ok
  | .vminI32 o => o.ok
  | .vminF32 o => o.ok
  | .vminB16 o => o.ok
  | .vmaxI32 o => o.ok
  | .vmaxF32 o => o.ok
  | .vmaxB16 o => o.ok
  | .vand o => o.ok
  | .vor o => o.ok
  | .vxor o => o.ok
  | .vandn o => o.ok
  | .vshl o => o.ok
  | .vshr o => o.ok
  | .vsra o => o.ok
  | .vcmpEqI32 o => o.ok
  | .vcmpEqF32 o => o.ok
  | .vcmpEqB16 o => o.ok
  | .vcmpLtI32 o => o.ok
  | .vcmpLtF32 o => o.ok
  | .vcmpLtB16 o => o.ok
  | .vcmpLeI32 o => o.ok
  | .vcmpLeF32 o => o.ok
  | .vcmpLeB16 o => o.ok
  | .vsel o => o.ok
  | .vpermI8 o => o.ok
  | .vpermI32 o => o.ok
  | .vclampI32 o => o.ok
  | .vclampF32 o => o.ok
  | .vclampB16 o => o.ok
  | .vmovI8 o => o.ok
  | .vmovI32 o => o.ok
  | .vmovF32 o => o.ok
  | .vmovB16 o => o.ok
  | .vabsI8 o => o.ok
  | .vabsI32 o => o.ok
  | .vabsF32 o => o.ok
  | .vabsB16 o => o.ok
  | .vnegI8 o => o.ok
  | .vnegI32 o => o.ok
  | .vnegF32 o => o.ok
  | .vnegB16 o => o.ok
  | .vsumI32 o => o.ok
  | .vsumF32 o => o.ok
  | .vsumB16 o => o.ok
  | .vscanI32 o => o.ok
  | .vscanF32 o => o.ok
  | .vscanB16 o => o.ok
  | .vrcpF32 o => o.ok
  | .vrcpB16 o => o.ok
  | .vrsqF32 o => o.ok
  | .vrsqB16 o => o.ok
  | .vex2F32 o => o.ok
  | .vex2B16 o => o.ok
  | .vlg2F32 o => o.ok
  | .vlg2B16 o => o.ok
  | .vbc o _ => o.ok
  | .vcvtI8 o _ f => o.ok && decide (1 ≤ f.toNat) && decide (f.toNat ≤ 8)
  | .vcvtI32 o _ f => o.ok && decide (1 ≤ f.toNat) && decide (f.toNat ≤ 8)
  | .vcvtF32 o _ f => o.ok && decide (1 ≤ f.toNat) && decide (f.toNat ≤ 8)
  | .vcvtB16 o _ f => o.ok && decide (1 ≤ f.toNat) && decide (f.toNat ≤ 8)
  | .vcvtE4 o _ f => o.ok && decide (1 ≤ f.toNat) && decide (f.toNat ≤ 8)
  | .vcvtE5 o _ f => o.ok && decide (1 ≤ f.toNat) && decide (f.toNat ≤ 8)
  | .vcvtF4 o _ f => o.ok && decide (1 ≤ f.toNat) && decide (f.toNat ≤ 8)
  | .vcvtDs8 o _ f => o.ok && decide (1 ≤ f.toNat) && decide (f.toNat ≤ 8)
  | .vqmax o t f => o.ok && [1#4, 5#4, 6#4, 7#4, 8#4].contains t && f != 3 && (t != 7 || f == 2)
  | .vqcvt o _ t f => o.ok && (f == 1 || f == 2) && (t != 2 || f == 2)
  | .vdq o t => o.ok && (t == 1 || t == 2)
  | .gop op _ _ y _ => !(op == 3 && y != 0)
  | .vqcvtI8 o _ f => o.ok && f != 3
  | .mmac _ _ _ _ _ => true
  | .mclr _ _ => true
  | .mret _ _ _ f _ _ => decide (f.toNat < 4)
  | .mwsel _ _ => true
  | .mstampAbs _ => true
  | .mstampAdd _ _ => true
  | .mnop _ => true
  | .xcopy _ => true
  | .xgat _ => true
  | .xsct _ => true
  | .xwload _ => true
  | .xred _ => true
  | .xwenq _ => true
  | .xsend _ => true
  | .xcoll _ => true
  | .powerOn _ => true
  | .functionLevelReset => true
  | .linkHbmTrainingDone _ => true
  | .featureGo => true
  | .registerImage => true
  | .unregisterImage => true
  | .unmap => true
  | .unmapPinsDropped => true
  | .relocate => true
  | .undealCommand => true
  | .commitSvn => true
  | .keyInstall owner _ => decide (owner < 16)
  | .octlWrite owner _ => decide (owner < 16)
  | .hostRead _ _ => true
  | .hostWrite _ _ => true
  | .hostAtomicop _ _ _ _ _ => true
  | .mailboxPush core _ => decide (core < 192)
  | .postPortPost die _ => decide (die < 8)
  | .dirtySnapshot slice _ => decide (slice < 512)
  | .tableRewriteCommit => true
  | .tableRewriteDrained => true
  | .hvecWrite die _ => decide (die < 8)
  | .preemptRequest die core => decide (die < 8) && decide (core < 24)
  | .preemptCancel die core => decide (die < 8) && decide (core < 24)
  | .driverInterrupt die core _ => decide (die < 8) && decide (core < 24)
  | .moduleRetrainRequest mort strand => decide (mort < 28) && decide (strand < 16)
  | .moduleWindowBoundary mort strand => decide (mort < 28) && decide (strand < 16)
  | .portReopen port => decide (port < 48)
  | .portHealthWindow port => decide (port < 48)
  | .portPark port => decide (port < 48)
  | .portWake port => decide (port < 48)
  | .portIdleTimeout port => decide (port < 48)
  | .widthChangeBoundary port => decide (port < 48)
  | .wavelengthRelockDone port => decide (port < 48)
  | .wakeBudgetExpired port => decide (port < 48)
  | .migrationPass => true
  | .migrationReceive => true
  | .migrationAbort => true
  | .sessionKeyInstall _ => true
  | .msessWrite _ => true
  | .granuleRecord _ => true
  | .recordAck _ => true
  | .taskExport => true
  | .taskImport => true
  | .typedStateRecord _ => true
  | .quote => true
  | .quoteSigned => true
  | .nonceWrite i _ => decide (i < 6)
  | .updateVerify => true
  | .updateVerifyDone => true
  | .updateInstall => true
  | .updateInstallDone _ => true
  | .uploadWindowWrite _ _ => true
  | .thermalChange mort _ => decide (mort < 28)
  | .registerWrite _ _ _ => true
  | .launchPacket _ => true
  | .sliceSetAside => true
  | .collectiveAbort _ _ => true
  | .domainJoin _ _ => true
  | .circuitSlotStart => true
  | .dataWindowOpen port => decide (port < 48)
  | .circuitCommit => true
  | .sendDataFlit _ => true
  | .transactionFlit t => decide (t.port < 48)
  | .collectivePacket port _ => decide (port < 48)
  | .abortFlit f _ => decide (f.port < 48)
  | .controlFrame g => decide (g.port < 48)
  | .fecFrameUncorrectable port _ => decide (port < 48)
  | .frameReplayRequest port _ => decide (port < 48)
  | .sendAccepted port _ _ _ => decide (port < 48)
  | .sweepAdd die _ _ => decide (die < 2)
  | .ucieFlitReceived mort strand _ _ => decide (mort < 28) && decide (strand < 16)
  | .retryTimeout mort strand _ => decide (mort < 28) && decide (strand < 16)
  | .moduleRetrainEnd mort strand _ _ => decide (mort < 28) && decide (strand < 16)
  | .stationLoad strand mort => decide (strand < 16) && decide (mort < 28)
  | .stationAdd strand mort => decide (strand < 16) && decide (mort < 28)
  | .stationCopy strand mort => decide (strand < 16) && decide (mort < 28)
  | .stationTake strand mort => decide (strand < 16) && decide (mort < 28)
  | .stationFlagRaise die => decide (die < 8)
  | .handTakesEffect strand mort => decide (strand < 16) && decide (mort < 28)
  | .handWithhold strand mort => decide (strand < 16) && decide (mort < 28)
  | .parcelBoard strand mort => decide (strand < 16) && decide (mort < 28)
  | .slotClaim strand mort => decide (strand < 16) && decide (mort < 28)
  | .parcelDelivery strand mort => decide (strand < 16) && decide (mort < 28)
  | .fullSlotReturn strand mort => decide (strand < 16) && decide (mort < 28)
  | .groupQuarantineEnd gid => decide (gid < 4096)
  | .homeSliceOperation _ => true
  | .homeSliceLoad _ => true
  | .writeBack slice => decide (slice < 512)
  | .bankOperation die bank => decide (die < 8) && decide (bank < 256)
  | .accessCompletion _ => true
  | .timetablePost _ => true
  | .counterReport die => decide (die < 8)
  | .releaseTick die => decide (die < 8)
  | .placement die => decide (die < 8)
  | .overlayLoadDone core => decide (core < 192)
  | .frameBarrier => true
  | .powerHoldEnd => true
  | .deadlinePassed _ => true
  | .taskRetire _ => true
  | .preemptAtRetirement core => decide (core < 192)
  | .contextSave core => decide (core < 192)
  | .saveCommit core => decide (core < 192)
  | .contextSlotAcquire die => decide (die < 8)
  | .restoreDone core => decide (core < 192)
  | .checkpointWriteback core _ => decide (core < 192)
  | .watchdogStall core => decide (core < 192)
  | .watchdogLate core => decide (core < 192)
  | .watchdogSave core => decide (core < 192)
  | .eventTaken core => decide (core < 192)
  | .portWalkFetch core port => decide (core < 192) && decide (port < 8)
  | .portDrain core port => decide (core < 192) && decide (port < 8)
  | .engineCompletion core _ => decide (core < 192)
  | .bundleVerified => true
  | .headerError strand e => decide (strand < 16) && decide (e.mort < 28)

end Sys2Proof
end

