-- ==== Sys2Proof/Decode.lean ====
section
/-!
DEFINITION. The decoders of the six opcode spaces and the encoder, from the tables of 10_encodings.md. A raw
reading picks the fields of a word apart by its opcode; a word decodes when the raw reading is well formed and the
encoder gives the word back, so a bit that the form marks zero cannot be set (R222, R232).
-/

namespace Sys2Proof

/-! ## Fields -/

/-- Bits [lo+n-1:lo] of a word. -/
def fld (w : W32) (lo n : Nat) : BitVec n := w.extractLsb' lo n

/-- Bit k of a word. -/
def bitAt (w : W32) (k : Nat) : Bool := w.getLsbD k

/-! ## Narrow forms as the layout they are written in -/

/-- No operand at all. -/
def RForm.none : RForm := ⟨0, 0, 0, false, false⟩
/-- No operand at all. -/
def SForm.none : SForm := ⟨0, 0, false, false⟩
/-- b is zero. -/
def UForm.toR (o : UForm) : RForm := ⟨o.d, o.a, 0, o.p, false⟩
/-- d is zero. -/
def SForm.toR (o : SForm) : RForm := ⟨0, o.a, o.b, o.p, o.q⟩
/-- d and b are zero. -/
def OForm.toR (o : OForm) : RForm := ⟨0, o.a, 0, o.p, false⟩
/-- b is zero. -/
def OForm.toS (o : OForm) : SForm := ⟨o.a, 0, o.p, false⟩
/-- [12:6] zero, [5:0] the shift (R213). -/
def HForm.toI (o : HForm) : IForm := ⟨o.d, o.a, o.p, 0#7 ++ o.s⟩
/-- [12:10] condition, [9:0] immediate (R213). -/
def CForm.toI (o : CForm) : IForm := ⟨o.d, o.a, o.p, o.c ++ o.i⟩
/-- [12:7] POS, [6:1] LEN minus one, [0] sign (R213). -/
def XForm.toI (o : XForm) : IForm := ⟨o.d, o.a, o.p, o.pos ++ o.len ++ BitVec.ofBool o.sgn⟩
/-- The unary forms of A hold their selector or parameters in field b (R229). -/
def AUForm.toA (o : AUForm) (b : BitVec 6) : AForm := ⟨o.d, o.a, b, o.g, o.s, o.k⟩

/-- What a raw reading of a whole layout says in a narrower form; bits the form does not hold are dropped here
and caught by the comparison with the encoder. -/
def RForm.toU (o : RForm) : UForm := ⟨o.d, o.a, o.p⟩
/-- As RForm.toU. -/
def RForm.toS (o : RForm) : SForm := ⟨o.a, o.b, o.p, o.q⟩
/-- As RForm.toU. -/
def RForm.toO (o : RForm) : OForm := ⟨o.a, o.p⟩
/-- As RForm.toU. -/
def SForm.toO (o : SForm) : OForm := ⟨o.a, o.p⟩
/-- As RForm.toU. -/
def IForm.toH (o : IForm) : HForm := ⟨o.d, o.a, o.p, o.i.extractLsb' 0 6⟩
/-- As RForm.toU. -/
def IForm.toC (o : IForm) : CForm := ⟨o.d, o.a, o.p, o.i.extractLsb' 10 3, o.i.extractLsb' 0 10⟩
/-- As RForm.toU. -/
def IForm.toX (o : IForm) : XForm := ⟨o.d, o.a, o.p, o.i.extractLsb' 7 6, o.i.extractLsb' 1 6, o.i.getLsbD 0⟩
/-- As RForm.toU. -/
def AForm.toU (o : AForm) : AUForm := ⟨o.d, o.a, o.g, o.s, o.k⟩

/-! ## Layouts (R208, R218, R226, R227, R231) -/

/-- Format R. -/
def packR (maj : BitVec 6) (o : RForm) (minor : BitVec 6) : W32 :=
  maj ++ o.d ++ o.a ++ o.b ++ BitVec.ofBool o.p ++ BitVec.ofBool o.q ++ minor
/-- Format I. -/
def packI (maj : BitVec 6) (o : IForm) : W32 := maj ++ o.d ++ o.a ++ BitVec.ofBool o.p ++ o.i
/-- Format U, and format Y with the sub-operation in d and a YK immediate. -/
def packU (maj d : BitVec 6) (i : BitVec 20) : W32 := maj ++ d ++ i
/-- Format B. -/
def packB (maj : BitVec 6) (o : BForm) : W32 := maj ++ o.c ++ o.a ++ BitVec.ofBool o.p ++ o.n
/-- Format J. -/
def packJ (maj : BitVec 6) (n : BitVec 26) : W32 := maj ++ n
/-- Layout YR. -/
def packYR (sub : BitVec 6) (o : RForm) : W32 :=
  0x3F#6 ++ sub ++ o.d ++ o.a ++ o.b ++ BitVec.ofBool o.p ++ BitVec.ofBool o.q
/-- Layout YI. -/
def packYI (sub : BitVec 6) (o : KForm) : W32 := 0x3F#6 ++ sub ++ o.d ++ o.a ++ BitVec.ofBool o.p ++ o.n
/-- Layout YS. -/
def packYS (sub : BitVec 6) (o : SForm) (m : BitVec 5) : W32 :=
  0x3F#6 ++ sub ++ o.a ++ o.b ++ BitVec.ofBool o.p ++ BitVec.ofBool o.q ++ 0#1 ++ m
/-- Layout YV. -/
def packYV (sub : BitVec 6) (o : VForm) : W32 :=
  0x3F#6 ++ sub ++ o.v ++ o.a ++ BitVec.ofBool o.p ++ 0#3 ++ o.s
/-- Layout YT. -/
def packYT (sub : BitVec 6) (n : BitVec 4) (r : BitVec 2) (o : SForm) : W32 :=
  0x3F#6 ++ sub ++ n ++ r ++ o.a ++ o.b ++ BitVec.ofBool o.p ++ BitVec.ofBool o.q
/-- The vector and base layout of L and S. -/
def packG (op : BitVec 6) (o : GForm) : W32 := op ++ o.v ++ o.b ++ o.o ++ o.k
/-- The layout of A. -/
def packA (op : BitVec 6) (o : AForm) : W32 := op ++ o.d ++ o.a ++ o.b ++ o.g ++ BitVec.ofBool o.s ++ o.k
/-- The layout of X. -/
def packXO (op : BitVec 6) (o : XOForm) : W32 := op ++ o.e ++ o.p ++ o.q ++ o.i

/-- Format R read back. -/
def unpackR (w : W32) : RForm := ⟨fld w 20 6, fld w 14 6, fld w 8 6, bitAt w 7, bitAt w 6⟩
/-- Format I read back. -/
def unpackI (w : W32) : IForm := ⟨fld w 20 6, fld w 14 6, bitAt w 13, fld w 0 13⟩
/-- Format B read back. -/
def unpackB (w : W32) : BForm := ⟨fld w 22 4, fld w 16 6, bitAt w 15, fld w 0 15⟩
/-- Layout YR read back. -/
def unpackYR (w : W32) : RForm := ⟨fld w 14 6, fld w 8 6, fld w 2 6, bitAt w 1, bitAt w 0⟩
/-- Layout YI read back. -/
def unpackYI (w : W32) : KForm := ⟨fld w 14 6, fld w 8 6, bitAt w 7, fld w 0 7⟩
/-- Layout YS read back. -/
def unpackYS (w : W32) : SForm := ⟨fld w 14 6, fld w 8 6, bitAt w 7, bitAt w 6⟩
/-- Layout YV read back. -/
def unpackYV (w : W32) : VForm := ⟨fld w 14 6, fld w 8 6, bitAt w 7, fld w 0 4⟩
/-- Layout YT's sources read back. -/
def unpackYT (w : W32) : SForm := ⟨fld w 8 6, fld w 2 6, bitAt w 1, bitAt w 0⟩
/-- The vector and base layout of L and S read back. -/
def unpackG (w : W32) : GForm := ⟨fld w 20 6, fld w 16 4, fld w 4 12, fld w 0 4⟩
/-- The layout of A read back. -/
def unpackA (w : W32) : AForm := ⟨fld w 20 6, fld w 14 6, fld w 8 6, fld w 5 3, bitAt w 4, fld w 0 4⟩
/-- The layout of X read back. -/
def unpackXO (w : W32) : XOForm := ⟨fld w 20 6, fld w 16 4, fld w 12 4, fld w 0 12⟩

/-! ## Raw readings -/

/-- Major 0x01 by minor (R212). -/
def rawMinor01 (w : W32) : Option Instr :=
  match (fld w 0 6).toNat with
  | 0x00 => some (.add (unpackR w))
  | 0x01 => some (.sub (unpackR w))
  | 0x02 => some (.mul (unpackR w))
  | 0x03 => some (.mulh (unpackR w))
  | 0x04 => some (.mulhn (unpackR w))
  | 0x05 => some (.div (unpackR w))
  | 0x06 => some (.divn (unpackR w))
  | 0x07 => some (.rem (unpackR w))
  | 0x08 => some (.remn (unpackR w))
  | 0x09 => some (.and_ (unpackR w))
  | 0x0A => some (.or_ (unpackR w))
  | 0x0B => some (.xor (unpackR w))
  | 0x0C => some (.andn (unpackR w))
  | 0x0D => some (.shl (unpackR w))
  | 0x0E => some (.shr (unpackR w))
  | 0x0F => some (.sra (unpackR w))
  | 0x10 => some (.rotl (unpackR w))
  | 0x11 => some (.min_ (unpackR w))
  | 0x12 => some (.max_ (unpackR w))
  | 0x13 => some (.minn (unpackR w))
  | 0x14 => some (.maxn (unpackR w))
  | 0x15 => some (.clz (unpackR w).toU)
  | 0x16 => some (.ctz (unpackR w).toU)
  | 0x17 => some (.popc (unpackR w).toU)
  | 0x18 => some (.sel (unpackR w))
  | _ => if fld w 3 3 = 4 then some (.adds (unpackR w) (fld w 0 3))
    else if fld w 3 3 = 5 then some (.cmp (unpackR w) (fld w 0 3)) else none

/-- Major 0x1A by operation (R215). -/
def rawAtomicI32 (w : W32) : Option Instr :=
  match (fld w 2 4).toNat with
  | 0x08 => some (.amoFadd (unpackR w) (fld w 0 2))
  | 0x09 => some (.casI32 (unpackR w) (fld w 0 2))
  | _ => if bitAt w 5 then none else some (.amoI32 (unpackR w) (fld w 2 3) (fld w 0 2))

/-- Major 0x1B by operation (R215). -/
def rawAtomicN32 (w : W32) : Option Instr :=
  match (fld w 2 4).toNat with
  | 0x09 => some (.casN32 (unpackR w) (fld w 0 2))
  | _ => if bitAt w 5 then none else some (.amoN32 (unpackR w) (fld w 2 3) (fld w 0 2))

/-- Major 0x1C by operation (R215). -/
def rawAtomicI64 (w : W32) : Option Instr :=
  match (fld w 2 4).toNat with
  | 0x09 => some (.casI64 (unpackR w) (fld w 0 2))
  | 0x0A => some (.sqadd (unpackR w).toS (fld w 0 2))
  | _ => if bitAt w 5 then none else some (.amoI64 (unpackR w) (fld w 2 3) (fld w 0 2))

/-- Major 0x1D by minor (R217). -/
def rawMinor1D (w : W32) : Option Instr :=
  match (fld w 0 6).toNat with
  | 0x00 => some .qalign
  | 0x01 => some .mjoin
  | 0x02 => some (.spal (unpackR w).toU)
  | 0x03 => some (.spfree (unpackR w).toO)
  | 0x04 => some (.waddrI32 (unpackR w))
  | 0x05 => some (.waddrI64 (unpackR w))
  | 0x06 => some (.wake (unpackR w).toS)
  | 0x07 => some (.sqwait (unpackR w).toS)
  | 0x08 => some (.swinit (unpackR w).toS)
  | 0x09 => some (.swait (unpackR w).toS)
  | 0x0A => some (.gjoin (unpackR w).toU)
  | 0x0B => some (.gleave (unpackR w).toO)
  | 0x0C => some (.gbar (unpackR w).toO)
  | 0x0D => some (.jr (unpackR w).toO)
  | 0x0E => some (.chlvl (fld w 20 6) (fld w 14 6))
  | 0x0F => some (.chdrop (fld w 14 6))
  | _ => none

/-- Major 0x3F by sub-operation (R219). -/
def rawSystem (w : W32) : Option Instr :=
  match (fld w 20 6).toNat with
  | 0x01 => some (.fork (unpackYS w) (fld w 0 5))
  | 0x02 => some (.rdv (fld w 0 5))
  | 0x03 => some (.estop (fld w 0 5))
  | 0x04 => some (.ebase (unpackYS w).toO (fld w 0 5))
  | 0x05 => some (.mfence (fld w 0 5))
  | 0x06 => some (.tbind (fld w 16 4) (fld w 14 2) (unpackYT w))
  | 0x07 => some (.tunbind (fld w 0 4))
  | 0x08 => some (.post (unpackYR w).toU)
  | 0x09 => some .tail
  | 0x0A => some .halt
  | 0x0B => some (.ppoint (fld w 0 8))
  | 0x0C => some .tfence
  | 0x0D => some (.sysc (fld w 0 20))
  | 0x0E => some (.brk (fld w 0 20))
  | 0x0F => some .eret
  | 0x10 => some (.csrr (fld w 14 6) (fld w 0 7))
  | 0x11 => some (.csrw (unpackYI w))
  | 0x12 => some (.csrs (unpackYI w))
  | 0x13 => some (.csrc (unpackYI w))
  | 0x14 => some (.stset (unpackYR w))
  | 0x15 => some (.stclr (unpackYR w).toU)
  | 0x16 => some (.sfwait (unpackYR w))
  | 0x17 => some (.bemsg (unpackYR w))
  | 0x18 => some (.hand (unpackYR w).toU)
  | 0x19 => some (.deal (unpackYR w).toU)
  | 0x1A => some (.undeal (unpackYR w))
  | 0x1B => some (.rcirc (unpackYR w).toU)
  | 0x1C => some (.cgen (unpackYR w).toU)
  | 0x1D => some (.ctab (unpackYR w).toU)
  | 0x1E => some (.fdown (unpackYR w))
  | 0x1F => some (.fpeek (unpackYR w).toU)
  | 0x20 => some (.fup (unpackYR w))
  | 0x21 => some (.lease (unpackYR w))
  | 0x22 => some (.spill (unpackYV w))
  | 0x23 => some (.fill (unpackYV w))
  | 0x24 => some (.unlease (unpackYR w).toO)
  | _ => none

/-- The control stream by major opcode (R211). -/
def rawC (w : W32) : Option Instr :=
  match (fld w 26 6).toNat with
  | 0x01 => rawMinor01 w
  | 0x02 => some (.addi (unpackI w))
  | 0x03 => some (.andi (unpackI w))
  | 0x04 => some (.ori (unpackI w))
  | 0x05 => some (.xori (unpackI w))
  | 0x06 => some (.shli (unpackI w).toH)
  | 0x07 => some (.shri (unpackI w).toH)
  | 0x08 => some (.srai (unpackI w).toH)
  | 0x09 => some (.cmpi (unpackI w).toC)
  | 0x0A => some (.ext_ (unpackI w).toX)
  | 0x0B => some (.ins (unpackI w).toX)
  | 0x0C => some (.movh (fld w 20 6) (fld w 0 20))
  | 0x0D => some (.ldI8 (unpackI w))
  | 0x0E => some (.ldB16 (unpackI w))
  | 0x0F => some (.ldI32 (unpackI w))
  | 0x10 => some (.ldN32 (unpackI w))
  | 0x11 => some (.ldI64 (unpackI w))
  | 0x12 => some (.stI8 (unpackI w))
  | 0x13 => some (.stB16 (unpackI w))
  | 0x14 => some (.stI32 (unpackI w))
  | 0x15 => some (.stI64 (unpackI w))
  | 0x16 => some (.br (unpackB w))
  | 0x17 => some (.loop (fld w 16 6) (fld w 0 15))
  | 0x18 => some (.jmp (fld w 0 26))
  | 0x19 => some (.jal (fld w 0 26))
  | 0x1A => rawAtomicI32 w
  | 0x1B => rawAtomicN32 w
  | 0x1C => rawAtomicI64 w
  | 0x1D => rawMinor1D w
  | 0x1E => some (.wait (fld w 15 5) (fld w 10 5) (fld w 5 5) (fld w 0 5))
  | 0x1F => some (.chbind (fld w 20 6) (fld w 10 3) (fld w 0 10))
  | 0x3E => some (.nop (fld w 0 26))
  | 0x3F => rawSystem w
  | _ => none

/-- The codes every engine shares (R223, R224); other readings are the engine's own. -/
def rawShared (w : W32) (own : Option Instr) : Option Instr :=
  match (fld w 26 6).toNat with
  | 0x00 => some .tableEnd
  | 0x3E => some (.tok (fld w 20 6) (fld w 14 6) (fld w 8 6))
  | 0x3F => some (.rloop (fld w 13 13) (bitAt w 12) (fld w 0 12))
  | _ => own

/-- The L space (R226). -/
def rawL (w : W32) : Option Instr :=
  match (fld w 26 6).toNat with
  | 0x01 => some (.lport (fld w 23 3) (fld w 19 4) (bitAt w 18) (fld w 0 4))
  | 0x02 => some (.lglob (unpackG w))
  | 0x03 => some (.lbc (unpackG w))
  | 0x04 => some (.lnest (fld w 22 4) (fld w 18 4) (fld w 4 14) (fld w 0 4))
  | _ => none

/-- The S space (R226). -/
def rawS (w : W32) : Option Instr :=
  match (fld w 26 6).toNat with
  | 0x01 => some (.sport (fld w 23 3) (fld w 19 4) (fld w 0 4))
  | 0x02 => some (.sglob (unpackG w))
  | _ => none

/-- The unary group of A in type I8 by selector (R229). -/
def rawUnaryI8 (w : W32) : Option Instr :=
  match (unpackA w).b.toNat with
  | 0x00 => some (.vmovI8 (unpackA w).toU)
  | 0x01 => some (.vabsI8 (unpackA w).toU)
  | 0x02 => some (.vnegI8 (unpackA w).toU)
  | _ => none

/-- The unary group of A in type I32 by selector (R229). -/
def rawUnaryI32 (w : W32) : Option Instr :=
  match (unpackA w).b.toNat with
  | 0x00 => some (.vmovI32 (unpackA w).toU)
  | 0x01 => some (.vabsI32 (unpackA w).toU)
  | 0x02 => some (.vnegI32 (unpackA w).toU)
  | 0x03 => some (.vsumI32 (unpackA w).toU)
  | 0x04 => some (.vscanI32 (unpackA w).toU)
  | _ => none

/-- The unary group of A in type F32 by selector (R229). -/
def rawUnaryF32 (w : W32) : Option Instr :=
  match (unpackA w).b.toNat with
  | 0x00 => some (.vmovF32 (unpackA w).toU)
  | 0x01 => some (.vabsF32 (unpackA w).toU)
  | 0x02 => some (.vnegF32 (unpackA w).toU)
  | 0x03 => some (.vsumF32 (unpackA w).toU)
  | 0x04 => some (.vscanF32 (unpackA w).toU)
  | 0x05 => some (.vrcpF32 (unpackA w).toU)
  | 0x06 => some (.vrsqF32 (unpackA w).toU)
  | 0x07 => some (.vex2F32 (unpackA w).toU)
  | 0x08 => some (.vlg2F32 (unpackA w).toU)
  | _ => none

/-- The unary group of A in type B16 by selector (R229). -/
def rawUnaryB16 (w : W32) : Option Instr :=
  match (unpackA w).b.toNat with
  | 0x00 => some (.vmovB16 (unpackA w).toU)
  | 0x01 => some (.vabsB16 (unpackA w).toU)
  | 0x02 => some (.vnegB16 (unpackA w).toU)
  | 0x03 => some (.vsumB16 (unpackA w).toU)
  | 0x04 => some (.vscanB16 (unpackA w).toU)
  | 0x05 => some (.vrcpB16 (unpackA w).toU)
  | 0x06 => some (.vrsqB16 (unpackA w).toU)
  | 0x07 => some (.vex2B16 (unpackA w).toU)
  | 0x08 => some (.vlg2B16 (unpackA w).toU)
  | _ => none

/-- The A space (R228, R229). -/
def rawA (w : W32) : Option Instr :=
  match (fld w 26 6).toNat with
  | 0x01 => some (.vaddI8 (unpackA w))
  | 0x02 => some (.vaddI32 (unpackA w))
  | 0x03 => some (.vaddF32 (unpackA w))
  | 0x04 => some (.vaddB16 (unpackA w))
  | 0x05 => some (.vsubI8 (unpackA w))
  | 0x06 => some (.vsubI32 (unpackA w))
  | 0x07 => some (.vsubF32 (unpackA w))
  | 0x08 => some (.vsubB16 (unpackA w))
  | 0x09 => some (.vmulI32 (unpackA w))
  | 0x0A => some (.vmulF32 (unpackA w))
  | 0x0B => some (.vmulB16 (unpackA w))
  | 0x0C => some (.vfmaF32 (unpackA w))
  | 0x0D => some (.vfmaB16 (unpackA w))
  | 0x0E => some (.vfmsF32 (unpackA w))
  | 0x0F => some (.vfmsB16 (unpackA w))
  | 0x10 => some (.vminI32 (unpackA w))
  | 0x11 => some (.vminF32 (unpackA w))
  | 0x12 => some (.vminB16 (unpackA w))
  | 0x13 => some (.vmaxI32 (unpackA w))
  | 0x14 => some (.vmaxF32 (unpackA w))
  | 0x15 => some (.vmaxB16 (unpackA w))
  | 0x16 => some (.vand (unpackA w))
  | 0x17 => some (.vor (unpackA w))
  | 0x18 => some (.vxor (unpackA w))
  | 0x19 => some (.vandn (unpackA w))
  | 0x1A => some (.vshl (unpackA w))
  | 0x1B => some (.vshr (unpackA w))
  | 0x1C => some (.vsra (unpackA w))
  | 0x1D => some (.vcmpEqI32 (unpackA w))
  | 0x1E => some (.vcmpEqF32 (unpackA w))
  | 0x1F => some (.vcmpEqB16 (unpackA w))
  | 0x20 => some (.vcmpLtI32 (unpackA w))
  | 0x21 => some (.vcmpLtF32 (unpackA w))
  | 0x22 => some (.vcmpLtB16 (unpackA w))
  | 0x23 => some (.vcmpLeI32 (unpackA w))
  | 0x24 => some (.vcmpLeF32 (unpackA w))
  | 0x25 => some (.vcmpLeB16 (unpackA w))
  | 0x26 => some (.vsel (unpackA w))
  | 0x27 => some (.vpermI8 (unpackA w))
  | 0x28 => some (.vpermI32 (unpackA w))
  | 0x29 => some (.vclampI32 (unpackA w))
  | 0x2A => some (.vclampF32 (unpackA w))
  | 0x2B => some (.vclampB16 (unpackA w))
  | 0x2C => rawUnaryI8 w
  | 0x2D => rawUnaryI32 w
  | 0x2E => rawUnaryF32 w
  | 0x2F => rawUnaryB16 w
  | 0x30 => some (.vbc (unpackA w).toU (unpackA w).b)
  | 0x31 => some (.vcvtI8 (unpackA w).toU (fld w 12 2) (fld w 8 4))
  | 0x32 => some (.vcvtI32 (unpackA w).toU (fld w 12 2) (fld w 8 4))
  | 0x33 => some (.vcvtF32 (unpackA w).toU (fld w 12 2) (fld w 8 4))
  | 0x34 => some (.vcvtB16 (unpackA w).toU (fld w 12 2) (fld w 8 4))
  | 0x35 => some (.vcvtE4 (unpackA w).toU (fld w 12 2) (fld w 8 4))
  | 0x36 => some (.vcvtE5 (unpackA w).toU (fld w 12 2) (fld w 8 4))
  | 0x37 => some (.vcvtF4 (unpackA w).toU (fld w 12 2) (fld w 8 4))
  | 0x38 => some (.vcvtDs8 (unpackA w).toU (fld w 12 2) (fld w 8 4))
  | 0x39 => some (.vqmax (unpackA w).toU (fld w 10 4) (fld w 8 2))
  | 0x3A => some (.vqcvt (unpackA w).toU (fld w 12 2) (fld w 10 2) (fld w 8 2))
  | 0x3B => some (.vdq (unpackA w).toU (fld w 8 2))
  | 0x3C => some (.gop (fld w 24 2) (fld w 20 4) (fld w 14 4) (fld w 8 4) (fld w 0 4))
  | 0x3D => some (.vqcvtI8 (unpackA w).toU (fld w 12 2) (fld w 8 2))
  | _ => none

/-- The M space (R230). -/
def rawM (w : W32) : Option Instr :=
  match (fld w 26 6).toNat with
  | 0x01 => some (.mmac (fld w 20 6) (fld w 17 3) (fld w 14 3) (fld w 6 8) (fld w 0 6))
  | 0x02 => some (.mclr (fld w 20 6) (fld w 14 3))
  | 0x03 => some (.mret (fld w 20 6) (fld w 16 4) (fld w 13 3) (fld w 10 3) (fld w 8 2) (bitAt w 7))
  | 0x04 => some (.mwsel (fld w 20 6) (fld w 16 4))
  | 0x05 => if bitAt w 19 then some (.mstampAdd (fld w 20 6) (fld w 0 19)) else some (.mstampAbs (fld w 20 6))
  | 0x06 => some (.mnop (fld w 20 6))
  | _ => none

/-- The X space (R231). -/
def rawX (w : W32) : Option Instr :=
  match (fld w 26 6).toNat with
  | 0x01 => some (.xcopy (unpackXO w))
  | 0x02 => some (.xgat (unpackXO w))
  | 0x03 => some (.xsct (unpackXO w))
  | 0x04 => some (.xwload (unpackXO w))
  | 0x05 => some (.xred (unpackXO w))
  | 0x06 => some (.xwenq (unpackXO w))
  | 0x07 => some (.xsend (unpackXO w))
  | 0x08 => some (.xcoll (unpackXO w))
  | _ => none

/-- The raw reading of a word by the stream that fetched it (R23, R223). -/
def rawOf (st : Stream) (w : W32) : Option Instr :=
  match st with
  | .c => rawC w
  | .l => rawShared w (rawL w)
  | .a => rawShared w (rawA w)
  | .s => rawShared w (rawS w)
  | .m => rawShared w (rawM w)
  | .x => rawShared w (rawX w)

/-- The word of an instruction; a row of the table without an encoding has none. -/
def encode (i : Instr) : Option W32 :=
  match i with
  | .add o => some (packR 0x01 o 0x00)
  | .sub o => some (packR 0x01 o 0x01)
  | .mul o => some (packR 0x01 o 0x02)
  | .mulh o => some (packR 0x01 o 0x03)
  | .mulhn o => some (packR 0x01 o 0x04)
  | .div o => some (packR 0x01 o 0x05)
  | .divn o => some (packR 0x01 o 0x06)
  | .rem o => some (packR 0x01 o 0x07)
  | .remn o => some (packR 0x01 o 0x08)
  | .and_ o => some (packR 0x01 o 0x09)
  | .or_ o => some (packR 0x01 o 0x0A)
  | .xor o => some (packR 0x01 o 0x0B)
  | .andn o => some (packR 0x01 o 0x0C)
  | .shl o => some (packR 0x01 o 0x0D)
  | .shr o => some (packR 0x01 o 0x0E)
  | .sra o => some (packR 0x01 o 0x0F)
  | .rotl o => some (packR 0x01 o 0x10)
  | .min_ o => some (packR 0x01 o 0x11)
  | .max_ o => some (packR 0x01 o 0x12)
  | .minn o => some (packR 0x01 o 0x13)
  | .maxn o => some (packR 0x01 o 0x14)
  | .clz o => some (packR 0x01 o.toR 0x15)
  | .ctz o => some (packR 0x01 o.toR 0x16)
  | .popc o => some (packR 0x01 o.toR 0x17)
  | .sel o => some (packR 0x01 o 0x18)
  | .adds o s => some (packR 0x01 o (0b100#3 ++ s))
  | .cmp o c => some (packR 0x01 o (0b101#3 ++ c))
  | .addi o => some (packI 0x02 o)
  | .andi o => some (packI 0x03 o)
  | .ori o => some (packI 0x04 o)
  | .xori o => some (packI 0x05 o)
  | .shli o => some (packI 0x06 o.toI)
  | .shri o => some (packI 0x07 o.toI)
  | .srai o => some (packI 0x08 o.toI)
  | .cmpi o => some (packI 0x09 o.toI)
  | .ext_ o => some (packI 0x0A o.toI)
  | .ins o => some (packI 0x0B o.toI)
  | .movh d i => some (packU 0x0C d i)
  | .ldI8 o => some (packI 0x0D o)
  | .ldB16 o => some (packI 0x0E o)
  | .ldI32 o => some (packI 0x0F o)
  | .ldN32 o => some (packI 0x10 o)
  | .ldI64 o => some (packI 0x11 o)
  | .stI8 o => some (packI 0x12 o)
  | .stB16 o => some (packI 0x13 o)
  | .stI32 o => some (packI 0x14 o)
  | .stI64 o => some (packI 0x15 o)
  | .br o => some (packB 0x16 o)
  | .loop a n => some (packB 0x17 ⟨0, a, false, n⟩)
  | .jmp n => some (packJ 0x18 n)
  | .jal n => some (packJ 0x19 n)
  | .amoI32 o op sc => some (packR 0x1A o (0b0#1 ++ op ++ sc))
  | .amoFadd o sc => some (packR 0x1A o (8#4 ++ sc))
  | .amoN32 o op sc => some (packR 0x1B o (0b0#1 ++ op ++ sc))
  | .amoI64 o op sc => some (packR 0x1C o (0b0#1 ++ op ++ sc))
  | .casI32 o sc => some (packR 0x1A o (9#4 ++ sc))
  | .casN32 o sc => some (packR 0x1B o (9#4 ++ sc))
  | .casI64 o sc => some (packR 0x1C o (9#4 ++ sc))
  | .sqadd o sc => some (packR 0x1C o.toR (10#4 ++ sc))
  | .qalign => some (packR 0x1D RForm.none 0x00)
  | .mjoin => some (packR 0x1D RForm.none 0x01)
  | .spal o => some (packR 0x1D o.toR 0x02)
  | .spfree o => some (packR 0x1D o.toR 0x03)
  | .waddrI32 o => some (packR 0x1D o 0x04)
  | .waddrI64 o => some (packR 0x1D o 0x05)
  | .wake o => some (packR 0x1D o.toR 0x06)
  | .sqwait o => some (packR 0x1D o.toR 0x07)
  | .swinit o => some (packR 0x1D o.toR 0x08)
  | .swait o => some (packR 0x1D o.toR 0x09)
  | .gjoin o => some (packR 0x1D o.toR 0x0A)
  | .gleave o => some (packR 0x1D o.toR 0x0B)
  | .gbar o => some (packR 0x1D o.toR 0x0C)
  | .jr o => some (packR 0x1D o.toR 0x0D)
  | .chlvl d a => some (packR 0x1D ⟨d, a, 0, false, false⟩ 0x0E)
  | .chdrop a => some (packR 0x1D ⟨0, a, 0, false, false⟩ 0x0F)
  | .wait l s c t => some (packU 0x1E 0 (l ++ s ++ c ++ t))
  | .chbind d k sel => some (packI 0x1F ⟨d, 0, false, k ++ sel⟩)
  | .nop h => some (packJ 0x3E h)
  | .fork o m => some (packYS 0x01 o m)
  | .rdv m => some (packYS 0x02 SForm.none m)
  | .estop m => some (packYS 0x03 SForm.none m)
  | .ebase o m => some (packYS 0x04 o.toS m)
  | .mfence m => some (packYS 0x05 SForm.none m)
  | .tbind n r o => some (packYT 0x06 n r o)
  | .tunbind n => some (packYI 0x07 ⟨0, 0, false, 0#3 ++ n⟩)
  | .post o => some (packYR 0x08 o.toR)
  | .tail => some (packU 0x3F 0x09 0)
  | .halt => some (packU 0x3F 0x0A 0)
  | .ppoint m => some (packU 0x3F 0x0B (0#12 ++ m))
  | .tfence => some (packU 0x3F 0x0C 0)
  | .sysc c => some (packU 0x3F 0x0D c)
  | .brk c => some (packU 0x3F 0x0E c)
  | .eret => some (packU 0x3F 0x0F 0)
  | .csrr d n => some (packYI 0x10 ⟨d, 0, false, n⟩)
  | .csrw o => some (packYI 0x11 o)
  | .csrs o => some (packYI 0x12 o)
  | .csrc o => some (packYI 0x13 o)
  | .stset o => some (packYR 0x14 o)
  | .stclr o => some (packYR 0x15 o.toR)
  | .sfwait o => some (packYR 0x16 o)
  | .bemsg o => some (packYR 0x17 o)
  | .hand o => some (packYR 0x18 o.toR)
  | .deal o => some (packYR 0x19 o.toR)
  | .undeal o => some (packYR 0x1A o)
  | .rcirc o => some (packYR 0x1B o.toR)
  | .cgen o => some (packYR 0x1C o.toR)
  | .ctab o => some (packYR 0x1D o.toR)
  | .fdown o => some (packYR 0x1E o)
  | .fpeek o => some (packYR 0x1F o.toR)
  | .fup o => some (packYR 0x20 o)
  | .lease o => some (packYR 0x21 o)
  | .spill o => some (packYV 0x22 o)
  | .fill o => some (packYV 0x23 o)
  | .unlease o => some (packYR 0x24 o.toR)
  | .tok a b c => some (0x3E#6 ++ a ++ b ++ c ++ 0#8)
  | .rloop t l n => some (0x3F#6 ++ t ++ BitVec.ofBool l ++ n)
  | .tableEnd => some (0)
  | .lport p n c k => some (0x01#6 ++ p ++ n ++ BitVec.ofBool c ++ 0#14 ++ k)
  | .lglob o => some (packG 0x02 o)
  | .lbc o => some (packG 0x03 o)
  | .lnest n b o k => some (0x04#6 ++ n ++ b ++ o ++ k)
  | .sport p n k => some (0x01#6 ++ p ++ n ++ 0#15 ++ k)
  | .sglob o => some (packG 0x02 o)
  | .vaddI8 o => some (packA 0x01 o)
  | .vaddI32 o => some (packA 0x02 o)
  | .vaddF32 o => some (packA 0x03 o)
  | .vaddB16 o => some (packA 0x04 o)
  | .vsubI8 o => some (packA 0x05 o)
  | .vsubI32 o => some (packA 0x06 o)
  | .vsubF32 o => some (packA 0x07 o)
  | .vsubB16 o => some (packA 0x08 o)
  | .vmulI32 o => some (packA 0x09 o)
  | .vmulF32 o => some (packA 0x0A o)
  | .vmulB16 o => some (packA 0x0B o)
  | .vfmaF32 o => some (packA 0x0C o)
  | .vfmaB16 o => some (packA 0x0D o)
  | .vfmsF32 o => some (packA 0x0E o)
  | .vfmsB16 o => some (packA 0x0F o)
  | .vminI32 o => some (packA 0x10 o)
  | .vminF32 o => some (packA 0x11 o)
  | .vminB16 o => some (packA 0x12 o)
  | .vmaxI32 o => some (packA 0x13 o)
  | .vmaxF32 o => some (packA 0x14 o)
  | .vmaxB16 o => some (packA 0x15 o)
  | .vand o => some (packA 0x16 o)
  | .vor o => some (packA 0x17 o)
  | .vxor o => some (packA 0x18 o)
  | .vandn o => some (packA 0x19 o)
  | .vshl o => some (packA 0x1A o)
  | .vshr o => some (packA 0x1B o)
  | .vsra o => some (packA 0x1C o)
  | .vcmpEqI32 o => some (packA 0x1D o)
  | .vcmpEqF32 o => some (packA 0x1E o)
  | .vcmpEqB16 o => some (packA 0x1F o)
  | .vcmpLtI32 o => some (packA 0x20 o)
  | .vcmpLtF32 o => some (packA 0x21 o)
  | .vcmpLtB16 o => some (packA 0x22 o)
  | .vcmpLeI32 o => some (packA 0x23 o)
  | .vcmpLeF32 o => some (packA 0x24 o)
  | .vcmpLeB16 o => some (packA 0x25 o)
  | .vsel o => some (packA 0x26 o)
  | .vpermI8 o => some (packA 0x27 o)
  | .vpermI32 o => some (packA 0x28 o)
  | .vclampI32 o => some (packA 0x29 o)
  | .vclampF32 o => some (packA 0x2A o)
  | .vclampB16 o => some (packA 0x2B o)
  | .vmovI8 o => some (packA 0x2C (o.toA 0))
  | .vmovI32 o => some (packA 0x2D (o.toA 0))
  | .vmovF32 o => some (packA 0x2E (o.toA 0))
  | .vmovB16 o => some (packA 0x2F (o.toA 0))
  | .vabsI8 o => some (packA 0x2C (o.toA 1))
  | .vabsI32 o => some (packA 0x2D (o.toA 1))
  | .vabsF32 o => some (packA 0x2E (o.toA 1))
  | .vabsB16 o => some (packA 0x2F (o.toA 1))
  | .vnegI8 o => some (packA 0x2C (o.toA 2))
  | .vnegI32 o => some (packA 0x2D (o.toA 2))
  | .vnegF32 o => some (packA 0x2E (o.toA 2))
  | .vnegB16 o => some (packA 0x2F (o.toA 2))
  | .vsumI32 o => some (packA 0x2D (o.toA 3))
  | .vsumF32 o => some (packA 0x2E (o.toA 3))
  | .vsumB16 o => some (packA 0x2F (o.toA 3))
  | .vscanI32 o => some (packA 0x2D (o.toA 4))
  | .vscanF32 o => some (packA 0x2E (o.toA 4))
  | .vscanB16 o => some (packA 0x2F (o.toA 4))
  | .vrcpF32 o => some (packA 0x2E (o.toA 5))
  | .vrcpB16 o => some (packA 0x2F (o.toA 5))
  | .vrsqF32 o => some (packA 0x2E (o.toA 6))
  | .vrsqB16 o => some (packA 0x2F (o.toA 6))
  | .vex2F32 o => some (packA 0x2E (o.toA 7))
  | .vex2B16 o => some (packA 0x2F (o.toA 7))
  | .vlg2F32 o => some (packA 0x2E (o.toA 8))
  | .vlg2B16 o => some (packA 0x2F (o.toA 8))
  | .vbc o l => some (packA 0x30 (o.toA l))
  | .vcvtI8 o m f => some (packA 0x31 (o.toA (m ++ f)))
  | .vcvtI32 o m f => some (packA 0x32 (o.toA (m ++ f)))
  | .vcvtF32 o m f => some (packA 0x33 (o.toA (m ++ f)))
  | .vcvtB16 o m f => some (packA 0x34 (o.toA (m ++ f)))
  | .vcvtE4 o m f => some (packA 0x35 (o.toA (m ++ f)))
  | .vcvtE5 o m f => some (packA 0x36 (o.toA (m ++ f)))
  | .vcvtF4 o m f => some (packA 0x37 (o.toA (m ++ f)))
  | .vcvtDs8 o m f => some (packA 0x38 (o.toA (m ++ f)))
  | .vqmax o t f => some (packA 0x39 (o.toA (t ++ f)))
  | .vqcvt o m t f => some (packA 0x3A (o.toA (m ++ t ++ f)))
  | .vdq o t => some (packA 0x3B (o.toA (0#4 ++ t)))
  | .gop op w x y k => some (packA 0x3C ⟨op ++ w, 0#2 ++ x, 0#2 ++ y, 7, false, k⟩)
  | .vqcvtI8 o m f => some (packA 0x3D (o.toA (m ++ 0#2 ++ f)))
  | .mmac e p t r o => some (0x01#6 ++ e ++ p ++ t ++ r ++ o)
  | .mclr e t => some (0x02#6 ++ e ++ 0#3 ++ t ++ 0#14)
  | .mret e n t f m c => some (0x03#6 ++ e ++ n ++ t ++ f ++ m ++ BitVec.ofBool c ++ 0#7)
  | .mwsel e w => some (0x04#6 ++ e ++ w ++ 0#16)
  | .mstampAbs e => some (0x05#6 ++ e ++ 0#20)
  | .mstampAdd e b => some (0x05#6 ++ e ++ 1#1 ++ b)
  | .mnop e => some (0x06#6 ++ e ++ 0#20)
  | .xcopy o => some (packXO 0x01 o)
  | .xgat o => some (packXO 0x02 o)
  | .xsct o => some (packXO 0x03 o)
  | .xwload o => some (packXO 0x04 o)
  | .xred o => some (packXO 0x05 o)
  | .xwenq o => some (packXO 0x06 o)
  | .xsend o => some (packXO 0x07 o)
  | .xcoll o => some (packXO 0x08 o)
  | .powerOn _ => none
  | .functionLevelReset => none
  | .linkHbmTrainingDone _ => none
  | .featureGo => none
  | .registerImage => none
  | .unregisterImage => none
  | .unmap => none
  | .unmapPinsDropped => none
  | .relocate => none
  | .undealCommand => none
  | .commitSvn => none
  | .keyInstall _ _ => none
  | .octlWrite _ _ => none
  | .hostRead _ _ => none
  | .hostWrite _ _ => none
  | .hostAtomicop _ _ _ _ _ => none
  | .mailboxPush _ _ => none
  | .postPortPost _ _ => none
  | .dirtySnapshot _ _ => none
  | .tableRewriteCommit => none
  | .tableRewriteDrained => none
  | .hvecWrite _ _ => none
  | .preemptRequest _ _ => none
  | .preemptCancel _ _ => none
  | .driverInterrupt _ _ _ => none
  | .moduleRetrainRequest _ _ => none
  | .moduleWindowBoundary _ _ => none
  | .portReopen _ => none
  | .portHealthWindow _ => none
  | .portPark _ => none
  | .portWake _ => none
  | .portIdleTimeout _ => none
  | .widthChangeBoundary _ => none
  | .wavelengthRelockDone _ => none
  | .wakeBudgetExpired _ => none
  | .migrationPass => none
  | .migrationReceive => none
  | .migrationAbort => none
  | .sessionKeyInstall _ => none
  | .msessWrite _ => none
  | .granuleRecord _ => none
  | .recordAck _ => none
  | .taskExport => none
  | .taskImport => none
  | .typedStateRecord _ => none
  | .quote => none
  | .quoteSigned => none
  | .nonceWrite _ _ => none
  | .updateVerify => none
  | .updateVerifyDone => none
  | .updateInstall => none
  | .updateInstallDone _ => none
  | .uploadWindowWrite _ _ => none
  | .thermalChange _ _ => none
  | .registerWrite _ _ _ => none
  | .launchPacket _ => none
  | .sliceSetAside => none
  | .collectiveAbort _ _ => none
  | .domainJoin _ _ => none
  | .circuitSlotStart => none
  | .dataWindowOpen _ => none
  | .circuitCommit => none
  | .sendDataFlit _ => none
  | .transactionFlit _ => none
  | .collectivePacket _ _ => none
  | .abortFlit _ _ => none
  | .controlFrame _ => none
  | .fecFrameUncorrectable _ _ => none
  | .frameReplayRequest _ _ => none
  | .sendAccepted _ _ _ _ => none
  | .sweepAdd _ _ _ => none
  | .ucieFlitReceived _ _ _ _ => none
  | .retryTimeout _ _ _ => none
  | .moduleRetrainEnd _ _ _ _ => none
  | .stationLoad _ _ => none
  | .stationAdd _ _ => none
  | .stationCopy _ _ => none
  | .stationTake _ _ => none
  | .stationFlagRaise _ => none
  | .handTakesEffect _ _ => none
  | .handWithhold _ _ => none
  | .parcelBoard _ _ => none
  | .slotClaim _ _ => none
  | .parcelDelivery _ _ => none
  | .fullSlotReturn _ _ => none
  | .groupQuarantineEnd _ => none
  | .homeSliceOperation _ => none
  | .homeSliceLoad _ => none
  | .writeBack _ => none
  | .bankOperation _ _ => none
  | .accessCompletion _ => none
  | .timetablePost _ => none
  | .counterReport _ => none
  | .releaseTick _ => none
  | .placement _ => none
  | .overlayLoadDone _ => none
  | .frameBarrier => none
  | .powerHoldEnd => none
  | .deadlinePassed _ => none
  | .taskRetire _ => none
  | .preemptAtRetirement _ => none
  | .contextSave _ => none
  | .saveCommit _ => none
  | .contextSlotAcquire _ => none
  | .restoreDone _ => none
  | .checkpointWriteback _ _ => none
  | .watchdogStall _ => none
  | .watchdogLate _ => none
  | .watchdogSave _ => none
  | .eventTaken _ => none
  | .portWalkFetch _ _ => none
  | .portDrain _ _ => none
  | .engineCompletion _ _ => none
  | .bundleVerified => none
  | .headerError _ _ => none

/-- The instruction a stream reads from a word, or none where the word is no instruction of that stream's space
(R222, R232). -/
def decode (st : Stream) (w : W32) : Option Instr :=
  match rawOf st w with
  | none => none
  | some i => if i.wf && encode i == some w then some i else none

/-- The spaces in the order in which a word is tried when no stream is given (log 12). -/
def spaceOf (w : W32) : Stream :=
  if (decode .c w).isSome then .c
  else if (decode .l w).isSome then .l
  else if (decode .a w).isSome then .a
  else if (decode .s w).isSome then .s
  else if (decode .m w).isSome then .m
  else .x

/-- The instruction of a table word: every word of the table is one 32-bit word of one of the six spaces, and the
table does not say which; the first space that holds the word is taken (log 12). -/
def decodeTableWord (nbits w : Nat) : Option Instr :=
  if nbits ≤ 32 then decode (spaceOf (BitVec.ofNat 32 w)) (BitVec.ofNat 32 w) else none

end Sys2Proof
end

