-- ==== Sys2Proof/Config.lean ====
section
/-!
DEFINITION. What the spec leaves open: free values and choices, as constants without a body, and the numbers that
one part of the hardware fixes. A statement that holds of the model holds for every value of these constants.
-/

namespace Sys2Proof.Config

/-- The free order of the machine: which of the moves that the spec does not order is made next, and how long a
latency without a figure takes (log 2). Applied to State.free. -/
opaque schedule : Nat → Nat

/-- Which value a read inside a shadow returns in unchecked mode: true for the new one (R183, log 6). Applied to
State.free. -/
opaque pickNew : Nat → Bool

/-- The bytes that a block reads as under a key other than the one it was written under (R115, R104, log 7): of the
reading key, the stored key, the place of the block and its stored bytes. -/
opaque foreign : BitVec 512 → Option (BitVec 512) → Nat → BitVec 512 → BitVec 512

/-- A key that only the device holds: what it writes in an order of its own is read as unrelated bytes under any other (R455, log 15).
Applied to State.free. -/
opaque deviceKey : Nat → BitVec 512

/-- The bytes that a save writes for an uncorrectable block of the scratchpad (R116, R456, log 182). Applied to State.free and the block. -/
opaque lostBlock : Nat → Nat → BitVec 512

/-- SHA-384 (R403, R406, log 9). -/
opaque sha384 : List Byte → BitVec 384

/-- Whether a P-384 signature over a digest verifies under a public key (R403, log 9). -/
opaque ecdsaOk : BitVec 768 → BitVec 768 → BitVec 384 → Bool

/-- Whether an LMS signature over bytes verifies under a public key (R403, log 9). -/
opaque lmsOk : BitVec 448 → List Byte → List Byte → Bool

/-- The hash of the fused signing key, by key slot (R403, log 9). -/
opaque fusedKeyHash : Nat → BitVec 384

/-- The security version that is in the fuses when the part leaves the factory (R403, log 9). -/
opaque fusedVersion : BitVec 16

/-- The digest of the boot ROM (R406, log 9). -/
opaque romDigest : BitVec 384

/-- The tag that a host write of a whole block leaves (R70, R117, log 30). Applied to State.free. -/
opaque hostTag : Nat → BitVec 16

/-- The signature of the quote, by the quoting key of the part (R484, log 9). -/
opaque quoteSign : List Word → BitVec 768

/-- The alias public key, derived from the part's secret, M0 and M1 (R484, log 9). -/
opaque aliasKey : BitVec 384 → BitVec 384 → BitVec 768

/-- The identity key's signature over an alias key, M0 and M1 (R484, log 9). -/
opaque aliasCert : BitVec 768 → BitVec 384 → BitVec 384 → BitVec 768

/-- The identity public key of the part (R484, log 9). -/
opaque identKey : BitVec 768

/-- The averaged power of a mortise on a beat, in units of 0.25 W, as the package measures it (R464, log 25). -/
opaque mortPower : Nat → Nat → BitVec 16

/-- The tag that seals a record of a migration session (R476, log 9): of the session key, the session number, the
record number and the record's words. -/
opaque sealTag : BitVec 256 → BitVec 32 → Nat → List Word → BitVec 128

/-- Word i of the stream that encrypts a record of a migration session, from the session key, the session number and the record number, the
nonce (R476, log 9). -/
opaque keyStream : BitVec 256 → BitVec 32 → Nat → Nat → BitVec 64

/-- A word of an imported task that no record of R480 holds: of the fault of a stopped stream, and of its array and its retirement (log 33).
Applied to State.free and the place of the word. -/
opaque importVal : Nat → Nat → BitVec 64

/-- The words of the instruction and order memories of an imported task, which no record of R480 holds (log 33). Applied to
State.free and the place of the word. -/
opaque importWord : Nat → Nat → W32

/-- What a peer package answers to a remote load or atomic of this package (R168, log 24). Applied to State.free. -/
opaque peerReply : Nat → Word

/-- The flags that a peer's home slice returns with an addition of binary32 numbers that it has performed (R94, R270, log 24). Applied to
State.free. -/
opaque peerFlags : Nat → BitVec 5

/-- Whether, with this package's circuit table of these port words, the chain of open port words of some slot leads back to the
package: the words of the other packages of the chain are theirs (R167, log 148). -/
opaque trussRing : List (Nat × BitVec 32) → Bool

/-- What befalls storage on a beat from outside (R116, log 149): the number of a block, and whether the error is beyond
correction. -/
opaque upset : Nat → Option (Nat × Bool)

/-- The power of the package on a beat in units of 0.25 W, as it measures it (R466, R467, log 25). -/
opaque beatPower : Nat → Nat

/-- The binary32 code of the largest finite magnitude of a block that holds no finite element (R309, log 27). Applied to
State.free. -/
opaque emptyAmax : Nat → BitVec 32

end Sys2Proof.Config
end

