-- ==== Sys2Proof/Machine/Map.lean ====
section
/-!
DEFINITION. Sparse tables: reading a key, writing a key, and the canonical form. A table is given its default
value d where it is used; a key that is not listed reads as d, and writing d removes the entry, so that equal
tables are equal lists.
-/

namespace Sys2Proof.Machine

/-- What key k of the table m holds; d where it is not listed. -/
def mget {α : Type} (d : α) : SMap α → Nat → α
  | [], _ => d
  | (j, v) :: t, k => if j = k then v else mget d t k

/-- Puts a key that the table does not hold at its place in the rising order. -/
def mput {α : Type} (k : Nat) (v : α) : SMap α → SMap α
  | [] => [(k, v)]
  | (j, w) :: t => if k < j then (k, v) :: (j, w) :: t else (j, w) :: mput k v t

/-- Takes key k out of the table. -/
def mdel {α : Type} (k : Nat) : SMap α → SMap α
  | [] => []
  | (j, w) :: t => if j = k then mdel k t else (j, w) :: mdel k t

/-- Writes v at key k of a table whose default is d. -/
def mset {α : Type} [DecidableEq α] (d : α) (m : SMap α) (k : Nat) (v : α) : SMap α :=
  if v = d then mdel k m else mput k v (mdel k m)

/-- Changes what key k holds by f. -/
def mmod {α : Type} [DecidableEq α] (d : α) (m : SMap α) (k : Nat) (f : α → α) : SMap α :=
  mset d m k (f (mget d m k))

/-- The canonical form: keys strictly rising and no entry equal to the default. -/
def mwf {α : Type} [DecidableEq α] (d : α) : SMap α → Bool
  | [] => true
  | (k, v) :: t => decide (v ≠ d) && t.all (fun e => decide (k < e.1)) && mwf d t

/-- The numbers a, a + 1, ..., a + n - 1. -/
def upFrom : Nat → Nat → List Nat
  | _, 0 => []
  | a, n + 1 => a :: upFrom (a + 1) n

/-- Writes the values vs at keys k, k + 1, ... -/
def msetList {α : Type} [DecidableEq α] (d : α) (m : SMap α) (k : Nat) : List α → SMap α
  | [] => m
  | v :: vs => msetList d (mset d m k v) (k + 1) vs

/-- The values at keys k to k + n - 1. -/
def mgetList {α : Type} (d : α) (m : SMap α) (k n : Nat) : List α := (upFrom k n).map (mget d m)

/-- Writes d at keys k to k + n - 1: drops every entry there. -/
def mclear {α : Type} (m : SMap α) (k n : Nat) : SMap α := m.filter (fun e => e.1 < k || k + n ≤ e.1)

end Sys2Proof.Machine
end

