-- ==== Sys2Proof/Machine/State.lean ====
section
/-!
DEFINITION. The state of the machine: one package, with its cores, dies, memory, fabric and driver interface, as
plain data. Every sparse table is an SMap whose default is named where it is read (Machine/Map.lean); a table or
list that is empty at reset holds nothing but defaults.
-/

namespace Sys2Proof.Machine

/-- No meaning of this model ends in a fault: every condition the spec calls a fault is a trap, a stopped stream,
a negative completion or a log record that the spec describes, and the machine goes on. -/
inductive Fault where
  deriving DecidableEq, Repr

/-- Why a step has no meaning. -/
inductive Refusal where
  /-- Raised by an arm of Machine/Dispatch.lean whose instruction has no meaning yet; safe: nothing runs. -/
  | notModelled (mnemonic : String)
  deriving DecidableEq, Repr

/-! ## Places and accesses -/

/-- Where an address leads (R95): the scratchpad of a core, the shared memory of a die, HBM by physical address, or
a location of a peer package. -/
inductive Loc where
  | scr (core off : Nat)
  | dsm (die off : Nat)
  | hbm (p : Nat)
  | peer (pkg powner va : Nat)
  deriving DecidableEq, Repr

/-- Who issues an access (R118); optical: the deposits of an optical engine die (R173). -/
inductive Agent where
  | c | l | s | m | x | station | host | peer | timetable | context | optical
  deriving DecidableEq, Repr

/-- What an access does at its point of coherence. -/
inductive AOp where
  /-- a scalar load of w bytes, sign- or zero-extended (R256) -/
  | load (w : Nat) (sx : Bool)
  /-- a scalar store of w bytes (R256) -/
  | store (w : Nat) (v : Word)
  /-- an atomic of operation 0 to 8 of R215 on w bytes -/
  | amo (op w : Nat) (sx : Bool) (b : Word)
  /-- compare and swap (R270) -/
  | cas (w : Nat) (sx : Bool) (b cmp : Word)
  /-- a counter update without a returned value (R272) -/
  | sqadd (b : Word)
  /-- sync word initialisation (R279) -/
  | swinit (target : W32)
  /-- wake up to n waiters, 0 for all (R277) -/
  | wake (n : Nat)
  /-- read a block's tag (R361) -/
  | fpeek
  /-- put a cell face-down with this descriptor (R360) -/
  | fdown (b : Blk)
  /-- answer a turning cell with the value block at this local offset, read when the access leaves its queue (R362) -/
  | fup (src : Nat) (b : Blk)
  /-- a result that is known when the instruction issues and is in flight until it returns (R265) -/
  | value (v : Word)
  /-- offer a descriptor, as its sixteen words, to the timetable of a die (R366) -/
  | post (die : Nat) (words : List Word)
  /-- push a word into a boot mailbox (R356) -/
  | bemsg (v : Word)
  /-- write a lease slot (R370) -/
  | spill (slot : Nat) (v : Vec)
  /-- read a lease slot (R370) -/
  | fill (slot : Nat)
  /-- wait for a word to change: blocking, or a watch of a wake queue (R274, R275, R278) -/
  | waddr (w : Nat) (sx : Bool) (b : Word) (watch : Option Nat)
  /-- wait for a counter to reach a threshold (R273) -/
  | sqwait (b : Word)
  /-- read a whole block -/
  | rblk
  /-- write bytes lo to lo + n - 1 of a block, with its tag where the block is written whole (R70) -/
  | wblk (lo n : Nat) (b : Blk)
  /-- add a block into a block in an operation of R340 -/
  | red (mode : Nat) (b : Blk)
  /-- merge a whole exact chunk into a chunk (R88, R340) -/
  | redChunk (c : BitVec 4096)
  /-- a write-with-enqueue of a peer, at the block of its ring's descriptor (R169, R170) -/
  | enq (f : EnqueueFlit)
  /-- one that the check has accepted: the address of its ring entry, the new tail, and whether its payload (0), its entry (1) or
  its tail (2) is being written -/
  | enqRun (f : EnqueueFlit) (entry : Nat) (tail : Word) (phase : Nat)
  /-- write n bytes of a block from byte 0, as the check of a write-with-enqueue has accepted (R169) -/
  | put (n : Nat) (b : Blk)
  deriving DecidableEq, Repr

/-- How far an access has come. -/
inductive Stage where
  /-- in its stream's queue, not yet released to its point of coherence -/
  | queued
  /-- on its way as a parcel of the conveyor -/
  | away
  /-- at its point of coherence, not yet performed -/
  | arrived
  /-- performed as a parked waiter, a watch or a queued cell loader: it waits there for its value -/
  | parked
  /-- performed, the completion on its way back -/
  | performed
  /-- the completion is on its way back as a parcel -/
  | returning
  /-- the completion has come back to the issuer -/
  | back
  /-- a load of a pre-empted task that has left a cell's waiters and issues again on resumption (R179) -/
  | withdrawn
  deriving DecidableEq, Repr

/-- What an access brings back. -/
inductive Res where
  | none
  | val (v : Word)
  | blk (b : Blk)
  | vec (v : Vec)
  | err (cause : BitVec 8)
  deriving DecidableEq, Repr

/-- An access that is not complete. ix counts it among the load-count accesses of its C stream and six among the
store-count accesses (R260); epoch counts the qalign markers before it (R123); scope is that of an atomic, 9 for
any other access (R128); dst is 0 to 31 for a scalar register and 64 + k for vector register k. orig: where the placement tables
changed after an access was routed, the block that it names (R105, R431). -/
structure Access where
  agent : Agent
  core : Nat
  task : Nat
  owner : Nat
  loc : Loc
  va : Nat
  op : AOp
  dst : Nat
  pc : Nat
  issue : Nat
  ix : Nat
  six : Nat
  lq : Bool
  sq : Bool
  epoch : Nat
  scope : Nat
  job : Nat
  part : Nat
  hist : Nat
  sync : Option Nat
  chain : Nat
  depth : Nat
  stage : Stage
  due : Nat
  res : Res
  flags : BitVec 5
  orig : Option Nat := none
  deriving DecidableEq, Repr

/-! ## One core -/

/-- A queue that a channel can be bound to (R29). -/
inductive Queue where
  | result (e : Nat)
  | feed (e : Nat)
  | copyOut (strand : Nat)
  | mailbox
  | wakeQ (q : Nat)
  deriving DecidableEq, Repr

/-- A scalar result in its shadow: written at the end of the beat before due (R180). -/
structure Pend where
  reg : Nat
  value : Word
  due : Nat
  deriving DecidableEq, Repr

/-- A push into a feed side that is reserved and has not entered (R234, R235). -/
structure Push where
  feed : Nat
  value : Word
  due : Nat
  deriving DecidableEq, Repr

/-- A destination in flight until a covering wait (R183); past: a trap was entered since, so the value is there (R186). -/
structure Fly where
  dst : Nat
  ix : Nat
  past : Bool := false
  deriving DecidableEq, Repr

/-- A completion fault held until a covering wait or a tfence (R258). -/
structure Held where
  ix : Nat
  cause : BitVec 8
  addr : Nat
  pc : Nat
  dst : Nat
  deriving DecidableEq, Repr

/-- An entry of the posted-store history (R448); ix is its place in the store or copies count that covers it. -/
structure Hist where
  issue : Nat
  source : Nat
  loc : Nat
  cause : BitVec 8
  reported : Bool
  neg : Bool
  addr : Nat
  ix : Nat
  seq : Nat
  deriving DecidableEq, Repr

/-- A sticky fault without a live history entry: of an overwritten entry (R448), or station failed (R355). -/
structure Sticky where
  cause : BitVec 8
  source : Nat
  pc : Nat
  ix : Nat
  deriving DecidableEq, Repr

/-- The wait that a stalled C instruction is in: which instruction word at which pc, the beat on which it began,
and the access that serves it. bar: of a `gbar` that has arrived, the group, and the operand field and pop bit (R283). -/
structure CWait where
  pc : Nat
  since : Nat
  acc : Nat
  value : Option Word
  fault : Option (BitVec 8 × Nat)
  bar : Option (Nat × BitVec 6 × Bool) := none
  deriving DecidableEq, Repr

/-- The control stream (R17, R25, R180 to R186, R233 to R235). -/
structure Ctl where
  regs : SMap Word
  pc : BitVec 14
  hlevel : Bool
  ready : Nat
  evOk : Bool
  pend : List Pend
  flying : List Fly
  held : List Held
  pushes : List Push
  ldIx : Nat
  stIx : Nat
  cpIx : Nat
  tlIx : Nat
  epoch : Nat
  issues : SMap Nat
  cwait : Option CWait
  settling : Bool
  issued : Bool
  deriving DecidableEq, Repr

/-- Channels and their queues (R29, R249 to R253, R278). -/
structure ChanState where
  table : SMap (Option Queue)
  results : SMap (List Word)
  feeds : SMap (List Word)
  mail : List Word
  drops : Nat
  lres : Nat
  wakes : SMap (List Word)
  late : List (Nat × Word)
  deriving DecidableEq, Repr

/-- Task-level control registers that C writes or units raise (R348). -/
structure Ctrls where
  vlend : BitVec 16
  fflags : BitVec 5
  fenable : BitVec 5
  spcount : Nat
  spfirst : Nat
  spwarn : Bool
  tcheck : Bool
  mlive : BitVec 8
  badcsr : Nat
  deriving DecidableEq, Repr

/-- The handler registers, the posted-store history and what is pending for the handler (R441 to R448, R451). rpc: the pc of the report, whatever
the handler has written into tpc since (R440). -/
structure TrapState where
  tcause : Word
  tpc : BitVec 14
  rpc : BitVec 14
  tstep : Word
  taddr : Word
  tinfo : Word
  twalk : Word
  thsel : BitVec 6
  own : Bool
  fail : Bool
  restart : BitVec 5
  mbase : Word
  tbeat : Word
  hs : SMap Word
  hist : SMap Hist
  hcount : Nat
  sticky : List Sticky
  events : List (BitVec 8 × Word)
  deriving DecidableEq, Repr

/-- The state of an engine stream (R20). -/
inductive EState where
  | idle | running | stalled | done | stopped
  deriving DecidableEq, Repr

/-- The fault that a stopped stream holds for C (R22, R443). -/
structure EFault where
  cause : BitVec 8
  step : BitVec 13
  resume : BitVec 13
  addr : Word
  info : Word
  walk : Word
  beat : Nat
  deriving DecidableEq, Repr

/-- One engine stream (R19, R20, R27, R34, R125, R313); a marker is the number that was next when it was placed. -/
structure Eng where
  state : EState
  step : BitVec 13
  resume : BitVec 13
  rb : Nat
  lc0 : Nat
  lc1 : Nat
  arm0 : Bool
  arm1 : Bool
  prefx : Option (BitVec 6 × BitVec 6 × BitVec 6)
  fault : Option EFault
  markers : List Nat
  pushing : List Bool
  closing : Bool
  ready : Nat
  deriving DecidableEq, Repr

/-- An input port and its walk (R30, R289 to R292); redo: the vectors whose fetch met a fault, to be fetched first (R290). -/
structure InPort where
  bound : Bool
  toM : Bool
  nest : BitVec 256
  pos : Nat
  cursor : Nat
  fifo : List Vec
  step : BitVec 13
  asked : Nat
  got : List (Nat × Vec)
  base : Nat
  redo : List Nat := []
  deriving DecidableEq, Repr

/-- An output port and its drain (R30, R291, R292, R294); pushed: the walk's vectors that have entered the FIFO. -/
structure OutPort where
  bound : Bool
  nest : BitVec 256
  pushed : Nat
  pos : Nat
  packed : Nat
  part : Vec
  fifo : List Vec
  step : BitVec 13
  base : Nat
  deriving DecidableEq, Repr

/-- A piece of a bound extent: where bytes va to va + len - 1 lie, and the entry that is pinned for it. -/
structure Piece where
  va : Nat
  len : Nat
  loc : Loc
  pin : Nat
  deriving DecidableEq, Repr

/-- A tensor base (R33, R268); extent 0 is unbound. uid names the binding for its pins (R112). -/
structure Base where
  addr : Nat
  extent : Nat
  rd : Bool
  wr : Bool
  owner : Nat
  port : Nat
  gen : Nat
  pieces : List Piece
  uid : Nat
  deriving DecidableEq, Repr

/-- The quantizer state of A (R308). -/
structure Qs where
  valid : Bool
  source : Nat
  target : Nat
  s0 : BitVec 8
  s1 : BitVec 8
  deriving DecidableEq, Repr

/-- What an A micro-order leaves when its latency ends. -/
inductive AWrite where
  | v (reg : Nat) (x : Vec)
  | g (reg : Nat) (b : Bool)
  | q (x : Qs)
  | port (p : Nat) (x : Vec)
  | pack (p m : Nat) (x : Vec)
  deriving DecidableEq, Repr

/-- The state of a weight tile (R36). -/
inductive WState where
  | empty | loading | resident
  deriving DecidableEq, Repr

/-- A weight tile descriptor: its range, class and extra value, the places, the virtual address and the owner of its source
blocks, and the entries it pins (R36, R336, R339, R480). -/
structure WTile where
  state : WState
  start : Nat
  len : Nat
  cls : Nat
  dense : Bool
  extra : BitVec 16
  pieces : List Loc
  va : Nat
  owner : Nat
  pins : List Nat
  deriving DecidableEq, Repr

/-- A block of an X micro-order that is put in and not performed (R330, R331): its place in the walk, where it is read
from and where it goes. -/
structure XOut where
  pos : Nat
  src : Nat
  va : Nat
  loc : Loc
  deriving DecidableEq, Repr

/-- The progress of an X micro-order (R328 to R344). kind is its code, 1 to 8; desc the thirty-two words of the
descriptor that X copied (R329); src, dst and via the bases p, q and, for `xcoll`, that of its sends. pos is the next
block of the walk of total blocks; reading the blocks whose read is out, outs those not performed, redo those to be read
again after a fault, blocks those read and not yet written. bytes, code and cause are what the result says (R332,
R333); queued and sent count sends put into a port's queue and accepted; issue is the issue number of its history entry (R448). -/
structure XWork where
  kind : Nat
  q : Nat
  desc : List Word
  src : Base
  dst : Base
  via : Base
  pos : Nat
  total : Nat
  reading : List Nat
  outs : List XOut
  redo : List Nat
  blocks : SMap (Option Blk)
  bytes : Nat
  code : Nat
  cause : BitVec 8
  queued : Nat
  sent : Nat
  issue : Nat
  deriving DecidableEq, Repr

/-- An `mmac` under way (R189, R317, R318): tile, port, rows, stamp, array mode (0 integer, 1 FP8, 2 shift-and-add,
3 FP4, 4 BF16), the vectors of the rows that have entered, FP4 extra value of A, and the weights that it read, present
blocks by their number u of R337, with their tile, class and extra value. -/
structure MacJob where
  tile : Nat
  port : Nat
  weight : Nat
  rows : Nat
  stamp : Nat
  mode : Nat
  entered : Nat
  vecs : List Vec
  extraA : BitVec 16
  ws : SMap (Option Blk)
  cls : Nat
  extraW : BitVec 16
  reached : Nat
  deriving DecidableEq, Repr

/-- What an issued micro-order still has to do. -/
inductive Work where
  /-- an A micro-order: its writes are made when it is due -/
  | arith (ws : List AWrite)
  /-- lglob, lbc: the vector register to fill, whether by broadcast, and the blocks read so far -/
  | vload (reg : Nat) (bc : Bool) (parts : SMap (Option Blk))
  /-- lnest: the nest set to write, the place of its 32 bytes in their block, and the block once read -/
  | nload (n at_ : Nat) (part : Option Blk)
  /-- a micro-order with nothing left but its accesses: sglob, lport, sport, mwsel, mnop -/
  | plain
  /-- a port's fetch of one vector: port, walk position, blocks read so far -/
  | fetch (port pos : Nat) (parts : SMap (Option Blk))
  /-- a port's drain of one vector: port, walk position -/
  | drain (port pos : Nat)
  /-- mmac -/
  | mmac (j : MacJob)
  /-- mclr of a tile -/
  | mclr (tile : Nat)
  /-- mret: tile, nest set copied, format, mode, clear, base -/
  | mret (tile : Nat) (nest : BitVec 256) (fmt mode : Nat) (clr : Bool) (base : Base)
  /-- an X micro-order -/
  | copy (x : XWork)
  deriving DecidableEq, Repr

/-- A micro-order that has issued and is not complete (R287, R316, R328). tok is the produced order token; pl and
pr are the link tokens to push; uses names the bindings it uses (R112); warned: it has counted its uninitialised read (R100). -/
structure Job where
  id : Nat
  eng : Stream
  task : Nat
  step : BitVec 13
  word : W32
  tok : Nat
  pl : Bool
  pr : Bool
  issued : Nat
  due : Nat
  ix : Nat
  hist : Nat
  flags : BitVec 5
  uses : List Nat
  warned : Bool
  work : Work
  deriving DecidableEq, Repr

/-- The vector side of a core: registers, guards, ports, nests, bases, tokens (R26 to R34, R51, R308). marks: for a vector
register that L wrote, how many of its tokens A has still to pop until one of them says so (R183, R184). -/
structure Vecs where
  engs : SMap Eng
  v : SMap Vec
  g : SMap Bool
  qs : Qs
  nests : SMap (BitVec 256)
  ins : SMap InPort
  outs : SMap OutPort
  bases : SMap Base
  old : List Base
  tokens : SMap Nat
  fifoLA : Nat
  fifoAL : Nat
  fifoAS : Nat
  fifoSA : Nat
  depthLA : Nat
  depthAS : Nat
  jobs : List Job
  marks : SMap Nat := []
  deriving DecidableEq, Repr

/-- The matrix side of a core (R35, R36, R189, R316, R319, R324); gate: M issues nothing more before the pre-emption
that a retirement takes (R326). -/
structure Mat where
  tiles : SMap W32
  wtiles : SMap WTile
  wbuf : SMap Blk
  sel : Option (Nat × Nat)
  occEnd : Nat
  retire : Nat
  reached : Option Nat
  convBusy : Nat
  gate : Bool
  deriving DecidableEq, Repr

/-- A lease held by a task (R62, R63, R369 to R371): the lessor, its task, the registers in slot order, the spill
area, whether it was revoked, and the slots spilled. -/
structure Lease where
  lessor : Nat
  regs : List Nat
  area : Nat
  revoked : Bool
  spilled : SMap (Option Vec)
  deriving DecidableEq, Repr

/-- The phase of the core's task (R40, R48, R50, R456, R458). -/
inductive Phase where
  | free | loading | running | draining | saving | restoring
  deriving DecidableEq, Repr

/-- The watchdog of a core (R459). -/
structure Dog where
  stall : Nat
  late : Nat
  warnedStall : Bool
  warnedLate : Bool
  deriving DecidableEq, Repr

/-- What is placed on a core: the task, its memories, regions, lease, tracker and requests. saveMask and saveBeat: the tiles
that a save keeps, and the beat on which its drain ended (R187, R456); due: when an overlay load, a save or a restore can end. -/
structure Place where
  task : Option Nat
  phase : Phase
  due : Nat
  imem : SMap W32
  omem : SMap W32
  regions : List (Nat × Nat)
  lease : Option Lease
  lent : List Nat
  tailed : Option Nat
  preempt : Bool
  saveMask : BitVec 8
  saveBeat : Option Nat
  dog : Dog
  deriving DecidableEq, Repr

/-- One core. -/
structure Core where
  c : Ctl
  ch : ChanState
  cr : Ctrls
  tr : TrapState
  ve : Vecs
  mx : Mat
  pl : Place
  deriving DecidableEq, Repr

/-! ## Defaults of the tables of a core -/

/-- A stream at rest. -/
def Eng.rest : Eng := ⟨.idle, 0, 0, 0, 0, 0, false, false, none, none, [], [], false, 0⟩
/-- An unbound input port. -/
def InPort.rest : InPort := ⟨false, false, 0, 0, 0, [], 0, 0, [], 0, []⟩
/-- An unbound output port. -/
def OutPort.rest : OutPort := ⟨false, 0, 0, 0, 0, Vec.zero, [], 0, 0⟩
/-- An unbound tensor base. -/
def Base.rest : Base := ⟨0, 0, false, false, 0, 0, 0, [], 0⟩
/-- An invalid quantizer state. -/
def Qs.rest : Qs := ⟨false, 0, 0, 0, 0⟩
/-- An empty weight tile. -/
def WTile.rest : WTile := ⟨.empty, 0, 0, 0, false, 0, [], 0, 0, []⟩
/-- A history entry as the clear at placement leaves it (R448, log 159). -/
def Hist.rest : Hist := ⟨0, 0, 0, 0, false, false, 0, 0, 0⟩
/-- A watchdog that has counted nothing. -/
def Dog.rest : Dog := ⟨0, 0, false, false⟩
/-- The control stream of a core without a task. -/
def Ctl.rest : Ctl := ⟨[], 0, false, 0, false, [], [], [], [], 0, 0, 0, 0, 0, [], none, false, false⟩
/-- Unbound channels and empty queues. -/
def ChanState.rest : ChanState := ⟨[], [], [], [], 0, 0, [], []⟩
/-- Control registers at their reset values. -/
def Ctrls.rest : Ctrls := ⟨0, 0, 0, 0, 0, false, false, 0xFF, 0⟩
/-- Handler registers at their reset values. -/
def TrapState.rest : TrapState := ⟨0, 0, 0, 0, 0, 0, 0, 0, false, false, 0, 0, 0, [], [], 0, [], []⟩
/-- The vector side at rest. -/
def Vecs.rest : Vecs := ⟨[], [], [], Qs.rest, [], [], [], [], [], [], 0, 0, 0, 0, 0, 0, [], []⟩
/-- The matrix side at rest. -/
def Mat.rest : Mat := ⟨[], [], [], none, 0, 0, none, 0, false⟩
/-- No task placed. -/
def Place.rest : Place := ⟨none, .free, 0, [], [], [], none, [], none, false, 0, none, Dog.rest⟩
/-- A core after power-on. -/
def Core.rest : Core :=
  ⟨Ctl.rest, ChanState.rest, Ctrls.rest, TrapState.rest, Vecs.rest, Mat.rest, Place.rest⟩

/-! ## Memory -/

/-- A pending operation of a write-queue entry: how many operations it merges and whether it still merges (R106). -/
structure WOp where
  cls : Nat
  n : Nat
  deriving DecidableEq, Repr

/-- An entry of a home slice's write queue: its block and its pending operations in coherence order (R106). -/
structure WEntry where
  blk : Nat
  ops : List WOp
  deriving DecidableEq, Repr

/-- All storage of the package, by storage address (Machine/Mem.lean): bytes, block tags, the key each block was
written under, and the block whose address is the tweak where that is another one (R115, R432); areas: runs of blocks, first and
number, that were written as a whole under a key and that keys does not list; uncorrectable blocks, valid
bits of scratchpad words, dirty granules, and what stands at each point of coherence: flag words, waiters, cell waiters, bank
queues, write queues, error counts. served: the banks and home slices whose operation of this beat is made (R103, R106). landed:
bytes that have landed on this beat, by the sync word that counts them (R110). -/
structure Mem where
  bytes : List Host.Cell
  tags : SMap Tag
  keys : SMap (Option (BitVec 512))
  tweaks : SMap (Option Nat)
  areas : List (Nat × Nat × BitVec 512)
  bad : SMap Bool
  valid : SMap Bool
  dirty : SMap Bool
  flags : SMap (BitVec 5)
  waiters : SMap (List Nat)
  cellq : SMap (List Nat)
  bankq : SMap (List Nat)
  wq : SMap (List WEntry)
  corr : SMap Nat
  uncorr : SMap Nat
  ulast : SMap Nat
  dsnap : SMap Word
  landed : SMap Nat
  served : List Nat
  deriving DecidableEq, Repr

/-! ## Tasks, frames and groups -/

/-- The state of a timetable entry or task (R40). -/
inductive TState where
  | pending | waiting | ready | running | tailed | draining | retired | failed
  deriving DecidableEq, Repr

/-- A counter condition of an entry (R41, R46), with the entry that is pinned for it (R42). -/
structure Cond where
  va : Nat
  loc : Loc
  thresh : Word
  pin : Nat
  deriving DecidableEq, Repr

/-- The cell that an evaluator was launched for (R177): the block, and the requester. -/
structure EvalFor where
  loc : Loc
  die : Nat
  quad : Option Nat
  descr : Blk
  deriving DecidableEq, Repr

/-- What a context holds: a core, and its scratchpad with tags and valid bits (R455). -/
structure Ctx where
  core : Core
  bytes : List Host.Cell
  tags : SMap Tag
  valid : SMap Bool
  deriving DecidableEq, Repr

/-- A timetable entry or task (R40, R41, R59, R61, R453). -/
structure Task where
  owner : Nat
  image : Nat
  argbase : Word
  rframe : Nat
  roffset : Nat
  dl : Bool
  dframe : Nat
  doffset : Nat
  die : Nat
  conds : List Cond
  rdepth : Nat
  mask : BitVec 24
  order : Nat
  st : TState
  row : Option Nat
  lastRow : Nat
  core : Option Nat
  chain : Nat
  depth : Nat
  groups : List Nat
  arrived : List (Nat × Nat)
  slot : Option Nat
  slotWait : Option Nat
  eval : Option EvalFor
  answered : Bool
  late : Bool
  held : Nat
  due : Nat
  slice : Nat
  box : Option Nat
  bad : Option (BitVec 8 × Word × Word)
  deriving DecidableEq, Repr

/-- The state of a group identifier (R59). -/
inductive GState where
  | free | live | quarantine
  deriving DecidableEq, Repr

/-- A group (R59 to R61): incarnation, members by task, owner, the open barrier generation, the beat the last
member left, and the rotation at which its hand is undealt. -/
structure Group where
  st : GState
  inc : BitVec 8
  members : List Nat
  owner : Nat
  gen : Nat
  left : Nat
  deriving DecidableEq, Repr

/-- The frame, the stretch and the frame length (R44, R45, R54). ending: the barrier has let the frame end with this beat;
hold: the beats of a power hold that are left, plus one (R467); past: the frames at which the length changed, latest first;
energy is in units of 0.2 nJ, and start what it was as the frame began. -/
structure Frame where
  fno : Nat
  fofs : Nat
  stretch : Bool
  len : Nat
  next : Nat
  past : List (Nat × Nat)
  hold : Nat
  energy : Nat
  start : Nat
  holds : Nat
  hbeats : Nat
  ending : Bool
  deriving DecidableEq, Repr

/-- A ring of records: how many were written, and the record last written at each place. -/
structure Ring where
  count : Nat
  recs : SMap (List Word)
  deriving DecidableEq, Repr

/-- The units of a context whose dirty bit for a buffer is clear (R457): all of them, or those listed. -/
structure Clean where
  whole : Bool
  units : List Nat
  deriving DecidableEq, Repr

/-- A context slot: its holder, and for each of its two buffers what the sections of the device's own order stand for, none
where nothing was written, and the units whose dirty bit for it is clear. The header and every other section lie in HBM (R453 to
R455, R457). -/
structure Slot where
  holder : Option Nat
  buf0 : Option Core
  buf1 : Option Core
  clean0 : Clean
  clean1 : Clean
  deriving DecidableEq, Repr

/-- A raising act of a station (R146): the beat on which its flag is raised, the flag, the act, and the bits that it leaves. -/
structure FlagDue where
  due : Nat
  flag : Nat
  act : Nat
  bits : Word
  deriving DecidableEq, Repr

/-- One compute die: its timetable's counters, queues, logs and registers (R43, R48, R49, R56, R176, R416, R427,
R449 to R451, R464). -/
structure Die where
  posts : Nat
  accepted : Nat
  evalq : List Nat
  reserve : Nat
  postBuf : SMap Byte
  postRes : Word
  slip : Ring
  trap : Ring
  inbound : Ring
  hvec : BitVec 32
  hmem : SMap W32
  cxbase : Nat
  cxcount : Nat
  incr : Bool
  lsres : Bool
  save : Nat
  lateLim : Nat
  stallLim : Nat
  req : BitVec 32
  reqCore : Nat
  dmap : SMap (BitVec 8)
  slots : SMap Slot
  slotOrder : Nat
  reports : List (Nat × Nat)
  flagsDue : List FlagDue
  sflags : SMap Word
  copies : SMap (List Word)
  binders : SMap (Option (Nat × Nat))
  posting : List (Nat × Nat × List Word)
  deriving DecidableEq, Repr

/-- A ring that holds nothing. -/
def Ring.rest : Ring := ⟨0, []⟩
/-- A context slot that nobody holds. -/
def Slot.rest : Slot := ⟨none, none, none, ⟨false, []⟩, ⟨false, []⟩⟩
/-- A free group of incarnation 0 (R59). -/
def Group.rest : Group := ⟨.free, 0, [], 0, 0, 0⟩
/-- A compute die after power-on. -/
def Die.rest : Die :=
  ⟨0, 0, [], 0, [], 0, Ring.rest, Ring.rest, Ring.rest, 0, [], 0, 0, false, false, 0, 0, 0, 0, 0, [], [], 0, [],
    [], [], [], [], []⟩
/-- Storage that nothing was written into. -/
def Mem.rest : Mem := ⟨[], [], [], [], [], [], [], [], [], [], [], [], [], [], [], [], [], [], []⟩
/-- The first frame, of the reset length (R45). -/
def Frame.rest : Frame := ⟨0, 0, false, 1048576, 1048576, [], 0, 0, 0, 0, 0, false⟩

/-! ## Owners and the page -/

/-- What the device does on its own on a beat: the transitions of the opcode table that no one from outside causes. -/
inductive Ev where
  | linkHbmTrainingDone (ok : Bool)
  | unmapPinsDropped
  | tableRewriteDrained
  | moduleWindowBoundary (mort strand : Nat)
  | portHealthWindow (port : Nat)
  | portIdleTimeout (port : Nat)
  | widthChangeBoundary (port : Nat)
  | wavelengthRelockDone (port : Nat)
  | wakeBudgetExpired (port : Nat)
  | migrationPass
  | quoteSigned
  | updateVerifyDone
  | updateInstallDone (ok : Bool)
  | sliceSetAside
  | circuitSlotStart
  | dataWindowOpen (port : Nat)
  | circuitCommit
  | sweepAdd (die stage chunk : Nat)
  | ucieFlitReceived (mort strand : Nat) (up crcOk : Bool)
  | retryTimeout (mort strand : Nat) (up : Bool)
  | moduleRetrainEnd (mort strand : Nat) (lo hi : Bool)
  | stationLoad (strand mort : Nat)
  | stationAdd (strand mort : Nat)
  | stationCopy (strand mort : Nat)
  | stationTake (strand mort : Nat)
  | stationFlagRaise (die : Nat)
  | handTakesEffect (strand mort : Nat)
  | handWithhold (strand mort : Nat)
  | parcelBoard (strand mort : Nat)
  | slotClaim (strand mort : Nat)
  | parcelDelivery (strand mort : Nat)
  | fullSlotReturn (strand mort : Nat)
  | groupQuarantineEnd (gid : Nat)
  | homeSliceOperation (acc : Nat)
  | homeSliceLoad (acc : Nat)
  | writeBack (slice : Nat)
  | bankOperation (die bank : Nat)
  | accessCompletion (acc : Nat)
  | timetablePost (acc : Nat)
  | counterReport (die : Nat)
  | releaseTick (die : Nat)
  | placement (die : Nat)
  | overlayLoadDone (core : Nat)
  | frameBarrier
  | powerHoldEnd
  | deadlinePassed (task : Nat)
  | taskRetire (task : Nat)
  | preemptAtRetirement (core : Nat)
  | contextSave (core : Nat)
  | saveCommit (core : Nat)
  | contextSlotAcquire (die : Nat)
  | restoreDone (core : Nat)
  | checkpointWriteback (core unit_ : Nat)
  | watchdogStall (core : Nat)
  | watchdogLate (core : Nat)
  | watchdogSave (core : Nat)
  | eventTaken (core : Nat)
  | portWalkFetch (core port : Nat)
  | portDrain (core port : Nat)
  | engineCompletion (core job : Nat)
  | bundleVerified
  deriving DecidableEq, Repr

/-- A move that is due on this beat. -/
inductive Move where
  /-- a stream of a core tries to issue -/
  | stream (core : Nat) (st : Stream)
  /-- a transition of the device -/
  | event (e : Ev)
  /-- an access leaves its queue for its point of coherence, if nothing holds it back -/
  | release (acc : Nat)
  /-- X puts blocks of its micro-orders into its queues -/
  | walk (core : Nat)
  /-- what a core does on its own on a beat: results that are due, pushes, markers, retirement -/
  | settle (core : Nat)
  /-- the scheduler node lets a slice's first exchange begin (R64, log 152) -/
  | gang (slice : Nat)
  deriving DecidableEq, Repr

/-- Whose move it is, and the moves still due on this beat (log 2). -/
structure Turn where
  agenda : List Move
  core : Nat
  stream : Stream
  deriving DecidableEq, Repr

/-! ## Owners, images and the driver interface -/

/-- A range entry (R420). -/
structure RangeE where
  va : Word
  len : Word
  target : Word
  ctl : Word
  deriving DecidableEq, Repr

/-- An owner context (R414, R415, R420); key words gather in keyBuf until the last is written. -/
structure Owner where
  circ : Bool
  conv : Bool
  live : Bool
  keyvalid : Bool
  root : Nat
  aperture : Nat
  terr : Word
  key : BitVec 512
  keyBuf : SMap Word
  ranges : SMap RangeE
  deriving DecidableEq, Repr

/-- A registered image (R424). -/
structure Image where
  mask : BitVec 16
  addr : Nat
  len : Nat
  deriving DecidableEq, Repr

/-- Boot status, measurements and features (R405, R406, R412); committed is the highest security version that
command 6 put into the fuses, 0 for none (R486). -/
structure Boot where
  svn : Nat
  error : Nat
  state : Nat
  meas : SMap (BitVec 384)
  accepted : Word
  refused : Bool
  go : Bool
  committed : Nat
  flash : Option Bundle
  deriving DecidableEq, Repr

/-- The command interface (R411). -/
structure Cmd where
  args : SMap Word
  busy : Bool
  run : Nat
  result : Nat
  deriving DecidableEq, Repr

/-- The content of a row of a home slice by offset, as granule gran holds it; tweaks as in Mem (R115, R432). -/
structure Row where
  gran : Nat
  bytes : List Host.Cell
  tags : SMap Tag
  keys : SMap (Option (BitVec 512))
  tweaks : SMap (Option Nat)
  bad : SMap Bool
  dirty : Bool
  deriving DecidableEq, Repr

/-- The interleave and region tables and their generation register (R430, R431); a region entry is its two words.
before: the accesses that were under way at the last commit. -/
structure Placing where
  modes : SMap Nat
  regions : SMap (Word × Word)
  stagedModes : SMap Word
  stagedRegions : SMap (Word × Word)
  active : Nat
  drained : Nat
  result : Nat
  draining : Bool
  before : List Nat
  deriving DecidableEq, Repr

/-- The scheduler node's registration and what the package does for it (R433 to R435). pending: the accepted packet whose
prior slice is being set aside; aside: the slices that are held; inbox: packets that wait, with where they came from; rows: those of
its descriptors once they are posted, while a timetable still has to accept one (R43); gangs: the posted slices whose first exchange
waits for the node (R64). -/
structure Node where
  regs : SMap Word
  lastSeq : Nat
  dropped : Nat
  pending : Option Launch
  aside : List Nat
  reports : List (List Word)
  inbox : List (LaunchSrc × List Word)
  rows : Option (List Nat)
  gangs : List Nat
  deriving DecidableEq, Repr

/-- A host request that awaits its answer (R409, R410): its number, its first offset, its length, the parts that are out, the
bytes of those that are back, and whether one failed. -/
structure HostReq where
  no : Nat
  off : Nat
  len : Nat
  left : Nat
  got : SMap (List Byte)
  bad : Bool
  deriving DecidableEq, Repr

/-- The logs, requests and interrupts of the driver interface (R132, R409 to R411, R463). replies: answers, with the number of the
request; asked: requests so far; pushes: mailbox pushes that wait for earlier posted host writes, those whose access is before
a number. msix: pending bits; sent: vectors raised while not masked, in their order. -/
structure Events where
  reqLog : List (List Word)
  badWrites : List (Nat × Word)
  msix : BitVec 64
  mask : BitVec 64
  sent : List Nat
  replies : List (Nat × List Byte)
  asked : Nat
  reqs : List HostReq
  pushes : List (Nat × Word × Nat)
  deriving DecidableEq, Repr

/-! ## The conveyor -/

/-- A parcel, or the two that carry one block, aboard a slot or in a station's queue: the access carried, whether it is its
reply, its number among them, one or two parcels, the destination, its place in the order of arrival at the station, and whether it
is the last of the access (R151, R152). -/
structure Parcel where
  acc : Nat
  reply : Bool
  no : Nat
  rows : Nat
  dest : Nat
  seq : Nat
  last : Bool
  deriving DecidableEq, Repr

/-- What rides in a slot (R139). -/
inductive SClass where
  | empty | hand | parcels
  deriving DecidableEq, Repr

/-- A slot of a strand: the fields of its header and its payload (R139); claimer is the mortise that claimed it. -/
structure CSlot where
  cls : SClass
  error : Bool
  sat : Bool
  fp : BitVec 5
  src : Nat
  dst : Nat
  full : Bool
  claimer : Option Nat
  mode : Nat
  handle : Nat
  pay : List Blk
  parcels : List Parcel
  deriving DecidableEq, Repr

/-- A standing-table entry and its act index (R140). -/
structure SEntry where
  word : BitVec 128
  act : Nat
  deriving DecidableEq, Repr

/-- An installation that the dealer has accepted: from which rotation, and of which entry (R148). -/
structure Install where
  rot : Nat
  key : Nat
  entry : BitVec 128
  taken : Nat
  deriving DecidableEq, Repr

/-- What a station watches or has claimed on a strand, and the beat on which it was named (R153). -/
structure Watch where
  slot : Nat
  seen : Nat
  claimed : Bool
  deriving DecidableEq, Repr

/-- The conveyor (R136 to R156). Tables are keyed by strand, mortise and slot; ownership of a slot is a list of
changes, each a rotation and the handle from then on. reads holds the buffer reads that were made for acts to come, and coming
how many blocks of such a read are still in a module (R390); blocked
the slots that a destination has refused and not yet taken, by strand, source and destination. -/
structure Conv where
  slots : SMap CSlot
  tables : SMap SEntry
  reads : SMap (Option (Bool × List Blk))
  coming : SMap Nat
  installs : List Install
  own : SMap (List (Nat × Option Nat))
  hands : SMap (List (Nat × Bool))
  queues : SMap (List Parcel)
  watch : SMap (Option Watch)
  rows : SMap (List (Nat × Nat))
  blocked : SMap (List Nat)
  stale : SMap Nat
  refused : SMap Nat
  claims : SMap Nat
  overrun : SMap Nat
  hdrerr : SMap Nat
  deriving DecidableEq, Repr

/-- An empty slot, unclaimed. -/
def CSlot.rest : CSlot := ⟨.empty, false, false, 0, 0, 0, false, none, 0, 0, [], []⟩
/-- The pass entry. -/
def SEntry.rest : SEntry := ⟨0, 0⟩
/-- A conveyor that carries nothing. -/
def Conv.rest : Conv := ⟨[], [], [], [], [], [], [], [], [], [], [], [], [], [], [], []⟩
/-- A range entry that is not valid. -/
def RangeE.rest : RangeE := ⟨0, 0, 0, 0⟩
/-- An owner that is not live. -/
def Owner.rest : Owner := ⟨false, false, false, false, 0, 0, 0, 0, [], []⟩
/-- The boot status at power-on (R405). -/
def Boot.rest : Boot := ⟨0, 0, 0, [], 0, false, false, 0, none⟩
/-- No command running. -/
def Cmd.rest : Cmd := ⟨[], false, 0, 0⟩
/-- Interleave mode 0 everywhere, no regions (log 1). -/
def Placing.rest : Placing := ⟨[], [], [], [], 0, 0, 0, false, []⟩
/-- No node registered. -/
def Node.rest : Node := ⟨[], 0, 0, none, [], [], [], none, []⟩
/-- Nothing logged, nothing pending. -/
def Events.rest : Events := ⟨[], [], 0, 0, [], [], 0, [], []⟩

/-! ## Circuits between packages -/

/-- A circuit slot table (R160): lengths of its slots, port words keyed by 48 slot + port, and the epoch E. -/
structure CTable where
  lens : List Nat
  words : SMap W32
  epoch : Nat
  deriving DecidableEq, Repr

/-- What waits in a destination queue of a port (R166, R168, R342, R344). -/
inductive SendKind where
  | send
  | enqueue (ring : Nat) (note : BitVec 128)
  | packet (g : CollPacket)
  | trans (acc : Nat)
  deriving DecidableEq, Repr

/-- A send in a destination queue: the micro-order it serves, its destination, its blocks with their addresses at the
peer and the bytes of each, the bytes already sent, and the sync word it counts into. -/
structure Outgoing where
  id : Nat
  core : Nat
  task : Nat
  job : Nat
  kind : SendKind
  peer : Nat
  pown : Nat
  gen : Nat
  blks : List (Nat × Blk × Nat)
  bytes : Nat
  sent : Nat
  sync : Option Nat
  deriving DecidableEq, Repr

/-- A frame in a port's retry buffer: its sequence number, the peer it goes to, the shares of sends that its flits carry (send, first
byte, bytes), how often it was replayed, whether it is to be sent again, and the headers of its flits (R158, R437). -/
structure FecFrame where
  seq : Nat
  peer : Nat
  again : Bool
  shares : List (Nat × Nat × Nat)
  replays : Nat
  heads : List (BitVec 128)
  deriving DecidableEq, Repr

/-- Whether a port is up (R437). -/
inductive Health where
  | up | degraded | down
  deriving DecidableEq, Repr

/-- The width state of a port (R470, R471). -/
inductive Width where
  | awake | parking | parked | waking
  deriving DecidableEq, Repr

/-- One optical port (R157 to R168, R437, R469 to R472). lit: a control frame of the peer has come in the guard of
this slot, so the switch has set the circuit up; counted: the dark slot is in mismatch; used the payload bytes sent in this
slot; frameEnd the quarter beat on which the last frame ends; announced: the boundary of a change of width is told, change its quarter beat
(R471); attempt the beat on which the lasers were last told to relock; good counts flight measurements in a row within 1,000 beats while a
reopen is under way; unknown: received flits of a type from 6 to 15, dropped; notice: the start, in quarter beats, of the frame that gives a
flit to a notice (R471); filled: the flits of the last frame that are taken. -/
structure Port where
  gen : Nat
  queues : SMap (List Outgoing)
  lit : Bool
  counted : Bool
  used : Nat
  frameEnd : Nat
  peerNarrow : Bool
  fseq : Nat
  retry : List FecFrame
  asked : List Nat
  uncorr : Nat
  replays : Nat
  thresh : Nat
  window : Nat
  winStart : Nat
  fails : Nat
  health : Health
  reopen : Bool
  reopening : Bool
  good : Nat
  mismatch : Nat
  guarddrop : Nat
  flight : Nat
  idle : Nat
  wdepth : Nat
  width : Width
  announced : Bool
  change : Nat
  relocked : Bool
  trigger : Nat
  attempt : Nat
  missed : Bool
  busyAt : Nat
  parks : Nat
  wakes : Nat
  wfail : Nat
  wmax : Nat
  unknown : Nat
  notice : Option Nat
  filled : Nat
  deriving DecidableEq, Repr

/-- What this package has answered to a peer about a write of its: the package, its queue number, the issue number, the address,
and the result code of R333 (R134, R169, R170). -/
structure Told where
  pkg : Nat
  queue : Nat
  issue : Nat
  addr : Nat
  code : Nat
  deriving DecidableEq, Repr

/-- The circuit controller (R159 to R163, R357, R358): commit is the pending table with its rotation; told holds the answers to the
sends of peers, in their order. -/
structure Circ where
  joined : Bool
  pkg : Nat
  active : CTable
  staged : Option CTable
  commit : Option (CTable × Nat)
  wordsSent : Bool
  offsets : Nat
  outOfTime : Bool
  ports : SMap Port
  told : List Told
  deriving DecidableEq, Repr

/-! ## Collectives -/

/-- A staging buffer with its deposit descriptor (R172, R173): own operand count n, chunks first to first + count - 1,
mode, form, the result extent and offset, the status address; operands by chunk, chunks written, failure, flags; sync: the
sync word that counts the result's bytes (R329); left: its writes that are out; code: the status with which the run ends; ending:
0 while it runs, 1 while its status word is written, 2 while its counter is (R174, R344). -/
structure Buf where
  handle : Nat
  seq : Nat
  n : Nat
  first : Nat
  count : Nat
  mode : Nat
  form : Nat
  base : Base
  result : Nat
  status : Nat
  core : Nat
  task : Nat
  ops : SMap (List (BitVec 4096))
  written : SMap Bool
  failed : Bool
  flags : BitVec 5
  sync : Option Nat
  left : Nat
  code : Option Nat
  ending : Nat
  deriving DecidableEq, Repr

/-- The staging of both optical engine dies, by 128 die + index; the highest aborted seq of each handle plus one; and
packets dropped (R171 to R174). -/
structure Coll where
  bufs : SMap (Option Buf)
  aborted : SMap Nat
  dropped : Nat
  deriving DecidableEq, Repr

/-! ## Die-to-sill modules -/

/-- A unit of a flit (R386): a parcel with its 64 bytes, done with the last unit of its access; a block of a station's deposit; or a
block that a station reads, with the entry and rotation of the read. A block's tag is its unit's. -/
inductive FUnit where
  | parcel (p : Parcel) (done : Bool) (bytes : BitVec 512)
  | deposit (acc : Nat) (b : Blk)
  | read (key : Nat) (b : Blk)
  deriving DecidableEq, Repr

/-- A flit of a module (R386): sequence number, units (none when idle), ack, nack with its retrain bit, and the quarter beat on
which it starts. -/
structure UFlit where
  seq : BitVec 8
  idle : Bool
  units : List FUnit
  ack : Option (BitVec 8)
  nack : Option Bool
  start : Nat
  deriving DecidableEq, Repr

/-- One direction of a module: the units that wait for a flit, the sender's next number and held flits, the flits sent and not yet
received, the receiver's expected number, outstanding nack and failures of the window, and the quarter beat from which the next
flit may start (R386 to R389). -/
structure Lane where
  waiting : List FUnit
  next : BitVec 8
  held : List UFlit
  wire : List UFlit
  expected : BitVec 8
  nackOut : Option Bool
  fails : Nat
  free : Nat
  deriving DecidableEq, Repr

/-- A die-to-sill module with its health register (R389, R436). -/
structure Module where
  up : Lane
  down : Lane
  crcfail : Nat
  replays : Nat
  retrains : Nat
  thresh : Nat
  window : Nat
  winStart : Nat
  retrainTill : Option Nat
  dead : Bool
  width : Nat
  deriving DecidableEq, Repr

/-! ## Migration, update, attestation, temperature -/

/-- A typed state record in clear (R480): type, whether required, the features that its body needs, and the body. -/
structure TypedRec where
  kind : Nat
  required : Bool
  needs : Word
  body : List Word
  deriving DecidableEq, Repr

/-- The pre-copy engine (R473 to R477, R482, R483). pending: records sent and not acknowledged, by sequence number,
with the granule each holds; seen: accepted numbers of the window; got: the typed records of a
sequence under way; taken: the snapshot of the dirty bit of the entry at pos, once it is made; part: the blocks of that
entry that are read (R475). -/
structure Mig where
  mlist : Nat
  mcount : Nat
  mpeer : Nat
  msess : W32
  key : Option (BitVec 256)
  keyBuf : SMap Word
  owner : Nat
  recv : Bool
  full : Bool
  busy : Bool
  abort : Bool
  aborted : Bool
  pos : Nat
  seq : Nat
  pending : List (Nat × Nat)
  high : Nat
  seen : List Nat
  sent : Nat
  refused : Nat
  result : Nat
  go : Bool
  imp : Bool
  slot : Nat
  die : Nat
  mxdesc : Nat
  got : List TypedRec
  outbox : List StateRec
  granules : List GranuleRec
  taken : Option Bool
  part : List Blk
  deriving DecidableEq, Repr

/-- The state of a staged update (R485). -/
inductive UpState where
  | idle | busy | verified | installed
  deriving DecidableEq, Repr

/-- Attestation, update, power and temperature (R464, R466 to R468, R484, R485). qgo: a quote waits for its signature; installing: a flash write
is under way. -/
structure Fleet where
  nonce : SMap Word
  qdone : Bool
  qgo : Bool
  quote : List Word
  qsig : BitVec 768
  upStatus : UpState
  upResult : Nat
  window : SMap Byte
  installing : Bool
  plimit : Nat
  twarn : Nat
  tcrit : Nat
  tstate : Nat
  temps : SMap Nat
  tmax : SMap Nat
  deriving DecidableEq, Repr

/-- The default table of a domain (R160): one slot of 12,500 beats, every port closed. -/
def CTable.default : CTable := ⟨[12500], [], 0⟩
/-- A port at reset (R160, R437, R470). -/
def Port.rest : Port :=
  ⟨0, [], false, false, 0, 0, false, 0, [], [], 0, 0, 16, 0x80, 0, 0, .up, false, false, 0, 0, 0, 0, 0, 256, .awake, false, 0,
    false, 0, 0, false, 0, 0, 0, 0, 0, 0, none, 0⟩
/-- No circuits: the package has joined no domain. -/
def Circ.rest : Circ := ⟨false, 0, CTable.default, none, none, false, 0, false, [], []⟩
/-- No collective under way. -/
def Coll.rest : Coll := ⟨[], [], 0⟩
/-- A direction that has carried nothing (log 1). -/
def Lane.rest : Lane := ⟨[], 0, [], [], 0, none, 0, 0⟩
/-- A module at reset (R436). -/
def Module.rest : Module := ⟨Lane.rest, Lane.rest, 0, 0, 0, 8, 0x400, 0, none, false, 0⟩
/-- The pre-copy engine at rest. -/
def Mig.rest : Mig :=
  ⟨0, 0, 0, 0, none, [], 0, false, false, false, false, false, 0, 0, [], 0, [], 0, 0, 0, false, false, 0, 0, 0, [], [],
    [], none, []⟩
/-- Reset values of R466, R484 and R485. -/
def Fleet.rest : Fleet := ⟨[], false, false, [], 0, .idle, 0, [], false, 16000, 95, 105, 0, [], []⟩

/-! ## The machine -/

/-- The whole package. limbo: the pins of tasks that have ended with accesses out (R459). -/
structure State where
  beat : Nat
  turn : Turn
  free : Nat
  nextId : Nat
  cores : SMap Core
  dies : SMap Die
  mem : Mem
  accs : SMap (Option Access)
  tasks : SMap (Option Task)
  limbo : List (Nat × List Nat)
  frame : Frame
  groups : SMap Group
  owners : SMap Owner
  images : SMap (Option Image)
  boot : Boot
  cmd : Cmd
  placing : Placing
  node : Node
  ev : Events
  conv : Conv
  circ : Circ
  coll : Coll
  links : SMap Module
  mig : Mig
  fleet : Fleet
  deriving DecidableEq, Repr

/-- The machine right after power-on: every field at the value the spec states for reset, and where the spec states
none, at zero or empty (log 1). -/
def State.reset : State where
  beat := 0
  turn := ⟨[], 0, .c⟩
  free := 0
  nextId := 1
  cores := []
  dies := []
  mem := Mem.rest
  accs := []
  tasks := []
  limbo := []
  frame := Frame.rest
  groups := []
  owners := []
  images := []
  boot := Boot.rest
  cmd := Cmd.rest
  placing := Placing.rest
  node := Node.rest
  ev := Events.rest
  conv := Conv.rest
  circ := Circ.rest
  coll := Coll.rest
  links := []
  mig := Mig.rest
  fleet := Fleet.rest

end Sys2Proof.Machine
end

