-- ==== Sys2Proof/Machine/Get.lean ====
section
/-!
DEFINITION. Reading and writing one entry of each table of the state, the numbers that name the parts of the
package (R15, R137), and the free values.
-/

namespace Sys2Proof

/-- The number of an engine stream in tables of engines: L 0, A 1, S 2, M 3, X 4. -/
def Stream.idx : Stream → Nat
  | .c => 5
  | .l => 0
  | .a => 1
  | .s => 2
  | .m => 3
  | .x => 4

end Sys2Proof

namespace Sys2Proof.Machine

/-! ## Entries of the tables -/

/-- Core n. -/
def State.coreAt (s : State) (n : Nat) : Core := mget Core.rest s.cores n
/-- Core n replaced. -/
def State.setCore (s : State) (n : Nat) (k : Core) : State := { s with cores := mset Core.rest s.cores n k }
/-- Core n changed by f. -/
def State.onCore (s : State) (n : Nat) (f : Core → Core) : State := s.setCore n (f (s.coreAt n))
/-- Compute die d. -/
def State.dieAt (s : State) (d : Nat) : Die := mget Die.rest s.dies d
/-- Compute die d replaced. -/
def State.setDie (s : State) (d : Nat) (x : Die) : State := { s with dies := mset Die.rest s.dies d x }
/-- Compute die d changed by f. -/
def State.onDie (s : State) (d : Nat) (f : Die → Die) : State := s.setDie d (f (s.dieAt d))
/-- Owner o. -/
def State.ownerAt (s : State) (o : Nat) : Owner := mget Owner.rest s.owners o
/-- Owner o changed by f. -/
def State.onOwner (s : State) (o : Nat) (f : Owner → Owner) : State :=
  { s with owners := mset Owner.rest s.owners o (f (s.ownerAt o)) }
/-- Task t, if there is one. -/
def State.taskAt (s : State) (t : Nat) : Option Task := mget none s.tasks t
/-- Task t written. -/
def State.setTask (s : State) (t : Nat) (x : Option Task) : State := { s with tasks := mset none s.tasks t x }
/-- Task t changed by f, if there is one. -/
def State.onTask (s : State) (t : Nat) (f : Task → Task) : State := s.setTask t ((s.taskAt t).map f)
/-- Access a, if it is not complete. -/
def State.accAt (s : State) (a : Nat) : Option Access := mget none s.accs a
/-- Access a written. -/
def State.setAcc (s : State) (a : Nat) (x : Option Access) : State := { s with accs := mset none s.accs a x }
/-- Access a changed by f, if there is one. -/
def State.onAcc (s : State) (a : Nat) (f : Access → Access) : State := s.setAcc a ((s.accAt a).map f)
/-- Group g. -/
def State.groupAt (s : State) (g : Nat) : Group := mget Group.rest s.groups g
/-- Group g replaced. -/
def State.setGroup (s : State) (g : Nat) (x : Group) : State := { s with groups := mset Group.rest s.groups g x }
/-- Storage changed by f. -/
def State.onMem (s : State) (f : Mem → Mem) : State := { s with mem := f s.mem }
/-- The conveyor changed by f. -/
def State.onConv (s : State) (f : Conv → Conv) : State := { s with conv := f s.conv }

/-- The core whose stream makes the current move. -/
def State.here (s : State) : Core := s.coreAt s.turn.core
/-- That core changed by f. -/
def State.onHere (s : State) (f : Core → Core) : State := s.onCore s.turn.core f
/-- Its control stream changed by f. -/
def State.onCtl (s : State) (f : Ctl → Ctl) : State := s.onHere fun k => { k with c := f k.c }

/-- The engine stream of a number. -/
def streamOf : Nat → Stream
  | 0 => .l
  | 1 => .a
  | 2 => .s
  | 3 => .m
  | 4 => .x
  | _ => .c

/-- Engine stream e of a core. -/
def Core.eng (k : Core) (e : Stream) : Eng := mget Eng.rest k.ve.engs (e.idx)
/-- Engine stream e of a core changed by f. -/
def Core.onEng (k : Core) (e : Stream) (f : Eng → Eng) : Core :=
  { k with ve := { k.ve with engs := mset Eng.rest k.ve.engs (e.idx) (f (k.eng e)) } }
/-- The jobs of stream e. -/
def Core.jobsOf (k : Core) (e : Stream) : List Job := k.ve.jobs.filter (fun j => j.eng == e)
/-- The jobs of a core changed by f. -/
def Core.onJobs (k : Core) (f : List Job → List Job) : Core := { k with ve := { k.ve with jobs := f k.ve.jobs } }

/-! ## Numbers (R15, R137) -/

/-- The compute die of package core n. -/
def dieOf (n : Nat) : Nat := n / 24
/-- The die-local index of package core n. -/
def localOf (n : Nat) : Nat := n % 24
/-- The quad of package core n within its die. -/
def quadOf (n : Nat) : Nat := n % 24 / 4
/-- The core of quad q of die d with index k within the quad. -/
def coreNo (d q k : Nat) : Nat := 24 * d + 4 * q + k
/-- The position of a mortise's station (R137). -/
def posOf (m : Nat) : Nat :=
  if m < 8 then 8 * m
  else if m < 24 then 8 * ((m - 8) / 2) + (if (m - 8) % 2 = 0 then 2 else 4)
  else if m = 24 then 6 else if m = 26 then 22 else if m = 25 then 38 else 54
/-- The mortise whose station stands at position p, if there is one. -/
def mortAt (p : Nat) : Option Nat := (List.range 28).find? (fun m => posOf m == p)

/-! ## Bits of words -/

/-- Bits [lo+n-1:lo] of a word as a number. -/
def bitsOf {w : Nat} (x : BitVec w) (lo n : Nat) : Nat := (x.extractLsb' lo n).toNat
/-- A number as a 64-bit word, modulo 2^64. -/
def w64 (n : Nat) : Word := BitVec.ofNat 64 n
/-- A truth value as the word 1 or 0. -/
def wBool (b : Bool) : Word := if b then 1 else 0
/-- The low n bits of v sign-extended to 64 bits (R196). -/
def sextW (v : Word) (n : Nat) : Word := (BitVec.ofNat n v.toNat).signExtend 64
/-- The low n bits of v (R196). -/
def zextW (v : Word) (n : Nat) : Word := (BitVec.ofNat n v.toNat).setWidth 64
/-- 2^64 - n: the refusal codes of the spec. -/
def neg64 (n : Nat) : Word := BitVec.ofNat 64 (2 ^ 64 - n)

/-! ## Free values (log 2, log 6) -/

/-- One draw from the free order: a number, and the state with the counter advanced. -/
def State.draw (s : State) : Nat × State := (Config.schedule s.free, { s with free := s.free + 1 })
/-- The next number for an access, job, binding or task. -/
def State.fresh (s : State) : Nat × State := (s.nextId, { s with nextId := s.nextId + 1 })

/-- Whether feature bit b is accepted and in force (R412, R413). -/
def State.feature (s : State) (b : Nat) : Bool := s.boot.go && s.boot.accepted.getLsbD b

/-- The owner of the task placed on core n; 0 when none is (R16). -/
def State.ownerOn (s : State) (n : Nat) : Nat :=
  match (s.coreAt n).pl.task with
  | none => 0
  | some t => match s.taskAt t with
    | none => 0
    | some x => x.owner

/-- The task number on core n, 0 when none is. -/
def State.taskNo (s : State) (n : Nat) : Nat := ((s.coreAt n).pl.task).getD 0

end Sys2Proof.Machine
end

