-- ==== Sys2Proof/Machine/Mem.lean ====
section
/-!
DEFINITION. Storage: the storage address of a place, bytes, little-endian words, blocks with their tags, valid
bits, keys and uncorrectable blocks (03_numbers.md R66 to R70; 04_memory.md R95 to R117).
-/

namespace Sys2Proof

/-- Byte k of a block. -/
def Blk.byte (b : Blk) (k : Nat) : Byte := b.data.extractLsb' (8 * k) 8
/-- n bytes of a block from byte k, as a little-endian value. -/
def Blk.nat (b : Blk) (k n : Nat) : Nat := b.data.toNat / 2 ^ (8 * k) % 2 ^ (8 * n)
/-- 64-bit word i of a block. -/
def Blk.word (b : Blk) (i : Nat) : Word := b.data.extractLsb' (64 * i) 64
/-- A block with n bytes from byte k replaced by the low bytes of v. -/
def Blk.patch (b : Blk) (k n v : Nat) : Blk :=
  let x := b.data.toNat
  let lo := x % 2 ^ (8 * k)
  let hi := x / 2 ^ (8 * (k + n))
  ⟨BitVec.ofNat 512 (lo + 2 ^ (8 * k) * (v % 2 ^ (8 * n) + 2 ^ (8 * n) * hi)), b.tag⟩
/-- Quarter q of a vector, with its tag (R26, R66). -/
def Vec.quarter (v : Vec) (q : Nat) : Blk := ⟨v.data.extractLsb' (512 * q) 512, v.tags.extractLsb' (16 * q) 16⟩
end Sys2Proof

namespace Sys2Proof.Machine

/-! ## Places -/

/-- The storage address of a place: HBM by physical address, then the shared memories, then the scratchpads. A
location of a peer package is not stored here. From 2^43 on stand the rows of home slices in which the active tables place no
granule (R430): row r of slice h at 2^43 + 4096 (2^19 h + r). -/
def storeAddr : Loc → Nat
  | .hbm p => p
  | .dsm d o => 2 ^ 40 + d * 2 ^ 26 + o
  | .scr n o => 2 ^ 41 + n * 2 ^ 22 + o
  | .peer _ _ _ => 2 ^ 42

/-- The place k bytes further on. -/
def Loc.plus (l : Loc) (k : Nat) : Loc :=
  match l with
  | .scr n o => .scr n (o + k)
  | .dsm d o => .dsm d (o + k)
  | .hbm p => .hbm (p + k)
  | .peer g w a => .peer g w (a + k)

/-- The block of a place: the number of its 64 storage bytes. -/
def blkOf (l : Loc) : Nat := storeAddr l / 64
/-- The byte of its block that a place names. -/
def inBlk (l : Loc) : Nat := storeAddr l % 64
/-- Whether a storage block number lies in HBM. -/
def isHbmBlk (b : Nat) : Bool := decide (b < 2 ^ 34) || decide (2 ^ 37 ≤ b)
/-- Whether a storage block number lies in a scratchpad. -/
def isScrBlk (b : Nat) : Bool := decide (2 ^ 35 ≤ b) && decide (b < 2 ^ 36)

/-! ## Bytes -/

/-- The byte at a storage address; an address that is not listed reads 0 (log 1, log 8). -/
def Mem.byte (m : Mem) (a : Nat) : Byte := mget 0 m.bytes a
/-- The byte at a storage address written. -/
def Mem.setByte (m : Mem) (a : Nat) (b : Byte) : Mem := { m with bytes := mset 0 m.bytes a b }
/-- n bytes from a storage address. -/
def Mem.read (m : Mem) (a n : Nat) : List Byte := mgetList 0 m.bytes a n
/-- Bytes written from a storage address. -/
def Mem.write (m : Mem) (a : Nat) (bs : List Byte) : Mem := { m with bytes := msetList 0 m.bytes a bs }

/-- The little-endian value of bytes, lowest address first (R4). -/
def leNat : List Byte → Nat
  | [] => 0
  | b :: t => b.toNat + 256 * leNat t
/-- The n little-endian bytes of a value (R4). -/
def leBytes : Nat → Nat → List Byte
  | _, 0 => []
  | v, n + 1 => BitVec.ofNat 8 v :: leBytes (v / 256) n

/-- A block of bytes. -/
def blkOfBytes (bs : List Byte) (t : Tag) : Blk := ⟨BitVec.ofNat 512 (leNat bs), t⟩
/-- The format code of a tag (R66). -/
def tagFmt (t : Tag) : Nat := bitsOf t 8 8
/-- The scale byte of a tag (R66). -/
def tagScale (t : Tag) : Nat := bitsOf t 0 8
/-- A tag of a format and a scale (R66). -/
def mkTag (f s : Nat) : Tag := BitVec.ofNat 16 (256 * f + s)
/-- Whether a format uses a scale (R67). -/
def fmtScaled (f : Nat) : Bool := f == 1 || (5 ≤ f && f ≤ 8)
/-- Whether a tag is one that a read accepts (R69); codes 0xF0 and 0xF1 need feature 1 (R412). -/
def tagOk (cells : Bool) (t : Tag) : Bool :=
  let f := tagFmt t
  (f ≤ 8 || f == 0x10 || (cells && (f == 0xF0 || f == 0xF1))) && !(fmtScaled f && tagScale t == 255)

/-! ## Blocks -/

/-- The stored bytes of block b, in clear. -/
def Mem.rawBlk (m : Mem) (b : Nat) : Blk := ⟨BitVec.ofNat 512 (leNat (m.read (64 * b) 64)), mget 0 m.tags b⟩
/-- The key that block b was last written under; none where no owner has written it (R115). -/
def Mem.keyAt (m : Mem) (b : Nat) : Option (BitVec 512) :=
  match mget none m.keys b with
  | some k => some k
  | none => (m.areas.find? fun e => decide (e.1 ≤ b) && decide (b < e.1 + e.2.1)).map fun e => e.2.2
/-- The runs of blocks without n of them from lo on. -/
def cutAreas (lo n : Nat) (l : List (Nat × Nat × BitVec 512)) : List (Nat × Nat × BitVec 512) :=
  l.flatMap fun e =>
    (if e.1 < lo then [(e.1, min e.2.1 (lo - e.1), e.2.2)] else []) ++
      if lo + n < e.1 + e.2.1 then [(max e.1 (lo + n), e.1 + e.2.1 - max e.1 (lo + n), e.2.2)] else []
/-- What an access under a key reads block b as: scratchpads are not encrypted; elsewhere a block that was written
under another key or tweak, or under none, reads as unrelated bytes (R102, R104, R115). -/
def Mem.blkUnder (m : Mem) (key : BitVec 512) (b : Nat) : Blk :=
  let r := m.rawBlk b
  if isScrBlk b || (m.keyAt b == some key && mget none m.tweaks b == none) then r
  else ⟨Config.foreign key (m.keyAt b) b r.data, r.tag⟩
/-- A whole block written under a key, with its tag; it is then correctable, all its words are valid, and its
granule of HBM is dirty (R70, R100, R108, R117). -/
def Mem.putBlk (m : Mem) (key : BitVec 512) (b : Nat) (x : Blk) : Mem :=
  { m with
    bytes := msetList 0 m.bytes (64 * b) (leBytes x.data.toNat 64)
    tags := mset 0 m.tags b x.tag
    keys := if isScrBlk b then m.keys else mset none m.keys b (some key)
    tweaks := if isScrBlk b then m.tweaks else mset none m.tweaks b none
    bad := mset false m.bad b false
    valid := if isScrBlk b then msetList false m.valid (16 * b) (List.replicate 16 true) else m.valid
    dirty := if isHbmBlk b then mset false m.dirty (b / 64) true else m.dirty }
/-- The words of block b that n bytes from byte k touch. -/
def wordsTouched (b k n : Nat) : List Nat := if n = 0 then [] else upFrom (16 * b + k / 4) ((k + n - 1) / 4 - k / 4 + 1)
/-- In a scratchpad, the bytes of words that a write of n bytes at byte k of block b touches and whose valid bits
are clear read as zero (R100). -/
def Mem.cleanBlk (m : Mem) (b k n : Nat) (x : Blk) : Blk :=
  if isScrBlk b then
    (wordsTouched b k n).foldl (fun y w => if mget false m.valid w then y else y.patch (4 * (w % 16)) 4 0) x
  else x
/-- n bytes from byte k of block b written under a key, less than the whole block: the other bytes and the tag
stay (R70, R100, R107, R108). -/
def Mem.patchBlk (m : Mem) (key : BitVec 512) (b k n v : Nat) : Mem :=
  let x := (m.cleanBlk b k n (m.blkUnder key b)).patch k n v
  { m with
    bytes := msetList 0 m.bytes (64 * b) (leBytes x.data.toNat 64)
    keys := if isScrBlk b then m.keys else mset none m.keys b (some key)
    tweaks := if isScrBlk b then m.tweaks else mset none m.tweaks b none
    valid := if isScrBlk b then (wordsTouched b k n).foldl (fun v w => mset false v w true) m.valid else m.valid
    dirty := if isHbmBlk b then mset false m.dirty (b / 64) true else m.dirty }
/-- Whether every word that n bytes from byte k of block b touch is valid. -/
def Mem.allValid (m : Mem) (b k n : Nat) : Bool := (wordsTouched b k n).all (mget false m.valid)
/-- The first word that n bytes from byte k of block b touch and that is not valid. -/
def Mem.firstInvalid (m : Mem) (b k n : Nat) : Option Nat := (wordsTouched b k n).find? (fun w => !mget false m.valid w)
/-- A scratchpad block as a read sees it in warn mode: invalid words read as zero (R100). -/
def Mem.maskedBlk (m : Mem) (b : Nat) (x : Blk) : Blk := m.cleanBlk b 0 64 x

/-! ## Runs of blocks -/

/-- The entries of a table whose keys lie in [lo, lo + n), with keys counted from lo. -/
def mslice {α : Type} (m : SMap α) (lo n : Nat) : SMap α :=
  (m.filter fun e => lo ≤ e.1 && e.1 < lo + n).map fun e => (e.1 - lo, e.2)
/-- Those entries put in place of what the range held. -/
def msplice {α : Type} (m : SMap α) (lo n : Nat) (x : SMap α) : SMap α :=
  (m.filter fun e => e.1 < lo) ++ (x.map fun e => (e.1 + lo, e.2)) ++ m.filter fun e => lo + n ≤ e.1

/-- A table of n bytes made of bytes and of bits of bytes. -/
def cellTable (n : Nat) (l : List (Nat × Byte)) : List Host.Cell :=
  l.foldl (fun m e => if e.1 < n then mset 0 m e.1 (mget 0 m e.1 ||| e.2) else m) []
/-- The bytes of a table of words of k bytes. -/
def wordBytes {w : Nat} (k : Nat) (m : SMap (BitVec w)) : List (Nat × Byte) :=
  m.flatMap fun e => (List.range k).map fun i => (k * e.1 + i, e.2.extractLsb' (8 * i) 8)
/-- The bytes of a table of bits. -/
def bitBytes (m : SMap Bool) : List (Nat × Byte) := m.map fun e => (e.1 / 8, if e.2 then 1#8 <<< (e.1 % 8) else 0)
/-- A table of n words of k bytes read from bytes. -/
def wordTable (w n k : Nat) (l : List Host.Cell) : SMap (BitVec w) :=
  l.foldl (fun (m : SMap (BitVec w)) e =>
    let x : BitVec w := mget 0 m (e.1 / k)
    let y : BitVec w := (e.2.setWidth w).shiftLeft (8 * (e.1 % k))
    if e.1 / k < n then mset 0 m (e.1 / k) (x ||| y) else m) []
/-- A table of n bits read from bytes. -/
def bitTable (n : Nat) (l : List Host.Cell) : SMap Bool :=
  (l.flatMap fun e => (List.range 8).map fun i => (8 * e.1 + i, e.2.getLsbD i)).foldl
    (fun m e => if e.1 < n then mset false m e.1 e.2 else m) []

/-- The granules of blocks lo to lo + n - 1 are dirty (R108). -/
def Mem.soil (m : Mem) (lo n : Nat) : Mem :=
  let k := (lo + n + 63) / 64 - lo / 64
  { m with dirty := msplice m.dirty (lo / 64) k ((List.range k).map fun g => (g, true)) }
/-- Blocks lo to lo + n - 1 of HBM written whole under a key: the bytes, counted from the first of them, with the others 0, and
raw tags (R70, R108, R115, R117). -/
def Mem.putArea (m : Mem) (key : BitVec 512) (lo n : Nat) (cells : List Host.Cell) : Mem :=
  let within := m.areas.any fun e => decide (e.1 ≤ lo) && decide (lo + n ≤ e.1 + e.2.1) && e.2.2 == key
  Mem.soil
    { m with
      bytes := msplice m.bytes (64 * lo) (64 * n) cells
      tags := mclear m.tags lo n
      keys := mclear m.keys lo n
      tweaks := mclear m.tweaks lo n
      areas := if within then m.areas else (lo, n, key) :: cutAreas lo n m.areas
      bad := mclear m.bad lo n } lo n
/-- The bytes of blocks lo to lo + n - 1 of HBM as a key reads them, counted from the first. -/
def Mem.areaBytes (m : Mem) (key : BitVec 512) (lo n : Nat) : List Host.Cell :=
  let own := m.areas.any fun e => decide (e.1 ≤ lo) && decide (lo + n ≤ e.1 + e.2.1) && e.2.2 == key
  if own && (mslice m.keys lo n).all (fun e => e.2 == some key) && (mslice m.tweaks lo n == []) then mslice m.bytes (64 * lo) (64 * n)
  else cellTable (64 * n) ((List.range n).flatMap fun i =>
    ((List.range 64).zip (leBytes (m.blkUnder key (lo + i)).data.toNat 64)).map fun e => (64 * i + e.1, e.2))

/-- Storage is in its canonical form: every table of it lists its keys in rising order, and none with what an unlisted key
reads as. -/
def Memory.wf (m : Mem) : Bool :=
  mwf 0 m.bytes && mwf 0 m.tags && mwf none m.keys && mwf none m.tweaks && mwf false m.bad && mwf false m.valid && mwf false m.dirty

/-- A table of HBM blocks, k entries for each, without its entries. -/
def clearHbm {α : Type} (k : Nat) (m : SMap α) : SMap α := mclear (mclear m 0 (2 ^ 34 * k)) (2 ^ 37 * k) (2 ^ 34 * k)

/-! ## Points of coherence -/

/-- The bank of a shared-memory offset (R103). -/
def bankOf (o : Nat) : Nat := o / 64 % 256

/-- The home slice, numbered 32(m - 8) + slice, and the row of HBM address p under the active tables (R105, R430):
the valid region entry of lowest index that covers the granule, and failing that the interleave; none where the
granule is unplaced. A row without a granule is its own home. -/
def homeOf (t : Placing) (p : Nat) : Option (Nat × Nat) :=
  let gr := p / 4096
  if 2 ^ 31 ≤ gr then some ((gr - 2 ^ 31) / 2 ^ 19, gr % 2 ^ 19) else
  let covers (e : Nat × (Word × Word)) : Bool :=
    e.2.1.getLsbD 63 && decide (bitsOf e.2.1 28 28 ≤ gr) && decide (gr < bitsOf e.2.1 28 28 + bitsOf e.2.1 0 28)
  match t.regions.find? covers with
  | some e => some (32 * bitsOf e.2.2 24 4 + bitsOf e.2.2 19 5, bitsOf e.2.2 0 19 + (gr - bitsOf e.2.1 28 28))
  | none =>
    let d := p / 2 ^ 37
    let g := gr % 2 ^ 25
    match mget 0 t.modes d with
    | 0 => some (32 * (2 * d + g % 2) + g / 2 % 32, g / 64)
    | 1 => if g < 2 ^ 24 then some (32 * (2 * d) + g % 32, g / 32) else none
    | 2 => if g < 2 ^ 24 then some (32 * (2 * d + 1) + g % 32, g / 32) else none
    | _ => none

/-- The mortise of a home slice. -/
def sliceMort (h : Nat) : Nat := 8 + h / 32

/-- The number of a point of coherence: a scratchpad by its core, a bank as 1000 + 256 d + bank, a home slice as
10000 + slice; 20000 for an unplaced granule and 20001 for a peer's (R95). -/
def pocOf (t : Placing) : Loc → Nat
  | .scr n _ => n
  | .dsm d o => 1000 + 256 * d + bankOf o
  | .hbm p => match homeOf t p with
    | some h => 10000 + h.1
    | none => 20000
  | .peer _ _ _ => 20001

/-- How many waiters the list of a point of coherence holds (R275). -/
def waiterRoom (poc : Nat) : Nat := if 10000 ≤ poc then 64 else 16

/-- The mortise at which a place is reached (R15, R105). -/
def mortOf (t : Placing) : Loc → Nat
  | .scr n _ => dieOf n
  | .dsm d _ => d
  | .hbm p => match homeOf t p with
    | some h => sliceMort h.1
    | none => 24
  | .peer _ _ _ => 24

/-- The compute die that logs refusals at a place (R449): its own die, or the die of the near stack. -/
def logDie (t : Placing) : Loc → Nat
  | .scr n _ => dieOf n
  | .dsm d _ => d
  | .hbm p => match homeOf t p with
    | some h => h.1 / 64
    | none => 0
  | .peer _ _ _ => 0

/-- The key of an owner (R115). -/
def State.keyOf (s : State) (o : Nat) : BitVec 512 := (s.ownerAt o).key

end Sys2Proof.Machine
end

