-- ==== Sys2Proof/Machine/Trans.lean ====
section
/-!
DEFINITION. Translation: range entries, the four-level page table, rights, and pins (R96, R111 to R114,
R417 to R422). The model caches no translation (log 10).
-/

namespace Sys2Proof.Machine

/-- An entry that covers an address: where the address leads, the entry's control word, how many bytes of the entry
remain from the address on, and the name of the entry for pins: 2^48 + 64 o + i for range entry i of owner o, else
the physical address of a page entry's control word. -/
structure Hit where
  loc : Loc
  ctl : Word
  room : Nat
  pin : Nat
  deriving DecidableEq, Repr

/-- A lookup's answer: an entry, nothing, a malformed entry with what terr then holds, or the place of a table
word that cannot be read. -/
inductive Found where
  | hit (h : Hit)
  | absent
  | malformed (terr : Word)
  | unreadable (p : Nat)
  deriving DecidableEq, Repr

/-- The kind of a control word: 0 HBM, 1 die shared memory, 2 scratchpad, 3 peer (R417). -/
def ctlKind (c : Word) : Nat := bitsOf c 6 2
/-- How many bytes a kind can name (R418). -/
def kindSpan : Nat → Nat
  | 0 => 2 ^ 40
  | 1 => 8 * 2 ^ 26
  | 2 => 192 * 2 ^ 22
  | _ => 2 ^ 52
/-- The place of a location code (R418). -/
def locOfTarget (c : Word) (t : Nat) : Loc :=
  match ctlKind c with
  | 0 => .hbm t
  | 1 => .dsm (t / 2 ^ 26) (t % 2 ^ 26)
  | 2 => .scr (t / 2 ^ 22) (t % 2 ^ 22)
  | _ => .peer (bitsOf c 40 12) (bitsOf c 36 4) t
/-- The reserved fields of a control word are zero (R417). -/
def ctlOk (c : Word) : Bool :=
  bitsOf c 10 26 == 0 && !c.getLsbD 1 && (ctlKind c == 3 || bitsOf c 36 4 == 0)

/-- A range entry is well formed (R418, R420). -/
def RangeE.ok (r : RangeE) : Bool :=
  bitsOf r.va 52 12 == 0 && bitsOf r.len 52 12 == 0 && r.len != 0 && bitsOf r.len 0 12 == 0 &&
    decide (r.va.toNat + r.len.toNat ≤ 2 ^ 52) && bitsOf r.target 0 12 == 0 &&
    decide (r.target.toNat + r.len.toNat ≤ kindSpan (ctlKind r.ctl)) && ctlOk r.ctl && !r.ctl.getLsbD 9

/-- A valid range entry covers an address. -/
def RangeE.covers (r : RangeE) (va : Nat) : Bool :=
  r.ctl.getLsbD 0 && decide (bitsOf r.va 0 52 ≤ va) && decide (va < bitsOf r.va 0 52 + bitsOf r.len 0 52)

/-- The range entries of an owner, lowest index first. -/
def lookRanges (o : Nat) (va : Nat) : SMap RangeE → Found
  | [] => .absent
  | (i, r) :: t =>
    if r.covers va then
      if r.ok then
        let off := va - r.va.toNat
        .hit ⟨locOfTarget r.ctl (r.target.toNat + off), r.ctl, r.len.toNat - off, 2 ^ 48 + 64 * o + i⟩
      else .malformed (w64 (2 ^ 63 + i + 1))
    else lookRanges o va t

/-- Who counts the errors of a block: its die or its home slice (R464). -/
def State.errorKey (s : State) (l : Loc) : Nat :=
  match l with
  | .dsm d _ => d
  | .scr n _ => dieOf n
  | _ => if 10000 ≤ pocOf s.placing l then pocOf s.placing l else dieOf (pocOf s.placing l)

/-- An error was corrected (R116, R464). -/
def State.countCorr (s : State) (l : Loc) : State :=
  s.onMem fun m => { m with corr := mset 0 m.corr (s.errorKey l) (min (2 ^ 32 - 1) (mget 0 m.corr (s.errorKey l) + 1)) }

/-- An uncorrectable block was found by a read: its die or home slice counts it (R464). -/
def State.countUncorr (s : State) (l : Loc) : State :=
  let key := s.errorKey l
  s.onMem fun m =>
    { m with uncorr := mset 0 m.uncorr key (min 65535 (mget 0 m.uncorr key + 1))
             ulast := if 10000 ≤ key then mset 0 m.ulast key (64 * blkOf l) else m.ulast }

/-- A read that ended with a cause, counted where the cause is an uncorrectable block. -/
def State.countBad (s : State) (c : BitVec 8) (l : Loc) : State := if c = 0x08 then s.countUncorr l else s

/-- A 64-bit word of HBM read under owner 0's key (R414); none where the block is uncorrectable. -/
def State.hbmWord (s : State) (p : Nat) : Option Word :=
  if mget false s.mem.bad (p / 64) then none
  else some ((s.mem.blkUnder (s.keyOf 0) (p / 64)).word (p % 64 / 8))

/-- The walk from a node at a level down: the lowest address bit the level indexes, its index width, and the sizes
of the next node (R419). -/
def walkLevels (s : State) (va : Nat) : List (Nat × Nat × Nat) → Nat → Found
  | [], _ => .absent
  | (sh, bits, nextSize) :: rest, node =>
    let e := node + 16 * (va / 2 ^ sh % 2 ^ bits)
    match s.hbmWord e, s.hbmWord (e + 8) with
    | some t, some c =>
      if !c.getLsbD 0 then .absent
      else if !ctlOk c then .malformed (w64 e)
      else if c.getLsbD 9 then
        if rest == [] || t.toNat % nextSize != 0 || decide (2 ^ 40 < t.toNat + nextSize) then .malformed (w64 e)
        else walkLevels s va rest t.toNat
      else if sh == 39 || t.toNat % 2 ^ sh != 0 || decide (kindSpan (ctlKind c) < t.toNat + 2 ^ sh) then
        .malformed (w64 e)
      else
        let off := va % 2 ^ sh
        .hit ⟨locOfTarget c (t.toNat + off), c, 2 ^ sh - off, e + 8⟩
    | _, _ => .unreadable e

/-- The four levels (R419). -/
def pageLevels : List (Nat × Nat × Nat) := [(39, 13, 8192), (30, 9, 8192), (21, 9, 1024), (15, 6, 1024)]

/-- How far from an address the next valid range entry of an owner starts: beyond it another entry may match. -/
def nextRange (va : Nat) : SMap RangeE → Nat → Nat
  | [], n => n
  | (_, r) :: t, n =>
    let a := bitsOf r.va 0 52
    nextRange va t (if r.ctl.getLsbD 0 && decide (va < a) then min n (a - va) else n)

/-- The entry that translates an address for an owner: the matching range entry of lowest index, failing that the
page table (R96, R419, R420). -/
def State.lookup (s : State) (o va : Nat) : Found :=
  let rs := (s.ownerAt o).ranges
  let f : Found := match lookRanges o va rs with
    | .absent => if (s.ownerAt o).root = 0 then .absent else walkLevels s va pageLevels (s.ownerAt o).root
    | f => f
  match f with
  | .hit h => .hit { h with room := nextRange va rs h.room }
  | f => f

/-- The right that an access needs. -/
inductive Right where
  | read | write | atomic
  deriving DecidableEq, Repr

/-- Whether a control word grants a right (R417). -/
def grants (c : Word) : Right → Bool
  | .read => c.getLsbD 2
  | .write => c.getLsbD 3
  | .atomic => c.getLsbD 4

/-- Causes of R446 that several files raise. -/
def causeNonCanonical : BitVec 8 := 0x00
/-- "translation not present" -/
def causeNotPresent : BitVec 8 := 0x01
/-- "permission" -/
def causePermission : BitVec 8 := 0x02
/-- "scope not permitted" -/
def causeScope : BitVec 8 := 0x03
/-- "misaligned access" -/
def causeMisaligned : BitVec 8 := 0x04
/-- "scratchpad unallocated" -/
def causeUnallocated : BitVec 8 := 0x05
/-- "uninitialised read" -/
def causeUninit : BitVec 8 := 0x06
/-- "bad block tag" -/
def causeBadTag : BitVec 8 := 0x07
/-- "uncorrectable data" -/
def causeUncorrectable : BitVec 8 := 0x08
/-- "remote store refused" -/
def causeRefused : BitVec 8 := 0x35
/-- "feature disabled" -/
def causeFeature : BitVec 8 := 0x53

/-- An address translated for an owner with a right, or the cause of the fault (R96). -/
def State.translate (s : State) (o va : Nat) (r : Right) : Except (BitVec 8) Hit :=
  match s.lookup o va with
  | .hit h => if grants h.ctl r then .ok h else .error causePermission
  | .unreadable _ => .error causeUncorrectable
  | _ => .error causeNotPresent

/-- What a lookup leaves behind: a malformed entry in the owner's terr (R414, R419), a table word that cannot be read in the
count of its home slice (R464). -/
def State.noteLookup (s : State) (o va : Nat) : State :=
  match s.lookup o va with
  | .malformed w => s.onOwner o fun x => { x with terr := w }
  | .unreadable p => s.countUncorr (.hbm p)
  | _ => s

/-- A lookup that ended with a cause leaves that behind. -/
def State.noteCause (s : State) (o va : Nat) (c : BitVec 8) : State := if c = 0x01 ∨ c = 0x08 then s.noteLookup o va else s

/-! ## Bound extents (R111, R113, R268) -/

/-- How far from a place its memory goes on: a shared memory and a scratchpad end (R111). -/
def locRoom : Loc → Option Nat
  | .dsm _ o => some (2 ^ 26 - o)
  | .scr _ o => some (2 ^ 22 - o)
  | _ => none

/-- The pieces that cover an extent, lowest address first, or the lowest faulting address with its cause (R111,
R268). fuel bounds the number of pieces. -/
def State.pieces (s : State) (o : Nat) (rd wr : Bool) : Nat → Nat → Nat → Except (BitVec 8 × Nat) (List Piece)
  | 0, va, _ => .error (causeNotPresent, va)
  | fuel + 1, va, len =>
    if len = 0 then .ok []
    else match s.lookup o va with
      | .hit h =>
        if (rd && !grants h.ctl .read) || (wr && !grants h.ctl .write) then .error (causePermission, va)
        else
          let n := min len (min h.room ((locRoom h.loc).getD h.room))
          match s.pieces o rd wr fuel (va + n) (len - n) with
          | .ok ps => .ok (⟨va, n, h.loc, h.pin⟩ :: ps)
          | .error e => .error e
      | .unreadable _ => .error (causeUncorrectable, va)
      | _ => .error (causeNotPresent, va)

/-- Where a bound address leads (R111, R113): through the pieces resolved at the binding. -/
def Base.locAt (b : Base) (va : Nat) : Option Loc :=
  match b.pieces.find? (fun p => decide (p.va ≤ va) && decide (va < p.va + p.len)) with
  | some p => some (p.loc.plus (va - p.va))
  | none => none

end Sys2Proof.Machine
end

