-- ==== Sys2Proof/Machine/Cells.lean ====
section
/-!
DEFINITION. What happens at a point of coherence beside the bytes: waiters and watches, counters that are waited
for, and face-down cells (R47, R129, R175 to R179, R273, R275 to R278); with the interrupts and rings of the driver
interface that refusals are logged in (R449, R463).
-/

namespace Sys2Proof.Machine

/-! ## Logs -/

/-- An event of an MSI-X vector: while the vector is masked its pending bit is set, else the message is sent (R463, log 177). -/
def State.raiseMsix (s : State) (v : Nat) : State :=
  { s with ev := if s.ev.mask.getLsbD v then { s.ev with msix := s.ev.msix ||| (1#64 <<< v) } else { s.ev with sent := s.ev.sent ++ [v] } }

/-- A record put into a ring of 256 (R56, R449, R450). -/
def Ring.push (r : Ring) (rec : List Word) : Ring := ⟨r.count + 1, mset [] r.recs (r.count % 256) rec⟩
/-- How many records of a ring were overwritten (R56, R449, R450). -/
def Ring.lost (r : Ring) : Nat := r.count - 256

/-- The target word of an inbound-log record: a physical address or a location code (R418, R449). -/
def locCode : Loc → Nat
  | .hbm p => p
  | .dsm d o => d * 2 ^ 26 + o
  | .scr n o => n * 2 ^ 22 + o
  | .peer _ _ a => a

/-- The queue code of an agent's access (R151, R449). -/
def queueCode (a : Agent) (store : Bool) : Nat :=
  match a with
  | .c => if store then 1 else 0
  | .x => if store then 3 else 2
  | .timetable => 4
  | .host => 5
  | .peer => 6
  | _ => if store then 3 else 2

/-- An engine of a core issues the access. -/
def Agent.engine (a : Agent) : Bool := a == .l || a == .s || a == .m || a == .x
/-- A stream of a core issues it. -/
def Agent.stream (a : Agent) : Bool := a == .c || a.engine
/-- The die-local core that an access comes from (R449): a peer's stands in its queue number; none of the host and the stations. -/
def Access.source (a : Access) : Nat :=
  match a.agent with
  | .peer => a.dst / 2 % 24
  | .host => 0
  | .station => 0
  | _ => localOf a.core

/-- A record in the inbound fault log of a die (R449). -/
def State.logInbound (s : State) (d : Nat) (a : Access) (cause : BitVec 8) : State :=
  let r : List Word :=
    [ w64 (((a.orig.map fun b => 64 * b + inBlk a.loc).getD (locCode a.loc)) % 2 ^ 52),
      w64 (a.owner % 16 * 2 ^ 60 + cause.toNat * 2 ^ 52 + queueCode a.agent a.sq * 2 ^ 49
        + a.source * 2 ^ 44 + a.chain % 2 ^ 44),
      w64 (a.issue % 2 ^ 16 * 2 ^ 48), w64 s.beat ]
  (s.onDie d fun x => { x with inbound := x.inbound.push r }).raiseMsix (18 + d)

/-- An entry of the host request log (R409). -/
def State.logHost (s : State) (r : List Word) : State :=
  { s with ev := { s.ev with reqLog := s.ev.reqLog ++ [r] } }.raiseMsix 29

/-- A write that is ignored and logged (R411). -/
def State.badWrite (s : State) (off : Nat) (w : Word) : State :=
  { s with ev := { s.ev with badWrites := s.ev.badWrites ++ [(off, w)] } }

/-- A register write of the host while the device is in recovery, outside what responds there: Unsupported Request (R405, R409). -/
def State.noService (s : State) (off : Nat) : State := s.logHost [w64 s.beat, 1, w64 off, 8]

/-! ## Finishing an access -/

/-- An access is performed and brings back r. -/
def State.finish (s : State) (a : Nat) (r : Res) : State := s.onAcc a fun x => { x with stage := .performed, res := r }

/-- The place of block b's first byte. -/
def locOfBlk (b : Nat) : Loc :=
  let a := 64 * b
  if a < 2 ^ 40 ∨ 2 ^ 43 ≤ a then .hbm a
  else if a < 2 ^ 41 then .dsm ((a - 2 ^ 40) / 2 ^ 26) ((a - 2 ^ 40) % 2 ^ 26)
  else .scr ((a - 2 ^ 41) / 2 ^ 22) ((a - 2 ^ 41) % 2 ^ 22)

/-- The block at a place as an owner's access sees it, invalid words of a scratchpad as zero (R100, R115). -/
def State.seenBlk (s : State) (o : Nat) (l : Loc) : Blk := s.mem.maskedBlk (blkOf l) (s.mem.blkUnder (s.keyOf o) (blkOf l))
/-- The little-endian word of w bytes at a place, as an owner's access sees it. -/
def State.wordAt (s : State) (o : Nat) (l : Loc) (w : Nat) : Nat := (s.seenBlk o l).nat (inBlk l) w

/-- A fault found at a place's point of coherence when its block is read there: the block is uncorrectable, or its
tag is bad (R69, R116, R258). -/
def State.pocFault (s : State) (l : Loc) : Option (BitVec 8) :=
  if mget false s.mem.bad (blkOf l) then some causeUncorrectable
  else if !tagOk (s.feature 1) (mget 0 s.mem.tags (blkOf l)) then some causeBadTag
  else none

/-- In warn mode an uninitialised read counts one warning, and the first word's offset is kept (R100, R101). -/
def Core.countWarn (c : Core) (off : Nat) : Core :=
  { c with cr := { c.cr with spcount := min 65535 (c.cr.spcount + 1)
                             spfirst := if c.cr.spcount = 0 then off % 2 ^ 22 else c.cr.spfirst } }
/-- A read of w bytes at a place by core n's stream, in warn mode: it counts one warning where it meets an invalid word. -/
def State.warnAt (s : State) (n : Nat) (l : Loc) (w : Nat) : State :=
  match l with
  | .scr _ _ => match s.mem.firstInvalid (blkOf l) (inBlk l) w with
    | some k => s.onCore n fun c => c.countWarn (4 * k)
    | none => s
  | _ => s
/-- The same for pieces, each of some bytes, that are one read. -/
def State.warnPieces (s : State) (n : Nat) : List (Loc × Nat) → State
  | [] => s
  | (l, w) :: t => match l, s.mem.firstInvalid (blkOf l) (inBlk l) w with
    | .scr _ _, some _ => s.warnAt n l w
    | _, _ => s.warnPieces n t

/-- A value of w bytes extended to 64 bits (R256, R270, R275). -/
def extW (sx : Bool) (w v : Nat) : Word := if sx then sextW (w64 v) (8 * w) else w64 (v % 2 ^ (8 * w))

/-! ## Waiters and counters -/

/-- The entry that a fired watch leaves in its wake queue (R278). -/
def watchEntry (wake : Bool) (va : Nat) : Word := w64 ((if wake then 2 ^ 63 else 0) + va % 2 ^ 52)

/-- A wait of core x.core ends at its word, by the read that k answers, or with the fault that the read finds (R258, R275). -/
def State.endWait (s : State) (a : Nat) (x : Access) (w : Nat) (r : Res) : State :=
  match s.pocFault x.loc with
  | some c => (s.finish a (.err c)).countBad c x.loc
  | none => (s.warnAt x.core x.loc w).finish a r

/-- Waiter a of a waddr is woken: it reads its word and completes, or its watch fires (R275, R278); a cell loader
parked as a waiter issues its load again (R179). -/
def State.wakeOne (s : State) (wake : Bool) (a : Nat) : State :=
  match s.accAt a with
  | none => s
  | some x => match x.op with
    | .waddr w sx _ none => s.endWait a x w (.val (extW sx w (s.wordAt x.owner x.loc w)))
    | .waddr _ _ _ (some _) => s.finish a (.val (watchEntry wake x.va))
    | _ => s.onAcc a fun y => { y with stage := .arrived }

/-- The waiters of a point of coherence that stand on block b, in park order. -/
def State.waitersOn (s : State) (poc b : Nat) : List Nat :=
  (mget [] s.mem.waiters poc).filter fun a => match s.accAt a with
    | some x => blkOf x.loc == b
    | none => false

/-- The waiters in a list leave the list of their point of coherence. -/
def State.unpark (s : State) (poc : Nat) (l : List Nat) : State :=
  s.onMem fun m => { m with waiters := mmod [] m.waiters poc fun w => w.filter fun a => !l.contains a }

/-- The waiters in a list are woken in order, and their completions leave on consecutive beats (R276). -/
def State.wakeAll (s : State) (wake : Bool) (l : List Nat) : State :=
  l.zipIdx.foldl (fun t e => (t.wakeOne wake e.1).onAcc e.1 fun x => { x with due := s.beat + 1 + e.2 }) s

/-- The sqwait records held at block b whose counters have reached their thresholds, or whose read there finds a fault (R258,
R273). -/
def State.metCounters (s : State) (b : Nat) : List (Nat × Access) :=
  s.accs.filterMap fun e => match e.2 with
    | some x => match x.op with
      | .sqwait t =>
        if x.stage == .parked && blkOf x.loc == b && ((s.pocFault x.loc).isSome || decide (t.toNat ≤ s.wordAt x.owner x.loc 8)) then
          some (e.1, x)
        else none
      | _ => none
    | none => none

/-- The waiting entries that watch a counter in block b, each with its die (R47). -/
def State.watchers (s : State) (b : Nat) : List (Nat × Nat) :=
  s.tasks.filterMap fun e => match e.2 with
    | some t => if t.st == .waiting && t.conds.any (fun c => blkOf c.loc == b) then some (e.1, t.die) else none
    | none => none

/-- What any write performed on block b sets off: every waiter on the block is woken, counters that are waited for
are compared, and watching timetables get their report (R47, R273, R276). -/
def State.touch (s : State) (b : Nat) : State :=
  let poc := pocOf s.placing (locOfBlk b)
  let ws := s.waitersOn poc b
  let s := (s.unpark poc ws).wakeAll false ws
  let s := (s.metCounters b).foldl (fun t a => t.endWait a.1 a.2 8 .none) s
  (s.watchers b).foldl (fun t e => t.onDie e.2 fun d => { d with reports := d.reports ++ [(e.1, t.beat)] }) s

/-- `wake`: up to n waiters whose watched address is the one named, 0 for all, in park order (R276, R277). -/
def State.wakeAt (s : State) (l : Loc) (n : Nat) : State :=
  let poc := pocOf s.placing l
  let ws := (s.waitersOn poc (blkOf l)).filter fun a => match s.accAt a with
    | some x => match x.op with
      | .waddr _ _ _ _ => x.loc == l
      | _ => false
    | none => false
  let ws := if n = 0 then ws else ws.take n
  (s.unpark poc ws).wakeAll true ws

/-! ## Cells (R175 to R179) -/

/-- The failure count of a descriptor (R175). -/
def cellFails (b : Blk) : Nat := b.nat 5 1
/-- The placement rule of a descriptor (R175). -/
def cellPlace (b : Blk) : Nat := bitsOf (b.word 0) 32 2
/-- The named die of a descriptor (R175). -/
def cellDie (b : Blk) : Nat := bitsOf (b.word 0) 34 3
/-- The evaluator image of a descriptor (R175). -/
def cellImage (b : Blk) : Nat := bitsOf (b.word 0) 0 32
/-- The chain recorded in a turning cell (R175). -/
def cellChain (b : Blk) : Nat := bitsOf (b.word 4) 0 44
/-- The depth recorded in a turning cell (R175). -/
def cellDepth (b : Blk) : Nat := bitsOf (b.word 4) 44 4
/-- A descriptor with this failure count, chain and depth, under a tag. -/
def cellWith (b : Blk) (fails chain depth : Nat) (t : Tag) : Blk :=
  let x := (b.patch 5 1 fails).patch 0x20 8 (depth * 2 ^ 44 + chain)
  ⟨x.data, t⟩

/-- An image is registered and its mask holds the owner (R42, R424). -/
def State.imageFor (s : State) (image owner : Nat) : Bool :=
  match mget none s.images image with
  | some i => i.mask.getLsbD owner
  | none => false

/-- The cell waiters of block b, the first waiter first; 0 where the first waiter has left (R179). -/
def State.cellWaiters (s : State) (b : Nat) : List Nat := mget [] s.mem.cellq b
/-- How many cell waiter list entries of a point of coherence are taken (R179). -/
def State.cellListed (s : State) (poc : Nat) : Nat :=
  (s.mem.cellq.filter fun e => pocOf s.placing (locOfBlk e.1) == poc).foldl (fun n e => n + (e.2.length - 1)) 0

/-- A result answers every waiter of cell b in list order; then loaders parked on the block issue again (R179). -/
def State.answerCell (s : State) (b : Nat) (r : Access → Res) : State :=
  let s := (s.cellWaiters b).foldl (fun t a => match t.accAt a with
    | some x => t.finish a (r x)
    | none => t) s
  s.onMem fun m => { m with cellq := mset [] m.cellq b [] }

/-- The key under which block b was last written, for the device's own updates of a cell. -/
def State.cellKey (s : State) (b : Nat) : BitVec 512 := (s.mem.keyAt b).getD 0

/-- A turning cell reverts to face-down with one failure more; its waiters get "evaluation failed", and then the loaders parked on
the block issue again (R177, R179). An uncorrectable one cannot be read to be rewritten and stays as it is (R117). -/
def State.revertCell (s : State) (b : Nat) : State :=
  if mget false s.mem.bad b then (s.countUncorr (locOfBlk b)).answerCell b fun _ => .err 0x41 else
  let x := s.mem.rawBlk b
  let s := s.onMem fun m => m.putBlk (s.cellKey b) b (cellWith x (min 255 (cellFails x + 1)) 0 0 0xF000)
  (s.answerCell b fun _ => .err 0x41).touch b

/-- The home die of a cell (R178). -/
def homeDie : Loc → Nat
  | .hbm p => p / 2 ^ 37
  | .dsm d _ => d
  | .scr n _ => dieOf n
  | .peer _ _ _ => 0

/-- The evaluator of the cell at a place joins the queue of its target die (R178). -/
def State.launchEval (s : State) (a : Access) (b : Blk) : State :=
  let remote := a.agent == .peer || a.agent == .host
  let quad := cellPlace b == 1 && !remote
  let d := if cellPlace b == 2 then cellDie b else if quad then dieOf a.core else homeDie a.loc
  let (t, s) := s.fresh
  let x : Task :=
    { owner := a.owner, image := cellImage b, argbase := w64 (a.va / 64 * 64), rframe := 0, roffset := 0, dl := false,
      dframe := 0, doffset := 0, die := d, conds := [], rdepth := 0, mask := 0, order := 0, st := .ready, row := none,
      lastRow := 0, core := none, chain := a.chain, depth := a.depth + 1, groups := [], arrived := [], slot := none,
      slotWait := none, eval := some ⟨locOfBlk (blkOf a.loc), d, if quad then some (quadOf a.core) else none, b⟩,
      answered := false, late := false, held := 0, due := 0, slice := 0, box := none, bad := none }
  (s.setTask t (some x)).onDie d fun y => { y with evalq := y.evalq ++ [t] }

/-- A block is still to be written by an accepted record of a migration session (R477, log 157). -/
def State.recordComing (s : State) (b : Nat) : Bool :=
  s.accs.any fun e => match e.2 with
    | some x => x.agent == .context && x.sq && blkOf x.loc == b && (x.stage == .queued || x.stage == .arrived)
    | none => false

/-- A load that reaches a face-down or turning cell (R177, R179); n is the loading access. The bytes of the
descriptor are clear to the device whatever key the loader's owner has. A cell of 255 failures is exhausted whatever the depth of its loader
(log 184); a loader that finds no room in either list stays at its point of coherence and comes again (log 185). -/
def State.cellLoad (s : State) (n : Nat) (a : Access) : State :=
  let b := blkOf a.loc
  let x := s.mem.rawBlk b
  if s.recordComing b then s
  else if tagFmt x.tag == 0xF0 then
    if cellFails x == 255 then s.finish n (.err 0x43)
    else if 8 ≤ a.depth then s.finish n (.err 0x42)
    else
      let y := cellWith x (cellFails x) a.chain (a.depth + 1) 0xF100
      let s := s.onMem fun m => { m.putBlk (s.cellKey b) b y with cellq := mset [] m.cellq b [n] }
      let s := s.onAcc n fun z => { z with stage := .parked }
      if s.imageFor (cellImage x) a.owner then s.launchEval a y else s.revertCell b
  else if cellChain x == a.chain then (s.finish n (.err 0x40)).revertCell b
  else
    let poc := pocOf s.placing a.loc
    if s.cellListed poc < waiterRoom poc then
      (s.onAcc n fun z => { z with stage := .parked }).onMem fun m =>
        { m with cellq := mset [] m.cellq b (mget [] m.cellq b ++ [n]) }
    else if (mget [] s.mem.waiters poc).length < waiterRoom poc then
      (s.onAcc n fun z => { z with stage := .parked }).onMem fun m =>
        { m with waiters := mset [] m.waiters poc (mget [] m.waiters poc ++ [n]) }
    else s

/-! ## What the device writes into HBM of itself -/

/-- An operation enters the write queue of a slice: the new queue, or none where it must wait (R106). -/
def wqEnter (q : List WEntry) (blk cls : Nat) : Option (List WEntry) :=
  match q.find? fun e => e.blk == blk with
  | none => if q.length < 64 then some (q ++ [⟨blk, [⟨cls, 1⟩]⟩]) else none
  | some e =>
    let merged : Option (List WOp) := match e.ops.getLast? with
      | some o =>
        if cls ≠ 0 && o.cls == cls then some (e.ops.dropLast ++ [⟨cls, o.n + 1⟩])
        else if e.ops.length < 16 then some (e.ops ++ [⟨cls, 1⟩]) else none
      | none => some [⟨cls, 1⟩]
    merged.map fun ops => q.map fun x => if x.blk = blk then ⟨blk, ops⟩ else x

/-- An operation enters the entries of all its blocks: the new queue, or none where one has no room. -/
def wqEnterAll (q : List WEntry) (cls : Nat) : List Nat → Option (List WEntry)
  | [] => some q
  | b :: t => (wqEnter q b cls).bind fun q => wqEnterAll q cls t

/-- An operation that cannot wait enters the entries of its blocks; where one has no room, the slice has written its entries back
before: the rate of the write-back is open (R106, log 76). -/
def wqForce (q : List WEntry) (cls : Nat) (bs : List Nat) : List WEntry :=
  (wqEnterAll q cls bs).getD ((wqEnterAll [] cls bs).getD [])

/-- The home slice of an HBM location under the active tables. -/
def State.sliceOf (s : State) (l : Loc) : Option Nat :=
  match l with
  | .hbm p => (homeOf s.placing p).map Prod.fst
  | _ => none

/-- An operation on these blocks enters the write queue of a place's home slice. -/
def State.enterWq (s : State) (l : Loc) (cls : Nat) (bs : List Nat) : State :=
  match s.sliceOf l with
  | some h => s.onMem fun m => { m with wq := mset [] m.wq h (wqForce (mget [] m.wq h) cls bs) }
  | none => s

/-- A word of n bytes of HBM that the device writes under owner 0's key: it enters its block's entry, and an uncorrectable block keeps
its contents and its error (R106, R115, R117, log 179). -/
def State.devWrite (s : State) (p n v : Nat) : State :=
  let b := p / 64
  if mget false s.mem.bad b then s.countUncorr (.hbm p)
  else ((s.enterWq (.hbm p) 0 [b]).onMem fun m => m.patchBlk (s.keyOf 0) b (p % 64) n v).touch b

/-- The blocks that a wait or a counter condition stands on, each once. -/
def State.watched (s : State) : List Nat :=
  ((s.accs.filterMap fun e => match e.2 with
    | some x => if x.stage == .parked then some (blkOf x.loc) else none
    | none => none) ++
  s.tasks.flatMap fun e => match e.2 with
    | some t => t.conds.map fun c => blkOf c.loc
    | none => []).eraseDups

/-- Blocks lo to lo + n - 1 of HBM, a run that the device writes whole under a key: their places in the write queue are taken and
given back on the beat, since the rate of the write-back is open (R106, R115, R276, log 179). -/
def State.writeArea (s : State) (key : BitVec 512) (lo n : Nat) (cells : List Host.Cell) : State :=
  (s.watched.filter fun b => decide (lo ≤ b) && decide (b < lo + n)).foldl State.touch (s.onMem fun m => m.putArea key lo n cells)

/-! ## Pins (R112) -/

/-- The pin count of an entry. -/
def State.pinsOf (s : State) (pin : Nat) : Nat :=
  if 2 ^ 48 ≤ pin then
    bitsOf (mget RangeE.rest (s.ownerAt ((pin - 2 ^ 48) / 64)).ranges ((pin - 2 ^ 48) % 64)).ctl 52 12
  else bitsOf ((s.mem.blkUnder (s.keyOf 0) (pin / 64)).word (pin % 64 / 8)) 52 12

/-- A control word with another pin count. -/
def withPins (c : Word) (n : Nat) : Word := w64 (bitsOf c 0 52 + 2 ^ 52 * (n % 4096))

/-- The pin count of an entry changed by f. -/
def State.setPins (s : State) (pin : Nat) (f : Nat → Nat) : State :=
  if 2 ^ 48 ≤ pin then
    s.onOwner ((pin - 2 ^ 48) / 64) fun x =>
      { x with ranges := mmod RangeE.rest x.ranges ((pin - 2 ^ 48) % 64)
                 fun r => { r with ctl := withPins r.ctl (f (bitsOf r.ctl 52 12)) } }
  else
    let c := (s.mem.blkUnder (s.keyOf 0) (pin / 64)).word (pin % 64 / 8)
    s.devWrite pin 8 (withPins c (f (bitsOf c 52 12))).toNat

/-- One pin added to each entry of a list. -/
def State.addPins (s : State) (ps : List Nat) : State := ps.foldl (fun t p => t.setPins p (· + 1)) s
/-- One pin dropped from each entry of a list. -/
def State.dropPins (s : State) (ps : List Nat) : State := ps.foldl (fun t p => t.setPins p (· - 1)) s

end Sys2Proof.Machine
end

