-- ==== Sys2Proof/Machine/Ops.lean ====
section
/-!
DEFINITION. The operations that several families share: leaving groups, leases and bindings, ending a task, the
trap log, taking an exception and returning from one (02_execution.md R57 to R63, 20_drv_traps.md R438 to R450).
-/

namespace Sys2Proof.Machine

/-! ## Hands of the dealer, as far as groups need them (R147, R148, R352) -/

/-- Of changes with their rotations, the one in force at rotation n: the latest not after it, and of two at one
rotation the one accepted later. -/
def inForce {α : Type} (l : List (Nat × α)) (n : Nat) : Option (Nat × α) :=
  l.foldl (fun best e =>
    if e.1 ≤ n then
      match best with
      | some b => if b.1 ≤ e.1 then some e else best
      | none => some e
    else best) none

/-- The handle that owns slot key (64 strand + slot) at a rotation. -/
def Conv.slotOwner (c : Conv) (key n : Nat) : Option Nat := ((inForce (mget [] c.own key) n).map Prod.snd).join
/-- Whether a handle holds a hand at a rotation. -/
def Conv.holdsHand (c : Conv) (handle n : Nat) : Bool :=
  ((inForce (mget [] c.hands handle) n).map Prod.snd).getD false
/-- The slots of a handle's hand at a rotation. -/
def Conv.handSlots (c : Conv) (handle n : Nat) : List Nat :=
  (c.own.filter fun e => c.slotOwner e.1 n == some handle).map Prod.fst
/-- The key of the standing-table entry of a strand, a mortise and a slot. -/
def entryKey (strand mort slot : Nat) : Nat := (strand * 28 + mort) * 64 + slot

/-- Slot key passes to another hand, or to none, at a rotation after n and not after r. -/
def Conv.movesBy (c : Conv) (key n r : Nat) : Bool := (mget [] c.own key).any fun e => decide (n < e.1) && decide (e.1 ≤ r)

/-- The hand of a handle ends at rotation n: its slots return to the best-effort class and its entries become pass, also those
that were to be replaced later (R352). -/
def Conv.endHand (c : Conv) (handle n now : Nat) : Conv :=
  let ks := c.handSlots handle n
  { c with
    own := ks.foldl (fun m k => mset [] m k (mget [] m k ++ [(n, none)])) c.own
    hands := mset [] c.hands handle (mget [] c.hands handle ++ [(n, false)])
    installs := (c.installs.filter fun i =>
        let k := 64 * (i.key / 1792) + i.key % 64
        !(ks.contains k && decide (n ≤ i.rot) && !c.movesBy k n i.rot)) ++
      ks.flatMap fun k => (List.range 24).map fun m => ⟨n, entryKey (k / 64) m (k % 64), 0, now⟩ }

/-! ## Queues of channels (R29, R249) -/

/-- A field names a channel. -/
def chanField (f : BitVec 6) : Bool := f.getLsbD 5
/-- The register or channel number of a field. -/
def fieldNo (f : BitVec 6) : Nat := f.toNat % 32

/-- The queue that channel f of core n is bound to. -/
def State.queueOf (s : State) (n : Nat) (f : BitVec 6) : Option Queue := mget none (s.coreAt n).ch.table (fieldNo f)

/-- The entries of a queue of core n. -/
def State.entries (s : State) (n : Nat) : Queue → List Word
  | .result e => mget [] (s.coreAt n).ch.results e
  | .feed e => mget [] (s.coreAt n).ch.feeds e
  | .copyOut k => mget [] (s.dieAt (dieOf n)).copies k
  | .mailbox => (s.coreAt n).ch.mail
  | .wakeQ q => mget [] (s.coreAt n).ch.wakes q

/-- A queue of core n replaced; a wake queue with room takes the entry that a fired watch has kept (R278). -/
def State.setEntries (s : State) (n : Nat) (q : Queue) (l : List Word) : State :=
  match q with
  | .result e => s.onCore n fun c => { c with ch := { c.ch with results := mset [] c.ch.results e l } }
  | .feed e => s.onCore n fun c => { c with ch := { c.ch with feeds := mset [] c.ch.feeds e l } }
  | .copyOut k => s.onDie (dieOf n) fun d => { d with copies := mset [] d.copies k l }
  | .mailbox => s.onCore n fun c => { c with ch := { c.ch with mail := l } }
  | .wakeQ j => s.onCore n fun c =>
    match c.ch.late.find? (fun e => e.1 == j) with
    | some e =>
      if l.length < 16 then
        { c with ch := { c.ch with wakes := mset [] c.ch.wakes j (l ++ [e.2]), late := c.ch.late.erase e } }
      else { c with ch := { c.ch with wakes := mset [] c.ch.wakes j l } }
    | none => { c with ch := { c.ch with wakes := mset [] c.ch.wakes j l } }

/-! ## Groups (R59 to R61) -/

/-- The members that count as arrived at a group's open generation: a pending pre-empted one holds it open (R61, log 143). -/
def State.arrivals (s : State) (g : Nat) : List Nat :=
  (s.groupAt g).members.filter fun t => match s.taskAt t with
    | some x => x.arrived.contains (g, (s.groupAt g).gen) && x.st == .running
    | none => false

/-- Destinations that a load count l covers are no longer in flight (R183, R262). -/
def Ctl.landed (c : Ctl) (l : Nat) : Ctl := { c with flying := c.flying.filter fun f => decide (c.ldIx ≤ f.ix + l) }

/-- The `gbar` at which core n's control stream stalls completes: its operand is popped, the arrival is used up, what `wait`
would cover has landed, a new epoch begins, and the next instruction may issue on the next beat (R61, R130, R283). -/
def State.passBarrier (s : State) (n g : Nat) (f : BitVec 6) (pop : Bool) : State :=
  let s := match s.queueOf n f with
    | some q => if chanField f && pop then s.setEntries n q ((s.entries n q).drop 1) else s
    | none => s
  (s.onTask (s.taskNo n) fun x => { x with arrived := x.arrived.filter fun e => e.1 != g }).onCore n fun k =>
    { k with c := { k.c.landed 0 with epoch := k.c.epoch + 1, pc := k.c.pc + 1, ready := s.beat + 1, issued := true
                                      evOk := true, cwait := none } }

/-- The waiting members of a group pass, in the order of their cores (R61). -/
def State.passAll (s : State) (g : Nat) : State :=
  s.cores.foldl (fun t e => match e.2.c.cwait.bind CWait.bar with
    | some (h, f, p) => if h = g then t.passBarrier e.1 g f p else t
    | none => t) s

/-- The open barrier generation completes when every current member has arrived: all that wait for it pass (R61). -/
def State.tryBarrier (s : State) (g : Nat) : State :=
  let x := s.groupAt g
  if x.members != [] && (s.arrivals g).length == x.members.length then (s.setGroup g { x with gen := x.gen + 1 }).passAll g
  else s

/-- Task t leaves group g (R59 to R61, R282, R352). -/
def State.leaveGroup (s : State) (t g : Nat) : State :=
  let x := s.groupAt g
  if !x.members.contains t then s
  else
    let s := s.onTask t fun y => { y with groups := y.groups.filter (fun h => h / 256 != g)
                                          arrived := y.arrived.filter (fun e => e.1 != g) }
    let ms := x.members.filter (fun m => m != t)
    if ms == [] then
      let handle := g * 256 + x.inc.toNat
      let s := s.setGroup g { x with st := .quarantine, inc := x.inc + 1, members := [], left := s.beat }
      let n := s.beat / 64 + 2
      let later := ((mget [] s.conv.hands handle).filter fun e => decide (n < e.1)).map Prod.fst
      s.onConv fun c => (n :: later).foldl (fun c r => if c.holdsHand handle r then c.endHand handle r s.beat else c) c
    else (s.setGroup g { x with members := ms }).tryBarrier g

/-- Task t leaves every group it is in (R60). -/
def State.leaveGroups (s : State) (t : Nat) : State :=
  match s.taskAt t with
  | some x => x.groups.foldl (fun u h => u.leaveGroup t (h / 256)) s
  | none => s

/-! ## Leases (R62, R63, R371) -/

/-- The spills that core n has issued and that have not landed. -/
def State.spillsOf (s : State) (n : Nat) : List Nat :=
  (s.accs.filter fun e => match e.2 with
    | some a => a.core == n && a.agent == .c && (a.stage == .queued || a.stage == .arrived) && (match a.op with
      | .spill _ _ => true
      | _ => false)
    | none => false).map Prod.fst

/-- The 256 bytes and tags of vector x written into the scratchpad of core n at offset o; waiters there are woken (R276). -/
def State.putVec (s : State) (n o : Nat) (x : Vec) : State :=
  (List.range 4).foldl (fun t q =>
    let b := blkOf (.scr n (o + 64 * q))
    (t.onMem fun m => m.putBlk 0 b ⟨x.data.extractLsb' (512 * q) 512, x.tags.extractLsb' (16 * q) 16⟩).touch b) s

/-- A spill of core n into slot k lands: in the lessor's register, or in the spill area after revocation (R370). -/
def State.landSpill (s : State) (n k : Nat) (x : Vec) : State :=
  match (s.coreAt n).pl.lease with
  | none => s
  | some l =>
    if l.revoked then s.putVec n (l.area + 256 * k) x
    else
      let s := s.onCore n fun c => { c with pl := { c.pl with lease := some { l with spilled := mset none l.spilled k (some x) } } }
      s.onCore l.lessor fun c => { c with ve := { c.ve with v := mset Vec.zero c.ve.v (l.regs.getD k 0) x } }

/-- What the most recent spill of core n to slot k of its lease wrote, landed or not; none where there was none, or where the slots are in
the spill area by now (R63). -/
def State.slotValue (s : State) (n k : Nat) : Option Vec :=
  let out := (s.spillsOf n).filterMap fun a => match s.accAt a with
    | some x => match x.op with
      | .spill j v => if j = k then some v else none
      | _ => none
    | none => none
  match out.getLast?, (s.coreAt n).pl.lease with
  | some v, _ => some v
  | none, some l => if l.revoked then none else mget none l.spilled k
  | none, none => none

/-- The lent registers of a lease go back to the lessor's vlend (R371). -/
def State.unlend (s : State) (l : Lease) : State :=
  s.onCore l.lessor fun c =>
    { c with
      pl := { c.pl with lent := c.pl.lent.filter fun r => !l.regs.contains r }
      cr := { c.cr with vlend := l.regs.foldl (fun v r => v ||| (1#16 <<< (r - 40))) c.cr.vlend } }

/-- The lease held on core n is revoked: spills already issued land, every slot goes to the spill area, the registers
return to the lessor (R63). A slot holds what its register holds (log 99). -/
def State.revokeLease (s : State) (n : Nat) : State :=
  match (s.coreAt n).pl.lease with
  | none => s
  | some l0 =>
    if l0.revoked then s
    else
      let s := (s.spillsOf n).foldl (fun t a => match t.accAt a with
        | some x => match x.op with
          | .spill k v => (t.landSpill n k v).finish a .none
          | _ => t
        | none => t) s
      let l := ((s.coreAt n).pl.lease).getD l0
      let held := (s.coreAt l.lessor).ve.v
      let s := l.regs.zipIdx.foldl (fun t e => t.putVec n (l.area + 256 * e.2) (mget Vec.zero held e.1)) s
      (s.onCore n fun c => { c with pl := { c.pl with lease := some { l with revoked := true } } }).unlend l

/-- The cores whose lease was granted by core n. -/
def State.lessees (s : State) (n : Nat) : List Nat :=
  (s.cores.filter fun e => match e.2.pl.lease with
    | some l => l.lessor == n && !l.revoked
    | none => false).map Prod.fst

/-- Every lease granted by core n is revoked (R63). -/
def State.revokeLent (s : State) (n : Nat) : State := (s.lessees n).foldl (fun t m => t.revokeLease m) s

/-- The lease held on core n ends without writing back (R63, R371). -/
def State.endLease (s : State) (n : Nat) : State :=
  match (s.coreAt n).pl.lease with
  | none => s
  | some l =>
    let s := if l.revoked then s else s.unlend l
    s.onCore n fun c => { c with pl := { c.pl with lease := none } }

/-! ## Channels and watches (R252, R253, R278) -/

/-- An entry pushed into wake queue q of core n; while the queue is full the watch keeps it (R278). -/
def State.pushWake (s : State) (n q : Nat) (w : Word) : State :=
  s.onCore n fun c =>
    if (mget [] c.ch.wakes q).length < 16 then
      { c with ch := { c.ch with wakes := mset [] c.ch.wakes q (mget [] c.ch.wakes q ++ [w]) } }
    else { c with ch := { c.ch with late := c.ch.late ++ [(q, w)] } }

/-- Every armed watch of core n fires with cause 0 (R278). -/
def State.fireWatches (s : State) (n : Nat) : State :=
  s.accs.foldl (fun t e => match e.2 with
    | some a => if a.core == n && a.agent == .c then match a.op with
        | .waddr _ _ _ (some q) =>
          let t := (t.unpark (pocOf t.placing a.loc) [e.1]).setAcc e.1 none
          match a.res with
          | .val w => t.pushWake n q w
          | _ => t.pushWake n q (watchEntry false a.va)
        | _ => t
      else t
    | none => t) s

/-- The binding of a station copy output ends and its queue is emptied (R252). -/
def State.dropCopyOut (s : State) (die strand : Nat) : State :=
  s.onDie die fun d => { d with copies := mset [] d.copies strand [], binders := mset none d.binders strand none }

/-- Channel c of core n is no longer bound (R252). -/
def State.unbindChan (s : State) (n c : Nat) : State :=
  let s1 := match mget none (s.coreAt n).ch.table c with
    | some (.copyOut k) => s.dropCopyOut (dieOf n) k
    | _ => s
  s1.onCore n fun k => { k with ch := { k.ch with table := mset none k.ch.table c none } }

/-- Every channel binding of core n ends (R253); copiesOnly: only those of station copy outputs, as at pre-emption. -/
def State.unbindAll (s : State) (n : Nat) (copiesOnly : Bool) : State :=
  (s.coreAt n).ch.table.foldl (fun t e => match e.2 with
    | some (.copyOut _) => t.unbindChan n e.1
    | some _ => if copiesOnly then t else t.unbindChan n e.1
    | none => t) s

/-! ## Bindings of tensor bases (R112, R269) -/

/-- Base b of core n is unbound; the binding stays until nothing uses it (R112). -/
def State.unbindBase (s : State) (n b : Nat) : State :=
  s.onCore n fun c =>
    let x := mget Base.rest c.ve.bases b
    if x.extent = 0 then c
    else { c with ve := { c.ve with bases := mset Base.rest c.ve.bases b Base.rest, old := c.ve.old ++ [x] } }

/-- The weight tiles of core n are empty and pin nothing (R36, R339). -/
def State.dropTiles (s : State) (n : Nat) : State :=
  (s.dropPins ((s.coreAt n).mx.wtiles.flatMap fun e => e.2.pins)).onCore n fun c =>
    { c with mx := { c.mx with wtiles := [] } }

/-- Every base of core n is unbound, and every weight tile's source is let go (R112, R339). -/
def State.unbindBases (s : State) (n : Nat) : State :=
  ((List.range 16).foldl (fun t b => t.unbindBase n b) s).dropTiles n

/-! ## The end of a task (R40, R55 to R60, R177, R459) -/

/-- An evaluator that leaves running without a successful `fup` reverts its cell (R177). -/
def State.endEval (s : State) (t : Nat) : State :=
  match s.taskAt t with
  | some x => match x.eval with
    | some e =>
      let b := blkOf e.loc
      let y := s.mem.rawBlk b
      if !x.answered && tagFmt y.tag == 0xF1 && cellChain y == x.chain && cellDepth y == x.depth then s.revertCell b
      else s
    | none => s
  | none => s

/-- The length in force at frame n (R45, R55). -/
def Frame.lenAt (f : Frame) (n : Nat) : Nat :=
  if f.fno ≤ n then f.len else ((f.past.find? fun e => decide (e.1 ≤ n)).map Prod.snd).getD f.len

/-- The slip record of a late task (R56). -/
def State.slipRecord (s : State) (t : Nat) (how : Nat) : State :=
  match s.taskAt t with
  | some x =>
    if x.late then
      let off := min x.doffset (s.frame.lenAt x.dframe - 1)
      let r : List Word :=
        [ w64 x.dframe,
          w64 (off * 2 ^ 32 + how * 2 ^ 30 + x.lastRow * 2 ^ 20 + (x.core.getD 0) * 2 ^ 12 + x.owner * 2 ^ 8),
          w64 s.beat, w64 x.held ]
      (s.onDie x.die fun d => { d with slip := d.slip.push r }).raiseMsix (10 + x.die)
    else s
  | none => s

/-- The lowest free row of a die's timetable (R40). -/
def State.freeRow (s : State) (die : Nat) : Option Nat :=
  let taken := s.tasks.filterMap fun e => match e.2 with
    | some t => if t.die = die then t.row else none
    | none => none
  (List.range 1024).find? fun r => !taken.contains r

/-- A pre-emption request of core n can be taken: its task holds a context slot, and a row is free for it (R40, R452). -/
def State.canPreempt (s : State) (n : Nat) : Bool :=
  (s.coreAt n).pl.preempt && match s.taskAt (s.taskNo n) with
    | some x => x.slot.isSome && (s.freeRow x.die).isSome
    | none => false

/-- The declared reduction depth of the current task. -/
def State.rdepth (s : State) (n : Nat) : Nat := ((s.taskAt (s.taskNo n)).map Task.rdepth).getD 0

/-- An `mret` of core n is issued and not complete. -/
def Core.retiring (c : Core) : Bool :=
  c.ve.jobs.any fun j => match j.work with
    | .mret _ _ _ _ _ _ => true
    | _ => false

/-- M of core n is held at an `mret` under way, where a request stands that can be taken (R326). -/
def State.gateNow (s : State) (n : Nat) : State :=
  if s.canPreempt n && s.rdepth n != 0 && (s.coreAt n).retiring then s.onCore n fun c => { c with mx := { c.mx with gate := true } }
  else s

/-- The lowest free context slot of a die (R453). -/
def State.freeCtxSlot (s : State) (die : Nat) : Option Nat :=
  (List.range (s.dieAt die).cxcount).find? fun k => (mget Slot.rest (s.dieAt die).slots k).holder.isNone

/-- The physical address of a context slot (R451). -/
def Die.slotAddr (d : Die) (k : Nat) : Nat := d.cxbase + k * 2 ^ 24

/-- Task t of a die takes context slot k, which is cleared: its header, with the holder in it, and what lies outside the buffers under owner 0's
key, the buffers under its owner's (R453, R454, log 15). -/
def State.takeSlot (s : State) (t k : Nat) : State :=
  match s.taskAt t with
  | none => s
  | some x =>
    let a := (s.dieAt x.die).slotAddr k
    let s := (s.onTask t fun y => { y with slot := some k, slotWait := none }).onDie x.die fun d =>
      { d with slots := mset Slot.rest d.slots k { Slot.rest with holder := some t } }
    let s := s.writeArea (s.keyOf 0) (a / 64) 0x4000 (cellTable 0x100000 (wordBytes 8 [(2, w64 (x.chain % 2 ^ 44))]))
    let s := s.writeArea (s.keyOf x.owner) (a / 64 + 0x4000) 0x38000 []
    s.writeArea (s.keyOf 0) (a / 64 + 0x3C000) 0x4000 []

/-- The task of a die that has waited longest for a context slot (R453). -/
def State.slotTaker (s : State) (die : Nat) : Option (Nat × Nat) :=
  s.tasks.foldl (fun (b : Option (Nat × Nat)) e => match e.2 with
    | some t => match t.slotWait with
      | some w => if t.die == die && !(b.any fun x => decide (x.2 ≤ w)) then some (e.1, w) else b
      | none => b
    | none => b) none

/-- The task that has waited longest takes the lowest free slot of its die; a request that stands may then be taken (R453). -/
def State.grantSlot (s : State) (die : Nat) : State :=
  match s.freeCtxSlot die, s.slotTaker die with
  | some k, some (t, _) =>
    let s := s.takeSlot t k
    match (s.taskAt t).bind Task.core with
    | some n => s.gateNow n
    | none => s
  | _, _ => s

/-- Free slots go to the tasks that wait, up to n of them (R453). -/
def State.grantSlots (s : State) (die : Nat) : Nat → State
  | 0 => s
  | n + 1 => if (s.freeCtxSlot die).isSome && (s.slotTaker die).isSome then (s.grantSlot die).grantSlots die n else s

/-- The task gives back its context slot, and the task that has waited longest takes it on the same beat (R453). -/
def State.freeSlot (s : State) (t : Nat) : State :=
  match s.taskAt t with
  | some x => match x.slot with
    | some k =>
      ((s.onTask t fun y => { y with slot := none }).onDie x.die fun d =>
        { d with slots := mset Slot.rest d.slots k Slot.rest }).grantSlot x.die
    | none => s
  | none => s

/-- The mailbox, result sides and all other task state of a freed core (R39, R102). -/
def Core.freed (c : Core) : Core :=
  { c with
    c := { Ctl.rest with issues := c.c.issues, ready := c.c.ready }
    tr := { c.tr with events := [] }
    pl := { c.pl with task := none, phase := .free, lease := none, preempt := false } }

/-- The engines of core n stop where they are, and the jobs of its task are dropped; those of a tailed task before it drain on (R58,
R459). -/
def State.stopEngines (s : State) (n : Nat) : State :=
  s.onCore n fun c => { c with ve := { c.ve with engs := [], jobs := c.ve.jobs.filter fun j => c.pl.task != some j.task } }

/-- The ports of a core are unbound and empty (R39, R57). -/
def Core.unbindPorts (c : Core) : Core := { c with ve := { c.ve with ins := [], outs := [] } }

/-- What every task lets go when it leaves its core for good (R57, R60, R63, R253). -/
def State.releaseCore (s : State) (n : Nat) : State :=
  let t := s.taskNo n
  (((((((s.fireWatches n).unbindAll n false).revokeLent n).endLease n).unbindBases n).onCore n Core.unbindPorts).leaveGroups t).endEval t

/-- The pins that the bindings and tiles of a core's task hold, without those that a tailed task before it still uses (R58, R112, R339). -/
def Core.pinList (c : Core) : List Nat :=
  let old := c.ve.old.filter fun b => !(c.ve.jobs.any fun j => c.pl.task != some j.task && j.uses.contains b.uid)
  ((c.ve.bases.map Prod.snd ++ old).flatMap fun b => (b.pieces.map Piece.pin).eraseDups.filter (· != 0)) ++
    c.mx.wtiles.flatMap fun e => e.2.pins

/-- The bindings and tiles of the task on core n are given up, but their pins stay until its abandoned accesses are through (R459). -/
def State.abandonPins (s : State) (n : Nat) : State :=
  let c := s.coreAt n
  let old := c.ve.old.filter fun b => c.ve.jobs.any fun j => c.pl.task != some j.task && j.uses.contains b.uid
  { s with limbo := s.limbo ++ [(s.taskNo n, c.pinList)] }.onCore n fun c =>
    { c with ve := { c.ve with bases := [], old := old }, mx := { c.mx with wtiles := [] } }

/-- The pins of tasks that have ended drop once no access of theirs is out (R459). -/
def State.reapLimbo (s : State) : State :=
  let out (t : Nat) : Bool := s.accs.any fun e => match e.2 with
    | some a => a.agent.stream && a.task == t
    | none => false
  let free := s.limbo.filter fun e => !out e.1
  if free = [] then s
  else free.foldl (fun u e => u.dropPins e.2) { s with limbo := s.limbo.filter fun e => out e.1 }

/-- The wait that C of core n is in ends without it: its waiter, watch or load is withdrawn (R273, R284). -/
def State.withdrawWait (s : State) (n : Nat) : State :=
  match (s.coreAt n).c.cwait with
  | none => s
  | some w =>
    match s.accAt w.acc with
    | some a =>
      let mine := a.agent == Agent.c && a.core == n && (match a.op with
        | .waddr _ _ _ none => true
        | .sqwait _ => true
        | _ => false)
      if mine then
        ((s.unpark (pocOf s.placing a.loc) [w.acc]).setAcc w.acc none).onCore n fun c =>
          { c with c := { c.c with cwait := none, flying := c.c.flying.filter fun f => !(a.lq && f.ix == a.ix) } }
      else s.onCore n fun c => { c with c := { c.c with cwait := none } }
    | none => s.onCore n fun c => { c with c := { c.c with cwait := none } }

/-- A record in the trap log of the die of core n (R450). -/
def State.logTrap (s : State) (n reason : Nat) (hcause : BitVec 8) (tcause : Word) (report : List Word) : State :=
  let (owner, row, chain) := match s.taskAt (s.taskNo n) with
    | some x => (x.owner, x.lastRow, x.chain)
    | none => (0, 0, 0)
  let r : List Word :=
    [ w64 s.beat, w64 (localOf n * 2 ^ 58 + owner * 2 ^ 54 + row * 2 ^ 44 + chain),
      w64 (reason * 2 ^ 24 + hcause.toNat * 2 ^ 16 + tcause.toNat % 2 ^ 16) ] ++ report
  (s.onDie (dieOf n) fun d => { d with trap := d.trap.push r }).raiseMsix (2 + dieOf n)

/-- The task on core n ends failed and the core frees at once; what it has under way is abandoned (R40, R440, R459). -/
def State.failTask (s : State) (n : Nat) : State :=
  let t := s.taskNo n
  let s := (((s.slipRecord t 2).withdrawWait n).abandonPins n).releaseCore n
  let s := (s.freeSlot t).stopEngines n
  ((s.setTask t none).onCore n Core.freed).reapLimbo

/-! ## Taking an exception (R439 to R443) -/

/-- The report of a trap (R443). -/
structure Report where
  kind : Nat
  stream : Nat
  cause : BitVec 8
  pc : BitVec 14
  step : BitVec 13
  resume : BitVec 13
  addr : Word
  info : Word
  walk : Word
  hist : Option Nat
  deriving DecidableEq, Repr

/-- The word tcause of a report (R442). -/
def Report.tcause (r : Report) : Word := w64 (r.stream * 2 ^ 13 + r.kind * 2 ^ 10 + r.cause.toNat)
/-- The word tstep of a report (R441, R443). -/
def Report.tstep (r : Report) : Word := if r.kind = 1 then w64 (r.resume.toNat * 2 ^ 13 + r.step.toNat) else 0

/-- A report as the words of a trap-log record from tpc on (R450). -/
def Report.words (r : Report) : List Word := [w64 r.pc.toNat, r.tstep, r.addr, r.info, r.walk]
/-- The report that core n's handler was entered with, as those words, whatever the handler has written into tpc (R440). -/
def TrapState.words (t : TrapState) : List Word := [w64 t.rpc.toNat, t.tstep, t.taddr, t.tinfo, t.twalk]

/-- Trap entry on core n with report r (R439): the handler registers take the report, the level rises, pc is word 0
of handler memory, and C issues 4 beats later, once every write in flight is complete (R186). At handler level, or
on a die without a handler image, the task fails (R438, R440). -/
def State.enterTrap (s : State) (n : Nat) (r : Report) : State :=
  let c := s.coreAt n
  if c.c.hlevel then (s.logTrap n 1 r.cause c.tr.tcause c.tr.words).failTask n
  else if (s.dieAt (dieOf n)).hvec = 0 then (s.logTrap n 1 0x58 r.tcause r.words).failTask n
  else
    s.setCore n { c with
      c := { c.c with hlevel := true, pc := 0, ready := s.beat + 4, settling := true, cwait := none, evOk := false }
      tr := { c.tr with
        tcause := r.tcause, tpc := r.pc, rpc := r.pc, tstep := r.tstep, taddr := r.addr, tinfo := r.info, twalk := r.walk
        tbeat := w64 s.beat, own := false, fail := false
        restart := if r.kind = 1 then 1#5 <<< (r.stream - 1) else 0
        thsel := (r.hist.map (BitVec.ofNat 6)).getD c.tr.thsel } }

/-- A precise trap of the instruction at pc of the current core, with its word and a faulting address (R443). -/
def State.trapAt (s : State) (cause : BitVec 8) (addr : Nat) : State :=
  let c := s.here
  let w := mget 0 (if c.c.hlevel then (s.dieAt (dieOf s.turn.core)).hmem else c.pl.imem) c.c.pc.toNat
  s.enterTrap s.turn.core ⟨0, 0, cause, c.c.pc, 0, 0, w64 addr, w.setWidth 64, 0, none⟩

/-- A stopped stream goes on: at its faulting step, or at its resume step after a walk fault (R20, R445). -/
def Eng.restart (e : Eng) : Eng :=
  match e.fault with
  | some f => if e.state = .stopped then { e with state := .running, step := f.resume, fault := none, closing := false } else e
  | none => e

/-- Return from the handler of core n (R445): a set tctl.fail ends the task; else the named stopped streams restart,
the level falls, and pc is tpc. -/
def State.leaveTrap (s : State) (n : Nat) : State :=
  let c := s.coreAt n
  if c.tr.fail then (s.logTrap n 0 0 c.tr.tcause c.tr.words).failTask n
  else
    let c := (List.range 5).foldl (fun k e => if c.tr.restart.getLsbD e then k.onEng (streamOf e) Eng.restart else k) c
    s.setCore n { c with c := { c.c with hlevel := false, pc := c.tr.tpc, ready := s.beat + 1, issued := true } }

end Sys2Proof.Machine
end

