-- ==== Sys2Proof/Machine/Operands.lean ====
section
/-!
DEFINITION. How a control-stream instruction reads its operands, writes its result and moves on: the checks of
R234, registers and channels (R209, R233 to R235), shadows (R180 to R184), and the advance of pc (R18, R248).
-/

namespace Sys2Proof.Machine

/-- What a meaning answers. -/
abbrev Out := Host.Outcome State Fault Refusal

/-- A source: its field and its pop bit (R209). -/
abbrev Src := BitVec 6 × Bool

/-! ## The checks of R234 -/

/-- A queue that C may read (R29). -/
def Queue.readable : Queue → Bool
  | .feed _ => false
  | _ => true

/-- The pushes into feed side e that are reserved and have not entered (R234). -/
def Core.reserved (c : Core) (e : Nat) : Nat := (c.c.pushes.filter fun p => p.feed == e).length
/-- The free entries of feed side e, less the reserved ones (R234, R251). -/
def Core.feedRoom (c : Core) (e : Nat) : Nat := 16 - (mget [] c.ch.feeds e).length - c.reserved e

/-- What the checks before issue decide. -/
inductive Verdict where
  | trap (cause : BitVec 8)
  | stall
  | ok
  deriving DecidableEq, Repr

/-- Check 2 for a source: its channel is bound to a readable kind. -/
def State.srcBound (s : State) (f : BitVec 6) : Bool :=
  !chanField f || (match s.queueOf s.turn.core f with
    | some q => q.readable
    | none => false)
/-- Check 2 for a destination: its channel is bound to a feed side. -/
def State.dstBound (s : State) (f : BitVec 6) : Bool :=
  !chanField f || (match s.queueOf s.turn.core f with
    | some (.feed _) => true
    | _ => false)
/-- The entries that the sources ask of channel c: one for each pop, and one more where the last source that names
the channel peeks (R234). -/
def asks (c : Nat) (srcs : List Src) : Nat :=
  let l := srcs.filter fun x => chanField x.1 && fieldNo x.1 == c
  (l.filter Prod.snd).length + (match l.getLast? with
    | some x => if x.2 then 0 else 1
    | none => 0)
/-- Check 3 for a source. -/
def State.srcFull (s : State) (srcs : List Src) (f : BitVec 6) : Bool :=
  !chanField f || (match s.queueOf s.turn.core f with
    | some q => decide (asks (fieldNo f) srcs ≤ (s.entries s.turn.core q).length)
    | none => false)
/-- Check 3 for a destination. -/
def State.dstRoom (s : State) (f : BitVec 6) : Bool :=
  !chanField f || (match s.queueOf s.turn.core f with
    | some (.feed e) => decide (0 < s.here.feedRoom e)
    | _ => false)
/-- Destination d is in flight; in a handler, what was issued before its entry is there (R183, R186, log 145). -/
def Core.inFlight (c : Core) (d : Nat) : Bool := c.c.flying.any fun p => p.dst == d && !(p.past && c.c.hlevel)
/-- A register in a shadow or in flight; x0 never is (R183). -/
def Core.shadowed (c : Core) (f : BitVec 6) : Bool :=
  !chanField f && fieldNo f != 0 &&
    (c.c.pend.any (fun p => p.reg == fieldNo f) || c.inFlight (fieldNo f))

/-- Checks 2 to 4 of R234 for an instruction that reads srcs, reads the registers regs besides, and writes dst. -/
def State.cCheck (s : State) (srcs : List Src) (regs : List (BitVec 6)) (dst : Option (BitVec 6)) : Verdict :=
  if !(srcs.all fun x => s.srcBound x.1) || !(dst.toList.all s.dstBound) then .trap 0x4B
  else if !(srcs.all fun x => s.srcFull srcs x.1) || !(dst.toList.all s.dstRoom) then .stall
  else if s.here.cr.tcheck && (srcs.map Prod.fst ++ regs ++ dst.toList).any s.here.shadowed then .trap 0x24
  else .ok

/-! ## Reading and writing -/

/-- A register as C reads it: x0 is zero; inside a shadow the old or the new value, freely (R25, R183, log 6). -/
def State.readReg (s : State) (r : Nat) : Word × State :=
  if r = 0 then (0, s)
  else
    let old := mget 0 s.here.c.regs r
    match (s.here.c.pend.filter fun p => p.reg == r).getLast? with
    | none => (old, s)
    | some p => (if Config.pickNew s.free then p.value else old, { s with free := s.free + 1 })

/-- A source read, and what reading it leaves (R233): a pop takes the head entry. -/
def State.readSrc (s : State) (f : BitVec 6) (pop : Bool) : Word × State :=
  if chanField f then
    match s.queueOf s.turn.core f with
    | some q => match s.entries s.turn.core q with
      | w :: t => (w, if pop then s.setEntries s.turn.core q t else s)
      | [] => (0, s)
    | none => (0, s)
  else s.readReg (fieldNo f)

/-- A scalar register of the current core written; x0 discards the write (R25). -/
def State.setReg (s : State) (r : Nat) (v : Word) : State :=
  if r = 0 then s else s.onCtl fun c => { c with regs := mset 0 c.regs r v }

/-- A destination written with latency lat (R180, R233, R234): a register after its shadow, a channel by a reserved
push that enters on beat t + lat. -/
def State.writeDst (s : State) (d : BitVec 6) (lat : Nat) (v : Word) : State :=
  if chanField d then
    match s.queueOf s.turn.core d with
    | some (.feed e) => s.onCtl fun c => { c with pushes := c.pushes ++ [⟨e, v, s.beat + lat⟩] }
    | _ => s
  else if fieldNo d = 0 then s
  else if lat ≤ 1 then s.setReg (fieldNo d) v
  else s.onCtl fun c => { c with pend := c.pend ++ [⟨fieldNo d, v, s.beat + lat⟩] }

/-! ## Moving on -/

/-- The instruction has issued: pc advances by one and C may issue on the next beat (R18, R248). -/
def State.advance (s : State) : State :=
  s.onCtl fun c => { c with pc := c.pc + 1, ready := s.beat + 1, issued := true, evOk := true, cwait := none }
/-- The instruction has issued and transfers control to a target inside the memory (R248). -/
def State.goto (s : State) (t : Nat) : State :=
  s.onCtl fun c => { c with pc := BitVec.ofNat 14 t, ready := s.beat + 2, issued := true, evOk := true, cwait := none }
/-- The instruction waits; ev says whether an event may be taken during the stall (R284, R373). -/
def State.stalled (s : State) (ev : Bool) : State := s.onCtl fun c => { c with evOk := ev }

/-- pc has a successor inside the memory (R18). -/
def State.hasNext (s : State) : Bool := decide (s.here.c.pc.toNat + 1 < 16384)

/-- The common form of an instruction: the checks of R234, then the successor's range, then the effect k. -/
def cIssue (s : State) (srcs : List Src) (regs : List (BitVec 6)) (dst : Option (BitVec 6)) (k : State → State) : Out :=
  match s.cCheck srcs regs dst with
  | .trap c => .next (s.trapAt c 0)
  | .stall => .next (s.stalled true)
  | .ok => if s.hasNext then .next (k s) else .next (s.trapAt 0x22 0)

/-- d := f a b with a latency. -/
def alu2 (lat : Nat) (f : Word → Word → Word) (o : RForm) (s : State) : Out :=
  cIssue s [(o.a, o.p), (o.b, o.q)] [] (some o.d) fun s =>
    let a := s.readSrc o.a o.p
    let b := a.2.readSrc o.b o.q
    (b.2.writeDst o.d lat (f a.1 b.1)).advance

/-- d := f a with a latency. -/
def alu1 (lat : Nat) (f : Word → Word) (d a : BitVec 6) (p : Bool) (s : State) : Out :=
  cIssue s [(a, p)] [] (some d) fun s =>
    let x := s.readSrc a p
    (x.2.writeDst d lat (f x.1)).advance

/-- The old value of d as a third operand, read as a register (R241, R244). -/
def State.readDst (s : State) (d : BitVec 6) : Word × State := if chanField d then (0, s) else s.readReg (fieldNo d)

end Sys2Proof.Machine
end

