-- ==== Sys2Proof/Machine/Access.lean ====
section
/-!
DEFINITION. Issuing accesses of the control stream: the checks of R257, the load and store queues (R260), the
posted-store history (R448), and the counts of wait (R124, R262).
-/

namespace Sys2Proof.Machine

/-! ## Ports that reach a peer (R160, R168) -/

/-- Optical port p. -/
def State.portAt (s : State) (p : Nat) : Port := mget Port.rest s.circ.ports p
/-- Optical port p changed by f. -/
def State.onPort (s : State) (p : Nat) (f : Port → Port) : State :=
  { s with circ := { s.circ with ports := mset Port.rest s.circ.ports p (f (s.portAt p)) } }
/-- The word of port p in slot i. -/
def CTable.word (t : CTable) (i p : Nat) : W32 := mget 0 t.words (48 * i + p)
/-- A port word's open bit, peer, peer port and quota in bytes (R160). -/
def wordOpen (w : W32) : Bool := w.getLsbD 31
/-- The peer package. -/
def wordPeer (w : W32) : Nat := bitsOf w 19 12
/-- The peer port. -/
def wordPport (w : W32) : Nat := bitsOf w 13 6
/-- The quota in bytes; 0 for none. -/
def wordQuota (w : W32) : Nat := 64 * bitsOf w 0 13
/-- Some slot of a table joins port p to a peer. -/
def CTable.reaches (t : CTable) (p peer : Nat) : Bool :=
  (List.range t.lens.length).any fun i => wordOpen (t.word i p) && wordPeer (t.word i p) == peer
/-- Port p reaches a peer under the active table, and is not down (R166, R168, R437). -/
def State.portReaches (s : State) (p peer : Nat) : Bool :=
  s.circ.active.reaches p peer && (s.portAt p).health != .down
/-- The lowest-numbered port that reaches a peer (R168). -/
def State.portTo (s : State) (peer : Nat) : Option Nat := (List.range 48).find? fun p => s.portReaches p peer
/-! ## Where an access leads -/

/-- The owner under which the current core's C accesses translate (R440). -/
def State.accOwner (s : State) : Nat :=
  if s.here.c.hlevel && !s.here.tr.own then 0 else s.ownerOn s.turn.core

/-- No byte of an extent from o to e lies outside every region of a list (R99); fuel is the number of regions. -/
def covered (rs : List (Nat × Nat)) : Nat → Nat → Nat → Bool
  | 0, o, e => decide (e ≤ o)
  | k + 1, o, e => decide (e ≤ o) || rs.any fun r => decide (r.1 ≤ o) && decide (o < r.1 + r.2) && covered rs k (r.1 + r.2) e
/-- The live regions of core n hold n bytes from offset o (R99). -/
def State.inRegion (s : State) (n o len : Nat) : Bool :=
  covered (s.coreAt n).pl.regions (s.coreAt n).pl.regions.length o (o + len)

/-- A fault of an access: its cause and address. -/
abbrev MemFault := BitVec 8 × Nat

/-- What an access does to its word, for the checks (R257): the right it needs, whether it reads the word, and whether it touches
the stored block at all, which a `wake` does not (R277). -/
structure Need where
  right : Right
  reads : Bool
  touches : Bool
  deriving DecidableEq, Repr

/-- A load. -/
def Need.load : Need := ⟨.read, true, true⟩
/-- A store. -/
def Need.store : Need := ⟨.write, false, true⟩
/-- An atomic. -/
def Need.atomic : Need := ⟨.atomic, true, true⟩

/-- A wake. -/
def Need.wake : Need := ⟨.write, false, false⟩

/-- Checks 3 and 4 of R257: where an address leads, if C may reach it with the right. -/
def State.reach (s : State) (ea : Nat) (r : Right) : Except MemFault Loc :=
  if ea < 2 ^ 22 then .ok (.scr s.turn.core ea)
  else match s.translate s.accOwner ea r with
    | .error c => .error (c, ea)
    | .ok h => match h.loc with
      | .scr _ _ => .error (causeScope, ea)
      | .peer _ _ _ => if s.feature 2 then .ok h.loc else .error (causeFeature, ea)
      | l => .ok l

/-- Check 5 of R257 for the local scratchpad: a live region, valid words in trap mode, a good tag, and a block that
can be read. -/
def State.localOk (s : State) (l : Loc) (w : Nat) (n : Need) : Except MemFault Loc :=
  match l with
  | .scr k o =>
    if !s.inRegion k o w then .error (causeUnallocated, o)
    else if n.reads && !s.here.cr.spwarn && !s.mem.allValid (blkOf l) (inBlk l) w then .error (causeUninit, o)
    else if n.reads && !tagOk (s.feature 1) (mget 0 s.mem.tags (blkOf l)) then .error (causeBadTag, o)
    else if n.touches && (n.reads || w < 64) && mget false s.mem.bad (blkOf l) then .error (causeUncorrectable, o)
    else .ok l
  | l => .ok l

/-- The checks of R257 for w bytes at ea, aligned to al. -/
def State.memCheck (s : State) (ea : Word) (al w : Nat) (n : Need) : Except MemFault Loc :=
  if 2 ^ 52 ≤ ea.toNat then .error (causeNonCanonical, ea.toNat)
  else if ea.toNat % al ≠ 0 then .error (causeMisaligned, ea.toNat)
  else match s.reach ea.toNat n.right with
    | .error e => .error e
    | .ok l => s.localOk l w n

/-- The trap of a failed check; a malformed entry that was met stays in terr (R419), an uncorrectable block is counted
(R464). -/
def State.memTrap (s : State) (e : MemFault) : State :=
  (if e.2 < 2 ^ 22 then s.countBad e.1 (.scr s.turn.core e.2) else s.noteCause s.accOwner e.2 e.1).trapAt e.1 e.2

/-- In warn mode, a read of invalid words by C counts one warning and keeps the first offset (R100, R101). -/
def State.warn (s : State) (l : Loc) (w : Nat) : State := s.warnAt s.turn.core l w

/-! ## Queues and counts (R124, R260) -/

/-- The incomplete accesses of a core's C stream that take a load entry. -/
def State.loadsOut (s : State) (n : Nat) : Nat :=
  (s.accs.filter fun e => match e.2 with
    | some a => a.agent == .c && a.core == n && a.lq && a.task == s.taskNo n
    | none => false).length
/-- The incomplete accesses of a core's C stream that take a store entry. -/
def State.storesOut (s : State) (n : Nat) : Nat :=
  (s.accs.filter fun e => match e.2 with
    | some a => a.agent == .c && a.core == n && a.sq && a.task == s.taskNo n
    | none => false).length
/-- The incomplete X micro-orders of a core (R124). -/
def Core.copiesOut (c : Core) : Nat :=
  (c.ve.jobs.filter fun j => j.task == c.pl.task.getD 0 && match j.work with
    | .copy _ => true
    | _ => false).length
/-- The incomplete tile operations of a core (R124). -/
def Core.tilesOut (c : Core) : Nat :=
  (c.ve.jobs.filter fun j => j.task == c.pl.task.getD 0 && match j.work with
    | .mmac _ => true
    | .mclr _ => true
    | .mret _ _ _ _ _ _ => true
    | _ => false).length

/-- The queues have a free entry each for an instruction that takes a load entry, a store entry, or both. -/
def State.queueRoom (s : State) (lq sq : Bool) : Bool :=
  (!lq || decide (s.loadsOut s.turn.core < 32)) && (!sq || decide (s.storesOut s.turn.core < 32))

/-- The next issue number of a queue (R151). -/
def Core.issueNo (c : Core) (q : Nat) : Nat := mget 0 c.c.issues q
/-- That number advanced. -/
def Core.bumpIssue (c : Core) (q : Nat) : Core :=
  { c with c := { c.c with issues := mset 0 c.c.issues q ((mget 0 c.c.issues q + 1) % 2 ^ 16) } }

/-- An entry written into the posted-store history of core n (R448); its number is the count before. -/
def State.addHist (s : State) (n source wher issue ix addr : Nat) : Nat × State :=
  let c := (s.coreAt n).tr
  let old := mget Hist.rest c.hist (c.hcount % 64)
  let lost := if old.neg && !old.reported then [⟨old.cause, 3, old.source, old.ix⟩] else []
  (c.hcount, s.onCore n fun k =>
    { k with tr := { k.tr with
        hist := mset Hist.rest k.tr.hist (k.tr.hcount % 64) ⟨issue, source, wher, 0, false, false, addr, ix, k.tr.hcount⟩
        hcount := k.tr.hcount + 1
        sticky := k.tr.sticky ++ lost } })

/-- A negative completion of the posted access with history number h, of source src, covered at place ix (R448): the
entry is marked, or, where the ring has gone past it, the fault is kept without an entry. -/
def State.markNeg (s : State) (n h src ix : Nat) (cause : BitVec 8) : State :=
  s.onCore n fun k =>
    let e := mget Hist.rest k.tr.hist (h % 64)
    if e.seq == h && h < k.tr.hcount then
      { k with tr := { k.tr with hist := mset Hist.rest k.tr.hist (h % 64) { e with neg := true, cause := cause } } }
    else { k with tr := { k.tr with sticky := k.tr.sticky ++ [⟨cause, 3, src, ix⟩] } }

/-- A C access as it stands when it issues; commitC fills in its numbers. -/
def State.cAccess (s : State) (l : Loc) (va : Nat) (op : AOp) (dst : BitVec 6) (lq sq : Bool) (scope : Nat) : Access :=
  let t := s.taskAt (s.taskNo s.turn.core)
  { agent := .c, core := s.turn.core, task := s.taskNo s.turn.core, owner := s.accOwner, loc := l, va := va, op := op,
    dst := fieldNo dst, pc := s.here.c.pc.toNat, issue := s.here.issueNo (if sq then 1 else 0), ix := s.here.c.ldIx,
    six := s.here.c.stIx, lq := lq, sq := sq, epoch := s.here.c.epoch, scope := scope, job := 0, part := 0, hist := 0,
    sync := none, chain := (t.map Task.chain).getD 0, depth := (t.map Task.depth).getD 0, stage := .queued,
    due := s.beat, res := .none, flags := 0 }

/-- A C access enters its queues: it takes a number, its destination is in flight, a posted access leaves its history
entry, and the counts of wait go on (R183, R260, R448). Answers the access's number. -/
def State.commitC (s : State) (a : Access) (posted : Bool) : Nat × State :=
  let n := s.turn.core
  let (id, s) := s.fresh
  let (h, s) := if posted then s.addHist n 0 a.pc a.issue a.six a.va else (0, s)
  let s := s.setAcc id (some { a with hist := h })
  (id, s.onCore n fun k =>
    let k := if a.lq || a.sq then k.bumpIssue (if a.sq then 1 else 0) else k
    { k with c := { k.c with
        flying := if a.lq && a.dst != 0 then k.c.flying ++ [⟨a.dst, a.ix, false⟩] else k.c.flying
        ldIx := if a.lq then k.c.ldIx + 1 else k.c.ldIx
        stIx := if a.sq then k.c.stIx + 1 else k.c.stIx } })

/-- The common form of a C access: the checks of R234, those of R257 made by chk on the operands read, room in the
queues, then the access that mk builds. ds tells a destination that stays in flight and so may not be a channel
(R256); regs are registers read besides. -/
def cAccessIssue (s : State) (srcs : List Src) (regs : List (BitVec 6)) (ds : Option (BitVec 6)) (lq sq : Bool)
    (posted : Bool) (chk : List Word → State → Except MemFault (Loc × Nat × Nat))
    (mk : List Word → Loc → State → Access) : Out :=
  if ds.toList.any chanField then .next (s.trapAt 0x4B 0)
  else cIssue s srcs regs ds fun s =>
    let r := (srcs ++ regs.map (·, false)).foldl
      (fun (acc : List Word × State) x => let v := acc.2.readSrc x.1 x.2; (acc.1 ++ [v.1], v.2)) ([], s)
    match chk r.1 s with
    | .error e => s.memTrap e
    | .ok (l, w, rd) =>
      if s.queueRoom lq sq then
        let t := if rd = 1 then r.2.warn l w else r.2
        (t.commitC (mk r.1 l s) posted).2.advance
      else s.stalled true

end Sys2Proof.Machine
end

