-- ==== Sys2Proof/Machine/Memory.lean ====
section
/-!
DEFINITION. The meanings of the scalar loads, stores and atomics, of qalign, wait, tfence, mfence and mjoin, and of
the scratchpad regions (12_ins_memory_sync.md R256 to R266, R270 to R272; 08_timing.md R193).
-/

namespace Sys2Proof.Machine

/-! ## Loads, stores and atomics -/

/-- A place at a peer that no port reaches (R168). -/
def State.unreached (s : State) (l : Loc) : Bool :=
  match l with
  | .peer g _ _ => (s.portTo g).isNone
  | _ => false

/-- The checks of R257 and of R168, with the width and whether the access reads. -/
def State.chk (s : State) (ea : Word) (al w : Nat) (n : Need) : Except MemFault (Loc × Nat × Nat) :=
  match s.memCheck ea al w n with
  | .ok l => if s.unreached l then .error (0x32, ea.toNat) else .ok (l, w, if n.reads then 1 else 0)
  | .error e => .error e

/-- A load of w bytes (R256, R259). -/
def doLoad (w : Nat) (sx : Bool) (o : IForm) (s : State) : Out :=
  cAccessIssue s [(o.a, o.p)] [] (some o.d) true false false
    (fun v s => s.chk (v.getD 0 0 + o.i.signExtend 64) w w .load)
    (fun v l s => s.cAccess l (v.getD 0 0 + o.i.signExtend 64).toNat (.load w sx) o.d true false 9)

/-- A store of w bytes of register d (R256, R259). -/
def doStore (w : Nat) (o : IForm) (s : State) : Out :=
  cAccessIssue s [(o.a, o.p)] [o.d] none false true true
    (fun v s => s.chk (v.getD 0 0 + o.i.signExtend 64) w w .store)
    (fun v l s => s.cAccess l (v.getD 0 0 + o.i.signExtend 64).toNat (.store w (v.getD 1 0)) 0 false true 9)

/-- An atomic of operation op on w bytes at scope sc (R270, R271). -/
def doAmo (w : Nat) (sx : Bool) (o : RForm) (op : Nat) (sc : BitVec 2) (s : State) : Out :=
  cAccessIssue s [(o.a, o.p), (o.b, o.q)] [] (some o.d) true true false
    (fun v s => s.chk (v.getD 0 0) w w .atomic)
    (fun v l s => s.cAccess l (v.getD 0 0).toNat (.amo op w sx (v.getD 1 0)) o.d true true sc.toNat)

/-- A compare and swap on w bytes at scope sc; d is read as the compared value (R270). -/
def doCas (w : Nat) (sx : Bool) (o : RForm) (sc : BitVec 2) (s : State) : Out :=
  cAccessIssue s [(o.a, o.p), (o.b, o.q)] [o.d] (some o.d) true true false
    (fun v s => s.chk (v.getD 0 0) w w .atomic)
    (fun v l s => s.cAccess l (v.getD 0 0).toNat (.cas w sx (v.getD 1 0) (v.getD 2 0)) o.d true true sc.toNat)

/-- `ld.i8` (R256) -/
def execLdI8 (o : IForm) (s : State) : Out := doLoad 1 true o s
/-- `ld.b16` (R256) -/
def execLdB16 (o : IForm) (s : State) : Out := doLoad 2 false o s
/-- `ld.i32` (R256) -/
def execLdI32 (o : IForm) (s : State) : Out := doLoad 4 true o s
/-- `ld.n32` (R256) -/
def execLdN32 (o : IForm) (s : State) : Out := doLoad 4 false o s
/-- `ld.i64` (R256) -/
def execLdI64 (o : IForm) (s : State) : Out := doLoad 8 false o s
/-- `st.i8` (R256) -/
def execStI8 (o : IForm) (s : State) : Out := doStore 1 o s
/-- `st.b16` (R256) -/
def execStB16 (o : IForm) (s : State) : Out := doStore 2 o s
/-- `st.i32` (R256) -/
def execStI32 (o : IForm) (s : State) : Out := doStore 4 o s
/-- `st.i64` (R256) -/
def execStI64 (o : IForm) (s : State) : Out := doStore 8 o s
/-- `amo.OP.i32` (R215, R270) -/
def execAmoI32 (o : RForm) (op : BitVec 3) (sc : BitVec 2) (s : State) : Out := doAmo 4 true o op.toNat sc s
/-- `amo.fadd.f32` (R215, R270) -/
def execAmoFadd (o : RForm) (sc : BitVec 2) (s : State) : Out := doAmo 4 true o 8 sc s
/-- `amo.OP.n32` (R215, R270) -/
def execAmoN32 (o : RForm) (op : BitVec 3) (sc : BitVec 2) (s : State) : Out := doAmo 4 false o op.toNat sc s
/-- `amo.OP.i64` (R215, R270) -/
def execAmoI64 (o : RForm) (op : BitVec 3) (sc : BitVec 2) (s : State) : Out := doAmo 8 false o op.toNat sc s
/-- `cas.i32` (R270) -/
def execCasI32 (o : RForm) (sc : BitVec 2) (s : State) : Out := doCas 4 true o sc s
/-- `cas.n32` (R270) -/
def execCasN32 (o : RForm) (sc : BitVec 2) (s : State) : Out := doCas 4 false o sc s
/-- `cas.i64` (R270) -/
def execCasI64 (o : RForm) (sc : BitVec 2) (s : State) : Out := doCas 8 false o sc s
/-- `sqadd` (R272) -/
def execSqadd (o : SForm) (sc : BitVec 2) (s : State) : Out :=
  cAccessIssue s [(o.a, o.p), (o.b, o.q)] [] none false true true
    (fun v s => s.chk (v.getD 0 0) 8 8 .atomic)
    (fun v l s => s.cAccess l (v.getD 0 0).toNat (.sqadd (v.getD 1 0)) 0 false true sc.toNat)
/-- `wake` (R277): write right, any address, up to b[15:0] waiters -/
def execWake (o : SForm) (s : State) : Out :=
  cAccessIssue s [(o.a, o.p), (o.b, o.q)] [] none false true true
    (fun v s => s.chk (v.getD 0 0) 1 1 .wake)
    (fun v l s => s.cAccess l (v.getD 0 0).toNat (.wake ((v.getD 1 0).toNat % 2 ^ 16)) 0 false true 9)

/-! ## Markers and counted waits (R123, R124, R193, R261 to R264) -/

/-- `qalign` (R123, R261): accesses after it carry the next epoch -/
def execQalign (s : State) : Out :=
  cIssue s [] [] none fun s => (s.onCtl fun c => { c with epoch := c.epoch + 1 }).advance

/-- The report of a held completion fault (R443, kind 2), taken at the instruction at pc. -/
def heldReport (pc : BitVec 14) (h : Held) : Report :=
  ⟨2, 0, h.cause, pc, 0, 0, w64 h.addr, w64 (h.dst % 64 * 2 ^ 14 + h.pc % 2 ^ 14), 0, none⟩
/-- The report of a sticky fault of a history entry (R443, R446, R448, kind 3). -/
def stickyReport (pc : BitVec 14) (e : Hist) : Report :=
  ⟨3, 0, if e.cause = 0x31 then 0x31 else causeRefused, pc, 0, 0, w64 e.addr,
    w64 (e.source * 2 ^ 30 + e.loc % 2 ^ 14 * 2 ^ 16 + e.issue), 0, some (e.seq % 64)⟩
/-- The report of a sticky fault without an entry (R355, R448). -/
def lostReport (pc : BitVec 14) (k : Sticky) : Report :=
  if k.cause = 0x34 then ⟨3, 0, 0x34, pc, 0, 0, 0, w64 (k.pc % 2 ^ 14 * 2 ^ 16), 0, none⟩
  else ⟨3, 0, if k.cause = 0x31 then 0x31 else causeRefused, pc, 0, 0, 0, w64 (3 * 2 ^ 30), 0, none⟩

/-- What a wait with these counts covers: load accesses, store accesses and copies before the last l, st and c of
their kind (R124, R262). A tfence covers everything (R193). -/
structure Cover where
  l : Nat
  st : Nat
  c : Nat
  all : Bool
  deriving DecidableEq, Repr

/-- A held fault is covered. -/
def Cover.held (v : Cover) (k : Ctl) (h : Held) : Bool := v.all || decide (h.ix + v.l < k.ldIx)
/-- A posted access of source src at place ix is covered; S stores only by a tfence (log 20). -/
def Cover.posted (v : Cover) (k : Ctl) (src ix : Nat) : Bool :=
  v.all || (src == 0 && decide (ix + v.st < k.stIx)) || (src == 2 && decide (ix + v.c < k.cpIx))

/-- The negative history entries that are covered and unreported, oldest first. -/
def TrapState.pendingNeg (t : TrapState) (v : Cover) (k : Ctl) : List Hist :=
  (upFrom (t.hcount - 64) (min 64 t.hcount)).filterMap fun q =>
    let e := mget Hist.rest t.hist (q % 64)
    if e.neg && !e.reported && v.posted k e.source e.ix then some e else none
/-- The sticky faults without an entry that are covered. -/
def TrapState.pendingLost (t : TrapState) (v : Cover) (k : Ctl) : List Sticky :=
  t.sticky.filter fun y => if y.cause = 0x34 then v.all else v.posted k y.pc y.ix

/-- The fault that a wait or tfence takes first, and the state in which it is no longer pending: a held completion,
earliest issued first, then a sticky fault, oldest first (R193, R262, R447). -/
def State.takePending (s : State) (v : Cover) : Option (Report × State) :=
  let k := s.here
  match k.c.held.find? (v.held k.c) with
  | some h => some (heldReport k.c.pc h, s.onCtl fun c => { c with held := c.held.erase h })
  | none => match (k.tr.pendingLost v k.c).head? with
    | some y => some (lostReport k.c.pc y, s.onHere fun c => { c with tr := { c.tr with sticky := c.tr.sticky.erase y } })
    | none => match (k.tr.pendingNeg v k.c).head? with
      | some e => some (stickyReport k.c.pc e, s.onHere fun c =>
          { c with tr := { c.tr with hist := mset Hist.rest c.tr.hist (e.seq % 64) { e with reported := true } } })
      | none => none

/-- The counts of a wait are met (R262). -/
def State.countsMet (s : State) (l st c t : Nat) : Bool :=
  decide (s.loadsOut s.turn.core ≤ l) && decide (s.storesOut s.turn.core ≤ st) &&
    decide (s.here.copiesOut ≤ c) && decide (s.here.tilesOut ≤ t)

/-- `wait` (R124, R262) -/
def execWait (l st c t : BitVec 5) (s : State) : Out :=
  if !s.countsMet l.toNat st.toNat c.toNat t.toNat then .next (s.stalled true)
  else match s.takePending ⟨l.toNat, st.toNat, c.toNat, false⟩ with
    | some (r, s') => .next (s'.enterTrap s.turn.core r)
    | none => cIssue s [] [] none fun s => (s.onCtl (·.landed l.toNat)).advance

/-- An access that can set a flag, a sticky fault or a held completion fault: not a watch, a result known at issue, a lease's slot, or a
block that an engine reads, whose fault stops the engine (R193). -/
def AOp.canFault : AOp → Bool
  | .waddr _ _ _ w => w.isNone
  | .value _ => false
  | .spill _ _ => false
  | .fill _ => false
  | .rblk => false
  | _ => true

/-- A micro-order that can do so beside what its accesses do: the arithmetic of A and M, and of the copies those that add or whose
refusal is a sticky fault (R81, R193, R332). -/
def Work.canFault : Work → Bool
  | .arith _ => true
  | .mmac _ => true
  | .mret _ _ _ _ _ _ => true
  | .copy x => x.kind != 4 && (!(x.desc.getD 0 0).getLsbD 59 || x.kind == 5 || x.kind == 8)
  | _ => false

/-- Nothing of the task that can set a flag or raise a fault is incomplete that issued, for C, before number id, and for the
engines, before a beat (R193). -/
def State.quietBefore (s : State) (id beat : Nat) : Bool :=
  !(s.accs.any fun e => match e.2 with
    | some a => a.core == s.turn.core && a.task == s.taskNo s.turn.core && a.op.canFault &&
        (match a.agent with
          | .c => decide (e.1 < id)
          | g => g.engine && decide (a.due < beat))
    | none => false) &&
    !(s.here.ve.jobs.any fun j => j.task == s.taskNo s.turn.core && decide (j.issued < beat) && j.work.canFault)

/-- The lowest code among the set bits of fflags and fenable, as a cause (R81, R446). -/
def arithCause (f : BitVec 5) : BitVec 8 :=
  if f.getLsbD 4 then 0x10 else if f.getLsbD 3 then 0x11 else if f.getLsbD 2 then 0x12
  else if f.getLsbD 1 then 0x13 else 0x14

/-- The wait record of the instruction at pc, if C is in it. -/
def State.inWait (s : State) : Option CWait :=
  match s.here.c.cwait with
  | some w => if w.pc = s.here.c.pc.toNat then some w else none
  | none => none

/-- The stall and the checks of a tfence (R193); k is what follows when nothing is pending. -/
def State.fence (s : State) (k : State → Out) : Out :=
  let pc := s.here.c.pc
  let w := s.inWait.getD ⟨pc.toNat, s.beat, s.nextId, none, none, none⟩
  if !s.quietBefore w.acc w.since then .next ((s.onCtl fun c => { c with cwait := some w }).stalled true)
  else match s.takePending ⟨0, 0, 0, true⟩ with
    | some (r, s') => .next (s'.enterTrap s.turn.core r)
    | none =>
      let f := s.here.cr.fflags &&& s.here.cr.fenable
      if f ≠ 0 then .next (s.enterTrap s.turn.core ⟨6, 0, arithCause f, pc, 0, 0, 0, f.setWidth 64, 0, none⟩)
      else k s

/-- `tfence` (R193) -/
def execTfence (s : State) : Out := s.fence fun s => cIssue s [] [] none State.advance

/-- The streams of a mask, in the order L, A, S, M, X (R218). -/
def maskStreams (m : BitVec 5) : List Stream := [Stream.l, .a, .s, .m, .x].filter fun e => m.getLsbD e.idx

/-- The stopped streams among those listed that stopped first, the earlier stream at a tie (R22). -/
def Core.firstStopped (c : Core) (l : List Stream) : Option (Stream × EFault) :=
  l.foldl (fun best e =>
    match (c.eng e).state, (c.eng e).fault with
    | .stopped, some f => match best with
      | some b => if f.beat < b.2.beat then some (e, f) else best
      | none => some (e, f)
    | _, _ => best) none

/-- The code of a stream in tcause (R442). -/
def streamCode (e : Stream) : Nat := if e = .c then 0 else e.idx + 1

/-- The engine fault that an instruction naming these streams takes (R22, R443). -/
def State.engineReport (s : State) (l : List Stream) : Option Report :=
  match s.here.firstStopped l with
  | some (e, f) => some ⟨1, streamCode e, f.cause, s.here.c.pc, f.step, f.resume, f.addr, f.info, f.walk, none⟩
  | none => none

/-- Markers of a core that have reached their head are gone: of a stream that is not stopped, every micro-order
ahead of the marker is complete (R125, R263). -/
def Core.popMarkers (c : Core) : Core :=
  [Stream.l, .a, .s, .m, .x].foldl (fun k e => k.onEng e fun g =>
    if g.state = .stopped then g
    else { g with markers := g.markers.filter fun m => c.ve.jobs.any fun j => j.eng == e && decide (j.id < m) }) c

/-- `mfence` (R125, R263): a fifth marker waits -/
def execMfence (m : BitVec 5) (s : State) : Out :=
  if (maskStreams m).any fun e => decide (4 ≤ (s.here.eng e).markers.length) then .next (s.stalled true)
  else cIssue s [] [] none fun s =>
    (s.onHere fun c => ((maskStreams m).foldl
      (fun k e => k.onEng e fun g => { g with markers := g.markers ++ [s.nextId] }) c).popMarkers).advance

/-- `mjoin` (R125, R264) -/
def execMjoin (s : State) : Out :=
  let waiting := [Stream.l, .a, .s, .m, .x].filter fun e => (s.here.eng e).markers != []
  match s.engineReport waiting with
  | some r => .next (s.enterTrap s.turn.core r)
  | none => if waiting != [] then .next (s.stalled true) else cIssue s [] [] none State.advance

/-! ## Scratchpad regions (R99, R100, R265, R266) -/

/-- The extent [o, o + n) meets no live region. -/
def freeRun (rs : List (Nat × Nat)) (o n : Nat) : Bool :=
  decide (o + n ≤ 2 ^ 22) && rs.all fun r => decide (o + n ≤ r.1) || decide (r.1 + r.2 ≤ o)
/-- The lowest offset at which a run of n bytes is free (R99): 0, or the end of a live region. -/
def firstFit (rs : List (Nat × Nat)) (n : Nat) : Option Nat :=
  ((0 :: rs.map fun r => r.1 + r.2).filter fun o => freeRun rs o n).min?

/-- A region of core k made live, its valid bits and tags cleared (R100, R265). -/
def State.openRegion (s : State) (k o n : Nat) : State :=
  (s.onCore k fun c => { c with pl := { c.pl with regions := c.pl.regions ++ [(o, n)] } }).onMem fun m =>
    { m with valid := mclear m.valid (storeAddr (.scr k o) / 4) (n / 4)
             tags := mclear m.tags (storeAddr (.scr k o) / 64) (n / 64) }

/-- The result of `spal` for a size, and what it leaves (R265). -/
def State.spalResult (s : State) (n : Nat) : Word × State :=
  let rs := s.here.pl.regions
  if n = 0 ∨ n % 4096 ≠ 0 ∨ 2 ^ 22 < n then (neg64 2, s)
  else if 32 ≤ rs.length then (neg64 3, s)
  else match firstFit rs n with
    | none => (neg64 1, s)
    | some o => (w64 o, s.openRegion s.turn.core o n)

/-- `spal` (R265): the region is live at once; d is in flight as a load -/
def execSpal (o : UForm) (s : State) : Out :=
  if chanField o.d then .next (s.trapAt 0x4B 0)
  else cIssue s [(o.a, o.p)] [] (some o.d) fun s =>
    if s.queueRoom true false then
      let a := s.readSrc o.a o.p
      let r := a.2.spalResult a.1.toNat
      (r.2.commitC (s.cAccess (.scr s.turn.core 0) 0 (.value r.1) o.d true false 9) false).2.advance
    else s.stalled true

/-- Two extents meet. -/
def overlaps (a n b m : Nat) : Bool := decide (a < b + m) && decide (b < a + n)

/-- A binding leads into the scratchpad of core k between o and o + n. -/
def Base.meets (b : Base) (k o n : Nat) : Bool :=
  b.pieces.any fun p => match p.loc with
    | .scr j x => j == k && overlaps x p.len o n
    | _ => false

/-- A region of core k overlaps a bound base or the spill area of a lease (R266). -/
def Core.regionInUse (c : Core) (k o n : Nat) : Bool :=
  (c.ve.bases.any fun e => e.2.meets k o n) || (match c.pl.lease with
    | some l => overlaps l.area (256 * l.regs.length) o n
    | none => false)

/-- The bindings through which an issued micro-order has still to reach memory. -/
def Work.bindings : Work → List Base
  | .copy x => [x.src, x.dst]
  | .mret _ _ _ _ _ b => [b]
  | _ => []

/-- An access of core k to its scratchpad between o and o + n is incomplete, or one that an issued micro-order makes (R266). -/
def State.regionBusy (s : State) (k o n : Nat) : Bool :=
  ((s.coreAt k).ve.jobs.any fun j => j.work.bindings.any fun b => b.meets k o n) || s.accs.any fun e => match e.2 with
    | some a => a.core == k && a.agent.stream && (match a.loc with
      | .scr j x => j == k && decide (o ≤ x) && decide (x < o + n) && (match a.op with
        | .value _ => false
        | _ => true)
      | _ => false)
    | none => false

/-- `spfree` (R266) -/
def execSpfree (o : OForm) (s : State) : Out :=
  cIssue s [(o.a, o.p)] [] none fun s =>
    let a := s.readSrc o.a o.p
    match s.here.pl.regions.find? fun r => r.1 == a.1.toNat with
    | none => s.trapAt causeUnallocated a.1.toNat
    | some r =>
      if s.here.regionInUse s.turn.core r.1 r.2 then s.trapAt 0x0E a.1.toNat
      else if s.regionBusy s.turn.core r.1 r.2 then s.stalled true
      else (a.2.onHere fun c => { c with pl := { c.pl with regions := c.pl.regions.erase r } }).advance

end Sys2Proof.Machine
end

