-- ==== Sys2Proof/Machine/Sync.lean ====
section
/-!
DEFINITION. The meanings of the waits on words and counters, of sync words and of groups
(12_ins_memory_sync.md R273 to R283; 02_execution.md R59 to R61; 04_memory.md R109, R110).
-/

namespace Sys2Proof.Machine

/-! ## Waiting on a word or a counter -/

/-- C enters a wait served by access id. -/
def State.enterWait (s : State) (id : Nat) : State :=
  (s.onCtl fun c => { c with cwait := some ⟨c.pc.toNat, s.beat, id, none, none, none⟩ }).stalled true

/-- The armed watches of a core (R278). -/
def State.watchesOf (s : State) (n : Nat) : Nat :=
  (s.accs.filter fun e => match e.2 with
    | some a => a.core == n && (match a.op with
      | .waddr _ _ _ (some _) => true
      | _ => false)
    | none => false).length

/-- The checks of a waddr: read right, and neither a peer location nor another core's scratchpad (R257, R274). -/
def State.waitCheck (s : State) (ea : Word) (w : Nat) : Except MemFault (Loc × Nat × Nat) :=
  match s.memCheck ea w w .load with
  | .ok (.peer _ _ _) => .error (causeScope, ea.toNat)
  | .ok l => .ok (l, w, 1)
  | .error e => .error e

/-- A stalled wait goes on: with its value, with its fault, or not yet (R258, R275). -/
def State.resumeWait (s : State) (w : CWait) (k : Word → State → State) : Out :=
  match w.fault with
  | some f => .next (s.trapAt f.1 f.2)
  | none => match w.value with
    | some v => .next (k v s)
    | none => .next (s.stalled true)

/-- The channel pops of an instruction's sources are made: an instruction that waits makes them when it completes (R233,
R258). -/
def State.popSrcs (s : State) (srcs : List Src) : State :=
  srcs.foldl (fun t x => if chanField x.1 then (t.readSrc x.1 x.2).2 else t) s

/-- `waddr` on w bytes: the blocking form for a register d, the watch form for a channel bound to a wake queue
(R274, R275, R278). -/
def doWaddr (w : Nat) (o : RForm) (s : State) : Out :=
  let srcs : List Src := [(o.a, o.p), (o.b, o.q)]
  if chanField o.d then
    match s.queueOf s.turn.core o.d with
    | some (.wakeQ q) =>
      if 16 ≤ s.watchesOf s.turn.core then
        cIssue s srcs [] none fun s => s.trapAt 0x48 0
      else cAccessIssue s srcs [] none false false false (fun v s => s.waitCheck (v.getD 0 0) w)
        (fun v l s => s.cAccess l (v.getD 0 0).toNat (.waddr w (w == 4) (v.getD 1 0) (some q)) 0 false false 9)
    | _ => .next (s.trapAt 0x4B 0)
  else
    match s.inWait with
    | some x => s.resumeWait x fun v s => ((s.popSrcs srcs).writeDst o.d 1 v).advance
    | none => cIssue s srcs [] (some o.d) fun s =>
      let a := s.readSrc o.a o.p
      let b := a.2.readSrc o.b o.q
      match s.waitCheck a.1 w with
      | .error e => s.memTrap e
      | .ok (l, _, _) =>
        if s.queueRoom true false then
          let t := { s with free := b.2.free }.warn l w
          let r := t.commitC (s.cAccess l a.1.toNat (.waddr w (w == 4) b.1 none) 0 true false 9) false
          r.2.enterWait r.1
        else s.stalled true

/-- `waddr.i32` -/
def execWaddrI32 (o : RForm) (s : State) : Out := doWaddr 4 o s
/-- `waddr.i64` -/
def execWaddrI64 (o : RForm) (s : State) : Out := doWaddr 8 o s

/-- `sqwait` (R273): the watch takes no queue entry -/
def execSqwait (o : SForm) (s : State) : Out :=
  match s.inWait with
  | some x => s.resumeWait x fun _ s => (s.popSrcs [(o.a, o.p), (o.b, o.q)]).advance
  | none => cIssue s [(o.a, o.p), (o.b, o.q)] [] none fun s =>
    let a := s.readSrc o.a o.p
    let b := a.2.readSrc o.b o.q
    match s.waitCheck a.1 8 with
    | .error e => s.memTrap e
    | .ok (l, _, _) =>
      let r := ({ s with free := b.2.free }.warn l 8).commitC (s.cAccess l a.1.toNat (.sqwait b.1) 0 false false 9) false
      r.2.enterWait r.1

/-! ## Sync words (R109, R110, R279, R280) -/

/-- The place of a sync word: a local-window address aligned to 16 in a live region (R279). -/
def State.syncCheck (s : State) (ea : Word) (reads : Bool) : Except MemFault (Loc × Nat × Nat) :=
  if 2 ^ 52 ≤ ea.toNat then .error (causeNonCanonical, ea.toNat)
  else if ea.toNat % 16 ≠ 0 then .error (causeMisaligned, ea.toNat)
  else if 2 ^ 22 ≤ ea.toNat then .error (causeScope, ea.toNat)
  else match s.localOk (.scr s.turn.core ea.toNat) 16 ⟨.write, reads, true⟩ with
    | .ok l => .ok (l, 16, if reads then 1 else 0)
    | .error e => .error e

/-- `swinit` (R279): a store, counted by wait -/
def execSwinit (o : SForm) (s : State) : Out :=
  cAccessIssue s [(o.a, o.p), (o.b, o.q)] [] none false true true
    (fun v s => s.syncCheck (v.getD 0 0) false)
    (fun v l s => s.cAccess l (v.getD 0 0).toNat (.swinit ((v.getD 1 0).setWidth 32)) 0 false true 9)

/-- Word i of the sync word at offset o of core n; a word that is not valid reads zero (R100, R109). -/
def State.syncWord (s : State) (n o i : Nat) : Nat :=
  let b := blkOf (.scr n o)
  (s.mem.maskedBlk b (s.mem.rawBlk b)).nat (o % 64 + 4 * i) 4

/-- The generation of a sync word has reached x (R110, R280). -/
def State.genReached (s : State) (n o : Nat) (x : Word) : Bool :=
  decide (0 ≤ (BitVec.ofNat 32 (s.syncWord n o 2) - x.setWidth 32).toInt)

/-- The wait record of a `swait` that stalls: its word has been read at its issue (R100, R280). -/
def State.holdSwait (s : State) : State :=
  (s.onCtl fun c => { c with cwait := some (s.inWait.getD ⟨c.pc.toNat, s.beat, 0, none, none, none⟩) }).stalled true

/-- `swait` (R280): the failed flag is tested first; the read at issue counts one warning, whatever it finds -/
def execSwait (o : SForm) (s : State) : Out :=
  cIssue s [(o.a, o.p), (o.b, o.q)] [] none fun s =>
    let a := s.readSrc o.a o.p
    let b := a.2.readSrc o.b o.q
    match s.syncCheck a.1 true with
    | .error e => s.memTrap e
    | .ok (l, _, _) =>
      let n := s.turn.core
      let read (t : State) : State := if s.inWait.isSome then t else t.warn l 16
      if s.syncWord n a.1.toNat 3 / 4 % 2 = 1 then (read s).trapAt 0x46 a.1.toNat
      else if s.genReached n a.1.toNat b.1 then (read b.2).advance
      else (read s).holdSwait

/-! ## Groups (R59 to R61, R281 to R283) -/

/-- The group identifier of a handle. -/
def handleId (h : Nat) : Nat := h / 256 % 4096

/-- The result of `gjoin` for task t with operand a, and the state it leaves (R281). -/
def State.join (s : State) (t : Nat) (a : Word) : Word × State :=
  let h := a.toNat
  let g := handleId h
  let x := s.groupAt g
  match s.taskAt t with
  | none => (neg64 1, s)
  | some y =>
    if 2 ^ 20 ≤ h then (neg64 6, s)
    else if x.members.contains t then (neg64 5, s)
    else if 4 ≤ y.groups.length then (neg64 3, s)
    else if x.st = .quarantine then (neg64 2, s)
    else if x.inc.toNat ≠ h % 256 then (neg64 1, s)
    else if x.st = .live ∧ x.owner ≠ y.owner then (neg64 4, s)
    else
      let s := s.setGroup g { x with st := .live, members := x.members ++ [t], owner := y.owner }
      (w64 (x.members.length + 1), s.onTask t fun z => { z with groups := z.groups ++ [h] })

/-- `gjoin` (R281) -/
def execGjoin (o : UForm) (s : State) : Out :=
  cIssue s [(o.a, o.p)] [] (some o.d) fun s =>
    let a := s.readSrc o.a o.p
    let r := a.2.join (s.taskNo s.turn.core) a.1
    (r.2.writeDst o.d 1 r.1).advance

/-- Task t is a member of the group of a handle (R282, R283). -/
def State.isMember (s : State) (t h : Nat) : Bool :=
  match s.taskAt t with
  | some x => x.groups.contains (h % 2 ^ 20)
  | none => false

/-- `gleave` (R282) -/
def execGleave (o : OForm) (s : State) : Out :=
  cIssue s [(o.a, o.p)] [] none fun s =>
    let a := s.readSrc o.a o.p
    let t := s.taskNo s.turn.core
    (if s.isMember t a.1.toNat then a.2.leaveGroup t (handleId a.1.toNat) else a.2).advance

/-- The generation at which task t has arrived at group g and that its `gbar` has not passed (R283). -/
def State.arrival (s : State) (t g : Nat) : Option Nat :=
  match s.taskAt t with
  | some x => (x.arrived.find? fun e => e.1 == g).map Prod.snd
  | none => none

/-- C waits at the `gbar` at pc for group g, where it has arrived (R283). -/
def State.atBarrier (s : State) (g : Nat) (o : OForm) : State :=
  (s.onCtl fun c => { c with cwait := some ⟨c.pc.toNat, s.beat, 0, none, none, some (g, o.a, o.p)⟩ }).stalled true

/-- `gbar` (R61, R130, R283): first a wait with loads and stores 0, then the arrival, then the generation -/
def execGbar (o : OForm) (s : State) : Out :=
  cIssue s [(o.a, o.p)] [] none fun s =>
    let a := s.readSrc o.a o.p
    let t := s.taskNo s.turn.core
    let g := handleId a.1.toNat
    if !s.isMember t a.1.toNat then s.trapAt 0x47 0
    else match s.arrival t g with
      | some n =>
        if (s.groupAt g).gen = n then s.atBarrier g o else s.passBarrier s.turn.core g o.a o.p
      | none =>
        if s.loadsOut s.turn.core ≠ 0 ∨ s.storesOut s.turn.core ≠ 0 then s.stalled true
        else match s.takePending ⟨0, 0, s.here.c.cpIx, false⟩ with
          | some (r, s') => s'.enterTrap s.turn.core r
          | none =>
            ((s.onTask t fun x => { x with arrived := x.arrived ++ [(g, (s.groupAt g).gen)] }).atBarrier g o).tryBarrier g

end Sys2Proof.Machine
end

