-- ==== Sys2Proof/Machine/Sys.lean ====
section
/-!
DEFINITION. The meanings of the system instructions that act on the core itself: control registers, engine control,
tail, halt, ppoint, calls, breakpoints and eret (15_ins_fabric_system.md R346 to R349, R363 to R368, R372).
-/

namespace Sys2Proof.Machine

/-! ## Control registers (R348, R349, R441) -/

/-- The code of a stream's state (R20). -/
def EState.code : EState → Nat
  | .idle => 0
  | .running => 1
  | .stalled => 2
  | .done => 3
  | .stopped => 4

/-- Word 0 of a history entry (R448). -/
def Hist.word0 (e : Hist) : Word :=
  w64 (e.issue % 2 ^ 16 * 2 ^ 48 + e.source % 4 * 2 ^ 46 + e.loc % 2 ^ 14 * 2 ^ 32
    + (if e.neg then e.cause.toNat else 0) * 2 ^ 24 + (if e.reported then 2 else 0) + (if e.neg then 1 else 0))
/-- Word 1 of a history entry (R448). -/
def Hist.word1 (e : Hist) : Word := w64 (e.addr % 2 ^ 52)

/-- The word tctl (R444). -/
def TrapState.tctl (t : TrapState) : Word :=
  w64 ((if t.own then 2 ^ 16 else 0) + (if t.fail then 2 ^ 8 else 0) + t.restart.toNat)

/-- The value of a control register of the current core (R16, R21, R38, R45, R62, R81, R101, R184, R325, R346,
R441). -/
def State.csrValue (s : State) (n : Nat) : Word :=
  let k := s.here
  let c := s.turn.core
  let o := s.ownerAt (s.ownerOn c)
  match n with
  | 0x00 => w64 (s.ownerOn c * 2 ^ 16 + c * 2 ^ 8 + dieOf c * 2 ^ 5 + quadOf c * 2 ^ 2 + c % 4)
  | 0x01 => w64 s.beat
  | 0x02 => w64 ((k.eng .l).state.code + 8 * (k.eng .a).state.code + 64 * (k.eng .s).state.code
              + 512 * (k.eng .m).state.code + 4096 * (k.eng .x).state.code)
  | 0x03 => w64 s.frame.fno
  | 0x04 => w64 ((if s.frame.stretch then 2 ^ 32 else 0) + s.frame.fofs % 2 ^ 32)
  | 0x05 => w64 s.frame.next
  | 0x06 => k.cr.vlend.setWidth 64
  | 0x07 => k.cr.fflags.setWidth 64
  | 0x08 => k.cr.fenable.setWidth 64
  | 0x09 => w64 (k.cr.spcount * 2 ^ 48 + k.cr.spfirst * 2 ^ 24 + (if k.cr.spwarn then 1 else 0))
  | 0x0A => wBool k.cr.tcheck
  | 0x0B => k.cr.mlive.setWidth 64
  | 0x0C => w64 ((if o.circ then 4 else 0) + (if o.conv then 2 else 0) + (if k.c.hlevel then 1 else 0))
  | 0x40 => k.tr.tcause
  | 0x41 => k.tr.tpc.setWidth 64
  | 0x42 => k.tr.tstep
  | 0x43 => k.tr.taddr
  | 0x44 => k.tr.tinfo
  | 0x45 => k.tr.twalk
  | 0x46 => k.tr.thsel.setWidth 64
  | 0x47 => (mget Hist.rest k.tr.hist k.tr.thsel.toNat).word0
  | 0x48 => (mget Hist.rest k.tr.hist k.tr.thsel.toNat).word1
  | 0x4A => k.tr.tctl
  | 0x4B => k.tr.mbase
  | 0x4C => k.tr.tbeat
  | _ => mget 0 k.tr.hs (n % 8)

/-- Every field of the register is read-only (R349). -/
def csrReadOnly (n : Nat) : Bool :=
  n ≤ 0x04 || n == 0x0C || n == 0x40 || (0x42 ≤ n && n ≤ 0x45) || n == 0x47 || n == 0x48 || n == 0x4C

/-- The register is written at handler level only (R347, R348, R441). -/
def csrHandlerOnly (n : Nat) : Bool := n == 0x05 || 0x40 ≤ n

/-- A write that is ignored and logged as a bad control-register write (R349). -/
def State.badCsr (s : State) : State := s.onHere fun k => { k with cr := { k.cr with badcsr := k.cr.badcsr + 1 } }

/-- A write of vlend (R62, R63): a lent register whose bit is written clear has its lease revoked. -/
def State.writeVlend (s : State) (v : BitVec 16) : State :=
  if !s.feature 3 then s.badCsr
  else
    let cut := s.here.pl.lent.filter fun r => !v.getLsbD (r - 40)
    let s := (s.lessees s.turn.core).foldl (fun t m => match (t.coreAt m).pl.lease with
      | some l => if l.regs.any cut.contains then t.revokeLease m else t
      | none => t) s
    s.onHere fun k =>
      { k with cr := { k.cr with vlend := k.pl.lent.foldl (fun u r => u &&& ~~~(1#16 <<< (r - 40))) v } }

/-- Register n takes the value v in its read-write fields; sets holds the bits on which a write-only field acts, clears
those that a write-1-to-clear field clears (R349 and the register's own rule). -/
def State.csrPut (s : State) (n : Nat) (v sets clears : Word) : State :=
  let cr (f : Ctrls → Ctrls) : State := s.onHere fun k => { k with cr := f k.cr }
  let tr (f : TrapState → TrapState) : State := s.onHere fun k => { k with tr := f k.tr }
  match n with
  | 0x05 =>
    if 1024 ≤ v.toNat ∧ v.toNat ≤ 1048576 then { s with frame := { s.frame with next := v.toNat } } else s.badCsr
  | 0x06 => s.writeVlend (v.setWidth 16)
  | 0x07 => cr fun r => { r with fflags := r.fflags &&& ~~~(clears.setWidth 5) }
  | 0x08 => cr fun r => { r with fenable := v.setWidth 5 }
  | 0x09 => cr fun r =>
      if sets.getLsbD 1 then { r with spwarn := v.getLsbD 0, spcount := 0, spfirst := 0 }
      else { r with spwarn := v.getLsbD 0 }
  | 0x0A => if v.getLsbD 0 && !s.feature 4 then s.badCsr else cr fun r => { r with tcheck := v.getLsbD 0 }
  | 0x0B => cr fun r => { r with mlive := v.setWidth 8 }
  | 0x41 => tr fun t => { t with tpc := v.setWidth 14 }
  | 0x46 => tr fun t => { t with thsel := v.setWidth 6 }
  | 0x4A =>
    if v &&& 0xFFFFFFFFFFFEFEE0 ≠ 0 then s.badCsr
    else tr fun t => { t with own := v.getLsbD 16, fail := v.getLsbD 8, restart := v.setWidth 5 }
  | 0x4B => tr fun t => { t with mbase := v }
  | _ => tr fun t => { t with hs := mset 0 t.hs (n % 8) v }

/-- `csrr` (R349) -/
def execCsrr (d : BitVec 6) (n : BitVec 7) (s : State) : Out :=
  cIssue s [] [] (some d) fun s => (s.writeDst d 2 (s.csrValue n.toNat)).advance

/-- `csrw`, `csrs` and `csrc`: f gives the new value of a read-write field from the old one and a, g the bits on
which a write-only field acts, h those that a write-1-to-clear field clears (R347, R349). -/
def doCsr (f : Word → Word → Word) (g h : Word → Word) (o : KForm) (s : State) : Out :=
  let n := o.n.toNat
  if csrHandlerOnly n && !s.here.c.hlevel then .next (s.trapAt 0x50 0)
  else if csrReadOnly n then .next (s.trapAt 0x51 0)
  else cIssue s [(o.a, o.p)] [] (some o.d) fun s =>
    let a := s.readSrc o.a o.p
    let old := a.2.csrValue n
    ((a.2.csrPut n (f old a.1) (g a.1) (h a.1)).writeDst o.d 2 old).advance

/-- `csrw` (R349) -/
def execCsrw (o : KForm) (s : State) : Out := doCsr (fun _ a => a) id id o s
/-- `csrs` (R349) -/
def execCsrs (o : KForm) (s : State) : Out := doCsr (fun old a => old ||| a) id (fun _ => 0) o s
/-- `csrc` (R349) -/
def execCsrc (o : KForm) (s : State) : Out := doCsr (fun old a => old &&& ~~~a) (fun _ => 0) id o s

/-! ## Engine control (R51, R53, R363 to R365) -/

/-- A stream starts at a step (R27, R313, R363, R365). -/
def Eng.start (e : Eng) (step : BitVec 13) (beat : Nat) : Eng :=
  { e with state := .running, step := step, rb := 0, lc0 := 0, lc1 := 0, arm0 := false, arm1 := false,
           prefx := none, fault := none, closing := false, ready := beat + 1 }

/-- A stream of a core starts at a step; for A the quantizer state is invalid (R363). -/
def Core.startEng (c : Core) (e : Stream) (step : BitVec 13) (beat : Nat) : Core :=
  let k := c.onEng e fun g => g.start step beat
  if e = .a then { k with ve := { k.ve with qs := Qs.rest } } else k

/-- The table base of a stream in the operands of `fork` (R363). -/
def forkBase (a b : Word) (e : Stream) : BitVec 13 :=
  match e with
  | .l => a.extractLsb' 0 13
  | .a => a.extractLsb' 13 13
  | .s => a.extractLsb' 26 13
  | .m => a.extractLsb' 39 13
  | _ => b.extractLsb' 0 13

/-- The fields of `fork`'s operands are in range: zero bits, and slip depths of the pairs it starts (R51, R363). -/
def forkOk (m : BitVec 5) (a b : Word) : Bool :=
  let okDepth (i j lo : Nat) : Bool :=
    !(m.getLsbD i && m.getLsbD j) || (decide (1 ≤ bitsOf b lo 6) && decide (bitsOf b lo 6 ≤ 32))
  bitsOf a 52 12 == 0 && bitsOf b 25 39 == 0 && okDepth 0 1 13 && okDepth 1 2 19

/-- The token FIFOs of the pairs that a `fork` starts are emptied and take its depths (R51). -/
def Vecs.setPairs (v : Vecs) (m : BitVec 5) (b : Word) : Vecs :=
  let v := if m.getLsbD 0 && m.getLsbD 1 then { v with fifoLA := 0, fifoAL := 0, depthLA := bitsOf b 13 6, marks := [] } else v
  if m.getLsbD 1 && m.getLsbD 2 then { v with fifoAS := 0, fifoSA := 0, depthAS := bitsOf b 19 6 } else v

/-- `fork` (R51, R363) -/
def execFork (o : SForm) (m : BitVec 5) (s : State) : Out :=
  match s.engineReport (maskStreams m) with
  | some r => .next (s.enterTrap s.turn.core r)
  | none =>
    if (maskStreams m).any fun e => (s.here.eng e).state != .idle then .next (s.trapAt 0x25 0)
    else cIssue s [(o.a, o.p), (o.b, o.q)] [] none fun s =>
      let a := s.readSrc o.a o.p
      let b := a.2.readSrc o.b o.q
      if !forkOk m a.1 b.1 then s.trapAt 0x26 0
      else
        (b.2.onHere fun c =>
          (maskStreams m).foldl (fun k e => k.startEng e (forkBase a.1 b.1 e) s.beat)
            { c with ve := c.ve.setPairs m b.1 }).advance

/-- The token FIFOs of every pair whose two streams are both idle are emptied (R53, R364); what L wrote is in flight for no one then (log
144). -/
def Core.dropPairs (c : Core) : Core :=
  let idle (e : Stream) : Bool := (c.eng e).state == .idle
  let v := if idle .l && idle .a then { c.ve with fifoLA := 0, fifoAL := 0, marks := [] } else c.ve
  let v := if idle .a && idle .s then { v with fifoAS := 0, fifoSA := 0 } else v
  { c with ve := v }

/-- `rdv` (R53, R364) -/
def execRdv (m : BitVec 5) (s : State) : Out :=
  let settled (e : Stream) : Bool :=
    match (s.here.eng e).state with
    | .running => false
    | .stalled => false
    | _ => true
  if !(maskStreams m).all settled then .next (s.stalled true)
  else match s.engineReport (maskStreams m) with
    | some r => .next (s.enterTrap s.turn.core r)
    | none => cIssue s [] [] none fun s =>
      (s.onHere fun c => ((maskStreams m).foldl
        (fun k e => k.onEng e fun g => { g with state := .idle }) c).dropPairs).advance

/-- The micro-orders of stream e that have issued and are not complete; a port's walk is none of them (R364). -/
def Core.ordersOut (c : Core) (e : Stream) : Bool :=
  c.ve.jobs.any fun j => j.eng == e && match j.work with
    | .fetch _ _ _ => false
    | .drain _ _ => false
    | _ => true

/-- `estop` (R264, R364); the last word of the memory has no successor and does nothing (R18, R185) -/
def execEstop (m : BitVec 5) (s : State) : Out :=
  if !s.hasNext then .next (s.trapAt 0x22 0) else
  let s := s.onHere fun c => (maskStreams m).foldl
    (fun k e => k.onEng e fun g => { g with closing := true, markers := [] }) c
  if (maskStreams m).any s.here.ordersOut then .next (s.stalled false)
  else cIssue s [] [] none fun s =>
    (s.onHere fun c => ((maskStreams m).foldl (fun k e => k.onEng e fun g =>
      { g with state := .idle, closing := false, fault := none, prefx := none, pushing := [] }) c).dropPairs).advance

/-- `ebase` (R365) -/
def execEbase (o : OForm) (m : BitVec 5) (s : State) : Out :=
  match maskStreams m with
  | [e] =>
    cIssue s [(o.a, o.p)] [] none fun s =>
      let a := s.readSrc o.a o.p
      if bitsOf a.1 13 51 ≠ 0 then s.trapAt 0x26 0
      else if (s.here.eng e).state = .stopped then (s.onHere fun c => c.onEng e fun g => { g with closing := false }).trapAt 0x25 0
      else if s.here.ordersOut e then
        (s.onHere fun c => c.onEng e fun g => { g with closing := true }).stalled false
      else (a.2.onHere fun c => c.startEng e (a.1.extractLsb' 0 13) s.beat).advance
  | _ => .next (s.trapAt 0x26 0)

/-! ## The end of the control stream (R57, R58, R367) -/

/-- Every engine stream is idle, done or stopped (R367). -/
def Core.enginesRest (c : Core) : Bool :=
  [Stream.l, .a, .s, .m, .x].all fun e => match (c.eng e).state with
    | .running => false
    | .stalled => false
    | _ => true

/-- An event is pending that C takes before its task leaves running (R373, log 66). -/
def State.eventFirst (s : State) : Bool := s.here.tr.events != [] && !s.here.c.hlevel

/-- The task of the current core leaves running for draining; the core stays with it (R40, R367). -/
def State.drainTask (s : State) : State :=
  let s := (s.fireWatches s.turn.core).endEval (s.taskNo s.turn.core)
  (s.onTask (s.taskNo s.turn.core) fun x => { x with st := .draining }).onHere fun c =>
    { c with pl := { c.pl with phase := .draining, preempt := false }, c := { c.c with issued := true, evOk := false, cwait := none } }

/-- `halt` (R40, R367) -/
def execHalt (s : State) : Out :=
  if !s.here.enginesRest then .next (s.stalled true)
  else match s.engineReport [.l, .a, .s, .m, .x] with
    | some r => .next (s.enterTrap s.turn.core r)
    | none => s.fence fun s => .next (if s.eventFirst then s.stalled true else s.drainTask)

/-- The tracker entries that the outstanding stores and copies of a task take (R57). -/
def State.trackerNeed (s : State) : Nat :=
  let t := s.taskNo s.turn.core
  let out (g : Agent) : Bool := s.accs.any fun e => match e.2 with
    | some a => a.agent == g && a.core == s.turn.core && a.task == t && a.sq
    | none => false
  (if out .c then 1 else 0) + (if out .s then 1 else 0) + s.here.copiesOut

/-- A load of the current core's task is outstanding, of C or of L, a port's among them (R57). -/
def State.loadsLeft (s : State) : Bool :=
  s.loadsOut s.turn.core != 0 || s.here.ve.jobs.any fun j => j.eng == .l && j.task == s.taskNo s.turn.core

/-- The task of the current core leaves running for tailed, and the core is free (R57). -/
def State.tailTask (s : State) : State :=
  let n := s.turn.core
  let t := s.taskNo n
  let s := (s.releaseCore n).onTask t fun x => { x with st := .tailed }
  s.onCore n fun c => { Core.freed { c with ve := { c.ve with engs := [] } } with
                        pl := { (Core.freed c).pl with tailed := some t } }

/-- `tail` (R57, R58, R367) -/
def execTail (s : State) : Out :=
  if !s.here.enginesRest then .next (s.stalled true)
  else match s.engineReport [.l, .a, .s, .m, .x] with
    | some r => .next (s.enterTrap s.turn.core r)
    | none =>
      if s.loadsLeft ∨ 8 < s.trackerNeed ∨ s.here.pl.tailed.isSome then .next (s.stalled true)
      else match s.takePending ⟨0, 0, 0, true⟩ with
        | some (r, s') => .next (s'.enterTrap s.turn.core r)
        | none =>
          let f := s.here.cr.fflags &&& s.here.cr.fenable
          if f ≠ 0 then
            .next (s.enterTrap s.turn.core ⟨6, 0, arithCause f, s.here.c.pc, 0, 0, 0, f.setWidth 64, 0, none⟩)
          else .next (if s.eventFirst then s.stalled true else s.tailTask)

/-- The core begins to drain for a pre-emption, keeping these accumulator tiles; the task's row is kept for it (R40, R187,
R326, R368, R456). -/
def State.beginSave (s : State) (n : Nat) (mask : BitVec 8) : State :=
  let s := s.onTask (s.taskNo n) fun x => { x with row := s.freeRow x.die }
  s.onCore n fun c =>
    { c with pl := { c.pl with phase := .saving, saveMask := mask, saveBeat := none, preempt := false }
             mx := { c.mx with gate := false } }

/-- `ppoint` (R368, R452): the request is taken when the task holds a context slot -/
def execPpoint (m : BitVec 8) (s : State) : Out :=
  cIssue s [] [] none fun s =>
    if s.canPreempt s.turn.core then s.advance.beginSave s.turn.core m else s.advance

/-! ## Calls, breakpoints, return (R372, R443, R445) -/

/-- `sysc` (R372): returns to the next instruction -/
def execSysc (c : BitVec 20) (s : State) : Out :=
  if s.hasNext then
    .next (s.enterTrap s.turn.core
      ⟨5, 0, 0x54, s.here.c.pc + 1, 0, 0, 0, (0x3F#6 ++ 0x0D#6 ++ c : W32).setWidth 64, 0, none⟩)
  else .next (s.trapAt 0x22 0)
/-- `brk` (R372): returns to itself -/
def execBrk (c : BitVec 20) (s : State) : Out :=
  .next (s.enterTrap s.turn.core
    ⟨5, 0, 0x55, s.here.c.pc, 0, 0, 0, (0x3F#6 ++ 0x0E#6 ++ c : W32).setWidth 64, 0, none⟩)

/-- C writes are in flight: results in their shadow, pushes, or load-count accesses (R186). -/
def State.cInFlight (s : State) (n : Nat) : Bool :=
  (s.coreAt n).c.pend != [] || (s.coreAt n).c.pushes != [] || s.loadsOut n != 0

/-- `eret` (R347, R372, R445): completes every C write in flight first -/
def execEret (s : State) : Out :=
  if !s.here.c.hlevel then .next (s.trapAt 0x50 0)
  else if s.cInFlight s.turn.core then .next (s.stalled false)
  else .next (s.leaveTrap s.turn.core)

end Sys2Proof.Machine
end

