-- ==== Sys2Proof/Machine/Fab.lean ====
section
/-!
DEFINITION. The meanings of the instructions that post tasks, wait on station flags, send messages, place and answer
cells, and lease registers (15_ins_fabric_system.md R355, R356, R360 to R362, R366, R369 to R371).
-/

namespace Sys2Proof.Machine

/-- "bad operand" of the current instruction. -/
def State.badOperand (s : State) : State := s.trapAt 0x52 0

/-! ## Posting (R41, R42, R366) -/

/-- The sixteen words at a place, as an owner's access reads them. -/
def State.words16 (s : State) (o : Nat) (l : Loc) : List Word :=
  (List.range 16).map fun i => w64 (s.wordAt o (l.plus (8 * i)) 8)

/-- The checks of R257 for a block of n bytes at an address, block by block; the lowest faulting address is reported. -/
def State.blockCheck (s : State) (n : Need) (ea : Nat) : Nat → Except MemFault (List Loc)
  | 0 => .ok []
  | k + 1 => match s.memCheck (w64 ea) 64 64 n with
    | .error e => .error e
    | .ok l => match s.blockCheck n (ea + 64) k with
      | .ok ls => .ok (l :: ls)
      | .error e => .error e

/-- A peer location among the places is not permitted (R42, R360). -/
def noPeer (ea : Nat) (ls : List Loc) : Except MemFault (List Loc) :=
  if ls.any fun l => match l with
    | .peer _ _ _ => true
    | _ => false
  then .error (causeScope, ea) else .ok ls

/-- The counter addresses that a descriptor names are readable and not at a peer (R42). -/
def State.condCheck (s : State) (ws : List Word) : Nat → Option MemFault
  | 0 => none
  | k + 1 => match s.condCheck ws k with
    | some e => some e
    | none =>
      let ca := ws.getD (8 + 2 * k) 0
      if ca.toNat % 8 ≠ 0 then none
      else match s.memCheck ca 8 8 .load with
        | .error e => if e.1 = causeUninit ∨ e.1 = causeBadTag ∨ e.1 = causeUnallocated then none else some e
        | .ok (.peer _ _ _) => some (causeScope, ca.toNat)
        | .ok _ => none

/-- The number of conditions of a descriptor (R41). -/
def descConds (ws : List Word) : Nat := bitsOf (ws.getD 3 0) 57 3
/-- The target die of a descriptor (R41). -/
def descDie (ws : List Word) : Nat := bitsOf (ws.getD 3 0) 60 3

/-- The two blocks of a descriptor as sixteen words. -/
def State.descWords (s : State) (ls : List Loc) : List Word :=
  ls.flatMap fun l => (List.range 8).map fun i => w64 (s.wordAt s.accOwner (l.plus (8 * i)) 8)

/-- The first of the places whose block cannot be read is counted, if it is an uncorrectable one (R464). -/
def State.countFound (s : State) (ls : List Loc) : State :=
  match ls.find? fun l => (s.pocFault l).isSome with
  | some l => s.countBad ((s.pocFault l).getD 0) l
  | none => s

/-- `post` (R41, R42, R366): C reads the descriptor and offers it, for the task's owner, to the timetable of the die it names; a
fault found at the descriptor's point of coherence comes back as for a load (R258) -/
def execPost (o : UForm) (s : State) : Out :=
  if chanField o.d then .next (s.trapAt 0x4B 0)
  else cIssue s [(o.a, o.p)] [] (some o.d) fun s =>
    let a := s.readSrc o.a o.p
    match (s.blockCheck .load a.1.toNat 2).bind (noPeer a.1.toNat) with
    | .error e => s.memTrap e
    | .ok ls =>
      let ws := s.descWords ls
      match s.condCheck ws (min 4 (descConds ws)) with
      | some e => s.memTrap e
      | none =>
        if !s.queueRoom true false then s.stalled true
        else
          let x := { s.cAccess (.dsm (descDie ws) 0) a.1.toNat (.post (descDie ws) ws) o.d true false 9 with
                     owner := s.ownerOn s.turn.core }
          match ls.findSome? s.pocFault with
          | some c => ((a.2.countFound ls).commitC { x with stage := .performed, res := .err c } false).2.advance
          | none => ((a.2.warnPieces s.turn.core (ls.map fun l => (l, 64))).commitC x false).2.advance

/-! ## Station flags and messages (R146, R355, R356) -/

/-- Flag f of the station of a compute die, as its word (R146). -/
def State.stationFlag (s : State) (die f : Nat) : Word := mget 0 (s.dieAt die).sflags f

/-- `sfwait` (R355) -/
def execSfwait (o : RForm) (s : State) : Out :=
  cIssue s [(o.a, o.p), (o.b, o.q)] [] (some o.d) fun s =>
    let a := s.readSrc o.a o.p
    let b := a.2.readSrc o.b o.q
    let die := dieOf s.turn.core
    let f := bitsOf a.1 0 4
    let w := s.stationFlag die f
    if bitsOf a.1 5 59 ≠ 0 then s.badOperand
    else if (w.extractLsb' 32 32 - b.1.setWidth 32).toInt < 0 then s.stalled true
    else
      let raise (t : State) : State :=
        t.onHere fun k => { k with cr := { k.cr with fflags := k.cr.fflags ||| w.setWidth 5 } }
      let take := a.1.getLsbD 4
      if w.getLsbD 7 && !take then (raise s).trapAt 0x34 0
      else
        let t := raise b.2
        let t := if take then
            let t := t.onDie die fun d => { d with sflags := mset 0 d.sflags f (w &&& ~~~0xDF) }
            if w.getLsbD 7 then t.onHere fun k =>
              { k with tr := { k.tr with sticky := k.tr.sticky ++ [⟨0x34, 0, k.c.pc.toNat, 0⟩] } }
            else t
          else t
        (t.writeDst o.d 1 w).advance

/-- `bemsg` (R356) -/
def execBemsg (o : RForm) (s : State) : Out :=
  if chanField o.d then .next (s.trapAt 0x4B 0)
  else cIssue s [(o.a, o.p), (o.b, o.q)] [] (some o.d) fun s =>
    let a := s.readSrc o.a o.p
    let b := a.2.readSrc o.b o.q
    if 192 ≤ a.1.toNat then s.badOperand
    else if !s.queueRoom true true then s.stalled true
    else
      (b.2.commitC { s.cAccess (.scr a.1.toNat 0x400000) 0 (.bemsg b.1) o.d true true 9 with
        owner := s.ownerOn s.turn.core } false).2.advance

/-! ## Cells (R360 to R362) -/

/-- The local block at an address: aligned to 64, in the local window, readable (R257, R351). -/
def State.localBlock (s : State) (ea : Nat) : Except MemFault Loc :=
  if 2 ^ 22 ≤ ea ∧ ea < 2 ^ 52 ∧ ea % 64 = 0 then .error (causeScope, ea) else s.memCheck (w64 ea) 64 64 .load

/-- The block at a place as the current core's C stream reads it. -/
def State.readBlk (s : State) (l : Loc) : Blk := s.mem.maskedBlk (blkOf l) (s.mem.blkUnder (s.keyOf s.accOwner) (blkOf l))

/-- A descriptor that `fdown` accepts (R175, R360). -/
def cellDescOk (b : Blk) : Bool :=
  bitsOf (b.word 0) 48 16 == 0 && bitsOf (b.word 0) 37 3 == 0 && cellPlace b != 3 &&
    bitsOf (b.word 1) 52 12 == 0 && bitsOf (b.word 2) 52 12 == 0 && bitsOf (b.word 3) 52 12 == 0 &&
    b.word 4 == 0 && b.word 5 == 0 && b.word 6 == 0 && b.word 7 == 0

/-- The checks of a cell's address: aligned to 64, with write right, not at a peer (R360, R362). -/
def State.cellCheck (s : State) (ea : Word) : Except MemFault Loc :=
  match s.memCheck ea 64 64 .store with
  | .ok (.peer _ _ _) => .error (causeScope, ea.toNat)
  | r => r

/-- `fdown` (R360): needs feature 1 -/
def execFdown (o : RForm) (s : State) : Out :=
  if !s.feature 1 then .next (s.trapAt causeFeature 0)
  else if chanField o.d then .next (s.trapAt 0x4B 0)
  else cIssue s [(o.a, o.p), (o.b, o.q)] [] (some o.d) fun s =>
    let a := s.readSrc o.a o.p
    let b := a.2.readSrc o.b o.q
    match s.cellCheck a.1, s.localBlock b.1.toNat with
    | .error e, _ => s.memTrap e
    | _, .error e => s.memTrap e
    | .ok l, .ok m =>
      let x := s.readBlk m
      if !cellDescOk x then s.trapAt 0x36 b.1.toNat
      else if !s.queueRoom true true then s.stalled true
      else
        ((b.2.warn m 64).commitC (s.cAccess l a.1.toNat (.fdown ⟨x.data, 0xF000⟩) o.d true true 9) false).2.advance

/-- `fpeek` (R361) -/
def execFpeek (o : UForm) (s : State) : Out :=
  cAccessIssue s [(o.a, o.p)] [] (some o.d) true false false
    (fun v s => s.chk (v.getD 0 0) 1 1 ⟨.read, false, true⟩)
    (fun v l s => s.cAccess l (v.getD 0 0).toNat .fpeek o.d true false 9)

/-- The bytes that a store of C writes into the scratchpad (R256, R270, R272, R279). -/
def AOp.localBytes : AOp → Nat
  | .store w _ => w
  | .amo _ w _ _ => w
  | .cas w _ _ _ => w
  | .sqadd _ => 8
  | .swinit _ => 16
  | _ => 0

/-- Earlier stores of the current C stream have still to write word w of the scratchpads. -/
def State.wordToCome (s : State) (w : Nat) : Bool :=
  s.accs.any fun e => match e.2 with
    | some a => a.agent == .c && a.core == s.turn.core && a.task == s.taskNo s.turn.core &&
        decide (0 < a.op.localBytes) && (wordsTouched (blkOf a.loc) (inBlk a.loc) a.op.localBytes).contains w
    | none => false

/-- The value block of `fup` at ea (R362): a `fup` follows every earlier access of its stream, so a word that one of its
stores has still to write is no uninitialised one (R135). DEDUCED. -/
def State.valueBlock (s : State) (ea : Nat) : Except MemFault Loc :=
  match s.localBlock ea with
  | .error (c, a) =>
    let l : Loc := .scr s.turn.core ea
    if c == causeUninit && (wordsTouched (blkOf l) 0 64).all fun w => mget false s.mem.valid w || s.wordToCome w then
      if !tagOk (s.feature 1) (mget 0 s.mem.tags (blkOf l)) then .error (causeBadTag, ea)
      else if mget false s.mem.bad (blkOf l) then .error (causeUncorrectable, ea)
      else .ok l
    else .error (c, a)
  | x => x

/-- `fup` (R135, R362): ordered as if a qalign stood before it; needs feature 1. Its value block is read when it leaves its queue, and in warn mode
the warning is counted then (R100). -/
def execFup (o : RForm) (s : State) : Out :=
  if !s.feature 1 then .next (s.trapAt causeFeature 0)
  else if chanField o.d then .next (s.trapAt 0x4B 0)
  else cIssue s [(o.a, o.p), (o.b, o.q)] [] (some o.d) fun s =>
    let a := s.readSrc o.a o.p
    let b := a.2.readSrc o.b o.q
    match s.cellCheck a.1, s.valueBlock b.1.toNat with
    | .error e, _ => s.memTrap e
    | _, .error e => s.memTrap e
    | .ok l, .ok m =>
      if !s.queueRoom true true then s.stalled true
      else
        let t := b.2.onCtl fun c => { c with epoch := c.epoch + 1 }
        let x := s.cAccess l a.1.toNat (.fup b.1.toNat (s.readBlk m)) o.d true true 9
        (t.commitC { x with epoch := x.epoch + 1 } false).2.advance

/-! ## Leases (R62, R63, R369 to R371) -/

/-- The lendable registers of a core, lowest first (R62). -/
def Core.lendable (c : Core) : List Nat := ((List.range 16).filter fun k => c.cr.vlend.getLsbD k).map (· + 40)

/-- The result of `lease` with operands a and b, and what it leaves (R369). -/
def State.leaseResult (s : State) (a b : Word) : Word × State :=
  let n := s.turn.core
  let c := n - n % 4 + bitsOf a 0 2
  let k := bitsOf b 0 5
  let area := bitsOf b 32 22
  let lessor := s.coreAt c
  let sameOwner := match lessor.pl.task, s.here.pl.task with
    | some _, some _ => s.ownerOn c == s.ownerOn n
    | _, _ => false
  let got := lessor.lendable.take k
  if bitsOf a 2 62 ≠ 0 ∨ c = n ∨ k = 0 ∨ 16 < k ∨ bitsOf b 5 27 ≠ 0 ∨ bitsOf b 54 10 ≠ 0 ∨ area % 256 ≠ 0
      ∨ !s.inRegion n area (256 * k) then (neg64 2, s)
  else if s.here.pl.lease.isSome then (neg64 3, s)
  else if !sameOwner || got == [] then (0, s)
  else
    let s := s.onCore c fun x =>
      { x with cr := { x.cr with vlend := got.foldl (fun v r => v &&& ~~~(1#16 <<< (r - 40))) x.cr.vlend }
               pl := { x.pl with lent := x.pl.lent ++ got } }
    (w64 got.length, s.onHere fun x => { x with pl := { x.pl with lease := some ⟨c, got, area, false, []⟩ } })

/-- `lease` (R369): needs feature 3 -/
def execLease (o : RForm) (s : State) : Out :=
  if !s.feature 3 then .next (s.trapAt causeFeature 0)
  else cIssue s [(o.a, o.p), (o.b, o.q)] [] (some o.d) fun s =>
    let a := s.readSrc o.a o.p
    let b := a.2.readSrc o.b o.q
    let r := b.2.leaseResult a.1 b.1
    (r.2.writeDst o.d 1 r.1).advance

/-- A rotating name of a stream as a physical register (R27). -/
def physV (rb k : Nat) : Nat := if k < 40 then (k + rb) % 40 else k
/-- A guard name of A as a physical guard (R27). -/
def physG (rb k : Nat) : Nat := if k < 8 then (k + rb) % 8 else k

/-- The lease slot that a and SLOT name, if the lease has it (R370). -/
def Core.leaseSlot (c : Core) (a : Word) (slot : BitVec 4) : Option Nat :=
  let k := (bitsOf a 0 4 + slot.toNat) % 16
  match c.pl.lease with
  | some l => if k < l.regs.length then some k else none
  | none => none

/-- A vector register written by an issued micro-order or filled, and not there yet (R183, R370). -/
def Core.vPending (c : Core) (r : Nat) : Bool :=
  c.inFlight (64 + r) || c.ve.jobs.any fun j => match j.work with
    | .arith ws => ws.any fun w => match w with
      | .v k _ => k == r
      | _ => false
    | .vload k _ _ => k == r
    | _ => false

/-- It is so, or L wrote it and A has not reached it through link tokens. -/
def Core.vBusy (c : Core) (r : Nat) : Bool := mget 0 c.ve.marks r != 0 || c.vPending r
/-- It is so for C, which has reached what an idle L wrote (R53, log 144). -/
def Core.vBusyC (c : Core) (r : Nat) : Bool := (mget 0 c.ve.marks r != 0 && (c.eng .l).state != .idle) || c.vPending r

/-- `spill` (R370): needs feature 3; in checked mode a register in a shadow traps (R184) -/
def execSpill (o : VForm) (s : State) : Out :=
  if !s.feature 3 then .next (s.trapAt causeFeature 0)
  else cIssue s [(o.a, o.p)] [] none fun s =>
    let a := s.readSrc o.a o.p
    let r := physV (s.here.eng .a).rb o.v.toNat
    match s.here.leaseSlot a.1 o.s with
    | none => s.trapAt 0x49 0
    | some k =>
      if s.here.cr.tcheck && s.here.vBusyC r then s.trapAt 0x24 0
      else if s.here.pl.lent.contains r then s.trapAt 0x4A 0
      else if !s.queueRoom false true then s.stalled true
      else (a.2.commitC (s.cAccess (.scr s.turn.core 0) 0 (.spill k (mget Vec.zero s.here.ve.v r)) 0 false true 9)
        false).2.advance

/-- `fill` (R63, R370): needs feature 3. Which lease it reads, and which spill, is fixed as it issues -/
def execFill (o : VForm) (s : State) : Out :=
  if !s.feature 3 then .next (s.trapAt causeFeature 0)
  else cIssue s [(o.a, o.p)] [] none fun s =>
    let a := s.readSrc o.a o.p
    let r := physV (s.here.eng .a).rb o.v.toNat
    match s.here.leaseSlot a.1 o.s with
    | none => s.trapAt 0x49 0
    | some k =>
      if s.here.cr.tcheck && s.here.vBusyC r then s.trapAt 0x24 0
      else if s.here.pl.lent.contains r then s.trapAt 0x4A 0
      else if !s.queueRoom true false then s.stalled true
      else
        let area := ((s.here.pl.lease.map Lease.area).getD 0) + 256 * k
        let x := s.cAccess (.scr s.turn.core area) area (.fill k) 0 true false 9
        let known := match s.slotValue s.turn.core k with
          | some v => Res.vec v
          | none => .none
        (a.2.commitC { x with dst := 64 + r, res := known } false).2.advance

/-- `unlease` (R371): waits for every issued spill; needs feature 3 -/
def execUnlease (o : OForm) (s : State) : Out :=
  if !s.feature 3 then .next (s.trapAt causeFeature 0)
  else cIssue s [(o.a, o.p)] [] none fun s =>
    let a := s.readSrc o.a o.p
    match s.here.pl.lease with
    | none => s.trapAt 0x49 0
    | some l =>
      if bitsOf a.1 2 62 ≠ 0 ∨ l.lessor % 4 ≠ bitsOf a.1 0 2 then s.trapAt 0x49 0
      else if s.spillsOf s.turn.core ≠ [] then s.stalled false
      else (a.2.endLease s.turn.core).advance

end Sys2Proof.Machine
end

