-- ==== Sys2Proof/Machine/Dealer.lean ====
section
/-!
DEFINITION. The dealer and its instructions: standing-table entries, what installation checks, and the meanings of
deal, undeal, stset, stclr and hand (06_conveyor.md R140, R141, R147; 15_ins_fabric_system.md R350 to R354). The
dealer serves a request on the beat it issues (log 21).
-/

namespace Sys2Proof.Machine

/-! ## Entries (R140) -/

/-- The handle of an entry. -/
def entHandle (e : BitVec 128) : Nat := bitsOf e 108 20
/-- The operation of an entry: 0 pass, 1 load, 2 copy, 3 add, 4 take. -/
def entOp (e : BitVec 128) : Nat := bitsOf e 105 3
/-- The mode of an entry: 0 i32w, 1 i32s, 2 f32, 3 exact. -/
def entMode (e : BitVec 128) : Nat := bitsOf e 103 2
/-- The form of an entry. -/
def entForm (e : BitVec 128) : Nat := bitsOf e 101 2
/-- Whether an entry raises a flag. -/
def entRaise (e : BitVec 128) : Bool := e.getLsbD 100
/-- The flag of an entry. -/
def entFlag (e : BitVec 128) : Nat := bitsOf e 96 4
/-- The buffer kind of an entry. -/
def entKind (e : BitVec 128) : Nat := bitsOf e 94 2
/-- The core of an entry's buffer. -/
def entCore (e : BitVec 128) : Nat := bitsOf e 89 5
/-- Whether an entry becomes pass after its cycle. -/
def entOnce (e : BitVec 128) : Bool := e.getLsbD 88
/-- Acts per cycle. -/
def entActs (e : BitVec 128) : Nat := bitsOf e 64 16 + 1
/-- The buffer's start. -/
def entOffset (e : BitVec 128) : Nat := bitsOf e 24 40
/-- The offset of an entry's sync word, if its deposits count. -/
def entSync (e : BitVec 128) : Option Nat := if e.getLsbD 5 then some (bitsOf e 6 18 * 16) else none
/-- The step of an entry's buffer: 64 bytes for value blocks of exact mode, else 512 (R140, R145). -/
def entStep (e : BitVec 128) : Nat := if entMode e = 3 && entForm e != 1 then 64 else 512

/-- The fields of an entry have values that R140 and R145 give. -/
def entFieldsOk (e : BitVec 128) : Bool :=
  let op := entOp e
  op ≤ 4 && bitsOf e 80 8 == 0 && bitsOf e 0 5 == 0 && bitsOf e 24 6 == 0 && entCore e < 24 &&
    (entMode e == 3 || entForm e == 0) && entForm e != 3 && !(entForm e == 2 && (op == 1 || op == 3)) &&
    (entKind e == 0 || !e.getLsbD 5)

/-- The addresses of the 4 KiB granules that n bytes from a touch. -/
def granules (a n : Nat) : List Nat := (upFrom (a / 4096) ((a + n - 1) / 4096 - a / 4096 + 1)).map (4096 * ·)

/-- Whether a control word of a translation entry is valid, of kind HBM and grants a right, and its target names the
granule. -/
def namesGranule (c : Word) (target len g : Nat) (r : Right) : Bool :=
  c.getLsbD 0 && ctlKind c == 0 && grants c r && decide (target ≤ g) && decide (g + 4096 ≤ target + len)

/-- Some page entry below a node names the granule (R141, R419). -/
def State.pageNames (s : State) (g : Nat) (r : Right) : List (Nat × Nat × Nat) → Nat → Bool
  | [], _ => false
  | (sh, bits, _) :: rest, node =>
    (List.range (2 ^ bits)).any fun i =>
      match s.hbmWord (node + 16 * i), s.hbmWord (node + 16 * i + 8) with
      | some t, some c =>
        if c.getLsbD 9 then c.getLsbD 0 && s.pageNames g r rest t.toNat else namesGranule c t.toNat (2 ^ sh) g r
      | _, _ => false

/-- A granule is covered by a valid entry of an owner, with the right (R141). -/
def State.granuleMapped (s : State) (o g : Nat) (r : Right) : Bool :=
  ((s.ownerAt o).ranges.any fun e => namesGranule e.2.ctl e.2.target.toNat e.2.len.toNat g r) ||
    ((s.ownerAt o).root != 0 && s.pageNames g r pageLevels (s.ownerAt o).root)

/-- A group's owner holds an entry's buffer at the station of a mortise, and the buffer lies in the memory of its kind
there (R141). -/
def State.entBufferOk (s : State) (e : BitVec 128) (owner mort : Nat) : Bool :=
  let n := entActs e * entStep e
  let a := entOffset e
  match entKind e with
  | 0 => decide (a + n ≤ 2 ^ 22) && (s.coreAt (24 * mort + entCore e)).pl.task.isSome &&
      s.ownerOn (24 * mort + entCore e) == owner
  | 1 => decide (a + n ≤ 2 ^ 26) &&
      (upFrom (a / 2 ^ 21) ((a + n - 1) / 2 ^ 21 - a / 2 ^ 21 + 1)).all fun r =>
        mget 0 (s.dieAt mort).dmap r == BitVec.ofNat 8 (128 + owner)
  | 2 => decide (a + n ≤ 2 ^ 40) && (granules a n).all fun g =>
      (match homeOf s.placing g with
        | some h => sliceMort h.1 == mort
        | none => false) &&
      s.granuleMapped owner g (if entOp e = 1 ∨ entOp e = 3 then .read else .write)
  | _ => entOp e == 2

/-- An entry that the station of a mortise accepts for a group's owner (R140, R141); mode 3 needs feature 0 (R412). -/
def State.entryOk (s : State) (e : BitVec 128) (owner mort : Nat) : Bool :=
  entFieldsOk e && (entMode e != 3 || s.feature 0) &&
    (if mort < 8 then entKind e != 2 && (entKind e != 3 || entOp e == 2)
     else if mort < 24 then entKind e == 2 && !entRaise e else false) &&
    (entOp e == 0 || s.entBufferOk e owner mort)

/-! ## Records in the local window (R351, R353) -/

/-- An entry record: the entry, its place word and its last word. -/
structure ERec where
  entry : BitVec 128
  place : Word
  last : Word
  deriving DecidableEq, Repr

/-- The strand, slot and position of an entry record, and its reserved bits. -/
def ERec.strand (r : ERec) : Nat := bitsOf r.place 60 4
/-- The slot. -/
def ERec.slot (r : ERec) : Nat := bitsOf r.place 54 6
/-- The position. -/
def ERec.pos (r : ERec) : Nat := bitsOf r.place 48 6

/-- Word i of 64 bits from a local offset of the current core. -/
def State.localWord (s : State) (o : Nat) : Word := w64 (s.wordAt s.accOwner (.scr s.turn.core o) 8)
/-- The entry record at a local offset. -/
def State.recAt (s : State) (o : Nat) : ERec :=
  ⟨BitVec.ofNat 128 ((s.localWord (o + 8)).toNat * 2 ^ 64 + (s.localWord o).toNat), s.localWord (o + 16),
    s.localWord (o + 24)⟩

/-- The checks of R257 for n pieces of 32 bytes from a local address. -/
def State.localPieces (s : State) (ea : Nat) : Nat → Except MemFault Unit
  | 0 => .ok ()
  | k + 1 =>
    if 2 ^ 22 ≤ ea ∧ ea < 2 ^ 52 then .error (causeScope, ea)
    else match s.memCheck (w64 ea) 32 32 .load with
      | .error e => .error e
      | .ok _ => s.localPieces (ea + 32) k

/-- A record of n pieces of 32 bytes at a local address has been read (R100, R351). -/
def State.warnRec (s : State) (ea n : Nat) : State :=
  s.warnPieces s.turn.core ((List.range n).map fun i => (.scr s.turn.core (ea + 32 * i), 32))

/-! ## Requests -/

/-- A slot is in another hand at rotation n or taken by one later. -/
def Conv.taken (c : Conv) (key n handle : Nat) : Bool :=
  let other : Option Nat → Bool := fun h => match h with
    | some x => x != handle
    | none => false
  other (c.slotOwner key n) || (mget [] c.own key).any fun e => decide (n < e.1) && other e.2

/-- The handle names a live group of its incarnation (R59). -/
def State.handleLive (s : State) (h : Nat) : Bool :=
  let g := s.groupAt (handleId h)
  g.st == .live && g.inc.toNat == h % 256

/-- The result -5 of R350: the handle is not live, the task is no member, or the owners differ. -/
def State.handleBad (s : State) (h t : Nat) : Bool :=
  let g := s.groupAt (handleId h)
  !(s.handleLive h && g.members.contains t && some g.owner == (s.taskAt t).map Task.owner)

/-- The first of the results of R350 that holds, tested from the bottom row up; 0 when none does. -/
def dealResult (tests : List (Nat × Bool)) : Word :=
  match tests.find? Prod.snd with
  | some e => neg64 e.1
  | none => 0

/-- A deal record: rotation, its second word, the slot masks by strand, and the entry records (R351). -/
structure DealRec where
  n : Nat
  word : Word
  slots : List Word
  recs : List ERec
  zero : Bool
  deriving DecidableEq, Repr

/-- The deal record at a local offset; zero tells that its reserved words are zero. -/
def State.dealRec (s : State) (o : Nat) : DealRec :=
  let w := s.localWord (o + 8)
  { n := (s.localWord o).toNat, word := w, slots := (List.range 16).map fun k => s.localWord (o + 0x40 + 8 * k),
    recs := (List.range (bitsOf w 20 8)).map fun i => s.recAt (o + 0xC0 + 32 * i),
    zero := bitsOf w 33 31 == 0 && bitsOf w 28 4 == 0 &&
      (List.range 6).all fun i => s.localWord (o + 0x10 + 8 * i) == 0 }

/-- The slot keys (64 strand + slot) of a deal record. -/
def DealRec.keys (r : DealRec) : List Nat :=
  (List.range 1024).filter fun k => (r.slots.getD (k / 64) 0).getLsbD (k % 64)

/-- An entry record is good for a group's owner: a station stands at its position and accepts its entry, whose handle
is the request's. -/
def State.recOk (s : State) (r : ERec) (handle owner : Nat) : Bool :=
  entHandle r.entry == handle && bitsOf r.place 0 48 == 0 &&
    (match mortAt r.pos with
      | some m => s.entryOk r.entry owner m
      | none => false)

/-- Two entry records name one strand, slot and station. -/
def dupPlaces : List ERec → Bool
  | [] => false
  | r :: t => t.any (fun x => x.place == r.place) || dupPlaces t

/-- The dealt slots of a strand at rotation n, once the slots ks are those of a handle's hand from rotation start on: with those of the
other hands, and of a hand that the handle has accepted from a later rotation on (R147). -/
def Conv.dealtAt (c : Conv) (strand start n handle : Nat) (ks : List Nat) : Nat :=
  ((List.range 64).filter fun k => ks.contains (64 * strand + k) || (match c.slotOwner (64 * strand + k) n with
    | some x => x != handle || c.movesBy (64 * strand + k) start n
    | none => false)).length
/-- A handle holds a hand at rotation n, or has been dealt one from a later rotation on (R350). -/
def Conv.handFrom (c : Conv) (handle n : Nat) : Bool :=
  c.holdsHand handle n || (mget [] c.hands handle).any fun e => decide (n < e.1) && e.2
/-- Rotation n and the later ones at which a slot of a strand changes hands. -/
def Conv.changes (c : Conv) (strand n : Nat) : List Nat :=
  n :: (List.range 64).flatMap fun k => ((mget [] c.own (64 * strand + k)).map Prod.fst).filter fun r => decide (n < r)

/-- The result of a `deal` of task t (R350, R351). -/
def State.dealVerdict (s : State) (r : DealRec) (t : Nat) : Word :=
  let h := bitsOf r.word 0 20
  let ks := r.keys
  dealResult
    [(6, !r.word.getLsbD 32 && s.conv.handFrom h r.n),
     (5, s.handleBad h t),
     (4, !r.zero || r.recs == [] || dupPlaces r.recs || r.recs.any fun e =>
        !(s.recOk e h (s.groupAt (handleId h)).owner) || e.last != 0 || !ks.contains (64 * e.strand + e.slot)),
     (3, (List.range 16).any fun k => (s.conv.changes k r.n).any fun n => decide (36 < s.conv.dealtAt k r.n n h ks)),
     (2, ks.any fun k => s.conv.taken k r.n h),
     (1, decide (r.n < s.beat / 64 + 2))]

/-- The accepted `deal` (R148, R351). -/
def Conv.accept (c : Conv) (r : DealRec) (now : Nat) : Conv :=
  let h := bitsOf r.word 0 20
  let ks := r.keys
  let c := c.endHand h r.n now
  { c with
    own := ks.foldl (fun m k => mset [] m k (mget [] m k ++ [(r.n, some h)])) c.own
    hands := mset [] c.hands h (mget [] c.hands h ++ [(r.n, true)])
    installs := c.installs
      ++ (ks.flatMap fun k => (List.range 24).map fun m => ⟨r.n, entryKey (k / 64) m (k % 64), 0, now⟩)
      ++ r.recs.map fun e => ⟨r.n, entryKey e.strand ((mortAt e.pos).getD 0) e.slot, e.entry, now⟩ }

/-- The conveyor grant (R346, R347). -/
def State.convGrant (s : State) : Bool := (s.ownerAt (s.ownerOn s.turn.core)).conv

/-- `deal` (R347, R350, R351) -/
def execDeal (o : UForm) (s : State) : Out :=
  if !s.convGrant then .next (s.trapAt 0x50 0)
  else cIssue s [(o.a, o.p)] [] (some o.d) fun s =>
    let a := s.readSrc o.a o.p
    let ea := a.1.toNat
    if ea % 64 ≠ 0 then s.memTrap (if 2 ^ 52 ≤ ea then causeNonCanonical else causeMisaligned, ea)
    else match s.localPieces ea 6 with
      | .error e => s.memTrap e
      | .ok _ =>
        let r := s.dealRec ea
        match s.localPieces (ea + 0xC0) r.recs.length with
        | .error e => s.memTrap e
        | .ok _ =>
          let v := s.dealVerdict r (s.taskNo s.turn.core)
          let u := a.2.warnRec ea (6 + r.recs.length)
          let t := if v = 0 then u.onConv fun c => c.accept r s.beat else u
          (t.writeDst o.d 1 v).advance

/-- The result of an `undeal` of task t: operand words a and b (R350, R352). -/
def State.undealVerdict (s : State) (a b : Word) (t : Nat) : Word :=
  let h := bitsOf a 0 20
  dealResult
    [(6, !s.conv.holdsHand h b.toNat), (5, s.handleBad h t), (4, bitsOf a 20 44 != 0),
     (1, decide (b.toNat < s.beat / 64 + 2))]

/-- `undeal` (R347, R350, R352) -/
def execUndeal (o : RForm) (s : State) : Out :=
  if !s.convGrant then .next (s.trapAt 0x50 0)
  else cIssue s [(o.a, o.p), (o.b, o.q)] [] (some o.d) fun s =>
    let a := s.readSrc o.a o.p
    let b := a.2.readSrc o.b o.q
    let v := s.undealVerdict a.1 b.1 (s.taskNo s.turn.core)
    let t := if v = 0 then b.2.onConv fun c => c.endHand (bitsOf a.1 0 20) b.1.toNat s.beat else b.2
    (t.writeDst o.d 1 v).advance

/-- The result of a `stset` or `stclr`: handle h, entry e (0 for pass), whether the record's fields are good (R350,
R353). -/
def State.stVerdict (s : State) (h : Nat) (r : ERec) (ok : Bool) (t : Nat) : Word :=
  dealResult
    [(5, s.handleBad h t), (4, !ok),
     (2, s.conv.slotOwner (64 * r.strand + r.slot) r.last.toNat != some h),
     (1, decide (r.last.toNat < s.beat / 64 + 2))]

/-- An entry, or pass, put where a record says from its rotation on (R353). -/
def Conv.install (c : Conv) (r : ERec) (e : BitVec 128) (now : Nat) : Conv :=
  { c with installs := c.installs ++ [⟨r.last.toNat, entryKey r.strand ((mortAt r.pos).getD 0) r.slot, e, now⟩] }

/-- The record of a `stset` or `stclr` at an address, checked (R353). -/
def State.stRec (s : State) (ea : Nat) : Except MemFault ERec :=
  if ea % 32 ≠ 0 then .error (if 2 ^ 52 ≤ ea then causeNonCanonical else causeMisaligned, ea)
  else match s.localPieces ea 1 with
    | .error e => .error e
    | .ok _ => .ok (s.recAt ea)

/-- `stset` (R347, R350, R353) -/
def execStset (o : RForm) (s : State) : Out :=
  if !s.convGrant then .next (s.trapAt 0x50 0)
  else cIssue s [(o.a, o.p), (o.b, o.q)] [] (some o.d) fun s =>
    let a := s.readSrc o.a o.p
    let b := a.2.readSrc o.b o.q
    match s.stRec a.1.toNat with
    | .error e => s.memTrap e
    | .ok r =>
      let h := bitsOf b.1 0 20
      let ok := bitsOf b.1 20 44 == 0 && s.recOk r h (s.groupAt (handleId h)).owner
      let v := s.stVerdict h r ok (s.taskNo s.turn.core)
      let u := b.2.warnRec a.1.toNat 1
      let t := if v = 0 then u.onConv fun c => c.install r r.entry s.beat else u
      (t.writeDst o.d 1 v).advance

/-- `stclr` (R347, R350, R353) -/
def execStclr (o : UForm) (s : State) : Out :=
  if !s.convGrant then .next (s.trapAt 0x50 0)
  else cIssue s [(o.a, o.p)] [] (some o.d) fun s =>
    let a := s.readSrc o.a o.p
    match s.stRec a.1.toNat with
    | .error e => s.memTrap e
    | .ok r =>
      let h := entHandle r.entry
      let ok := bitsOf r.entry 0 108 == 0 && bitsOf r.place 0 48 == 0 && (match mortAt r.pos with
        | some m => decide (m < 24)
        | none => false)
      let v := s.stVerdict h r ok (s.taskNo s.turn.core)
      let u := a.2.warnRec a.1.toNat 1
      let t := if v = 0 then u.onConv fun c => c.install r 0 s.beat else u
      (t.writeDst o.d 1 v).advance

/-- The 64-bit slot mask of a handle's hand on a strand at a rotation. -/
def Conv.handMask (c : Conv) (handle strand n : Nat) : Word :=
  (List.range 64).foldl (fun m k => if c.slotOwner (64 * strand + k) n == some handle then m ||| (1#64 <<< k) else m) 0

/-- `hand` (R354) -/
def execHand (o : UForm) (s : State) : Out :=
  cIssue s [(o.a, o.p)] [] (some o.d) fun s =>
    let a := s.readSrc o.a o.p
    if bitsOf a.1 24 40 ≠ 0 then s.badOperand
    else
      let h := bitsOf a.1 0 20
      let g := s.groupAt (handleId h)
      let live := g.st == .live && g.inc.toNat == h % 256 && g.owner == s.ownerOn s.turn.core
      (a.2.writeDst o.d 1 (if live then s.conv.handMask h (bitsOf a.1 20 4) (s.beat / 64) else 0)).advance

end Sys2Proof.Machine
end

