-- ==== Sys2Proof/Machine/Circ.lean ====
section
/-!
DEFINITION. The circuit slot table, the controller, and the meanings of ctab, rcirc and cgen; tensor bindings and the
meanings of tbind and tunbind (07_circuits_cells.md R160 to R164; 15_ins_fabric_system.md R357 to R359;
12_ins_memory_sync.md R267 to R269).
-/

namespace Sys2Proof.Machine

/-- The circuit controller changed by f. -/
def State.onCirc (s : State) (f : Circ → Circ) : State := { s with circ := f s.circ }

/-! ## The table (R160, R161) -/

/-- The period T. -/
def CTable.period (t : CTable) : Nat := t.lens.foldl (· + ·) 0
/-- The rotation of a beat. -/
def CTable.rotation (t : CTable) (beat : Nat) : Nat := (beat - t.epoch) / t.period
/-- The slot that an offset into a rotation lies in, and the offset into that slot. -/
def slotIn : List Nat → Nat → Nat → Nat × Nat
  | [], i, o => (i, o)
  | l :: t, i, o => if o < l then (i, o) else slotIn t (i + 1) (o - l)
/-- The circuit slot of a beat, and how many beats of it have passed. -/
def CTable.slotAt (t : CTable) (beat : Nat) : Nat × Nat := slotIn t.lens 0 ((beat - t.epoch) % t.period)
/-- Port p's words differ between two tables (R162). -/
def wordsDiffer (a b : CTable) (p : Nat) : Bool :=
  (List.range (max a.lens.length b.lens.length)).any fun i => a.word i p != b.word i p
/-- A commit from table a to table b advances the generation of port p (R162). -/
def advances (a b : CTable) (p : Nat) : Bool := a.lens != b.lens || a.epoch != b.epoch || wordsDiffer a b p

/-! ## ctab, rcirc, cgen -/

/-- 32-bit word i of a record that lies in blocks at these places, as the current C stream reads them. -/
def State.recWord (s : State) (ls : List Loc) (i : Nat) : W32 :=
  match ls[i / 16]? with
  | some l => BitVec.ofNat 32 (s.wordAt s.accOwner (l.plus (i % 16 * 4)) 4)
  | none => 0

/-- The table of a `ctab` record, and whether its fields are good (R357). -/
def State.tableOf (s : State) (ls : List Loc) : CTable × Bool :=
  let w := s.recWord ls
  let n := bitsOf (w 0) 0 4 + 1
  let lens := (List.range n).map fun i => (w (4 + i)).toNat
  let words := (List.range (48 * n)).foldl (fun m k => mset 0 m k (w (32 + k))) []
  (⟨lens, words, 0⟩,
    bitsOf (w 0) 4 28 == 0 && w 1 == 0 && w 2 == 0 && w 3 == 0 &&
      lens.all (fun l => decide (12500 ≤ l) && decide (l ≤ 1250000)) &&
      (List.range (16 - n)).all (fun i => w (4 + n + i) == 0) && (List.range 12).all (fun i => w (20 + i) == 0) &&
      (List.range 768).all (fun k =>
        if k < 48 * n then
          decide (wordPport (w (32 + k)) < 48) && !(wordOpen (w (32 + k)) && wordPeer (w (32 + k)) == s.circ.pkg)
        else w (32 + k) == 0))

/-- The circuit grant (R346, R347). -/
def State.circGrant (s : State) : Bool := (s.ownerAt (s.ownerOn s.turn.core)).circ

/-- `ctab` (R347, R357): needs feature 2 -/
def execCtab (o : UForm) (s : State) : Out :=
  if !s.feature 2 then .next (s.trapAt causeFeature 0)
  else if !s.circGrant then .next (s.trapAt 0x50 0)
  else cIssue s [(o.a, o.p)] [] (some o.d) fun s =>
    let a := s.readSrc o.a o.p
    match (s.blockCheck .load a.1.toNat 50).bind (noPeer a.1.toNat) with
    | .error e => s.memTrap e
    | .ok ls =>
      match ls.zipIdx.find? fun (e : Loc × Nat) => (s.pocFault e.1).isSome with
      | some e => (s.countFound ls).memTrap ((s.pocFault e.1).getD 0, a.1.toNat + 64 * e.2)
      | none =>
        let t := s.tableOf ls
        let v := dealResult [(2, !t.2), (1, s.circ.commit.isSome)]
        let r := a.2.warnPieces s.turn.core (ls.map fun l => (l, 64))
        let u := if v = 0 then r.onCirc fun c => { c with staged := some t.1 } else r
        (u.writeDst o.d 1 v).advance

/-- The result of `rcirc` at rotation k (R358). -/
def Circ.commitVerdict (c : Circ) (k : Nat) (beat : Nat) : Word :=
  dealResult [(3, c.commit.isSome), (2, c.staged.isNone), (1, decide (k < c.active.rotation beat + 2))]

/-- The accepted `rcirc`: the staged table is emptied and its commit pending. A table of the same n and lengths keeps
E; any other takes the commit beat as its epoch (R358). -/
def Circ.setCommit (c : Circ) (k : Nat) : Circ :=
  match c.staged with
  | some t =>
    let e := if t.lens = c.active.lens then c.active.epoch else c.active.epoch + k * c.active.period
    { c with staged := none, commit := some ({ t with epoch := e }, k), wordsSent := false }
  | none => c

/-- `rcirc` (R347, R358): needs feature 2 -/
def execRcirc (o : UForm) (s : State) : Out :=
  if !s.feature 2 then .next (s.trapAt causeFeature 0)
  else if !s.circGrant then .next (s.trapAt 0x50 0)
  else cIssue s [(o.a, o.p)] [] (some o.d) fun s =>
    let a := s.readSrc o.a o.p
    let v := s.circ.commitVerdict a.1.toNat s.beat
    let u := if v = 0 then a.2.onCirc fun c => c.setCommit a.1.toNat else a.2
    (u.writeDst o.d 1 v).advance

/-- The word that `cgen` reads for port p (R359). -/
def State.genWord (s : State) (p : Nat) : Word :=
  let adv := match s.circ.commit with
    | some (t, _) => advances s.circ.active t p
    | none => false
  w64 ((s.portAt p).gen + if adv then 2 ^ 16 else 0)

/-- `cgen` (R359): needs feature 2 -/
def execCgen (o : UForm) (s : State) : Out :=
  if !s.feature 2 then .next (s.trapAt causeFeature 0)
  else cIssue s [(o.a, o.p)] [] (some o.d) fun s =>
    let a := s.readSrc o.a o.p
    if 48 ≤ a.1.toNat then s.badOperand else (a.2.writeDst o.d 1 (s.genWord a.1.toNat)).advance

/-! ## Bindings (R111, R112, R267 to R269) -/

/-- Where all of one kind must agree: kind 0 HBM, 1 a shared memory, 2 a scratchpad, 3 a peer's memory (R111). -/
def placeOf : Loc → Nat × Nat × Nat
  | .hbm _ => (0, 0, 0)
  | .dsm d _ => (1, d, 0)
  | .scr n _ => (2, n, 0)
  | .peer g w _ => (3, g, w)

/-- The base that operands a and b with rights r make for an owner, with its new pins, or the fault; local extents are those of
core n. -/
def State.bindingFor (s : State) (owner n : Nat) (r : BitVec 2) (a b : Word) : Except MemFault (Base × List Nat) :=
  let x := bitsOf b 0 40 + 1
  let va := a.toNat
  let port := bitsOf b 40 6
  let gen := bitsOf b 46 16
  if bitsOf a 52 12 ≠ 0 ∨ va % 64 ≠ 0 ∨ x % 64 ≠ 0 ∨ bitsOf b 62 2 ≠ 0 then .error (0x0D, 0)
  else if va < 2 ^ 22 then
    if 2 ^ 22 < va + x then .error (0x0D, 0)
    else .ok (⟨va, x, r.getLsbD 0, r.getLsbD 1, owner, port, gen, [⟨va, x, .scr n va, 0⟩], s.nextId⟩, [])
  else match s.pieces owner (r.getLsbD 0) (r.getLsbD 1) (x / 4096 + 2) va x with
    | .error e => .error e
    | .ok ps =>
      let first := ((ps.head?).map fun p => placeOf p.loc).getD (0, 0, 0)
      let pins := (ps.map Piece.pin).eraseDups
      let peer := ps.any fun p => (placeOf p.loc).1 == 3
      if let some p := ps.find? fun p => placeOf p.loc != first then .error (0x09, p.va)
      else if peer && !s.feature 2 then .error (causeFeature, 0)
      else if peer && 48 ≤ port then .error (0x0D, 0)
      else if peer && gen ≠ (s.portAt port).gen then .error (0x30, 0)
      else if !peer && bitsOf b 40 22 ≠ 0 then .error (0x0D, 0)
      else if let some p := ps.find? fun p => s.pinsOf p.pin == 4095 then .error (0x0A, p.va)
      else .ok (⟨va, x, r.getLsbD 0, r.getLsbD 1, owner, port, gen, ps, s.nextId⟩, pins)

/-- The base that a `tbind` of the current core makes. -/
def State.binding (s : State) (r : BitVec 2) (a b : Word) : Except MemFault (Base × List Nat) :=
  s.bindingFor s.accOwner s.turn.core r a b

/-- A base of core n takes a binding; the one before it stays until nothing uses it (R112, R268). -/
def State.bindBase (s : State) (n k : Nat) (b : Base) (pins : List Nat) : State :=
  (((s.unbindBase n k).addPins pins).fresh.2).onCore n fun c =>
    { c with ve := { c.ve with bases := mset Base.rest c.ve.bases k b } }

/-- `tbind` (R111, R112, R267, R268): C stalls for 8 beats and one more for each covering entry, and no event is taken
inside it. -/
def execTbind (n : BitVec 4) (r : BitVec 2) (o : SForm) (s : State) : Out :=
  cIssue s [(o.a, o.p), (o.b, o.q)] [] none fun s =>
    let a := s.readSrc o.a o.p
    let b := a.2.readSrc o.b o.q
    match s.inWait with
    | none => (s.onCtl fun c => { c with cwait := some ⟨c.pc.toNat, s.beat, 0, none, none, none⟩ }).stalled false
    | some w =>
      match s.binding r a.1 b.1 with
      | .error e => s.memTrap e
      | .ok (x, pins) =>
        if s.beat < w.since + 7 + pins.length then s.stalled false
        else (b.2.bindBase s.turn.core n.toNat { x with uid := b.2.nextId } pins).advance

/-- `tunbind` (R112, R269) -/
def execTunbind (n : BitVec 4) (s : State) : Out :=
  cIssue s [] [] none fun s => (s.unbindBase s.turn.core n.toNat).advance

end Sys2Proof.Machine
end

