-- ==== Sys2Proof/Machine/Num.lean ====
section
/-!
DEFINITION. Numbers: element formats, exact values, rounding with its flags, exact sums, the exact accumulator, and
block scale selection (03_numbers.md R67, R72 to R81, R87 to R93, R488; 13_ins_vector.md R305).
-/

namespace Sys2Proof.Machine

/-- The element formats that arithmetic decodes (R67, R72). -/
inductive NFmt where
  | i8 | i32 | f32 | b16 | e4 | e5 | f4 | ds8
  deriving DecidableEq, Repr

/-- The format code of a tag (R67). -/
def NFmt.code : NFmt → Nat
  | .i8 => 1
  | .i32 => 2
  | .f32 => 3
  | .b16 => 4
  | .e4 => 5
  | .e5 => 6
  | .f4 => 7
  | .ds8 => 8
/-- The format of a code 1 to 8. -/
def NFmt.ofCode (c : Nat) : Option NFmt := [NFmt.i8, .i32, .f32, .b16, .e4, .e5, .f4, .ds8].find? fun f => f.code == c
/-- The element width in bits (R72). -/
def NFmt.bits : NFmt → Nat
  | .i8 => 8
  | .i32 => 32
  | .f32 => 32
  | .b16 => 16
  | .e4 => 8
  | .e5 => 8
  | .f4 => 4
  | .ds8 => 8
/-- Whether the format uses the block scale (R67). -/
def NFmt.scaled (f : NFmt) : Bool := fmtScaled f.code

/-- An exact value: (-1)^neg m 2^e, an infinity, or a NaN, which is signalling or quiet (R488). -/
inductive Val where
  | fin (neg : Bool) (m : Nat) (e : Int)
  | inf (neg : Bool)
  | nan (sig : Bool)
  deriving DecidableEq, Repr

/-- The arithmetic flags (R81). -/
abbrev Flags := BitVec 5
/-- invalid -/
def fNV : Flags := 16
/-- divide by zero -/
def fDZ : Flags := 8
/-- overflow -/
def fOF : Flags := 4
/-- underflow -/
def fUF : Flags := 2
/-- inexact -/
def fNX : Flags := 1

/-! ## Decoding (R72 to R75, R488) -/

/-- Exponent bits, fraction bits and bias of the floating formats (R72); none for the others. -/
def NFmt.float : NFmt → Option (Nat × Nat × Nat)
  | .f32 => some (8, 23, 127)
  | .b16 => some (8, 7, 127)
  | .e4 => some (4, 3, 7)
  | .e5 => some (5, 2, 15)
  | .f4 => some (2, 1, 1)
  | _ => none

/-- An integer as an exact value. -/
def Val.ofInt (i : Int) : Val := .fin (i < 0) i.natAbs 0

/-- A floating code of eb exponent bits, mb fraction bits and a bias. e4 has one NaN code and no infinity, f4 has
neither (R73). -/
def decFloat (f : NFmt) (eb mb bias code : Nat) : Val :=
  let neg := code / 2 ^ (eb + mb) % 2 == 1
  let ex := code / 2 ^ mb % 2 ^ eb
  let fr := code % 2 ^ mb
  let top := ex == 2 ^ eb - 1
  if top && (f == .f32 || f == .b16 || f == .e5) then
    if fr = 0 then .inf neg else .nan (fr / 2 ^ (mb - 1) == 0)
  else if f == .e4 && top && fr == 7 then .nan false
  else if ex = 0 then .fin neg fr (1 - (bias : Int) - mb)
  else .fin neg (2 ^ mb + fr) ((ex : Int) - bias - mb)

/-- A DS8 code in units of 2^-6 (R75). -/
def ds8Units (code : Nat) : Int :=
  let term (sg sh : Nat) : Int := if sh = 7 then 0 else if sg = 1 then -(2 ^ (6 - sh) : Nat) else (2 ^ (6 - sh) : Nat)
  term (code / 128 % 2) (code / 16 % 8) + term (code / 8 % 2) (code % 8)

/-- The code value of an element, without its scale; extra is the BF16 that the FP4 code 0b1000 decodes to (R72 to
R75). -/
def decode (f : NFmt) (extra : BitVec 16) (code : Nat) : Val :=
  match f with
  | .i8 => .ofInt (BitVec.ofNat 8 code).toInt
  | .i32 => .ofInt (BitVec.ofNat 32 code).toInt
  | .ds8 => match ds8Units code with
    | i => .fin (i < 0) i.natAbs (-6)
  | .f32 => decFloat .f32 8 23 127 code
  | .b16 => decFloat .b16 8 7 127 code
  | .e4 => decFloat .e4 4 3 7 code
  | .e5 => decFloat .e5 5 2 15 code
  | .f4 => if code % 16 = 8 then decFloat .b16 8 7 127 extra.toNat else decFloat .f4 2 1 1 code

/-- A value times 2^k. -/
def Val.scale (v : Val) (k : Int) : Val :=
  match v with
  | .fin n m e => .fin n m (e + k)
  | v => v
/-- A value with its sign inverted. -/
def Val.neg : Val → Val
  | .fin n m e => .fin (!n) m e
  | .inf n => .inf (!n)
  | .nan g => .nan g
/-- The factor of a scale byte, as an exponent (R68). -/
def scaleExp (s : Nat) : Int := (s : Int) - 127

/-! ## Rounding (R77 to R81) -/

/-- m 2^-sh rounded to an integer under a mode, and whether it was inexact (R77). -/
def roundNat (mode : Nat) (neg : Bool) (m sh : Nat) : Nat × Bool :=
  let q := m / 2 ^ sh
  let r := m % 2 ^ sh
  let up := match mode with
    | 0 => decide (2 ^ sh < 2 * r) || (2 * r == 2 ^ sh && q % 2 == 1 && r != 0)
    | 1 => false
    | 2 => neg && r != 0
    | _ => !neg && r != 0
  (if up then q + 1 else q, r != 0)

/-- m 2^e rounded to a multiple of 2^q: the multiple, and whether it was inexact. -/
def roundAt (mode : Nat) (neg : Bool) (m : Nat) (e q : Int) : Nat × Bool :=
  if q ≤ e then (m * 2 ^ (e - q).toNat, false) else roundNat mode neg m (q - e).toNat

/-- The code of a finite value in a floating format, with its flags (R77, R78, R80, R81). Underflow is judged on the
value rounded as if the exponent had no lower bound (log 22). -/
def encFin (f : NFmt) (eb mb bias : Nat) (mode : Nat) (neg : Bool) (m : Nat) (e : Int) : Nat × Flags :=
  let sgn := if neg then 2 ^ (eb + mb) else 0
  let wide := f == .f32 || f == .b16
  if m = 0 then (if f == .f4 then 0 else sgn, 0)
  else
    let top : Int := e + Nat.log2 m
    let emin : Int := 1 - (bias : Int)
    let maxCode := match f with
      | .f32 => 0x7F7FFFFF
      | .b16 => 0x7F7F
      | .e4 => 0x7E
      | .e5 => 0x7B
      | _ => 7
    let q := max top emin - mb
    let (n, nx) := roundAt mode neg m e q
    let (q, n) := if 2 ^ (mb + 1) ≤ n then (q + 1, n / 2) else (q, n)
    let code := if n < 2 ^ mb then n else ((q + mb + bias).toNat) * 2 ^ mb + (n - 2 ^ mb)
    if maxCode < code then
      let away := wide && (mode == 0 || (mode == 2 && neg) || (mode == 3 && !neg))
      ((if away then maxCode + 1 else maxCode) + sgn, fOF ||| fNX)
    else
      let free := (roundAt mode neg m e (top - mb)).1
      let tiny := decide (top < emin) && (decide (free < 2 ^ (mb + 1)) || decide (top + 1 < emin))
      let fl : Flags := if nx then (if tiny && wide then fUF ||| fNX else fNX) else 0
      (if f == .f4 && code == 0 then 0 else code + sgn, fl)

/-- The canonical DS8 code of u 2^-6, u at most 128, by R76. -/
def ds8Code (neg : Bool) (u : Nat) : Nat :=
  let s (b : Bool) := if b then 8 else 0
  let sh (k : Nat) := 6 - Nat.log2 k
  if u = 0 then 0x77
  else
    let t := 2 ^ (min 6 (Nat.log2 u))
    if u = t then (s neg + sh t) * 16 + 7
    else if (List.range 7).any fun j => u - t == 2 ^ j then (s neg + sh t) * 16 + s neg + sh (u - t)
    else (s neg + sh (2 * t)) * 16 + s (!neg) + sh (2 * t - u)

/-- The magnitudes of DS8 in units of 2^-6, rising (R75). -/
def ds8Mags : List Nat :=
  [0, 1, 2, 3, 4, 5, 6, 7, 8, 9, 10, 12, 14, 15, 16, 17, 18, 20, 24, 28, 30, 31, 32, 33, 34, 36, 40, 48, 56, 60, 62,
    63, 64, 65, 66, 68, 72, 80, 96, 128]

/-- m 2^e at most n units of 2^-6. -/
def leUnits (m : Nat) (e : Int) (n : Nat) : Bool :=
  if 0 ≤ e + 6 then decide (m * 2 ^ (e + 6).toNat ≤ n) else decide (m ≤ n * 2 ^ (-(e + 6)).toNat)

/-- The DS8 code of a finite value (R76 to R78, R80). -/
def encDs8 (mode : Nat) (neg : Bool) (m : Nat) (e : Int) : Nat × Flags :=
  match ds8Mags.find? fun u => leUnits m e u with
  | none => (ds8Code neg 128, fOF ||| fNX)
  | some hi =>
    let lo := ((ds8Mags.filter fun u => u < hi).getLast?).getD 0
    if roundAt 1 false m e (-6) = (hi, false) then (ds8Code neg hi, 0)
    else
      let u := match mode with
        | 0 => if leUnits (2 * m) e (lo + hi) then lo else hi
        | 1 => lo
        | 2 => if neg then hi else lo
        | _ => if neg then lo else hi
      (ds8Code neg u, fNX)

/-- The code of a finite value in an integer format of w bits (R78). -/
def encInt (w mode : Nat) (neg : Bool) (m : Nat) (e : Int) : Nat × Flags :=
  let (n, nx) := roundAt mode neg m e 0
  let lim := 2 ^ (w - 1)
  if neg then
    if lim < n then (lim, fNV) else ((2 ^ w - n) % 2 ^ w, if nx then fNX else 0)
  else if lim ≤ n then (lim - 1, fNV) else (n, if nx then fNX else 0)

/-- The canonical NaN of a format (R79). -/
def canonNaN : NFmt → Nat
  | .f32 => 0x7FC00000
  | .b16 => 0x7FC0
  | .e4 => 0x7F
  | .e5 => 0x7E
  | _ => 0

/-- The infinity of a format that has one, else its end of the range (R78). -/
def infCode (f : NFmt) (neg : Bool) : Nat × Flags :=
  match f with
  | .f32 => (if neg then 0xFF800000 else 0x7F800000, 0)
  | .b16 => (if neg then 0xFF80 else 0x7F80, 0)
  | .e5 => (if neg then 0xFC else 0x7C, 0)
  | .e4 => (if neg then 0xFE else 0x7E, fNV)
  | .f4 => (if neg then 0xF else 7, fNV)
  | .ds8 => (ds8Code neg 128, fNV)
  | .i8 => (if neg then 0x80 else 0x7F, fNV)
  | .i32 => (if neg then 0x80000000 else 0x7FFFFFFF, fNV)

/-- round_to of R196: a value as a code of format f under a mode, with the flags it raises (R77 to R81). -/
def roundTo (f : NFmt) (mode : Nat) : Val → Nat × Flags
  | .nan sig => match f with
    | .f32 => (canonNaN .f32, if sig then fNV else 0)
    | .b16 => (canonNaN .b16, if sig then fNV else 0)
    | .e4 => (canonNaN .e4, if sig then fNV else 0)
    | .e5 => (canonNaN .e5, if sig then fNV else 0)
    | .ds8 => (0x77, fNV)
    | _ => (0, fNV)
  | .inf neg => infCode f neg
  | .fin neg m e => match f with
    | .i8 => encInt 8 mode neg m e
    | .i32 => encInt 32 mode neg m e
    | .ds8 => encDs8 mode neg m e
    | .f32 => encFin .f32 8 23 127 mode neg m e
    | .b16 => encFin .b16 8 7 127 mode neg m e
    | .e4 => encFin .e4 4 3 7 mode neg m e
    | .e5 => encFin .e5 5 2 15 mode neg m e
    | .f4 => encFin .f4 2 1 1 mode neg m e

/-! ## Exact sums (R84, R86, R89, R298, R304) -/

/-- A sum under way: its exact value m 2^e, what specials it has met, and whether every addend was -0. -/
structure Sum where
  m : Int
  e : Int
  nan : Bool
  snan : Bool
  pinf : Bool
  ninf : Bool
  negz : Bool
  any : Bool
  deriving DecidableEq, Repr

/-- The sum of nothing. -/
def Sum.zero : Sum := ⟨0, 0, false, false, false, false, true, false⟩

/-- m 2^e + k 2^j as a multiple of the smaller power. -/
def addDyadic (m : Int) (e : Int) (k : Int) (j : Int) : Int × Int :=
  if m = 0 then (k, j)
  else if e ≤ j then (m + k * 2 ^ (j - e).toNat, e) else (m * 2 ^ (e - j).toNat + k, j)

/-- One more addend. -/
def Sum.add (s : Sum) (v : Val) : Sum :=
  match v with
  | .nan g => { s with nan := true, snan := s.snan || g, negz := false, any := true }
  | .inf n => { s with pinf := s.pinf || !n, ninf := s.ninf || n, negz := false, any := true }
  | .fin n m e =>
    let (x, y) := addDyadic s.m s.e (if n then -(m : Int) else m) e
    { s with m := x, e := y, negz := s.negz && n && m == 0, any := true }

/-- The value of a sum, and invalid where it raises it. -/
def Sum.val (s : Sum) : Val × Flags :=
  if s.nan then (.nan false, if s.snan then fNV else 0)
  else if s.pinf && s.ninf then (.nan false, fNV)
  else if s.pinf then (.inf false, 0)
  else if s.ninf then (.inf true, 0)
  else (.fin (s.m < 0 || (s.m == 0 && s.negz && s.any)) s.m.natAbs s.e, 0)

/-- A sum rounded once, to nearest even. -/
def Sum.round (f : NFmt) (s : Sum) : Nat × Flags :=
  let (v, a) := s.val
  let (c, b) := roundTo f 0 v
  (c, a ||| b)

/-- A product; 0 times an infinity is a NaN that raises invalid, as the signalling NaN does (R86, R298). -/
def Val.mul : Val → Val → Val
  | .nan a, .nan b => .nan (a || b)
  | .nan a, _ => .nan a
  | _, .nan b => .nan b
  | .inf a, .inf b => .inf (a != b)
  | .inf a, .fin b m _ => if m = 0 then .nan true else .inf (a != b)
  | .fin a m _, .inf b => if m = 0 then .nan true else .inf (a != b)
  | .fin a m e, .fin b k j => .fin (a != b) (m * k) (e + j)

/-- A sum rounded once in which a zero has no sign, as in an exact accumulator (R84 to R86, R89, R304, log 28). -/
def exactRound (f : NFmt) (l : List Val) : Nat × Flags := { l.foldl Sum.add Sum.zero with negz := false }.round f

/-- A sum of two addends rounded once, -0 where both are -0 (R298). -/
def sumRound (f : NFmt) (l : List Val) : Nat × Flags := (l.foldl Sum.add Sum.zero).round f

/-- FP32 or BF16 addition of codes (R93, R144, R298, R340). -/
def fpAdd (f : NFmt) (a b : Nat) : Nat × Flags := sumRound f [decode f 0 a, decode f 0 b]

/-! ## Order and relations (R299, R300) -/

/-- A floating code as an integer in the order of R299, -0 below +0; w is its width. -/
def ordKey (w code : Nat) : Int :=
  let mag := code % 2 ^ (w - 1)
  if code / 2 ^ (w - 1) % 2 = 1 then -(mag : Int) - 1 else mag
/-- A value is a NaN. -/
def Val.isNaN : Val → Bool
  | .nan _ => true
  | _ => false
/-- A value is a signalling NaN. -/
def Val.isSig : Val → Bool
  | .nan g => g
  | _ => false
/-- A value is finite. -/
def Val.isFin : Val → Bool
  | .fin _ _ _ => true
  | _ => false
/-- A value is a zero. -/
def Val.isZero : Val → Bool
  | .fin _ m _ => m == 0
  | _ => false

/-- min or max of two codes of a floating format (R299). -/
def fpMinMax (f : NFmt) (mx : Bool) (a b : Nat) : Nat × Flags :=
  let x := decode f 0 a
  let y := decode f 0 b
  if x.isNaN || y.isNaN then (canonNaN f, if x.isSig || y.isSig then fNV else 0)
  else
    let le := decide (ordKey f.bits a ≤ ordKey f.bits b)
    (if le != mx then a else b, 0)

/-- The relations of `vcmp`. -/
inductive Rel where
  | eq | lt | le
  deriving DecidableEq, Repr

/-- A relation of two codes of a floating format, and invalid (R300). -/
def fpCmp (f : NFmt) (r : Rel) (a b : Nat) : Bool × Flags :=
  let x := decode f 0 a
  let y := decode f 0 b
  let inv : Flags := if (x.isNaN || y.isNaN) && (r != .eq || x.isSig || y.isSig) then fNV else 0
  if x.isNaN || y.isNaN then (false, inv)
  else
    let k := ordKey f.bits a
    let j := ordKey f.bits b
    let zero := x.isZero && y.isZero
    (match r with
      | .eq => zero || k == j
      | .lt => !zero && decide (k < j)
      | .le => zero || decide (k ≤ j), inv)

/-! ## Reciprocals, exponentials and logarithms (R305) -/

/-- The integer square root, by its bits from bit k down. -/
def isqrtFrom (n : Nat) : Nat → Nat → Nat
  | 0, r => r
  | k + 1, r => if (r + 2 ^ k) * (r + 2 ^ k) ≤ n then isqrtFrom n k (r + 2 ^ k) else isqrtFrom n k r
/-- The integer square root. -/
def isqrt (n : Nat) : Nat := isqrtFrom n (Nat.log2 n / 2 + 1) 0

/-- The quotient q + a fraction, that is zero just when exact, as a value whose last bit stands for the fraction. -/
def sticky (neg : Bool) (q : Nat) (exact : Bool) (e : Int) : Val :=
  if exact then .fin neg q e else .fin neg (2 * q + 1) (e - 1)

/-- 1/a (R305). -/
def rcpVal : Val → Val × Flags
  | .nan g => (.nan false, if g then fNV else 0)
  | .inf n => (.fin n 0 0, 0)
  | .fin n m e =>
    if m = 0 then (.inf n, fDZ)
    else
      let k := Nat.log2 m + 64
      (sticky n (2 ^ k / m) (2 ^ k % m == 0) (-e - k), 0)

/-- 1/√a (R305). -/
def rsqVal : Val → Val × Flags
  | .nan g => (.nan false, if g then fNV else 0)
  | .inf n => if n then (.nan false, fNV) else (.fin false 0 0, 0)
  | .fin n m e =>
    if m = 0 then (.inf n, 0)
    else if n then (.nan false, fNV)
    else
      let (m, e) := if e % 2 = 0 then (m, e) else (2 * m, e - 1)
      let k := Nat.log2 m + 64
      let q := isqrt (2 ^ (2 * k) / m)
      (sticky false q (q * q * m == 2 ^ (2 * k)) (-(e / 2) - k), 0)

/-- How many fraction bits the series are computed in (log 23). -/
def fracBits : Nat := 320

/-- z + z^3/3 + z^5/5 + ... in fixed point, p being the current power of z. -/
def atanhSeries (z2 : Nat) : Nat → Nat → Nat → Nat
  | 0, _, _ => 0
  | k + 1, i, p => p / (2 * i + 1) + atanhSeries z2 k (i + 1) (p * z2 / 2 ^ fracBits)
/-- ln((a + b)/(a - b)) for b < a, in fixed point: 2 atanh(b/a). -/
def lnFixed (a b : Nat) : Nat :=
  let z := b * 2 ^ fracBits / a
  2 * atanhSeries (z * z / 2 ^ fracBits) 120 0 z
/-- ln 2 in fixed point. -/
def ln2Fixed : Nat := lnFixed 3 1
/-- 1 + x + x^2/2! + ... in fixed point from term i on, t being the current term. -/
def expSeries (x : Nat) : Nat → Nat → Nat → Nat
  | 0, _, _ => 0
  | k + 1, i, t => t + expSeries x k (i + 1) (t * x / 2 ^ fracBits / (i + 1))

/-- 2^a (R305): exact for an integer; else the series, whose last bit stands for the rest (log 23). An exponent far
outside the range overflows or underflows by its size alone. -/
def ex2Val : Val → Val × Flags
  | .nan g => (.nan false, if g then fNV else 0)
  | .inf n => (if n then .fin false 0 0 else .inf false, 0)
  | .fin n m e =>
    if m = 0 then (.fin false 1 0, 0)
    else if 0 ≤ e + Nat.log2 m - 11 then (.fin false 1 (if n then -4096 else 4096), 0)
    else
      let fx : Int := if 0 ≤ e then (m * 2 ^ (e.toNat + fracBits) : Nat) else (m * 2 ^ fracBits / 2 ^ (-e).toNat : Nat)
      let a : Int := if n then -fx else fx
      let i := a / (2 ^ fracBits : Nat)
      let fr := (a % (2 ^ fracBits : Nat)).toNat
      if fr = 0 then (.fin false 1 i, 0)
      else (sticky false (expSeries (fr * ln2Fixed / 2 ^ fracBits) 90 0 (2 ^ fracBits)) false (i - fracBits), 0)

/-- log2 a (R305): exact for a power of two; else the series, whose last bit stands for the rest (log 23). -/
def lg2Val : Val → Val × Flags
  | .nan g => (.nan false, if g then fNV else 0)
  | .inf n => if n then (.nan false, fNV) else (.inf false, 0)
  | .fin n m e =>
    if m = 0 then (.inf true, 0)
    else if n then (.nan false, fNV)
    else
      let k := Nat.log2 m
      let ex : Int := e + k
      if m = 2 ^ k then (.fin (ex < 0) ex.natAbs 0, 0)
      else
        let fr := lnFixed (m + 2 ^ k) (m - 2 ^ k) * 2 ^ fracBits / ln2Fixed
        let t : Int := ex * (2 ^ fracBits : Nat) + fr
        (sticky (t < 0) t.natAbs false (-(fracBits : Int)), 0)

/-! ## The exact accumulator (R87 to R89) -/

/-- An exact accumulator: V and its side flags NaN, +inf, -inf, out of range, signalling NaN. -/
structure Acc where
  v : Int
  flags : BitVec 5
  deriving DecidableEq, Repr

/-- V held in the range of 320 bits; the out-of-range flag is set where it is left (R88). -/
def Acc.held (v : Int) (f : BitVec 5) : Acc :=
  if v < -(2 ^ 319 : Nat) then ⟨-(2 ^ 319 : Nat), f ||| 8⟩
  else if (2 ^ 319 : Nat) ≤ v then ⟨(2 ^ 319 : Nat) - 1, f ||| 8⟩
  else ⟨v, f⟩

/-- add_value (R88). -/
def Acc.addVal (a : Acc) : Val → Acc
  | .nan g => { a with flags := a.flags ||| 1 ||| (if g then 16 else 0) }
  | .inf n => { a with flags := a.flags ||| (if n then 4 else 2) }
  | .fin n m e =>
    let k := e + 160
    let x : Int := if 0 ≤ k then (m * 2 ^ k.toNat : Nat) else (m / 2 ^ (-k).toNat : Nat)
    Acc.held (a.v + if n then -x else x) a.flags

/-- merge (R88). -/
def Acc.merge (a b : Acc) : Acc := Acc.held (a.v + b.v) (a.flags ||| b.flags)

/-- An accumulator rounded at its take (R89). -/
def Acc.take (f : NFmt) (a : Acc) : Nat × Flags :=
  if a.flags.getLsbD 0 then (canonNaN f, if a.flags.getLsbD 4 then fNV else 0)
  else if a.flags.getLsbD 1 && a.flags.getLsbD 2 then (canonNaN f, fNV)
  else if a.flags.getLsbD 1 then infCode f false
  else if a.flags.getLsbD 2 then infCode f true
  else if a.flags.getLsbD 3 then ((infCode f (a.v < 0)).1, fOF ||| fNX)
  else roundTo f 0 (.fin (a.v < 0) a.v.natAbs (-160))

/-- A chunk of 512 bytes (R87). -/
abbrev Chunk := BitVec 4096

/-- Accumulator i of a chunk. -/
def chunkAcc (c : Chunk) (i : Nat) : Acc :=
  ⟨(c.extractLsb' (320 * i) 320).toInt, c.extractLsb' (3840 + 8 * i) 5⟩
/-- The twelve accumulators of a chunk. -/
def chunkAccs (c : Chunk) : List Acc := (List.range 12).map (chunkAcc c)
/-- Twelve accumulators as a chunk. -/
def chunkOf (l : List Acc) : Chunk :=
  let vs := l.foldr (fun a n => (BitVec.ofInt 320 a.v).toNat + 2 ^ 320 * n) 0
  let fs := l.foldr (fun a n => a.flags.toNat + 256 * n) 0
  BitVec.ofNat 4096 (vs + 2 ^ 3840 * fs)
/-- Two chunks merged (R88). -/
def chunkMerge (a b : Chunk) : Chunk := chunkOf (List.zipWith Acc.merge (chunkAccs a) (chunkAccs b))

/-! ## Block scale selection (R90) -/

/-- One magnitude at most another: m 2^e and k 2^j. -/
def leMag (m : Nat) (e : Int) (k : Nat) (j : Int) : Bool :=
  if e ≤ j then decide (m ≤ k * 2 ^ (j - e).toNat) else decide (m * 2 ^ (e - j).toNat ≤ k)

/-- The largest magnitude among the finite values of a list; none where none is finite (R90). -/
def amaxOf (l : List Val) : Option (Nat × Int) :=
  l.foldl (fun best v => match v with
    | .fin _ m e => match best with
      | none => some (m, e)
      | some (k, j) => if leMag m e k j then best else some (m, e)
    | _ => best) none

/-- fmax of the five targets (R90). -/
def fmaxOf : NFmt → Nat
  | .e4 => 448
  | .e5 => 57344
  | .f4 => 6
  | .ds8 => 2
  | _ => 127

/-- The scale for a target and a largest magnitude (R90). -/
def selectScale (f : NFmt) : Option (Nat × Int) → Nat
  | none => 127
  | some (m, e) =>
    if m = 0 then 127
    else ((List.range 255).find? fun s => leMag m e (fmaxOf f) (scaleExp s)).getD 254

end Sys2Proof.Machine
end

