-- ==== Sys2Proof/Machine/Perform.lean ====
section
/-!
DEFINITION. Performing an access at its point of coherence, the queues of home slices and banks, and the meanings of
HOME_SLICE_OPERATION, HOME_SLICE_LOAD, BANK_OPERATION and WRITE_BACK (04_memory.md R99 to R110, R115 to R117;
05_ordering.md R119 to R128; 07_circuits_cells.md R177; 12_ins_memory_sync.md R258, R270 to R279).
-/

namespace Sys2Proof.Machine

/-! ## Atomic and reduction arithmetic (R93, R270, R340) -/

/-- The new word of operation op (R215: add, or, xor, min, max, minn, maxn, swap, fadd) on w bytes, with flags. -/
def amoNew (op w old b : Nat) : Nat × Flags :=
  let n := 8 * w
  let m := 2 ^ n
  let x := BitVec.ofNat n old
  let y := BitVec.ofNat n b
  match op with
  | 0 => ((old + b) % m, 0)
  | 1 => ((x ||| y).toNat, 0)
  | 2 => ((x ^^^ y).toNat, 0)
  | 3 => ((if x.toInt ≤ y.toInt then x else y).toNat, 0)
  | 4 => ((if x.toInt ≤ y.toInt then y else x).toNat, 0)
  | 5 => (min x.toNat y.toNat, 0)
  | 6 => (max x.toNat y.toNat, 0)
  | 7 => (y.toNat, 0)
  | _ => fpAdd .f32 x.toNat y.toNat

/-- Lane-wise combination of two blocks of n lanes of w bits; the flags of the lanes are joined. -/
def laneZip (w : Nat) (f : Nat → Nat → Nat × Flags) (a b : Nat) : Nat → Nat × Flags
  | 0 => (0, 0)
  | n + 1 =>
    let (x, u) := f (a % 2 ^ w) (b % 2 ^ w)
    let (y, v) := laneZip w f (a / 2 ^ w) (b / 2 ^ w) n
    (x % 2 ^ w + 2 ^ w * y, u ||| v)

/-- 32-bit addition held to the signed range (R144, R340); the flag tells that it was held. -/
def satAdd32 (a b : Nat) : Nat × Flags :=
  let s := (BitVec.ofNat 32 a).toInt + (BitVec.ofNat 32 b).toInt
  if s < -(2 ^ 31) then (0x80000000, 1)
  else if 2 ^ 31 ≤ s then (0x7FFFFFFF, 1)
  else ((BitVec.ofInt 32 s).toNat, 0)

/-- A block added into a block by operation 0 to 3 of R340. -/
def blkAdd (op : Nat) (old new : Blk) : Blk × Flags :=
  let x := old.data.toNat
  let y := new.data.toNat
  let (z, fl) := match op with
    | 0 => laneZip 32 (fun a b => (a + b, 0)) x y 16
    | 1 => ((laneZip 32 satAdd32 x y 16).1, 0)
    | 2 => laneZip 32 (fpAdd .f32) x y 16
    | _ => laneZip 16 (fpAdd .b16) x y 32
  (⟨BitVec.ofNat 512 z, old.tag⟩, fl)

/-- The format code that operation 0 to 4 of R340 needs. -/
def redFmt : Nat → Nat
  | 0 => 2
  | 1 => 2
  | 2 => 3
  | 3 => 4
  | _ => 0x10

/-! ## Sync words (R109, R110) -/

/-- Words target, count, gen and flags of the sync word at offset o of core n. -/
def State.syncWords (s : State) (n o : Nat) : List Nat := (List.range 4).map fun i => s.syncWord n o i
/-- Those words written, with their valid bits; an uncorrectable block keeps its contents and its error (R117). -/
def State.putSync (s : State) (n o target count gen fl : Nat) : State :=
  let l : Loc := .scr n o
  if mget false s.mem.bad (blkOf l) then s.countUncorr l
  else (s.onMem fun m => m.patchBlk 0 (blkOf l) (inBlk l) 16 (target + 2 ^ 32 * (count + 2 ^ 32 * (gen + 2 ^ 32 * fl)))).touch
    (blkOf l)
/-- n bytes have landed and name the sync word at offset o of core c (R110). -/
def State.syncArrive (s : State) (c o n : Nat) : State :=
  let tg := s.syncWord c o 0
  let gen := s.syncWord c o 2
  let fl := s.syncWord c o 3
  if tg = 0 then s.putSync c o 0 (s.syncWord c o 1) gen (fl ||| 2)
  else
    let t := s.syncWord c o 1 + n
    let k := t / tg
    s.putSync c o tg (t % tg) ((gen + k) % 2 ^ 32) (if t % tg ≠ 0 ∧ k ≠ 0 then fl ||| 1 else fl)
/-- An arrival that names a sync word was refused (R110). -/
def State.syncFail (s : State) (c o : Nat) : State :=
  s.putSync c o (s.syncWord c o 0) (s.syncWord c o 1) (s.syncWord c o 2) (s.syncWord c o 3 ||| 4)

/-! ## Refusals and errors -/

/-- An access is refused at its point of coherence: a negative completion, and a record in the inbound log (R117,
R177, R332, R449). -/
def State.refuse (s : State) (id : Nat) (a : Access) (cause : BitVec 8) : State :=
  let s := (s.finish id (.err cause)).logInbound (logDie s.placing a.loc) a cause
  match a.sync, a.loc with
  | some o, .scr n _ => s.syncFail n o
  | _, _ => s

/-- The flags of an operation, kept in the unit's flag word and returned with its completion (R94). -/
def State.unitFlags (s : State) (id : Nat) (poc : Nat) (fl : Flags) : State :=
  (s.onMem fun m => if poc < 1000 then m else { m with flags := mset 0 m.flags poc (mget 0 m.flags poc ||| fl) }).onAcc
    id fun x => { x with flags := x.flags ||| fl }

/-- A block's tag is that of a cell, while feature 1 is accepted (R177, R412). -/
def State.isCell (s : State) (b : Nat) : Bool :=
  let f := tagFmt (mget 0 s.mem.tags b)
  s.feature 1 && (f == 0xF0 || f == 0xF1)

/-- The destination of a write into the scratchpad of core n: a task of the owner is placed there, or still the one whose stream writes;
and the bytes lie in a live region, which the control stream's own check has seen (R97, R99). -/
def State.scrAccepts (s : State) (a : Access) (o len n : Nat) : Option (BitVec 8) :=
  let own := a.agent.stream && a.core == n && (s.coreAt n).pl.task == some a.task
  if a.agent == .context || (own && a.agent == .c) then none
  else if (s.coreAt n).pl.task.isNone || (!own && s.ownerOn n != a.owner) then some causePermission
  else if !s.inRegion n o len then some causeUnallocated
  else none

/-- A read of w bytes by an engine of core n finds invalid words: trap or warn as that core's spchk says, one warning for a micro-order or vector (R100). Of its
block an `lnest` reads 32 bytes (R296). -/
def State.uninit (s : State) (a : Access) (w : Nat) : Bool × State :=
  match a.loc with
  | .scr _ _ =>
    let c := s.coreAt a.core
    let part := (c.ve.jobs.find? fun j => j.id == a.job).bind fun j => match j.work with
      | .nload _ o _ => some (o, 32)
      | _ => none
    let (o, w) := part.getD (inBlk a.loc, w)
    if !a.agent.engine || s.mem.allValid (blkOf a.loc) o w then (false, s)
    else if c.cr.spwarn then
      let k := 4 * (s.mem.firstInvalid (blkOf a.loc) o w).getD 0
      if c.ve.jobs.any fun j => j.id == a.job && j.warned then (false, s)
      else (false, s.setCore a.core
        ((c.onJobs fun l => l.map fun j => if j.id = a.job then { j with warned := true } else j).countWarn k))
    else (true, s)
  | _ => (false, s)

/-! ## Reads -/

/-- The block at an access's place, as its owner's key reads it, invalid words of a scratchpad as zero. -/
def State.blkSeen (s : State) (a : Access) : Blk := s.seenBlk a.owner a.loc

/-- A read of w bytes at its point of coherence, its result made by k (R69, R100, R116, R177, R331). X reads no cell. -/
def State.readAt (s : State) (id : Nat) (a : Access) (w : Nat) (cell : Bool) (k : Blk → State → State) : State :=
  let b := blkOf a.loc
  if pocOf s.placing a.loc = 20000 then s.finish id (.err 0x0F)
  else if let some c := s.pocFault a.loc then (s.finish id (.err c)).countBad c a.loc
  else if cell && a.agent != .host && s.isCell b then if a.agent == .x then s.finish id (.err 0x44) else s.cellLoad id a
  else
    let (bad, s) := s.uninit a w
    if bad then s.finish id (.err causeUninit) else k (s.blkSeen a) s

/-- A `waddr` at its point of coherence: a different value, or a full waiter list, answers at once; else it parks
(R275, R278). -/
def State.waitAt (s : State) (id : Nat) (a : Access) (w : Nat) (sx : Bool) (b : Word) (watch : Bool) (x : Blk) : State :=
  let v := x.nat (inBlk a.loc) w
  let poc := pocOf s.placing a.loc
  let ws := mget [] s.mem.waiters poc
  if v ≠ b.toNat % 2 ^ (8 * w) ∨ waiterRoom poc ≤ ws.length then
    s.finish id (.val (if watch then watchEntry false a.va else extW sx w v))
  else
    (s.onAcc id fun y => { y with stage := .parked }).onMem fun m => { m with waiters := mset [] m.waiters poc (ws ++ [id]) }

/-! ## Writes -/

/-- Why a write into n bytes of a block is refused: a scratchpad that does not accept it, an unplaced granule, a cell (a whole block
turns a face-down one face-up), and, less than the whole block, an uncorrectable block or in HBM a bad tag (R69, R97, R107, R117,
R177, R430). tagged: the operation computes on the block's bytes, which asks for a good tag everywhere. -/
def State.writeFault (s : State) (a : Access) (n : Nat) (tagged : Bool) : Option (BitVec 8) :=
  let b := blkOf a.loc
  let scr : Option (BitVec 8) := match a.loc with
    | .scr c o => s.scrAccepts a o n c
    | _ => none
  if scr.isSome then scr
  else if pocOf s.placing a.loc = 20000 then some 0x0F
  else if s.isCell b then if n < 64 || tagged || tagFmt (mget 0 s.mem.tags b) == 0xF1 then some 0x44 else none
  else if n < 64 || tagged then (s.pocFault a.loc).filter fun c => tagged || isHbmBlk b || c != causeBadTag
  else none

/-- An operation that writes n bytes of its block: refused with its cause, or as k does. -/
def State.modify (s : State) (id : Nat) (a : Access) (n : Nat) (tagged : Bool) (k : State → State) : State :=
  match s.writeFault a n tagged with
  | some c => (s.refuse id a c).countBad c a.loc
  | none => k s

/-- The word of w bytes at an access's place, for an update. -/
def State.oldWord (s : State) (a : Access) (w : Nat) : Nat := (s.blkSeen a).nat (inBlk a.loc) w
/-- That word written. -/
def State.putWord (s : State) (a : Access) (w v : Nat) : State :=
  (s.onMem fun m => m.patchBlk (s.keyOf a.owner) (blkOf a.loc) (inBlk a.loc) w v).touch (blkOf a.loc)

/-- n bytes of a block from byte lo written at an access's place: with its tag where the block is whole (R70). -/
def State.landBlk (s : State) (a : Access) (lo n : Nat) (x : Blk) : State :=
  if n = 64 then (s.onMem fun m => m.putBlk (s.keyOf a.owner) (blkOf a.loc) x).touch (blkOf a.loc) else s.putWord a n (x.nat lo n)

/-- The value of a waiter that a cell's answer reaches (R179). -/
def cellAnswer (b : Blk) (x : Access) : Res :=
  match x.op with
  | .load w sx => .val (extW sx w (b.nat (inBlk x.loc) w))
  | _ => .blk b

/-- The sixteen blocks' worth of a chunk at a place: its 512 bytes. -/
def State.chunkAt (s : State) (o : Nat) (l : Loc) : Chunk :=
  (List.range 8).foldr (fun k c => (c <<< 512) ||| ((s.mem.blkUnder (s.keyOf o) (blkOf l + k)).data).setWidth 4096) 0

/-- Four blocks as a vector. -/
def vecOf (l : List Blk) : Vec :=
  ⟨l.foldr (fun b v => (v <<< 512) ||| b.data.setWidth 2048) 0, l.foldr (fun b v => (v <<< 16) ||| b.tag.setWidth 64) 0⟩

/-- The places of the four blocks of a vector in the scratchpad of core n at offset o. -/
def vecLocs (n o : Nat) : List Loc := (List.range 4).map fun q => .scr n (o + 64 * q)
/-- The vector in the scratchpad of core n at offset o, invalid words as zero. -/
def State.vecAt (s : State) (n o : Nat) : Vec := vecOf ((vecLocs n o).map (s.seenBlk 0))

/-- A fill of core n at its point of coherence (R63, R370): what was spilled, or the spill area's word under its valid bits (R100). -/
def State.fillAt (s : State) (id : Nat) (a : Access) : State :=
  match a.res, a.loc with
  | .vec v, _ => s.finish id (.vec v)
  | _, .scr n o =>
    let ls := vecLocs n o
    match ls.find? fun x => (s.pocFault x).isSome with
    | some x => (s.finish id (.err ((s.pocFault x).getD 0))).countBad ((s.pocFault x).getD 0) x
    | none =>
      if (s.coreAt n).cr.spwarn || ls.all fun x => s.mem.allValid (blkOf x) 0 64 then
        (s.warnPieces n (ls.map (·, 64))).finish id (.vec (s.vecAt n o))
      else s.finish id (.err causeUninit)
  | _, _ => s.finish id .none

/-! ## Performing (R119) -/

/-- An access performed at its point of coherence, at the block that it now stands for. -/
def State.performHere (s : State) (id : Nat) : State :=
  match s.accAt id with
  | none => s
  | some a =>
    let b := blkOf a.loc
    let poc := pocOf s.placing a.loc
    match a.op with
    | .load w sx => s.readAt id a w true fun x s => s.finish id (.val (extW sx w (x.nat (inBlk a.loc) w)))
    | .rblk => s.readAt id a 64 true fun x s => s.finish id (.blk x)
    | .waddr w sx v watch => s.readAt id a w false fun x s => s.waitAt id a w sx v watch.isSome x
    | .sqwait t => s.readAt id a 8 false fun x s =>
      if t.toNat ≤ x.nat (inBlk a.loc) 8 then s.finish id .none else s.onAcc id fun y => { y with stage := .parked }
    | .fpeek =>
      if poc = 20000 then s.finish id (.err 0x0F)
      else if mget false s.mem.bad b then (s.finish id (.err causeUncorrectable)).countUncorr a.loc
      else s.finish id (.val ((mget 0 s.mem.tags b).setWidth 64))
    | .store w v => s.modify id a w false fun s => (s.putWord a w v.toNat).finish id .none
    | .amo op w sx v => s.modify id a w true fun s =>
      let old := s.oldWord a w
      let (new, fl) := amoNew op w old v.toNat
      ((s.putWord a w new).unitFlags id poc fl).finish id (.val (extW sx w old))
    | .cas w sx v c => s.modify id a w true fun s =>
      let old := s.oldWord a w
      let s := if old = c.toNat % 2 ^ (8 * w) then s.putWord a w v.toNat else s
      s.finish id (.val (extW sx w old))
    | .sqadd v => s.modify id a 8 true fun s => (s.putWord a 8 ((s.oldWord a 8 + v.toNat) % 2 ^ 64)).finish id .none
    | .swinit t => match a.loc with
      | .scr n o => s.modify id a 16 false fun s => (s.putSync n o t.toNat 0 (s.syncWord n o 2) 0).finish id .none
      | _ => s.finish id .none
    | .wake n => if poc = 20000 then s.refuse id a 0x0F else (s.wakeAt a.loc n).finish id .none
    | .fdown d =>
      if poc = 20000 then s.finish id (.err 0x0F)
      else if s.isCell b then s.finish id (.val 1)
      else ((s.onMem fun m => m.putBlk (s.keyOf a.owner) b d).finish id (.val 0)).touch b
    | .fup _ v =>
      let x := s.mem.rawBlk b
      let f := tagFmt v.tag
      if poc = 20000 then s.finish id (.err 0x0F)
      else if mget false s.mem.bad b then (s.finish id (.err causeUncorrectable)).countUncorr a.loc
      else if tagFmt x.tag == 0xF1 && s.isCell b && cellChain x == a.chain && cellDepth x == a.depth && f != 0xF0 && f != 0xF1
          && tagOk true v.tag then
        let n := (s.cellWaiters b).length
        let s := s.onTask a.task fun t => { t with answered := true }
        let s := (s.onMem fun m => m.putBlk (s.keyOf a.owner) b v).answerCell b (cellAnswer v)
        (s.finish id (.val (w64 n))).touch b
      else s.finish id (.err 0x45)
    | .value v => s.finish id (.val v)
    | .post _ _ => s
    | .bemsg v => match a.loc with
      | .scr n _ =>
        if (s.coreAt n).pl.task.isNone || s.ownerOn n != a.owner then s.finish id (.val 2)
        else if 8 ≤ (s.coreAt n).ch.mail.length then s.finish id (.val 1)
        else (s.onCore n fun c => { c with ch := { c.ch with mail := c.ch.mail ++ [v] } }).finish id (.val 0)
      | _ => s.finish id (.val 1)
    | .spill k v => (s.landSpill a.core k v).finish id .none
    | .fill _ => s.fillAt id a
    | .wblk lo n x => s.modify id a n false fun s => (s.landBlk a lo n x).finish id .none
    | .put n x => (s.landBlk a 0 n x).finish id .none
    | .red op x => s.modify id a 64 true fun s =>
      if tagFmt (mget 0 s.mem.tags b) ≠ redFmt op then s.refuse id a 0x15
      else
        let (y, fl) := blkAdd op (s.blkSeen a) x
        (((s.onMem fun m => m.patchBlk (s.keyOf a.owner) b 0 64 y.data.toNat).unitFlags id poc fl).finish id .none).touch b
    | .redChunk c =>
      let bs := upFrom b 8
      if poc = 20000 then s.refuse id a 0x0F
      else if b % 8 ≠ 0 then s.refuse id a 0x15
      else if bs.any s.isCell then s.refuse id a 0x44
      else if let some k := (List.range 8).find? fun k => (s.pocFault (a.loc.plus (64 * k))).isSome then
        let c := (s.pocFault (a.loc.plus (64 * k))).getD 0
        (s.refuse id a c).countBad c (a.loc.plus (64 * k))
      else if bs.any fun k => tagFmt (mget 0 s.mem.tags k) != 0x10 then s.refuse id a 0x15
      else
        let z := chunkMerge (s.chunkAt a.owner a.loc) c
        let s := (List.range 8).foldl (fun t k =>
          (t.onMem fun m => m.patchBlk (t.keyOf a.owner) (b + k) 0 64 (z.extractLsb' (512 * k) 512).toNat).touch (b + k)) s
        s.finish id .none
    | .enq _ => s
    | .enqRun _ _ _ _ => s

/-- The tweaks of eight blocks from b on, told from those of the blocks from u on instead of from t on (R115). -/
def Mem.retweak (m : Mem) (b t u : Nat) : Mem :=
  { m with tweaks := (List.range 8).foldl (fun l i =>
      let k := (mget none l (b + i)).getD (t + i)
      mset none l (b + i) (if k = u + i then none else some k)) m.tweaks }

/-- An access of one operation performed at its point of coherence. One that was routed under earlier tables acts on the row that it was routed
to, under the tweak of its own address (R105, R115, R431). -/
def State.performAt (s : State) (id : Nat) : State :=
  match s.accAt id with
  | some a => match a.orig with
    | some t =>
      let b := blkOf a.loc
      ((s.onMem fun m => m.retweak b b t).performHere id).onMem fun m => m.retweak b t b
    | none => s.performHere id
  | none => s

/-- Bytes have landed that sync word o of core n counts: arrivals on one beat count as one (R110). -/
def State.noteLanding (s : State) (n o k : Nat) : State :=
  s.onMem fun m => { m with landed := mmod 0 m.landed (2 ^ 22 * n + o) (· + k) }
/-- The end of a beat: what has landed is counted (R110). -/
def State.countArrivals (s : State) : State :=
  s.mem.landed.foldl (fun t e => t.syncArrive (e.1 / 2 ^ 22) (e.1 % 2 ^ 22) e.2)
    (s.onMem fun m => { m with landed := [] })

/-- An access leaves the bytes it has landed to the sync word it names (R110). -/
def State.countLanding (s : State) (id : Nat) : State :=
  match s.accAt id with
  | some a => match a.sync, a.loc, a.stage, a.res, a.op with
    | some o, .scr n _, .performed, .none, .wblk _ k _ => s.noteLanding n o k
    | some o, .scr n _, .performed, .none, .put k _ => s.noteLanding n o k
    | _, _, _, _, _ => s
  | none => s

/-! ## Home slices and banks -/

/-- An operation takes its place in its block by a write: every one but the reads and wakes. -/
def AOp.writes : AOp → Bool
  | .load _ _ => false
  | .rblk => false
  | .fpeek => false
  | .waddr _ _ _ _ => false
  | .sqwait _ => false
  | .value _ => false
  | .post _ _ => false
  | .fill _ => false
  | _ => true

/-- The class by which operations merge in an entry: integer atomics of one operation and type, exact reductions; 0
for what never merges (R106). A `sqadd` is an addition to a 64-bit word. -/
def AOp.mergeClass : AOp → Nat
  | .amo op w sx _ => if op < 7 then 200 + 40 * op + 2 * w + (if sx then 1 else 0) else 0
  | .sqadd _ => 216
  | .redChunk _ => 2
  | .red op _ => if op < 2 then 3 + op else 0
  | _ => 0

/-- The oldest pending operation of the first open entry is written back; an entry without any closes (R106). -/
def wqDrain : List WEntry → List WEntry
  | [] => []
  | e :: t => if e.ops.length ≤ 1 then t else ⟨e.blk, e.ops.drop 1⟩ :: t

/-- The blocks of the write queue that an operation enters: a chunk merge those of its eight blocks, a wake none (R106). -/
def Access.wqBlks (a : Access) : List Nat :=
  match a.op with
  | .wake _ => []
  | .redChunk _ => upFrom (blkOf a.loc) 8
  | _ => [blkOf a.loc]

/-- The point of coherence has made its operation of this beat. -/
def State.serve (s : State) (poc : Nat) : State := s.onMem fun m => { m with served := poc :: m.served }

/-! ## What a peer asks (R96, R168 to R170, R418, R449) -/

/-- An operation answers with a value. -/
def AOp.answers : AOp → Bool
  | .load _ _ => true
  | .rblk => true
  | .amo _ _ _ _ => true
  | .cas _ _ _ _ => true
  | _ => false

/-- An access of a peer package under an owner; job 0 is a transaction, another a micro-order's send. Its queue number is that of
its source core's queues (R134): the core's die stands in [31:29] of the chain (R176). -/
def peerAccess (src core owner : Nat) (l : Loc) (va : Nat) (op : AOp) (issue chain depth job : Nat) : Access :=
  { agent := .peer, core := src, task := 0, owner := owner, loc := l, va := va, op := op
    dst := 2 * (24 * (chain / 2 ^ 29 % 8) + core % 24) + (if job = 0 then 0 else 1), pc := 0, issue := issue
    ix := 0, six := 0, lq := op.answers, sq := op.writes, epoch := 0, scope := 9, job := job, part := 0, hist := 0, sync := none,
    chain := chain, depth := depth, stage := .queued, due := 0, res := .none, flags := 0 }

/-- Where an address of a peer leads under an owner: the owner must be live, and no further package is reached (R96, R168,
R418). -/
def State.peerLoc (s : State) (owner va : Nat) (r : Right) : Except (BitVec 8) Loc :=
  if 16 ≤ owner ∨ !(s.ownerAt owner).live then .error causePermission
  else match s.translate owner va r with
    | .error c => .error c
    | .ok h => match h.loc with
      | .peer _ _ _ => .error causeScope
      | l => .ok l

/-- Where n bytes of a send are written; a sync word counts in a scratchpad alone (R110, R341). -/
def State.sendLoc (s : State) (owner va n : Nat) (syncen : Bool) : Except (BitVec 8) Loc :=
  if 64 < va % 64 + n then .error causeMisaligned
  else match s.peerLoc owner va .write with
    | .ok (.scr c o) => .ok (.scr c o)
    | .ok l => if syncen then .error causeScope else .ok l
    | e => e

/-- A request of a peer that reaches no point of coherence is recorded at die 0, by its address as received (R449), with what its
lookup leaves behind. -/
def State.refusePeer (s : State) (a : Access) (cause : BitVec 8) : State :=
  (s.noteCause a.owner a.va cause).logInbound 0 { a with loc := .peer 0 0 a.va } cause

/-- The address of a ring's next entry and its new tail word; or the result code of R333: 1 where the descriptor is malformed, 3 where
the ring is full (R170). -/
def ringNext (b : Blk) : Except Nat (Nat × Word) :=
  let head := bitsOf (b.word 2) 0 32
  let tail := bitsOf (b.word 3) 0 32
  let size := 2 ^ bitsOf (b.word 1) 0 5
  let ok := bitsOf (b.word 0) 52 12 == 0 && bitsOf (b.word 0) 0 4 == 0 && bitsOf (b.word 1) 5 59 == 0 &&
    decide (bitsOf (b.word 1) 0 5 ≤ 16) && bitsOf (b.word 2) 32 32 == 0 && bitsOf (b.word 3) 32 32 == 0 &&
    b.word 4 == 0 && b.word 5 == 0 && b.word 6 == 0 && b.word 7 == 0
  if !ok then .error 1
  else if size ≤ (tail + 2 ^ 32 - head) % 2 ^ 32 then .error 3
  else .ok ((b.word 0).toNat + 16 * (tail % size), w64 ((tail + 1) % 2 ^ 32))

/-- A write of a write-with-enqueue, as part of access id. -/
def enqAccess (f : EnqueueFlit) (id : Nat) (l : Loc) (va n : Nat) (b : Blk) (sync : Option Nat) : Access :=
  { peerAccess f.src f.core f.pown l va (.put n b) f.issue f.chain 0 (f.issue + 1) with sync := sync, hist := id }

/-- The parts of a payload: address, bytes and block of each (R169). -/
def payloadParts (f : EnqueueFlit) : List (Nat × Nat × Blk) :=
  (List.range f.blks.length).map fun i => (f.va.toNat + 64 * i, min 64 (f.len - 64 * i), f.blks.getD i Blk.zero)

/-- A write of n bytes at an address as part of a write-with-enqueue, checked: its access, or the access that is refused and why
(R97, R117, R169, R177). -/
def State.enqPart (s : State) (f : EnqueueFlit) (id va n : Nat) (b : Blk) (syncen : Bool) : Except (Access × BitVec 8) Access :=
  match s.sendLoc f.pown va n syncen with
  | .error c => .error (enqAccess f id (.peer 0 0 va) va n b none, c)
  | .ok l =>
    let a := enqAccess f id l va n b (if syncen then some f.sync else none)
    match s.writeFault a n false with
    | some c => .error (a, c)
    | none => .ok a

/-- The entry of a write-with-enqueue. -/
def State.enqEntry (s : State) (f : EnqueueFlit) (id entry : Nat) : Except (Access × BitVec 8) Access :=
  s.enqPart f id entry 16 ⟨f.note.setWidth 512, 0⟩ false
/-- The tail of its ring. -/
def State.enqTail (s : State) (f : EnqueueFlit) (id : Nat) (tail : Word) : Except (Access × BitVec 8) Access :=
  s.enqPart f id (f.ring.toNat + 0x18) 8 ⟨tail.setWidth 512, 0⟩ false

/-- The writes of the payload, all of them checked, with the entry and the tail (R169). -/
def State.enqParts (s : State) (f : EnqueueFlit) (id entry : Nat) (tail : Word) : Except (Access × BitVec 8) (List Access) :=
  match (payloadParts f).mapM fun p => s.enqPart f id p.1 p.2.1 p.2.2 f.syncen with
  | .error e => .error e
  | .ok ps => match s.enqEntry f id entry, s.enqTail f id tail with
    | .error e, _ => .error e
    | _, .error e => .error e
    | .ok _, .ok _ => .ok ps

/-- The sync word that a refused payload names is marked failed (R110, R332). -/
def State.failEnq (s : State) (f : EnqueueFlit) : State :=
  match s.peerLoc f.pown f.va.toNat .write with
  | .ok (.scr c _) => if f.syncen then s.syncFail c f.sync else s
  | _ => s

/-- A refusal is recorded where it was made: at the point of coherence, or at die 0 (R449). -/
def State.recordRefusal (s : State) (a : Access) (c : BitVec 8) : State :=
  match a.loc with
  | .peer _ _ _ => s.refusePeer a c
  | l => s.logInbound (logDie s.placing l) a c

/-- What makes the descriptor's block unreadable for a write-with-enqueue. -/
def State.ringFault (s : State) (l : Loc) : Option (BitVec 8) :=
  if pocOf s.placing l = 20000 then some 0x0F else if s.isCell (blkOf l) then some 0x44 else s.pocFault l

/-- The words of blocks, up to a number of bytes. -/
def blkWords (l : List Blk) (n : Nat) : List Word := (l.flatMap fun b => (List.range 8).map b.word).take ((n + 7) / 8)

/-- The address of the descriptor of the launch ring stands in word 2 of the scheduler node's registration (R433, log 35). -/
def Node.ring (x : Node) : Word := mget 0 x.regs 2

/-- Accesses set out. -/
def State.setOut (s : State) : List Access → State
  | [] => s
  | a :: t => let r := s.fresh; (r.2.setAcc r.1 (some a)).setOut t

/-- A write-with-enqueue into the registered ring of owner 0 brings a launch packet (R433): the packet waits, and the ring's entry
is consumed by a write of the device (log 153). -/
def State.noteLaunch (s : State) (f : EnqueueFlit) : State :=
  if f.pown ≠ 0 ∨ f.ring = 0 ∨ f.ring ≠ s.node.ring then s
  else
    let s := { s with node := { s.node with inbox := s.node.inbox ++ [(LaunchSrc.package f.src, blkWords f.blks f.len)] } }
    let va := f.ring.toNat + 0x10
    match s.peerLoc 0 va .write with
    | .ok l =>
      let a := peerAccess f.src f.core 0 l va (.store 8 (w64 ((s.wordAt 0 l 8 + 1) % 2 ^ 32))) f.issue f.chain 0 0
      s.setOut [{ a with agent := .context }]
    | .error _ => s

/-- Another write-with-enqueue to the same descriptor is under way: operations to one ring are applied one at a time (R170). -/
def State.ringBusy (s : State) (l : Loc) : Bool :=
  s.accs.any fun e => match e.2 with
    | some x => (match x.op with
      | .enqRun _ _ _ _ => !(x.stage == .performed) && blkOf x.loc == blkOf l
      | _ => false)
    | none => false

/-- A write-with-enqueue in its place in the coherence order of its descriptor's block: everything is checked, and then its payload sets
out, or it is refused with its code and nothing is written (R134, R169, R170, R333, log 161). -/
def State.performEnq (s : State) (id : Nat) (a : Access) (f : EnqueueFlit) : State :=
  let no (x : Access) (c : BitVec 8) (code : Nat) : State :=
    (((s.recordRefusal x c).failEnq f).finish id (.err causeRefused)).onAcc id fun y => { y with part := code }
  if s.ringBusy a.loc then s
  else match s.ringFault a.loc with
    | some c => no a c (if c = 0x07 ∨ c = 0x08 then 2 else 1)
    | none => match ringNext (s.blkSeen a) with
      | .error code => no a causeRefused code
      | .ok (entry, tail) => match s.enqParts f id entry tail with
        | .error (x, c) => no x c (if c = 0x07 ∨ c = 0x08 then 2 else 1)
        | .ok ps => (s.onAcc id fun y => { y with op := .enqRun f entry tail 0, stage := .parked }).setOut ps

/-- A part of write-with-enqueue id is performed: once the whole payload is, the entry is written, then the tail, and then the operation
is over (R134, R169). -/
def State.enqNext (s : State) (id : Nat) : State :=
  let busy := s.accs.any fun e => match e.2 with
    | some x => x.agent == .peer && x.hist == id
    | none => false
  match s.accAt id with
  | some a => match a.op with
    | .enqRun f entry tail phase =>
      let part : Except (Access × BitVec 8) Access := if phase = 0 then s.enqEntry f id entry else s.enqTail f id tail
      if busy then s
      else if 2 ≤ phase then (s.noteLaunch f).finish id .none
      else
        let x := match part with
          | .ok x => x
          | .error e => e.1
        (s.onAcc id fun y => { y with op := .enqRun f entry tail (phase + 1) }).setOut [x]
    | _ => s
  | none => s

/-! ## Order at a point of coherence (R122, R134) -/

/-- Two accesses take an entry of one queue (R118); those of a peer carry the number of their queue. -/
def sameQueue (a b : Access) : Bool :=
  ((a.lq && b.lq) || (a.sq && b.sq)) && (a.agent.stream || a.dst == b.dst)

/-- The points of coherence at which an access acts: an exact chunk those of its eight blocks, a write-with-enqueue those of its
descriptor, its payload and its ring entry. -/
def State.pocsOf (s : State) (a : Access) : List Nat :=
  let at_ (o va : Nat) : List Nat := match s.peerLoc o va .write with
    | .ok l => [pocOf s.placing l]
    | .error _ => []
  let enq (f : EnqueueFlit) (entry : List Nat) : List Nat :=
    pocOf s.placing a.loc :: (((payloadParts f).map fun p => p.1) ++ entry).flatMap (at_ f.pown)
  match a.op with
  | .redChunk _ => (List.range 8).map fun k => pocOf s.placing (a.loc.plus (64 * k))
  | .enq f => enq f (match ringNext (s.blkSeen a) with
    | .ok e => [e.1]
    | .error _ => [])
  | .enqRun f e _ _ => enq f [e]
  | _ => [pocOf s.placing a.loc]

/-- The place of an access in the order of its queue: its number; a part of a write-with-enqueue stands in the place of the whole. -/
def Access.place (id : Nat) (a : Access) : Nat := if a.agent == .peer && a.hist != 0 then a.hist else id

/-- Accesses a and b of one stream stand in one queue before one point of coherence, where they are performed in the order of their
queue (R122, R134). The blocks of one micro-order have no order among themselves (R119). -/
def State.oneTurn (s : State) (b a : Access) : Bool :=
  b.agent == a.agent && b.core == a.core && sameQueue a b && !(a.job != 0 && a.job == b.job && blkOf a.loc != blkOf b.loc) &&
    !(a.agent == .peer && a.hist != 0 && a.hist == b.hist) && (s.pocsOf a).any fun p => (s.pocsOf b).contains p

/-- An access still has to be performed where it stands. A load in a cell's waiter list is held back by R177, which names it alone; what
follows it in its queue is performed in any order with it (R122, log 57). DEDUCED. -/
def Access.open_ (a : Access) : Bool :=
  match a.stage with
  | .queued => true
  | .away => true
  | .arrived => true
  | .parked => (match a.op with
    | .enqRun _ _ _ _ => true
    | _ => false)
  | _ => false

/-- An earlier access of its queue is still to be performed before access id at a point of coherence. -/
def State.outOfTurn (s : State) (id : Nat) (a : Access) : Bool :=
  s.accs.any fun e => match e.2 with
    | some b => decide (b.place e.1 < a.place id) && b.open_ && s.oneTurn b a
    | none => false

/-- An access performed at its point of coherence. -/
def State.perform (s : State) (id : Nat) : State :=
  match s.accAt id with
  | some a => match a.op with
    | .enq f => s.performEnq id a f
    | _ => s.performAt id
  | none => s

/-- An access stands at a home slice, or at the place of an unplaced granule (R430). -/
def Access.inHbm (a : Access) : Bool :=
  match a.loc with
  | .hbm _ => true
  | _ => false

/-- HOME_SLICE_OPERATION (R105 to R108, R119, R122): a write, atomic or reduction that has arrived, in its turn, enters its block's entry
and is performed, one on a beat; with no room it waits. An operation of an unplaced granule is refused. -/
def execHomeSliceOperation (id : Nat) (s : State) : Out :=
  match s.accAt id with
  | some a =>
    if a.stage == .arrived && a.op.writes && a.inHbm && !s.outOfTurn id a then
      match s.sliceOf a.loc, a.op with
      | none, _ => .next (s.perform id)
      | some _, .enq _ => .next (s.perform id)
      | some h, _ =>
        if s.mem.served.contains (10000 + h) then .next s
        else match wqEnterAll (mget [] s.mem.wq h) a.op.mergeClass a.wqBlks with
        | none => .next s
        | some q => .next ((((s.serve (10000 + h)).onMem fun m => { m with wq := mset [] m.wq h q }).perform id).countLanding id)
    else .next s
  | none => .next s

/-- HOME_SLICE_LOAD (R105, R106, R119, R120, R122): a load that has arrived is answered, in its turn, with every operation before it
applied, or acts on a cell. -/
def execHomeSliceLoad (id : Nat) (s : State) : Out :=
  match s.accAt id with
  | some a =>
    if a.stage == .arrived && !a.op.writes && a.inHbm && !s.outOfTurn id a then .next (s.perform id) else .next s
  | none => .next s

/-- WRITE_BACK (R106): the oldest pending operation of a slice's entries is written back -/
def execWriteBack (slice : Nat) (s : State) : Out :=
  .next (s.onMem fun m => { m with wq := mset [] m.wq slice (wqDrain (mget [] m.wq slice)) })

/-- The banks of a compute die at which an access acts (R103): a chunk merge at those of its eight blocks. -/
def Access.banks (a : Access) : List Nat :=
  match a.loc, a.op with
  | .dsm d o, .redChunk _ => (List.range 8).map fun k => 1000 + 256 * d + bankOf (o + 64 * k)
  | .dsm d o, _ => [1000 + 256 * d + bankOf o]
  | _, _ => []

/-- BANK_OPERATION (R103): the bank's arithmetic unit performs the access at the head of its queue, one on a beat. An access
that waits for a cell's answer leaves the queue as well. A chunk merge is the operation of eight banks at once: it is made when it is
at the head of all their queues (log 180). -/
def execBankOperation (die bank : Nat) (s : State) : Out :=
  let key := 1000 + 256 * die + bank
  match mget [] s.mem.bankq key with
  | [] => .next s
  | id :: _ =>
    let ks := match s.accAt id with
      | some a => if a.banks.contains key then a.banks else [key]
      | none => [key]
    if ks.any fun k => s.mem.served.contains k || (mget [] s.mem.bankq k).head? != some id then .next s
    else
      let s := ks.foldl (fun t k => (t.serve k).onMem fun m => { m with bankq := mset [] m.bankq k ((mget [] m.bankq k).drop 1) }) s
      .next ((s.perform id).countLanding id)

end Sys2Proof.Machine
end

