-- ==== Sys2Proof/Machine/Links.lean ====
section
/-!
DEFINITION. The die-to-sill modules: flits, acks, replay and retraining, and the meanings of UCIE_FLIT_RECEIVED,
RETRY_TIMEOUT, MODULE_RETRAIN_REQUEST, MODULE_RETRAIN_END and MODULE_WINDOW_BOUNDARY (17_prog_sync.md R386 to R390;
19_drv_launch.md R436). Every mortise has one on each strand; what its station and its passenger exchange crosses them (log 26).
-/

namespace Sys2Proof.Machine

/-- The key of the module of a mortise and a strand, and of everything kept by station and strand. -/
def linkKey (mort strand : Nat) : Nat := 16 * mort + strand
/-- A module. -/
def State.moduleAt (s : State) (k : Nat) : Module := mget Module.rest s.links k
/-- A module changed by f. -/
def State.onModule (s : State) (k : Nat) (f : Module → Module) : State :=
  { s with links := mset Module.rest s.links k (f (s.moduleAt k)) }
/-- A direction of a module: up is from the passenger die to the sill. -/
def Module.lane (m : Module) (up : Bool) : Lane := if up then m.up else m.down
/-- That direction replaced. -/
def Module.setLane (m : Module) (up : Bool) (l : Lane) : Module := if up then { m with up := l } else { m with down := l }

/-- The parcels, from the front of a list, that fit in a number of rows (R152). -/
def takeRows : Nat → List Parcel → List Parcel × List Parcel
  | _, [] => ([], [])
  | room, p :: t =>
    if p.rows ≤ room then
      let r := takeRows (room - p.rows) t
      (p :: r.1, r.2)
    else ([], p :: t)

/-! ## Parcels (R151) -/

/-- The whole blocks that an access carries on its way out, or brings back (R41, R151). -/
def Access.blocks (a : Access) (reply : Bool) : List Blk :=
  let of (w : BitVec 4096) (n : Nat) (t : Tag) : List Blk := (List.range n).map fun i => ⟨w.extractLsb' (512 * i) 512, t⟩
  if reply then match a.res with
    | .blk b => [b]
    | _ => []
  else match a.op with
    | .wblk _ n b => if n ≤ 48 then [] else [b]
    | .red _ b => [b]
    | .redChunk c => of c 8 0x1000
    | .fdown b => [b]
    | .fup _ b => [b]
    | .post _ ws => of (ws.foldr (fun w v => (v <<< 64) ||| w.setWidth 4096) 0) 2 0
    | _ => []

/-- The parcels of an access, or of its completion, by their rows: two for each block, else one. -/
def Access.rows (a : Access) (reply : Bool) : List Nat :=
  if a.blocks reply = [] then [1] else (a.blocks reply).map fun _ => 2
/-- The parcels of an access, or of its completion. -/
def parcelsOf (id : Nat) (reply : Bool) (rows : List Nat) (dest : Nat) : List Parcel :=
  (List.range rows.length).map fun i => ⟨id, reply, i, rows.getD i 1, dest, 0, i + 1 == rows.length⟩

/-- The sixteen bytes that head a parcel (R151): half is 1 or 2 for the halves of a whole block, whose tag is t, else 0. The sizes 48
and 16 of a half do not fit the four bits of the field, and stand there modulo 16 (log 147). -/
def Access.parcelHead (a : Access) (reply : Bool) (half : Nat) (t : Tag) : BitVec 128 :=
  let (size, amo) : Nat × Option Nat := match a.op with
    | .load w _ => (w, none)
    | .store w _ => (w, none)
    | .amo op w _ _ => (w, some (4 * op + a.scope % 4))
    | .cas w _ _ _ => (w, some (36 + a.scope % 4))
    | .sqadd _ => (8, some (40 + a.scope % 4))
    | .waddr w _ _ _ => (w, none)
    | _ => (8, none)
  let op : Nat :=
    if half ≠ 0 then 6 + half
    else if !reply then (if amo.isSome then 3 else if a.op.writes then 2 else 0)
    else match a.res with
      | .err _ => 6
      | _ => if amo.isSome && a.lq then 4 else if a.op.writes then 5 else 1
  let (kind, core, addr) : Nat × Nat × Nat := match a.loc with
    | .scr n o => (0, localOf n, o)
    | .dsm _ o => (1, 0, o)
    | .hbm p => (2, 0, p)
    | .peer _ _ va => (2, 0, va)
  BitVec.ofNat 128
    (op * 2 ^ 124 + kind * 2 ^ 122 + core * 2 ^ 117 + addr % 2 ^ 40 * 2 ^ 77
      + (if half = 1 then 48 else if half = 2 then 16 else size) % 16 * 2 ^ 73 + a.core % 256 * 2 ^ 65
      + queueCode a.agent a.sq * 2 ^ 62 + a.issue % 2 ^ 16 * 2 ^ 46 + (if op = 3 then amo.getD 0 % 256 * 2 ^ 38 else 0)
      + (if half = 2 then t.toNat else 0))

/-- The data bytes of a parcel that carries no block: the value that is written or brought back, or the operands of an atomic, lowest
first (log 147). -/
def Access.parcelData (a : Access) (reply : Bool) : BitVec 384 :=
  if reply then match a.res with
    | .val v => v.setWidth 384
    | _ => 0
  else match a.op with
    | .store _ v => v.setWidth 384
    | .amo _ _ _ v => v.setWidth 384
    | .cas _ _ v c => v.setWidth 384 ||| (c.setWidth 384 <<< 64)
    | .sqadd v => v.setWidth 384
    | .waddr _ _ v _ => v.setWidth 384
    | .bemsg v => v.setWidth 384
    | .wblk lo n b => BitVec.ofNat 384 (b.nat lo n)
    | .put n b => BitVec.ofNat 384 (b.nat 0 n)
    | _ => 0

/-- The 64 bytes of row i of a parcel of an access: head and data, of a block bytes 0 to 47 and then 48 to 63 (R151). -/
def Access.parcelBytes (a : Access) (p : Parcel) (i : Nat) : BitVec 512 :=
  match (a.blocks p.reply)[p.no]? with
  | some b => (a.parcelHead p.reply (i + 1) b.tag).setWidth 512 |||
      ((if i = 0 then (b.data.setWidth 384).setWidth 512 else b.data.extractLsb' 384 128 |>.setWidth 512) <<< 128)
  | none => (a.parcelHead p.reply 0 0).setWidth 512 ||| ((a.parcelData p.reply).setWidth 512 <<< 128)

/-! ## Flits (R386) -/

/-- The units that a parcel takes (R386). -/
def State.unitsOf (s : State) (p : Parcel) : List FUnit :=
  (List.range p.rows).map fun i => .parcel p (i + 1 == p.rows) (((s.accAt p.acc).map fun a => a.parcelBytes p i).getD 0)
/-- The 64 bytes of a unit (R386). -/
def FUnit.bytes : FUnit → BitVec 512
  | .parcel _ _ x => x
  | .deposit _ b => b.data
  | .read _ b => b.data
/-- The tag of a unit, which its flit carries beside it (R386). -/
def FUnit.tag : FUnit → Tag
  | .parcel _ _ _ => 0
  | .deposit _ b => b.tag
  | .read _ b => b.tag

/-- The first sixteen bytes of a flit (R386). -/
def UFlit.head (f : UFlit) : BitVec 128 :=
  let bit (b : Bool) (i : Nat) : Nat := if b then 2 ^ i else 0
  BitVec.ofNat 128
    ((if f.idle then 0 else f.seq.toNat * 2 ^ 56) + (f.ack.getD 0).toNat * 2 ^ 48 + bit f.ack.isSome 47 + bit f.nack.isSome 46
      + bit (f.nack == some true) 45 + bit f.idle 44 + f.units.length % 4 * 2 ^ 42
      + 2 ^ 64 * ((List.range f.units.length).zip f.units).foldl (fun n e => n + e.2.tag.toNat * 2 ^ (16 * e.1)) 0)

/-- A bit enters the CRC-32 of polynomial 0x04C1_1DB7. -/
def crc32Step (c : Nat) (b : Bool) : Nat := if (2 ^ 31 ≤ c) != b then (2 * c % 2 ^ 32) ^^^ 0x04C11DB7 else 2 * c % 2 ^ 32
/-- The CRC-32 of bytes from 0xFFFF_FFFF, the lowest address first and of a byte the highest bit first (R386, log 181). -/
def crc32 (l : List Byte) : Nat :=
  l.foldl (fun c b => (List.range 8).foldl (fun c i => crc32Step c (b.getLsbD (7 - i))) c) (2 ^ 32 - 1)

/-- Bytes 0x00 to 0xFB of a flit: the head, the units at 0x10 + 64u, zero behind them (R386). -/
def UFlit.body (f : UFlit) : List Byte :=
  let l := leBytes f.head.toNat 16 ++ f.units.flatMap fun u => leBytes u.bytes.toNat 64
  (l ++ List.replicate 252 0).take 252
/-- The 256 bytes of a flit, the check last (R386). -/
def UFlit.bytes (f : UFlit) : List Byte := f.body ++ leBytes (crc32 f.body) 4

/-- Quarter beats from the start of a flit to that of the next (R386). -/
def Module.gap (m : Module) : Nat := if m.width = 0 then 5 else 10
/-- Beats from the start of a flit until it is checked (R391). -/
def Module.flight (m : Module) : Nat := if m.width = 0 then 8 else 9

/-- Flits made of the waiting units while fewer than 64 are held, none started before a quarter beat (R386, R387); fuel bounds
their number. -/
def Lane.fill (gap start : Nat) : Nat → Lane → Lane
  | 0, l => l
  | k + 1, l =>
    if l.waiting = [] ∨ 64 ≤ l.held.length then l
    else
      let f : UFlit := ⟨l.next, false, l.waiting.take 3, none, none, max l.free start⟩
      Lane.fill gap start k
        { l with waiting := l.waiting.drop 3, next := l.next + 1, held := l.held ++ [f], wire := l.wire ++ [f]
                 free := f.start + gap }

/-- Data flits may leave: the module is up and not retraining. -/
def Module.open_ (m : Module) : Bool := m.retrainTill.isNone && !m.dead

/-- Both directions make flits of what waits. -/
def Module.pump (m : Module) (beat : Nat) : Module :=
  if m.open_ then { m with up := Lane.fill m.gap (4 * beat) 64 m.up, down := Lane.fill m.gap (4 * beat) 64 m.down } else m

/-- An access completes negatively on a failed link (R389). -/
def State.linkFail (s : State) (id : Nat) : State := s.onAcc id fun a => { a with stage := .back, res := .err 0x33 }
/-- A unit is dropped: the request that it carries completes negatively, and a read stays short of a block, which its act finds (R389,
R390). -/
def State.dropUnit (s : State) : FUnit → State
  | .parcel p _ _ => s.linkFail p.acc
  | .deposit a _ => s.linkFail a
  | .read _ _ => s

/-- Units enter a module, in their order (R386). -/
def State.enterModule (s : State) (k : Nat) (up : Bool) (us : List FUnit) : State :=
  if (s.moduleAt k).dead then us.foldl State.dropUnit s
  else s.onModule k fun m =>
    (m.setLane up { m.lane up with waiting := (m.lane up).waiting ++ us }).pump s.beat

/-- The strand on which a station sends to another (R152). -/
def strandTo (src dst : Nat) : Nat :=
  if (posOf dst + 64 - posOf src) % 64 ≤ 32 then dst % 8 else 8 + dst % 8

/-- A unit is handed on at the far side: up, a parcel goes into the station's queue for its destination; down, to the passenger,
where a request or a deposit has arrived and a reply is back (R152, R154, R388); a block that a station reads is there. -/
def State.handOn (s : State) (mort : Nat) (up : Bool) (u : FUnit) : State :=
  match u with
  | .parcel p done _ =>
    if !done then s
    else if up then
      (s.fresh.2).onConv fun c =>
        let key := 28 * mort + p.dest
        { c with queues := mset [] c.queues key (mget [] c.queues key ++ [{ p with seq := s.nextId }]) }
    else if p.last then s.onAcc p.acc fun a => { a with stage := if p.reply then .back else .arrived }
    else s
  | .deposit id _ => s.onAcc id fun a => if a.stage = .away then { a with stage := .arrived } else a
  | .read key _ => s.onConv fun c => { c with coming := mset 0 c.coming key (mget 0 c.coming key - 1) }

/-- A flit whose transfer has begun by the end of a beat. -/
def UFlit.begun (f : UFlit) (beat : Nat) : Bool := decide (f.start < 4 * (beat + 1))

/-- Ack fields leave in a direction with its next flit, or with an idle flit when none is due; while the module retrains, after
it (R388). -/
def Module.sendAck (m : Module) (up : Bool) (ack : BitVec 8) (nack : Option Bool) (beat : Nat) : Module :=
  let l := m.lane up
  match l.wire.findIdx? fun f => !f.begun beat with
  | some i =>
    let wire := l.wire.modify i fun f => { f with ack := some ack, nack := match nack with
      | none => f.nack
      | x => x }
    m.setLane up { l with wire := wire }
  | none =>
    let st := max l.free (4 * max (beat + 1) (m.retrainTill.getD 0))
    m.setLane up { l with wire := l.wire ++ [⟨0, true, [], some ack, nack, st⟩], free := st + m.gap }

/-- A list of flits sent one after another from a quarter beat on. -/
def timed (gap : Nat) : Nat → List UFlit → List UFlit
  | _, [] => []
  | q, f :: t => { f with start := q } :: timed gap (q + gap) t

/-- Ack fields that data flits carry which have not begun: a direction that takes those flits back owes them (R388). -/
def Lane.owed (l : Lane) (beat : Nat) : Option (BitVec 8 × Option Bool) :=
  let fs := l.wire.filter fun f => !f.begun beat && !f.idle && f.ack.isSome
  fs.getLast?.map fun f => (f.ack.getD 0, fs.foldl (fun n g => if g.nack.isSome then g.nack else n) none)
/-- Ack fields put on the first of a list of flits, or on an idle flit of their own. -/
def carryAck (o : Option (BitVec 8 × Option Bool)) (l : List UFlit) : List UFlit :=
  match o, l with
  | none, l => l
  | some (a, n), f :: t => { f with ack := some a, nack := n } :: t
  | some (a, n), [] => [⟨0, true, [], some a, n, 0⟩]

/-- The held flits are sent again, in order, no earlier than a quarter beat and after the flit in progress (R387); ack fields of flits
that had not begun ride the first of them (R388). -/
def Lane.resend (gap start beat : Nat) (l : Lane) : Lane :=
  let kept := l.wire.filter fun f => f.begun beat || f.idle
  let q := kept.foldl (fun q f => max q (f.start + gap)) start
  let out := timed gap q (carryAck (l.owed beat) l.held)
  { l with held := timed gap q l.held, wire := kept ++ out, free := q + gap * out.length }

/-- The held flits that have been sent before, which a resend replays. -/
def Lane.sentBefore (l : Lane) (beat : Nat) : Nat := (l.held.filter fun f => f.begun beat).length

/-- A direction is replayed from a quarter beat on (R387, R436). -/
def Module.replay (m : Module) (up : Bool) (start beat : Nat) : Module :=
  let l := m.lane up
  ({ m with replays := min 65535 (m.replays + l.sentBefore beat) }.setLane up (l.resend m.gap start beat)).pump beat

/-- A direction stops until a beat: data flits that have not begun are kept for replay, ack fields leave later (R388, R389). -/
def Lane.halt (l : Lane) (gap beat till : Nat) : Lane :=
  let idle := timed gap (4 * till) (carryAck (l.owed beat) [] ++ l.wire.filter fun f => f.idle && !f.begun beat)
  { l with wire := l.wire.filter (fun f => f.begun beat) ++ idle, free := max l.free (4 * till + gap * idle.length) }

/-- A retrain begins on a beat: both directions stop data flits for 1,600 beats (R389). -/
def Module.startRetrain (m : Module) (at_ beat : Nat) : Module :=
  if m.open_ then
    { m with retrainTill := some (at_ + 1600), up := m.up.halt m.gap beat (at_ + 1600), down := m.down.halt m.gap beat (at_ + 1600) }
  else m

/-- The sender of a direction takes the ack fields that have come back (R387). -/
def Module.takeAck (m : Module) (up : Bool) (ack : BitVec 8) (nack : Option Bool) (beat : Nat) : Module :=
  let l := m.lane up
  let held := if l.held.any fun f => f.seq == ack then (l.held.dropWhile fun f => f.seq != ack).drop 1 else l.held
  let m := m.setLane up { l with held := held }
  match nack with
  | none => m.pump beat
  | some true => m.startRetrain beat beat
  | some false => if m.open_ then m.replay up (4 * (beat + 1)) beat else m

/-- The receiver of a direction sends a nack: with retrain where the window's failures have reached the threshold
(R388, R389). -/
def Module.nack (m : Module) (up : Bool) (beat : Nat) : Module :=
  let l := m.lane up
  let re := m.thresh != 0 && decide (m.thresh ≤ l.fails)
  match l.nackOut with
  | none => (m.setLane up { l with nackOut := some re }).sendAck (!up) (l.expected - 1) (some re) beat
  | some false => if re then (m.setLane up { l with nackOut := some true }).sendAck (!up) (l.expected - 1) (some true) beat else m
  | some true => m

/-- UCIE_FLIT_RECEIVED (R388): the receiver checks the next flit of a direction, once it has all come, accepts it in sequence or
discards it, and acks or nacks. -/
def execUcieFlitReceived (mort strand : Nat) (up crcOk : Bool) (s : State) : Out :=
  let k := linkKey mort strand
  let m := s.moduleAt k
  match (m.lane up).wire with
  | [] => .next s
  | f :: rest =>
    if m.dead ∨ s.beat < f.start / 4 + m.flight then .next s
    else
      let l := { m.lane up with wire := rest }
      let m := m.setLane up l
      if !crcOk then
        let m := { m with crcfail := min 65535 (m.crcfail + 1) }.setLane up { l with fails := l.fails + 1 }
        .next (s.onModule k fun _ => m.nack up s.beat)
      else
        let m := match f.ack with
          | some a => m.takeAck (!up) a f.nack s.beat
          | none => m
        if f.idle then .next (s.onModule k fun _ => m)
        else if f.seq = l.expected then
          let m := (m.setLane up { m.lane up with expected := l.expected + 1, nackOut := none }).sendAck (!up) l.expected none s.beat
          .next (f.units.foldl (fun t u => t.handOn mort up u) (s.onModule k fun _ => m))
        else if (f.seq - l.expected).toNat < 128 then .next (s.onModule k fun _ => m.nack up s.beat)
        else .next (s.onModule k fun _ => m.sendAck (!up) (l.expected - 1) none s.beat)

/-- The oldest held flit of a direction has waited 256 beats since it was sent (R387). -/
def Lane.overdue (l : Lane) (beat : Nat) : Bool :=
  match l.held with
  | f :: _ => decide (f.start / 4 + 256 ≤ beat)
  | [] => false

/-- RETRY_TIMEOUT (R387): the oldest held flit has waited 256 beats for its ack, and the held flits are replayed -/
def execRetryTimeout (mort strand : Nat) (up : Bool) (s : State) : Out :=
  let k := linkKey mort strand
  let m := s.moduleAt k
  if m.open_ && (m.lane up).overdue s.beat then .next (s.onModule k fun m => m.replay up (4 * s.beat) s.beat) else .next s

/-- The beat after the flits in progress, at least the next (R436). -/
def Module.quietFrom (m : Module) (beat : Nat) : Nat :=
  ((m.up.wire ++ m.down.wire).filter fun f => f.begun beat).foldl (fun t f => max t ((f.start + m.gap + 3) / 4)) (beat + 1)

/-- MODULE_RETRAIN_REQUEST (R436): the driver writes retrain -/
def execModuleRetrainRequest (mort strand : Nat) (s : State) : Out :=
  if s.boot.state = 8 then .next (s.noService (0x200000 + 0x1000 * mort + 0x100 + 8 * strand)) else
  .next (s.onModule (linkKey mort strand) fun m => m.startRetrain (m.quietFrom s.beat) s.beat)

/-- The units that a direction holds for delivery: those of held flits that the receiver has not accepted, and those that wait
(R389). -/
def Lane.units (l : Lane) : List FUnit :=
  (l.held.filter fun f => decide ((f.seq - l.expected).toNat < 128)).flatMap UFlit.units ++ l.waiting

/-- MODULE_RETRAIN_END (R389, R436, R463): lo and hi tell which half of the lanes passed. With neither, the module is
down and what it holds completes negatively; else both senders replay. -/
def execModuleRetrainEnd (mort strand : Nat) (lo hi : Bool) (s : State) : Out :=
  let k := linkKey mort strand
  let m := s.moduleAt k
  match m.retrainTill with
  | none => .next s
  | some t =>
    if s.beat < t then .next s
    else
      let m := { m with retrainTill := none, retrains := min 255 (m.retrains + 1) }
      if lo || hi then
        let m := { m with width := if lo && hi then 0 else if lo then 1 else 2 }
        let again := (m.replay true (4 * s.beat) s.beat).replay false (4 * s.beat) s.beat
        .next ((s.onModule k fun _ => again).raiseMsix 27)
      else
        let lost := m.up.units ++ m.down.units
        let s := s.onModule k fun _ => { m with dead := true, up := Lane.rest, down := Lane.rest }
        .next ((lost.foldl State.dropUnit s).raiseMsix 27)

/-- MODULE_WINDOW_BOUNDARY (R389, R436): the failure counts restart -/
def execModuleWindowBoundary (mort strand : Nat) (s : State) : Out :=
  let m := s.moduleAt (linkKey mort strand)
  if m.winStart + 1024 * m.window ≤ s.beat then
    .next (s.onModule (linkKey mort strand) fun m =>
      { m with up := { m.up with fails := 0 }, down := { m.down with fails := 0 }, winStart := s.beat })
  else .next s

end Sys2Proof.Machine
end

