-- ==== Sys2Proof/Machine/Eng.lean ====
section
/-!
DEFINITION. The engine streams: the conditions of issue, tokens, stops, jobs and their completion, and the meanings of
tok, rloop and the table-end mark (01_machine.md R19 to R22, R27, R30 to R34; 02_execution.md R51, R52;
13_ins_vector.md R285 to R287, R313, R314).
-/

namespace Sys2Proof.Machine

/-- The engine whose stream makes the current move. -/
def State.eng (s : State) : Eng := s.here.eng s.turn.stream
/-- That engine changed by f. -/
def State.onEng (s : State) (f : Eng → Eng) : State := s.onHere fun c => c.onEng s.turn.stream f
/-- The word at the step of the current stream. -/
def State.engWord (s : State) : W32 := mget 0 s.here.pl.omem s.eng.step.toNat

/-! ## Stops (R20, R22, R443) -/

/-- A fault in a stream: its cause, address, information word and walk. -/
structure EngFault where
  cause : BitVec 8
  addr : Nat
  walk : Nat
  deriving DecidableEq, Repr

/-- A plain fault without an address. -/
def EngFault.of (c : BitVec 8) : EngFault := ⟨c, 0, 0⟩

/-- A stream of a core stops at a step, with a resume step and the word it reports (R20, R22, R443). A stream that is
stopped keeps its first fault. A prefix that waits for a later micro-order is read again with it (R314). -/
def Core.stopEng (c : Core) (e : Stream) (f : EngFault) (step resume : BitVec 13) (word : W32) (beat : Nat) : Core :=
  c.onEng e fun g =>
    if g.state = .stopped then g
    else
      { g with state := .stopped, step := step, prefx := none,
               fault := some ⟨f.cause, step, resume, w64 f.addr, word.setWidth 64, w64 f.walk, beat⟩ }

/-- The step that a stream issues next: a prefix that waits issues with its micro-order (R314), so it is the
prefix's. -/
def Eng.next (g : Eng) : BitVec 13 := if g.prefx.isSome then g.step - 1 else g.step
/-- The current stream stops at its step; the prefix of that step stays unconsumed (R232). An uncorrectable block of the
scratchpad is counted (R464). -/
def State.stopHere (s : State) (f : EngFault) : State :=
  (s.countBad f.cause (.scr s.turn.core f.addr)).onHere fun c => (c.stopEng s.turn.stream f s.eng.step s.eng.step s.engWord s.beat).onEng s.turn.stream fun g =>
    { g with prefx := s.eng.prefx }

/-! ## Order tokens and link tokens (R34, R52, R225) -/

/-- How often the prefix names token e. -/
def prefixCount (p : BitVec 6 × BitVec 6 × BitVec 6) (e : Nat) : Nat :=
  ([p.1, p.2.1, p.2.2].filter fun x => x.toNat == e).length

/-- Every token named by the waiting prefix is high enough (R34). -/
def Core.prefixMet (c : Core) (g : Eng) : Bool :=
  match g.prefx with
  | none => true
  | some p => [p.1, p.2.1, p.2.2].all fun x => x == 0 || decide (prefixCount p x.toNat ≤ mget 0 c.ve.tokens x.toNat)

/-- The tokens of the prefix fall (R34). -/
def Core.takePrefix (c : Core) (e : Stream) : Core :=
  match (c.eng e).prefx with
  | none => c
  | some p =>
    let ts := [p.1, p.2.1, p.2.2].foldl
      (fun m x => if x = 0 then m else mset 0 m x.toNat (mget 0 m x.toNat - 1)) c.ve.tokens
    ({ c with ve := { c.ve with tokens := ts } }).onEng e fun g => { g with prefx := none }

/-- A micro-order that produces token e may issue: the counter, its producers in flight and one more stay within 63
(R34). -/
def Core.tokenRoom (c : Core) (e : Nat) : Bool :=
  e == 0 || decide (mget 0 c.ve.tokens e + (c.ve.jobs.filter fun j => j.tok == e).length < 63)

/-- The tokens that wait for stream e from its left or right neighbour (R52). -/
def Vecs.linkIn (v : Vecs) (e : Stream) (left : Bool) : Nat :=
  match e, left with
  | .l, false => v.fifoAL
  | .a, true => v.fifoLA
  | .a, false => v.fifoSA
  | .s, true => v.fifoAS
  | _, _ => 0
/-- One of them popped; what L wrote before it pushed the token is then no longer in flight (R183). -/
def Vecs.linkPop (v : Vecs) (e : Stream) (left : Bool) : Vecs :=
  match e, left with
  | .l, false => { v with fifoAL := v.fifoAL - 1 }
  | .a, true =>
    { v with fifoLA := v.fifoLA - 1, marks := (v.marks.map fun e => (e.1, e.2 - 1)).filter fun e => e.2 != 0 }
  | .a, false => { v with fifoSA := v.fifoSA - 1 }
  | .s, true => { v with fifoAS := v.fifoAS - 1 }
  | _, _ => v
/-- Room for a push of stream e to a neighbour (R52). -/
def Vecs.linkRoom (v : Vecs) (e : Stream) (left : Bool) : Bool :=
  match e, left with
  | .l, false => decide (v.fifoLA < v.depthLA)
  | .a, true => decide (v.fifoAL < v.depthLA)
  | .a, false => decide (v.fifoAS < v.depthAS)
  | .s, true => decide (v.fifoSA < v.depthAS)
  | _, _ => true
/-- That push made. -/
def Vecs.linkPush (v : Vecs) (e : Stream) (left : Bool) : Vecs :=
  match e, left with
  | .l, false => { v with fifoLA := v.fifoLA + 1 }
  | .a, true => { v with fifoAL := v.fifoAL + 1 }
  | .a, false => { v with fifoAS := v.fifoAS + 1 }
  | .s, true => { v with fifoSA := v.fifoSA + 1 }
  | _, _ => v

/-- The pop bits of k find their tokens (R52, R225). -/
def Core.popsMet (c : Core) (e : Stream) (k : BitVec 4) : Bool :=
  (!k.getLsbD 3 || decide (0 < c.ve.linkIn e true)) && (!k.getLsbD 2 || decide (0 < c.ve.linkIn e false))
/-- The pops made, left then right. -/
def Core.takePops (c : Core) (e : Stream) (k : BitVec 4) : Core :=
  let v := if k.getLsbD 3 then c.ve.linkPop e true else c.ve
  { c with ve := if k.getLsbD 2 then v.linkPop e false else v }
/-- A stream makes the pushes it owes, in order, as far as there is room; with one left it is stalled (R20, R52). -/
def Core.makePushes (c : Core) (e : Stream) : List Bool → Core
  | [] => c.onEng e fun g =>
    if g.pushing = [] then g else { g with pushing := [], state := if g.state = .stalled then .running else g.state }
  | b :: t =>
    if c.ve.linkRoom e b then ({ c with ve := c.ve.linkPush e b }).makePushes e t
    else c.onEng e fun g => { g with pushing := b :: t, state := if g.state = .running then .stalled else g.state }

/-! ## Issue -/

/-- What the conditions of a micro-order say. -/
inductive Ask where
  | ok
  | stall
  | fault (f : EngFault)
  deriving DecidableEq, Repr

/-- The first of two conditions that does not hold. -/
def Ask.and (a : Ask) (b : Ask) : Ask :=
  match a with
  | .ok => b
  | a => a

/-- The stream goes on to its next step; past the last index it stops at the step it issued (R19). -/
def State.stepOn (s : State) : State :=
  let w := s.engWord
  if s.eng.step = 8191 then s.onHere fun c => c.stopEng s.turn.stream (.of 0x23) s.eng.step s.eng.step w s.beat
  else s.onEng fun g => { g with state := .running, step := g.step + 1, ready := s.beat + 1 }

/-- The state that a micro-order of the current stream finds its operands in: the tokens of its pop bits are taken (R52, R285). -/
def State.popped (s : State) (k : BitVec 4) : State := s.onHere fun c => c.takePops s.turn.stream k

/-- The common form of a micro-order (R285): its prefix, its pop bits k, the room for its produced token tok, then its
own conditions, asked as its own pops leave them (R52), and on issue the pops, then the effect, then the next step. -/
def moIssue (k : BitVec 4) (tok : Nat) (ask : State → Ask) (eff : State → State) (s : State) : Out :=
  let e := s.turn.stream
  if !s.here.prefixMet s.eng || !s.here.popsMet e k || !s.here.tokenRoom tok then
    .next (s.onEng fun g => { g with state := .stalled })
  else match ask (s.popped k) with
    | .stall => .next (s.onEng fun g => { g with state := .stalled })
    | .fault f => .next (s.stopHere f)
    | .ok => .next (eff (s.onHere fun c => (c.takePrefix e).takePops e k)).stepOn

/-! ## Jobs -/

/-- A micro-order that has issued, complete on beat due at the earliest; it carries its number, and the bindings and
history entry it uses. -/
def State.job (s : State) (k : BitVec 4) (tok due : Nat) (uses : List Nat) (hist : Nat) (w : Work) : Job :=
  { id := s.nextId, eng := s.turn.stream, task := s.taskNo s.turn.core, step := s.eng.step, word := s.engWord, tok := tok,
    pl := k.getLsbD 1, pr := k.getLsbD 0, issued := s.beat, due := due, ix := 0, hist := hist, flags := 0,
    uses := uses, warned := false, work := w }
/-- The job joins the core's. -/
def State.addJob (s : State) (j : Job) : State := s.fresh.2.onHere fun c => c.onJobs (· ++ [j])
/-- The job of a number on core n. -/
def State.jobAt (s : State) (n id : Nat) : Option Job := (s.coreAt n).ve.jobs.find? fun j => j.id == id
/-- A job of core n changed. -/
def State.onJob (s : State) (n id : Nat) (f : Job → Job) : State :=
  s.onCore n fun c => c.onJobs fun l => l.map fun j => if j.id = id then f j else j
/-- A job of core n gone. -/
def State.dropJob (s : State) (n id : Nat) : State := s.onCore n fun c => c.onJobs fun l => l.filter fun j => j.id != id

/-- What the end of a job does for every kind of it (R34, R52, R81, R287): its flags are in fflags, its token rises,
its pushes are made. A job of a task that has left the core leaves nothing there. -/
def State.endJob (s : State) (n : Nat) (j : Job) : State :=
  let s := s.dropJob n j.id
  if (s.coreAt n).pl.task != some j.task then s
  else s.onCore n fun c =>
    let c := { c with cr := { c.cr with fflags := c.cr.fflags ||| j.flags }
                      ve := { c.ve with tokens := if j.tok = 0 then c.ve.tokens
                                                  else mset 0 c.ve.tokens j.tok (min 63 (mget 0 c.ve.tokens j.tok + 1)) } }
    c.makePushes j.eng ((c.eng j.eng).pushing ++ (if j.pl then [true] else []) ++ (if j.pr then [false] else []))

/-- The incomplete accesses of a job. -/
def State.accsOf (s : State) (n id : Nat) : Bool :=
  s.accs.any fun e => match e.2 with
    | some a => a.core == n && a.agent.engine && a.job == id
    | none => false

/-- An access of an engine, of the current core and task. -/
def State.engAccess (s : State) (ag : Agent) (l : Loc) (va : Nat) (op : AOp) (load : Bool) (owner job part : Nat) : Access :=
  let t := s.taskAt (s.taskNo s.turn.core)
  { agent := ag, core := s.turn.core, task := s.taskNo s.turn.core, owner := owner, loc := l, va := va, op := op, dst := 0,
    pc := 0, issue := 0, ix := 0, six := 0, lq := load, sq := !load, epoch := 0, scope := 9, job := job, part := part,
    hist := 0, sync := none, chain := (t.map Task.chain).getD 0, depth := (t.map Task.depth).getD 0, stage := .queued,
    due := s.beat, res := .none, flags := 0 }
/-- The access enters its queue. -/
def State.addAcc (s : State) (a : Access) : State :=
  let (id, s) := s.fresh
  s.setAcc id (some a)

/-! ## tok, rloop and the end of a table -/

/-- The word after the current step begins a `tok`, an `rloop` or is the table-end mark (R232). -/
def State.nextBars (s : State) : Bool :=
  let w := mget 0 s.here.pl.omem (s.eng.step.toNat + 1)
  w == 0 || bitsOf w 26 6 == 0x3E || bitsOf w 26 6 == 0x3F

/-- `tok` (R34, R232, R314): it takes no beat of its own; the stream moves again on this beat, at the micro-order that
it governs. The last step has no next word: the stream stops at the `tok` itself (R19, log 191) -/
def execTok (a b c : BitVec 6) (s : State) : Out :=
  if s.eng.step = 8191 then .next (s.stopHere (.of 0x23))
  else if s.nextBars then .next (s.stopHere (.of 0x21))
  else
    let s := s.onEng fun g => { g with prefx := some (a, b, c), step := g.step + 1 }
    .next { s with turn := { s.turn with agenda := .stream s.turn.core s.turn.stream :: s.turn.agenda } }

/-- The loop counters of a stream after an `rloop` of a level, and whether it loops (R313). -/
def Eng.loop (g : Eng) (lev : Bool) (count : Nat) : Eng × Bool :=
  let armed := if lev then g.arm1 else g.arm0
  let lc := if armed then (if lev then g.lc1 else g.lc0) else count
  let again := decide (0 < lc)
  (if lev then { g with lc1 := lc - 1, arm1 := again } else { g with lc0 := lc - 1, arm0 := again }, again)

/-- `rloop` (R27, R313) -/
def execRloop (t : BitVec 13) (lev : Bool) (n : BitVec 12) (s : State) : Out :=
  let e := s.turn.stream
  let (g, again) := s.eng.loop lev n.toNat
  let g := if e = .m ∨ e = .x then g else { g with rb := (g.rb + 39) % 40 }
  let s := s.onEng fun _ => g
  if again then .next (s.onEng fun g => { g with state := .running, step := t, ready := s.beat + 1 })
  else .next s.stepOn

/-- The table-end mark (R19, R20): the stream waits until its issued micro-orders are complete, then is done -/
def execTableEnd (s : State) : Out :=
  if s.here.ordersOut s.turn.stream || s.eng.pushing != [] then .next s
  else .next (s.onEng fun g => { g with state := .done })

/-! ## Bindings (R33, R111, R112) -/

/-- The binding of a name on core n, bound or still in use. -/
def Core.baseOf (c : Core) (uid : Nat) : Base :=
  match (c.ve.bases.map Prod.snd ++ c.ve.old).find? fun b => b.uid == uid with
  | some b => b
  | none => Base.rest

/-- The vectors of a nest set's walk (R31, R32). -/
def nestCount (j : BitVec 256) : Nat :=
  (bitsOf j 176 16 + 1) * (bitsOf j 128 16 + 1) * (bitsOf j 80 16 + 1) * (bitsOf j 32 16 + 1)
/-- The base of a nest set. -/
def nestBase (j : BitVec 256) : Nat := bitsOf j 236 4
/-- The extra value of a nest set. -/
def nestExtra (j : BitVec 256) : BitVec 16 := j.extractLsb' 240 16
/-- The loop indices i3, i2, i1, i0 of position p of a walk. -/
def nestIdx (j : BitVec 256) (p : Nat) : Nat × Nat × Nat × Nat :=
  let c0 := bitsOf j 32 16 + 1
  let c1 := bitsOf j 80 16 + 1
  let c2 := bitsOf j 128 16 + 1
  (p / (c0 * c1 * c2), p / (c0 * c1) % c2, p / c0 % c1, p % c0)
/-- Those indices as twalk reports them (R443). -/
def nestWalk (j : BitVec 256) (p : Nat) : Nat :=
  let (a, b, c, d) := nestIdx j p
  a % 65536 * 2 ^ 48 + b * 2 ^ 32 + c * 2 ^ 16 + d
/-- The byte offset from the base of position p (R32). -/
def nestOff (j : BitVec 256) (p : Nat) : Int :=
  let (a, b, c, d) := nestIdx j p
  let st (lo : Nat) : Int := (j.extractLsb' lo 32).toInt
  (bitsOf j 192 40 : Int) + a * st 144 + b * st 96 + c * st 48 + d * st 0
/-- A nest set that `lnest` accepts (R31). -/
def nestOk (j : BitVec 256) : Bool :=
  bitsOf j 232 4 == 0 && [192, 144, 96, 48, 0].all fun lo => bitsOf j lo 6 == 0

/-- An input walk has begun all its vectors. -/
def InPort.done (p : InPort) : Bool := !p.bound || (decide (nestCount p.nest ≤ p.asked) && p.redo == [])
/-- An output walk whose last vector has entered its FIFO (R292). -/
def OutPort.exhausted (p : OutPort) : Bool := p.bound && nestCount p.nest ≤ p.pushed

/-- Something still uses the binding: a job, or a walk that is not exhausted (R112). -/
def Core.baseUsed (c : Core) (uid : Nat) : Bool :=
  (c.ve.jobs.any fun j => j.uses.contains uid) || (c.ve.ins.any fun e => e.2.base == uid && !e.2.done)
    || c.ve.outs.any fun e => e.2.base == uid && e.2.bound && decide (e.2.pos < nestCount e.2.nest)

/-- The pins of ended bindings that nothing uses drop (R112). -/
def State.reapBases (s : State) (n : Nat) : State :=
  let c := s.coreAt n
  let free := c.ve.old.filter fun b => !c.baseUsed b.uid
  let s := free.foldl (fun t b => t.dropPins ((b.pieces.map Piece.pin).eraseDups.filter (· != 0))) s
  if free = [] then s else s.onCore n fun c => { c with ve := { c.ve with old := c.ve.old.filter fun b => c.baseUsed b.uid } }

/-- Bytes off to off + n - 1 of a base, checked for a stream of core k: bound, with the right, inside the extent or
the fault out, of a kind that the stream reaches, in a live region; the place, and the address (R97, R99, R111, R295). -/
def State.engReach (s : State) (k : Nat) (e : Stream) (b : Base) (write : Bool) (off : Int) (n : Nat) (out : BitVec 8) :
    Except EngFault (Nat × Loc) :=
  if b.extent = 0 then .error (.of 0x0C)
  else if (if write then !b.wr else !b.rd) then .error (.of 0x0B)
  else if off < 0 ∨ (b.extent : Int) < off + n then .error ⟨out, b.addr, 0⟩
  else
    let va := b.addr + off.toNat
    match b.locAt va with
    | none => .error ⟨out, va, 0⟩
    | some l => match l with
      | .scr m o =>
        if m ≠ k ∨ 2 ^ 22 ≤ va then .error ⟨causeScope, va, 0⟩
        else if !s.inRegion m o n then .error ⟨causeUnallocated, va, 0⟩
        else .ok (va, l)
      | .dsm d _ => if d = dieOf k ∧ e ≠ .m then .ok (va, l) else .error ⟨causeScope, va, 0⟩
      | _ => .error ⟨causeScope, va, 0⟩

/-- What a read of n bytes of the local scratchpad by an engine finds before it issues (R69, R100, R116). -/
def State.engReadOk (s : State) (k va : Nat) (l : Loc) (n : Nat) : Option EngFault :=
  match l with
  | .scr _ _ =>
    let bs := upFrom (blkOf l) ((n + 63) / 64)
    if bs.any (mget false s.mem.bad) then some ⟨causeUncorrectable, va, 0⟩
    else if bs.any fun b => !tagOk (s.feature 1) (mget 0 s.mem.tags b) then some ⟨causeBadTag, va, 0⟩
    else if !(s.coreAt k).cr.spwarn && bs.any fun b => !s.mem.allValid b (if n < 64 then inBlk l else 0) (min n 64) then
      some ⟨causeUninit, va, 0⟩
    else none
  | _ => none

/-- A number put into a rising list. -/
def insertUp (k : Nat) : List Nat → List Nat
  | [] => [k]
  | a :: t => if k < a then k :: a :: t else if k = a then a :: t else a :: insertUp k t

/-- The n blocks of a base from an address on, each with its number and its own place (R96, R111). -/
def Base.blocksAt (b : Base) (va n : Nat) : List (Nat × Loc) :=
  (List.range n).filterMap fun i => (b.locAt (va + 64 * i)).map fun l => (i, l)

end Sys2Proof.Machine
end

