-- ==== Sys2Proof/Machine/LoadStore.lean ====
section
/-!
DEFINITION. The micro-orders of L and S, the walks of their ports, and the end of micro-orders: the meanings of lport,
lglob, lbc, lnest, sport, sglob, PORT_WALK_FETCH, PORT_DRAIN (13_ins_vector.md R289 to R296).
-/

namespace Sys2Proof.Machine

/-- Base k of the current core. -/
def State.baseHere (s : State) (k : Nat) : Base := mget Base.rest s.here.ve.bases k
/-- Input port p of core n. -/
def Core.inPort (c : Core) (p : Nat) : InPort := mget InPort.rest c.ve.ins p
/-- Output port p of core n. -/
def Core.outPort (c : Core) (p : Nat) : OutPort := mget OutPort.rest c.ve.outs p
/-- Input port p changed. -/
def Core.onIn (c : Core) (p : Nat) (f : InPort → InPort) : Core :=
  { c with ve := { c.ve with ins := mset InPort.rest c.ve.ins p (f (c.inPort p)) } }
/-- Output port p changed. -/
def Core.onOut (c : Core) (p : Nat) (f : OutPort → OutPort) : Core :=
  { c with ve := { c.ve with outs := mset OutPort.rest c.ve.outs p (f (c.outPort p)) } }
/-- The physical register of a name of the current stream (R27). -/
def State.physHere (s : State) (v : BitVec 6) : Nat := physV s.eng.rb v.toNat
/-- A micro-order of L or S that names a lent register stops, and in checked mode one that names a register in a shadow (R62, R184,
R285, R288). -/
def State.lentAsk (s : State) (r : Nat) : Ask :=
  if s.here.pl.lent.contains r then .fault (.of 0x4A)
  else if s.here.cr.tcheck && s.here.vBusy r then .fault (.of 0x24)
  else .ok

/-- The results of A that are not written yet, in the order of issue. -/
def Core.aWrites (c : Core) : List AWrite :=
  c.ve.jobs.flatMap fun j => match j.work with
    | .arith ws => ws
    | _ => []

/-- Of a value in its register and one that is on its way there, the one that a read finds: either (R183, log 6). -/
def State.pick {α : Type} (s : State) (old : α) (new : Option α) : α × State :=
  match new with
  | none => (old, s)
  | some x => (if Config.pickNew s.free then x else old, { s with free := s.free + 1 })

/-- Vector register r as A or S reads it. -/
def State.aReg (s : State) (r : Nat) : Vec × State :=
  s.pick (mget Vec.zero s.here.ve.v r) ((s.here.aWrites.filterMap fun w => match w with
    | .v k x => if k = r then some x else none
    | _ => none).getLast?)
/-! ## L -/

/-- The conditions of a read of n bytes by L at an offset from base k. -/
def State.readAsk (s : State) (k : Nat) (off n : Nat) : Ask :=
  match s.engReach s.turn.core .l (s.baseHere k) false off n 0x2C with
  | .error f => .fault f
  | .ok (va, l) => match s.engReadOk s.turn.core va l n with
    | some f => .fault f
    | none => .ok

/-- A read of nb blocks by L at an offset from base k issues, with its job. -/
def State.readIssue (s : State) (t : BitVec 4) (k off nb : Nat) (w : Work) : State :=
  let b := s.baseHere k
  match s.engReach s.turn.core .l b false off 1 0x2C with
  | .error _ => s
  | .ok (va, _) =>
    let id := s.nextId
    let s := s.addJob (s.job t 0 (s.beat + 1) [b.uid] 0 w)
    (b.blocksAt va nb).foldl (fun s e => s.addAcc (s.engAccess .l e.2 (va + 64 * e.1) .rblk true b.owner id e.1)) s

/-- `lglob` (R287, R295) -/
def execLglob (o : GForm) (s : State) : Out :=
  moIssue o.k 0 (fun s => (s.lentAsk (s.physHere o.v)).and (s.readAsk o.b.toNat (64 * o.o.toNat) 256))
    (fun s => s.readIssue o.k o.b.toNat (64 * o.o.toNat) 4 (.vload (s.physHere o.v) false [])) s

/-- `lbc` (R287, R295) -/
def execLbc (o : GForm) (s : State) : Out :=
  moIssue o.k 0 (fun s => (s.lentAsk (s.physHere o.v)).and (s.readAsk o.b.toNat (64 * o.o.toNat) 64))
    (fun s => s.readIssue o.k o.b.toNat (64 * o.o.toNat) 1 (.vload (s.physHere o.v) true [])) s

/-- `lnest` (R31, R296) -/
def execLnest (n b : BitVec 4) (o : BitVec 14) (k : BitVec 4) (s : State) : Out :=
  moIssue k 0 (fun s => s.readAsk b.toNat (32 * o.toNat) 32)
    (fun s => s.readIssue k b.toNat (32 * o.toNat / 64 * 64) 1 (.nload n.toNat (32 * (o.toNat % 2)) none)) s

/-- The conditions of `lport` and `sport`: the walk before is at its end, then the base (R289, R291). -/
def State.bindAsk (s : State) (ready : Bool) (n : Nat) (write : Bool) : Ask :=
  let b := s.baseHere (nestBase (mget 0 s.here.ve.nests n))
  if !ready then .stall
  else if b.extent = 0 then .fault (.of 0x0C)
  else if (if write then !b.wr else !b.rd) then .fault (.of 0x0B)
  else .ok

/-- `lport` (R289) -/
def execLport (p : BitVec 3) (n : BitVec 4) (c : Bool) (k : BitVec 4) (s : State) : Out :=
  moIssue k 0
    (fun s =>
      let q := s.here.inPort p.toNat
      s.bindAsk (q.done && q.fifo == [] && q.pos == q.asked && q.cursor == 0) n.toNat false)
    (fun s =>
      let j := mget 0 s.here.ve.nests n.toNat
      let u := (s.baseHere (nestBase j)).uid
      (s.addJob (s.job k 0 (s.beat + 1) [] 0 .plain)).onHere fun x =>
        x.onIn p.toNat fun _ => ⟨true, c, j, 0, 0, [], s.eng.step, 0, [], u, []⟩) s

/-- A walk fault of a port of L or S (R290, R291): the stream stops at once, at the step that bound the walk, and
resumes at the step it would have issued next. -/
def State.walkFault (s : State) (n : Nat) (e : Stream) (f : EngFault) (step : BitVec 13) : State :=
  s.onCore n fun c => c.stopEng e f step (c.eng e).next (mget 0 c.pl.omem step.toNat) s.beat

/-- A job of a walk of core n. -/
def State.walkJob (s : State) (n : Nat) (e : Stream) (step : BitVec 13) (uid hist : Nat) (w : Work) : Job :=
  { id := s.nextId, eng := e, task := s.taskNo n, step := step, word := mget 0 (s.coreAt n).pl.omem step.toNat, tok := 0,
    pl := false, pr := false, issued := s.beat, due := s.beat + 1, ix := 0, hist := hist, flags := 0, uses := [uid],
    warned := false, work := w }

/-- An access of a walk of core n. -/
def State.walkAccess (s : State) (n : Nat) (ag : Agent) (l : Loc) (va : Nat) (op : AOp) (load : Bool) (owner job part : Nat) :
    Access :=
  { { s with turn := { s.turn with core := n } }.engAccess ag l va op load owner job part with core := n }

/-- PORT_WALK_FETCH (R30, R32, R289, R290): the next vector of an input port's walk is fetched -/
def execPortWalkFetch (n p : Nat) (s : State) : Out :=
  let c := s.coreAt n
  let q := c.inPort p
  let pos := q.redo.headD q.asked
  if !q.bound || q.done || (q.redo == [] && decide (16 ≤ q.fifo.length + (q.asked - q.pos)))
      || (c.eng .l).state == .stopped || c.pl.saveBeat.isSome then .next s
  else
    let b := c.baseOf q.base
    match s.engReach n .l b false (nestOff q.nest pos) 256 0x28 with
    | .error f => .next (s.walkFault n .l { f with walk := nestWalk q.nest pos } q.step)
    | .ok (va, l) => match s.engReadOk n va l 256 with
      | some f => .next ((s.countBad f.cause l).walkFault n .l { f with walk := nestWalk q.nest pos } q.step)
      | none =>
        let id := s.nextId
        let j := s.walkJob n .l q.step q.base 0 (.fetch p pos [])
        let s := s.fresh.2.onCore n fun c => (c.onJobs (· ++ [j])).onIn p fun q =>
          if q.redo = [] then { q with asked := q.asked + 1 } else { q with redo := q.redo.drop 1 }
        .next ((b.blocksAt va 4).foldl
          (fun s e => s.addAcc (s.walkAccess n .l e.2 (va + 64 * e.1) .rblk true b.owner id e.1)) s)

/-! ## S -/

/-- A vector of S written to an address of a base: its history entry, its job and its four blocks (R70, R287, R448). -/
def State.writeVec (s : State) (n : Nat) (mk : Nat → State → Job) (va : Nat) (b : Base) (step : BitVec 13) (x : Vec) : State :=
  let (h, s) := s.addHist n 1 step.toNat ((s.coreAt n).issueNo 2) 0 va
  let s := s.onCore n fun c => c.bumpIssue 2
  let id := s.nextId
  let j := mk h s
  let s := s.fresh.2.onCore n fun c => c.onJobs (· ++ [j])
  (b.blocksAt va 4).foldl (fun s e => s.addAcc
    { s.walkAccess n .s e.2 (va + 64 * e.1) (.wblk 0 64 (x.quarter e.1)) false b.owner id e.1 with hist := h }) s

/-- `sglob` (R287, R295) -/
def execSglob (o : GForm) (s : State) : Out :=
  moIssue o.k 0
    (fun s => (s.lentAsk (s.physHere o.v)).and
      (match s.engReach s.turn.core .s (s.baseHere o.b.toNat) true (64 * o.o.toNat) 256 0x2C with
        | .error f => .fault f
        | .ok _ => .ok))
    (fun s =>
      let b := s.baseHere o.b.toNat
      match s.engReach s.turn.core .s b true (64 * o.o.toNat) 256 0x2C with
      | .error _ => s
      | .ok (va, _) =>
        let r := s.aReg (s.physHere o.v)
        r.2.writeVec s.turn.core (fun h s => s.job o.k 0 (s.beat + 1) [b.uid] h .plain) va b s.eng.step r.1) s

/-- `sport` (R291): vectors already in the port's FIFO belong to the new walk (R292) -/
def execSport (p : BitVec 3) (n : BitVec 4) (k : BitVec 4) (s : State) : Out :=
  moIssue k 0
    (fun s =>
      let q := s.here.outPort p.toNat
      let draining := s.here.ve.jobs.any fun j => match j.work with
        | .drain i _ => i == p.toNat
        | _ => false
      s.bindAsk (!q.bound || (decide (nestCount q.nest ≤ q.pos) && !draining)) n.toNat true)
    (fun s =>
      let j := mget 0 s.here.ve.nests n.toNat
      let u := (s.baseHere (nestBase j)).uid
      (s.addJob (s.job k 0 (s.beat + 1) [] 0 .plain)).onHere fun x =>
        x.onOut p.toNat fun q =>
          { q with bound := true, nest := j, pushed := q.fifo.length, pos := 0, step := s.eng.step, base := u }) s

/-- PORT_DRAIN (R30, R32, R291): S drains the head vector of an output port to the next address of its walk -/
def execPortDrain (n p : Nat) (s : State) : Out :=
  let c := s.coreAt n
  let q := c.outPort p
  match q.fifo with
  | [] => .next s
  | x :: rest =>
    if !q.bound || decide (nestCount q.nest ≤ q.pos) || (c.eng .s).state == .stopped || c.pl.saveBeat.isSome then .next s
    else
      let b := c.baseOf q.base
      match s.engReach n .s b true (nestOff q.nest q.pos) 256 0x28 with
      | .error f => .next (s.walkFault n .s { f with walk := nestWalk q.nest q.pos } q.step)
      | .ok (va, _) =>
        let s := s.onCore n fun c => c.onOut p fun q => { q with fifo := rest, pos := q.pos + 1 }
        .next (s.writeVec n (fun h s => s.walkJob n .s q.step q.base h (.drain p q.pos)) va b q.step x)

/-! ## Parts of L's and S's jobs -/

/-- The blocks of parts 0 to n - 1, when all have come. -/
def partsOf (m : SMap (Option Blk)) (n : Nat) : Option (List Blk) := (List.range n).mapM (mget none m)

/-- The other accesses of a job are forgotten: the micro-order has stopped. -/
def State.dropAccs (s : State) (n id : Nat) : State :=
  { s with accs := s.accs.filter fun e => match e.2 with
      | some a => !(a.core == n && a.agent.engine && a.job == id)
      | none => true }

/-- The next vector of a port's walk enters its FIFO, once it has been fetched: one on a beat (R289, R374). -/
def InPort.shift (q : InPort) : InPort :=
  match q.got.find? fun e => e.1 == q.pos with
  | some e => { q with fifo := q.fifo ++ [e.2], pos := q.pos + 1, got := q.got.filter fun x => x.1 != e.1 }
  | none => q
/-- What the input ports of a core do on a beat. -/
def Core.shiftPorts (c : Core) : Core := (List.range 8).foldl (fun k p => if (k.inPort p).got = [] then k else k.onIn p InPort.shift) c

/-- A read of L came back as an error (R290, R295): L stops at the step of the micro-order, or at the `lport` of the
walk, whose next vector is then the faulting one; what else was fetched is not fetched again. -/
def State.loadFault (s : State) (n : Nat) (j : Job) (cause : BitVec 8) (va : Nat) : State :=
  let s := (s.dropJob n j.id).dropAccs n j.id
  if (s.coreAt n).pl.task ≠ some j.task then s
  else match j.work with
  | .fetch p pos _ =>
    let q := (s.coreAt n).inPort p
    let s := s.onCore n fun c => c.onIn p fun q => { q with redo := insertUp pos q.redo }
    s.walkFault n .l ⟨cause, va, nestWalk q.nest pos⟩ q.step
  | _ => s.onCore n fun c => c.stopEng .l ⟨cause, va, 0⟩ j.step j.step j.word s.beat

/-- A block that L read has come back for a job. -/
def Work.takeBlk (w : Work) (part : Nat) (b : Blk) : Work :=
  match w with
  | .vload r bc m => .vload r bc (mset none m part (some b))
  | .nload n o _ => .nload n o (some b)
  | .fetch p q m => .fetch p q (mset none m part (some b))
  | w => w

/-- A job of L, S or A is ready to complete (R287): what it read has come, its accesses are performed, its latency is
over. -/
def State.lsReady (s : State) (n : Nat) (j : Job) : Bool :=
  decide (j.due ≤ s.beat) && (match j.work with
    | .vload _ bc m => (partsOf m (if bc then 1 else 4)).isSome
    | .nload _ _ b => b.isSome
    | .fetch _ _ m => (partsOf m 4).isSome
    | _ => !s.accsOf n j.id)

/-- The tokens from L that A pops up to the first that follows what L has completed until now (R126, R183). -/
def Vecs.tokensAhead (v : Vecs) (owed : List Bool) : Nat := v.fifoLA + (owed.filter (! ·)).length + 1

/-- A complete job of L leaves its data in its register, nest set or port, where its task still is (R39). A nest set that breaks R31
stops L. -/
def State.lEnd (s : State) (n : Nat) (j : Job) : State :=
  if (s.coreAt n).pl.task ≠ some j.task then s.dropJob n j.id
  else match j.work with
  | .vload r bc m =>
    let bs := (partsOf m (if bc then 1 else 4)).getD []
    let x := vecOf (if bc then List.replicate 4 (bs.headD Blk.zero) else bs)
    (s.onCore n fun c => { c with ve := { c.ve with
      v := mset Vec.zero c.ve.v r x, marks := mset 0 c.ve.marks r (c.ve.tokensAhead (c.eng .l).pushing) } }).endJob n j
  | .nload k o b =>
    let x : BitVec 256 := (b.getD Blk.zero).data.extractLsb' (8 * o) 256
    if nestOk x then
      (s.onCore n fun c => { c with ve := { c.ve with nests := mset 0 c.ve.nests k x } }).endJob n j
    else (s.dropJob n j.id).onCore n fun c => c.stopEng .l (.of 0x2B) j.step j.step j.word s.beat
  | .fetch p pos m =>
    let x := vecOf ((partsOf m 4).getD [])
    (s.dropJob n j.id).onCore n fun c => c.onIn p fun q => { q with got := (q.got.filter fun e => e.1 != pos) ++ [(pos, x)] }
  | _ => s.endJob n j

end Sys2Proof.Machine
end

