-- ==== Sys2Proof/Machine/Vec.lean ====
section
/-!
DEFINITION. The vector arithmetic of A: operands and destinations, ports, guards, and the meanings of every A
micro-order (13_ins_vector.md R285 to R288, R292, R294, R297 to R312; 08_timing.md R182 to R184; 03_numbers.md R71).
-/

namespace Sys2Proof.Machine

/-! ## Operands (R27, R28, R183, R184, R288, R294) -/

/-- Guard g as A reads it; g15 reads true (R28). -/
def State.aGuard (s : State) (g : Nat) : Bool × State :=
  if g = 15 then (true, s)
  else s.pick (mget false s.here.ve.g g) ((s.here.aWrites.filterMap fun w => match w with
    | .g k x => if k = g then some x else none
    | _ => none).getLast?)
/-- The quantiser state as A reads it (R308). -/
def State.aQs (s : State) : Qs × State :=
  s.pick s.here.ve.qs ((s.here.aWrites.filterMap fun w => match w with
    | .q x => some x
    | _ => none).getLast?)
/-- A guard is in the shadow of a write. -/
def Core.gBusy (c : Core) (g : Nat) : Bool :=
  g != 15 && c.aWrites.any fun w => match w with
    | .g k _ => k == g
    | _ => false
/-- The quantiser state is in the shadow of a write. -/
def Core.qBusy (c : Core) : Bool :=
  c.aWrites.any fun w => match w with
    | .q _ => true
    | _ => false

/-- A source as a micro-order reads it: a vector, the byte at which what it takes begins, and the extra value of FP4
(R294, R306). -/
structure Opnd where
  x : Vec
  off : Nat
  extra : BitVec 16
  deriving DecidableEq, Repr

/-- A source of A: its operand code and the bytes it takes, 256 for a whole vector. -/
abbrev ASrc := Nat × Nat

/-- The physical register of an operand code below 56, of the current stream. -/
def State.physA (s : State) (code : Nat) : Nat := physV s.eng.rb code

/-- A source read; a port is popped, or its cursor moves on (R30, R294). -/
def State.takeSrc (s : State) (c : ASrc) : Opnd × State :=
  if c.1 < 56 then
    let r := s.aReg (s.physA c.1)
    (⟨r.1, 0, 0⟩, r.2)
  else
    let q := s.here.inPort (c.1 - 56)
    let cur := q.cursor + c.2
    (⟨q.fifo.headD Vec.zero, q.cursor, nestExtra q.nest⟩,
      s.onHere fun k => k.onIn (c.1 - 56) fun q =>
        if 256 ≤ cur then { q with fifo := q.fifo.drop 1, cursor := 0 } else { q with cursor := cur })
/-- The sources read in order. -/
def State.takeSrcs (s : State) : List ASrc → List Opnd × State
  | [] => ([], s)
  | c :: t =>
    let r := s.takeSrc c
    let q := r.2.takeSrcs t
    (r.1 :: q.1, q.2)

/-- The conditions on the input ports of a list of sources, given the ports already popped (R285 step 4, R30, R32,
R292, R294). -/
def State.portsAsk (s : State) (before : List Nat) : List ASrc → Ask
  | [] => .ok
  | c :: t =>
    if c.1 < 56 then s.portsAsk before t
    else
      let q := s.here.inPort (c.1 - 56)
      let need := (before.filter (· == c.1)).length + 1
      if !q.bound then .stall
      else if q.toM then .fault (.of 0x27)
      else if q.fifo.length < need then
        if nestCount q.nest ≤ q.pos then .fault (.of 0x29) else .stall
      else if (if c.2 = 256 then q.cursor ≠ 0 else 256 < q.cursor + c.2) then .fault (.of 0x2A)
      else s.portsAsk (before ++ [c.1]) t

/-- Every quarter that the sources take of has a good tag (R69). -/
def tagsOk (cells : Bool) (srcs : List ASrc) (ops : List Opnd) : Bool :=
  (srcs.zip ops).all fun e =>
    (List.range 4).all fun q =>
      !(decide (e.2.off / 64 ≤ q) && decide (64 * q < e.2.off + e.1.2)) || tagOk cells (e.2.x.quarter q).tag

/-! ## Destinations (R285 step 5, R292, R294) -/

/-- The bytes that A's results under way append to port p (R294). -/
def Core.packing (c : Core) (p : Nat) : Nat :=
  (c.ve.jobs.flatMap fun j => match j.work with
    | .arith ws => ws.map fun w => match w with
      | .pack q m _ => if q = p then m else 0
      | _ => 0
    | _ => []).sum
/-- The entries of port p's FIFO that pushes in their shadow hold: a whole vector one, and each append that completes one (R285,
R294). -/
def Core.heldEntries (c : Core) (p : Nat) : Nat :=
  (c.ve.jobs.flatMap fun j => match j.work with
    | .arith ws => ws.map fun w => match w with
      | .port q _ => if q = p then 1 else 0
      | _ => 0
    | _ => []).sum + ((c.outPort p).packed + c.packing p) / 256

/-- The conditions on a destination of m bytes under operand code d: the pack count as it stands at issue, and a free entry for what
gives the FIFO a vector. Whether the walk is exhausted is found as the push is made (R292, R294, log 158). -/
def State.dstAsk (s : State) (d m : Nat) : Ask :=
  if d < 56 then .ok
  else
    let q := s.here.outPort (d - 56)
    if (if m = 256 then q.packed ≠ 0 else 256 < q.packed + m) then .fault (.of 0x2A)
    else if m ≠ 256 ∧ (q.packed + s.here.packing (d - 56)) % 256 + m < 256 then .ok
    else if 16 ≤ q.fifo.length + s.here.heldEntries (d - 56) then .stall
    else .ok

/-- The write of a result of m bytes to operand code d. A register takes zero bytes tagged 0x0000 beyond the m. -/
def State.dstWrite (s : State) (d m : Nat) (x : Vec) : AWrite :=
  if d < 56 then .v (s.physA d) x
  else if m = 256 then .port (d - 56) x
  else .pack (d - 56) m x

/-! ## The common form of an A micro-order -/

/-- What a micro-order makes: its result, its flags, and other writes, or a fault. -/
abbrev AMake := Except (BitVec 8) (Vec × Flags × List AWrite)

/-- What A reads beside its operands: nothing, the quantiser state, or a free value. -/
inductive AUse where
  | plain | readsQs | takesFree
  deriving DecidableEq, Repr

/-- The guard of a micro-order holds (R227, R286). -/
def State.guardOn (s : State) (g : BitVec 3) (sense : Bool) : Bool × State :=
  if g = 7 then (true, s)
  else
    let r := s.aGuard (physG s.eng.rb g.toNat)
    (r.1 != sense, r.2)

/-- The operand codes below 56 among sources and destination, as physical registers. -/
def State.aRegs (s : State) (srcs : List ASrc) (d : Nat) : List Nat :=
  ((srcs.map Prod.fst ++ [d]).filter (· < 56)).map s.physA

/-- The operands, the quantiser state and the number of the free value of a micro-order that runs. -/
def State.aInputs (s : State) (srcs : List ASrc) (u : AUse) : List Opnd × Qs × Nat × State :=
  let r := s.takeSrcs srcs
  match u with
  | .plain => (r.1, Qs.rest, 0, r.2)
  | .readsQs =>
    let q := r.2.aQs
    (r.1, q.1, 0, q.2)
  | .takesFree => (r.1, Qs.rest, r.2.free, { r.2 with free := r.2.free + 1 })

/-- The shadow check of checked mode (R184, R285 step 6). -/
def State.shadowAsk (s : State) (rs : List Nat) (u : AUse) (gs : List Nat) : Ask :=
  if s.here.cr.tcheck && (rs.any s.here.vBusy || gs.any s.here.gBusy || (u != .plain && s.here.qBusy)) then
    .fault (.of 0x24)
  else .ok

/-- The physical guards that a micro-order reads and writes. -/
def State.aGuards (s : State) (g : BitVec 3) (gw : Option Nat) : List Nat :=
  (if g = 7 then [] else [physG s.eng.rb g.toNat]) ++ gw.toList

/-- The conditions of an A micro-order with destination d of m bytes (R285, R286, R288). -/
def State.aAsk (s : State) (d m : Nat) (g : BitVec 3) (sense : Bool) (srcs : List ASrc) (u : AUse) (gw : Option Nat)
    (run : List Opnd → Qs → Nat → AMake) : Ask :=
  let on := s.guardOn g sense
  let lent : Ask := if (s.aRegs srcs d).any s.here.pl.lent.contains then .fault (.of 0x4A) else .ok
  let ports := lent.and (s.portsAsk [] srcs)
  if !on.1 then ports.and (s.shadowAsk [] .plain (s.aGuards g none))
  else
    let i := on.2.aInputs srcs u
    ((ports.and (s.dstAsk d m)).and (s.shadowAsk (s.aRegs srcs d) u (s.aGuards g gw))).and
      (if !tagsOk (s.feature 1) srcs i.1 then .fault (.of causeBadTag)
       else match run i.1 i.2.1 i.2.2.1 with
         | .error c => .fault (.of c)
         | .ok _ => .ok)

/-- An A micro-order issues; a guard that does not hold leaves the ports popped and nothing written (R286). -/
def State.aEffect (s : State) (d m : Nat) (g : BitVec 3) (sense : Bool) (k : BitVec 4) (lat : Nat) (srcs : List ASrc)
    (u : AUse) (run : List Opnd → Qs → Nat → AMake) : State :=
  let on := s.guardOn g sense
  if !on.1 then
    let t := (on.2.takeSrcs (srcs.filter fun c => 56 ≤ c.1)).2
    t.addJob (t.job k 0 (s.beat + lat) [] 0 (.arith []))
  else
    let i := on.2.aInputs srcs u
    let t := i.2.2.2
    match run i.1 i.2.1 i.2.2.1 with
    | .error _ => s
    | .ok (x, fl, ws) =>
      t.addJob { t.job k 0 (s.beat + lat) [] 0 (.arith (t.dstWrite d m x :: ws)) with flags := fl }

/-- The common form (R285 to R288). -/
def aIssue (d m : Nat) (g : BitVec 3) (sense : Bool) (k : BitVec 4) (lat : Nat) (srcs : List ASrc) (u : AUse)
    (gw : Option Nat) (run : List Opnd → Qs → Nat → AMake) (s : State) : Out :=
  moIssue k 0 (fun s => s.aAsk d m g sense srcs u gw run) (fun s => s.aEffect d m g sense k lat srcs u run) s

/-- Why a push or an append to an output port is not made on its beat: the walk is exhausted, or the pack count does not fit (R292,
R294). -/
def Core.pushFault (c : Core) (w : AWrite) : Option (BitVec 8) :=
  match w with
  | .port p _ => if (c.outPort p).exhausted then some 0x29 else if (c.outPort p).packed ≠ 0 then some 0x2A else none
  | .pack p m _ =>
    if 256 < (c.outPort p).packed + m then some 0x2A
    else if (c.outPort p).packed + m = 256 ∧ (c.outPort p).exhausted then some 0x29
    else none
  | _ => none

/-- A vector with m bytes of x, under its tags, appended at a place (R294). -/
def packInto (part : Vec) (at_ m : Nat) (x : Vec) : Vec :=
  let lo := part.data.toNat % 2 ^ (8 * at_)
  let qs := (List.range 4).map fun i =>
    if at_ / 64 ≤ i ∧ 64 * i < at_ + m then (x.quarter (i - at_ / 64)).tag else (part.quarter i).tag
  ⟨BitVec.ofNat 2048 (lo + 2 ^ (8 * at_) * (x.data.toNat % 2 ^ (8 * m))), qs.foldr (fun t n => (n <<< 16) ||| t.setWidth 64) 0⟩

/-- A write of a complete A micro-order is made (R180, R292, R294). -/
def Core.aWrite (c : Core) (w : AWrite) : Core :=
  if (c.pushFault w).isSome then c
  else match w with
    | .v r x => { c with ve := { c.ve with v := mset Vec.zero c.ve.v r x } }
    | .g r b => if r = 15 then c else { c with ve := { c.ve with g := mset false c.ve.g r b } }
    | .q x => { c with ve := { c.ve with qs := x } }
    | .port p x => c.onOut p fun q => { q with fifo := q.fifo ++ [x], pushed := q.pushed + 1 }
    | .pack p m x => c.onOut p fun q =>
      let v := packInto q.part q.packed m x
      if q.packed + m = 256 then { q with fifo := q.fifo ++ [v], pushed := q.pushed + 1, part := Vec.zero, packed := 0 }
      else { q with part := v, packed := q.packed + m }

/-! ## Lanes (R26, R71) -/

/-- A type suffix: its lane width in bits, and the tag of its results. -/
structure Sfx where
  w : Nat
  tag : Tag
  deriving DecidableEq, Repr

/-- .i8 -/
def Sfx.i8 : Sfx := ⟨8, 0x017F⟩
/-- .i32 -/
def Sfx.i32 : Sfx := ⟨32, 0x0200⟩
/-- .n32 -/
def Sfx.n32 : Sfx := ⟨32, 0⟩
/-- .f32 -/
def Sfx.f32 : Sfx := ⟨32, 0x0300⟩
/-- .b16 -/
def Sfx.b16 : Sfx := ⟨16, 0x0400⟩

/-- The lanes of a vector. -/
def lanesOf (w : Nat) (x : Vec) : List Nat := (List.range (2048 / w)).map fun m => bitsOf x.data (w * m) w
/-- Lanes put together. -/
def ofLanes (w : Nat) (l : List Nat) : BitVec 2048 := BitVec.ofNat 2048 (l.foldr (fun v n => v % 2 ^ w + 2 ^ w * n) 0)
/-- One tag in all four quarters. -/
def tags4 (t : Tag) : BitVec 64 := t ++ t ++ t ++ t
/-- Lanes with flags as a result of a suffix. -/
def laneRes (f : Sfx) (l : List (Nat × Flags)) : AMake :=
  .ok (⟨ofLanes f.w (l.map Prod.fst), tags4 f.tag⟩, l.foldl (fun a e => a ||| e.2) 0, [])

/-- d := op of the lanes of a and b. -/
def vec2 (f : Sfx) (lat : Nat) (op : Nat → Nat → Nat × Flags) (o : AForm) (s : State) : Out :=
  aIssue o.d.toNat 256 o.g o.s o.k lat [(o.a.toNat, 256), (o.b.toNat, 256)] .plain none
    (fun l _ _ => match l with
      | [a, b] => laneRes f (List.zipWith op (lanesOf f.w a.x) (lanesOf f.w b.x))
      | _ => .error 0x21) s

/-- d := op of the lanes of a, b and d (R228). Where d names a port, its input port is read. -/
def vec3 (f : Sfx) (lat : Nat) (op : Nat → Nat → Nat → Nat × Flags) (o : AForm) (s : State) : Out :=
  aIssue o.d.toNat 256 o.g o.s o.k lat [(o.a.toNat, 256), (o.b.toNat, 256), (o.d.toNat, 256)] .plain none
    (fun l _ _ => match l with
      | [a, b, d] => laneRes f (List.zipWith (fun e z => op e.1 e.2 z) ((lanesOf f.w a.x).zip (lanesOf f.w b.x)) (lanesOf f.w d.x))
      | _ => .error 0x21) s

/-- d := a function of all the lanes of a. -/
def vecAll (f : Sfx) (lat : Nat) (op : List Nat → List (Nat × Flags)) (o : AUForm) (s : State) : Out :=
  aIssue o.d.toNat 256 o.g o.s o.k lat [(o.a.toNat, 256)] .plain none
    (fun l _ _ => match l with
      | [a] => laneRes f (op (lanesOf f.w a.x))
      | _ => .error 0x21) s

/-- d := op of the lanes of a. -/
def vec1 (f : Sfx) (lat : Nat) (op : Nat → Nat × Flags) (o : AUForm) (s : State) : Out :=
  vecAll f lat (fun l => l.map op) o s

/-- A lane operation without flags. -/
def plain2 (op : Nat → Nat → Nat) (a b : Nat) : Nat × Flags := (op a b, 0)
/-- An operation on two's-complement lanes of w bits. -/
def onBits (w : Nat) (op : BitVec w → BitVec w → BitVec w) (a b : Nat) : Nat × Flags :=
  ((op (BitVec.ofNat w a) (BitVec.ofNat w b)).toNat, 0)
/-- The lesser and the greater of two signed words. -/
def minI32 (x y : BitVec 32) : BitVec 32 := if x.toInt ≤ y.toInt then x else y
/-- The greater of two signed words. -/
def maxI32 (x y : BitVec 32) : BitVec 32 := if x.toInt ≤ y.toInt then y else x

/-! ## Integer and logic (R297) -/

/-- `vadd.i8` -/
def execVaddI8 (o : AForm) (s : State) : Out := vec2 .i8 2 (onBits 8 (· + ·)) o s
/-- `vadd.i32` -/
def execVaddI32 (o : AForm) (s : State) : Out := vec2 .i32 2 (onBits 32 (· + ·)) o s
/-- `vsub.i8` -/
def execVsubI8 (o : AForm) (s : State) : Out := vec2 .i8 2 (onBits 8 (· - ·)) o s
/-- `vsub.i32` -/
def execVsubI32 (o : AForm) (s : State) : Out := vec2 .i32 2 (onBits 32 (· - ·)) o s
/-- `vmul.i32` -/
def execVmulI32 (o : AForm) (s : State) : Out := vec2 .i32 3 (onBits 32 (· * ·)) o s
/-- `vmin.i32` -/
def execVminI32 (o : AForm) (s : State) : Out := vec2 .i32 2 (onBits 32 minI32) o s
/-- `vmax.i32` -/
def execVmaxI32 (o : AForm) (s : State) : Out := vec2 .i32 2 (onBits 32 maxI32) o s
/-- `vclamp.i32`: min(max(d, a), b) -/
def execVclampI32 (o : AForm) (s : State) : Out :=
  vec3 .i32 2 (fun a b d => ((minI32 (maxI32 (BitVec.ofNat 32 d) (BitVec.ofNat 32 a)) (BitVec.ofNat 32 b)).toNat, 0)) o s
/-- `vand.n32` -/
def execVand (o : AForm) (s : State) : Out := vec2 .n32 2 (onBits 32 (· &&& ·)) o s
/-- `vor.n32` -/
def execVor (o : AForm) (s : State) : Out := vec2 .n32 2 (onBits 32 (· ||| ·)) o s
/-- `vxor.n32` -/
def execVxor (o : AForm) (s : State) : Out := vec2 .n32 2 (onBits 32 (· ^^^ ·)) o s
/-- `vandn.n32` -/
def execVandn (o : AForm) (s : State) : Out := vec2 .n32 2 (onBits 32 fun x y => x &&& ~~~y) o s
/-- `vshl.i32` -/
def execVshl (o : AForm) (s : State) : Out := vec2 .i32 2 (onBits 32 fun x y => x <<< (y.toNat % 32)) o s
/-- `vshr.n32` -/
def execVshr (o : AForm) (s : State) : Out := vec2 .n32 2 (onBits 32 fun x y => x >>> (y.toNat % 32)) o s
/-- `vsra.i32` -/
def execVsra (o : AForm) (s : State) : Out := vec2 .i32 2 (onBits 32 fun x y => x.sshiftRight (y.toNat % 32)) o s

/-! ## Floating point (R298, R299) -/

/-- a + b, rounded once. -/
def fAdd (f : NFmt) (a b : Nat) : Nat × Flags := fpAdd f a b
/-- a - b, rounded once. -/
def fSub (f : NFmt) (a b : Nat) : Nat × Flags := sumRound f [decode f 0 a, (decode f 0 b).neg]
/-- a b, rounded once. -/
def fMul (f : NFmt) (a b : Nat) : Nat × Flags := roundTo f 0 ((decode f 0 a).mul (decode f 0 b))
/-- a b + d, rounded once. -/
def fFma (f : NFmt) (a b d : Nat) : Nat × Flags := sumRound f [(decode f 0 a).mul (decode f 0 b), decode f 0 d]
/-- d - a b, rounded once. -/
def fFms (f : NFmt) (a b d : Nat) : Nat × Flags := sumRound f [((decode f 0 a).mul (decode f 0 b)).neg, decode f 0 d]
/-- min(max(d, a), b): a NaN among the three gives the canonical NaN (R299). -/
def fClamp (f : NFmt) (a b d : Nat) : Nat × Flags :=
  let vs := [a, b, d].map (decode f 0)
  if vs.any Val.isNaN then (canonNaN f, if vs.any Val.isSig then fNV else 0)
  else ((fpMinMax f false (fpMinMax f true d a).1 b).1, 0)

/-- `vadd.f32` -/
def execVaddF32 (o : AForm) (s : State) : Out := vec2 .f32 4 (fAdd .f32) o s
/-- `vadd.b16` -/
def execVaddB16 (o : AForm) (s : State) : Out := vec2 .b16 4 (fAdd .b16) o s
/-- `vsub.f32` -/
def execVsubF32 (o : AForm) (s : State) : Out := vec2 .f32 4 (fSub .f32) o s
/-- `vsub.b16` -/
def execVsubB16 (o : AForm) (s : State) : Out := vec2 .b16 4 (fSub .b16) o s
/-- `vmul.f32` -/
def execVmulF32 (o : AForm) (s : State) : Out := vec2 .f32 4 (fMul .f32) o s
/-- `vmul.b16` -/
def execVmulB16 (o : AForm) (s : State) : Out := vec2 .b16 4 (fMul .b16) o s
/-- `vfma.f32` -/
def execVfmaF32 (o : AForm) (s : State) : Out := vec3 .f32 4 (fFma .f32) o s
/-- `vfma.b16` -/
def execVfmaB16 (o : AForm) (s : State) : Out := vec3 .b16 4 (fFma .b16) o s
/-- `vfms.f32` -/
def execVfmsF32 (o : AForm) (s : State) : Out := vec3 .f32 4 (fFms .f32) o s
/-- `vfms.b16` -/
def execVfmsB16 (o : AForm) (s : State) : Out := vec3 .b16 4 (fFms .b16) o s
/-- `vmin.f32` -/
def execVminF32 (o : AForm) (s : State) : Out := vec2 .f32 4 (fpMinMax .f32 false) o s
/-- `vmin.b16` -/
def execVminB16 (o : AForm) (s : State) : Out := vec2 .b16 4 (fpMinMax .b16 false) o s
/-- `vmax.f32` -/
def execVmaxF32 (o : AForm) (s : State) : Out := vec2 .f32 4 (fpMinMax .f32 true) o s
/-- `vmax.b16` -/
def execVmaxB16 (o : AForm) (s : State) : Out := vec2 .b16 4 (fpMinMax .b16 true) o s
/-- `vclamp.f32` -/
def execVclampF32 (o : AForm) (s : State) : Out := vec3 .f32 2 (fClamp .f32) o s
/-- `vclamp.b16` -/
def execVclampB16 (o : AForm) (s : State) : Out := vec3 .b16 2 (fClamp .b16) o s

/-! ## Comparisons (R300) -/

/-- The guard that a comparison into operand code d writes, as a physical guard. -/
def State.cmpGuard (s : State) (d : Nat) : Option Nat :=
  if d < 40 then some (physG s.eng.rb (d % 8)) else if d < 56 then some (8 + (d - 40) % 8) else none

/-- d lane m := all ones where the relation holds; its guard is set where any lane holds. -/
def vecCmp (f : Sfx) (lat : Nat) (rel : Nat → Nat → Bool × Flags) (o : AForm) (s : State) : Out :=
  let gw := s.cmpGuard o.d.toNat
  aIssue o.d.toNat 256 o.g o.s o.k lat [(o.a.toNat, 256), (o.b.toNat, 256)] .plain gw
    (fun l _ _ => match l with
      | [a, b] =>
        let rs := List.zipWith rel (lanesOf f.w a.x) (lanesOf f.w b.x)
        .ok (⟨ofLanes f.w (rs.map fun r => if r.1 then 2 ^ f.w - 1 else 0), tags4 f.tag⟩, rs.foldl (fun a e => a ||| e.2) 0,
          gw.toList.map fun g => .g g (rs.any Prod.fst))
      | _ => .error 0x21) s

/-- A signed relation of words. -/
def intRel (r : Int → Int → Bool) (a b : Nat) : Bool × Flags := (r (BitVec.ofNat 32 a).toInt (BitVec.ofNat 32 b).toInt, 0)

/-- `vcmp.eq.i32` -/
def execVcmpEqI32 (o : AForm) (s : State) : Out := vecCmp .i32 2 (intRel fun x y => x == y) o s
/-- `vcmp.eq.f32` -/
def execVcmpEqF32 (o : AForm) (s : State) : Out := vecCmp .f32 4 (fpCmp .f32 .eq) o s
/-- `vcmp.eq.b16` -/
def execVcmpEqB16 (o : AForm) (s : State) : Out := vecCmp .b16 4 (fpCmp .b16 .eq) o s
/-- `vcmp.lt.i32` -/
def execVcmpLtI32 (o : AForm) (s : State) : Out := vecCmp .i32 2 (intRel fun x y => decide (x < y)) o s
/-- `vcmp.lt.f32` -/
def execVcmpLtF32 (o : AForm) (s : State) : Out := vecCmp .f32 4 (fpCmp .f32 .lt) o s
/-- `vcmp.lt.b16` -/
def execVcmpLtB16 (o : AForm) (s : State) : Out := vecCmp .b16 4 (fpCmp .b16 .lt) o s
/-- `vcmp.le.i32` -/
def execVcmpLeI32 (o : AForm) (s : State) : Out := vecCmp .i32 2 (intRel fun x y => decide (x ≤ y)) o s
/-- `vcmp.le.f32` -/
def execVcmpLeF32 (o : AForm) (s : State) : Out := vecCmp .f32 4 (fpCmp .f32 .le) o s
/-- `vcmp.le.b16` -/
def execVcmpLeB16 (o : AForm) (s : State) : Out := vecCmp .b16 4 (fpCmp .b16 .le) o s

/-! ## Selection and permutation (R301, R302) -/

/-- `vsel.n32`: (a and d) or (b and not d) -/
def execVsel (o : AForm) (s : State) : Out :=
  vec3 .n32 2 (fun a b d =>
    let m := BitVec.ofNat 32 d
    (((BitVec.ofNat 32 a &&& m) ||| (BitVec.ofNat 32 b &&& ~~~m)).toNat, 0)) o s

/-- d lane m := lane k of a, k being lane m of b modulo the number of lanes. -/
def vecPerm (f : Sfx) (o : AForm) (s : State) : Out :=
  aIssue o.d.toNat 256 o.g o.s o.k 3 [(o.a.toNat, 256), (o.b.toNat, 256)] .plain none
    (fun l _ _ => match l with
      | [a, b] => laneRes f ((lanesOf f.w b.x).map fun k => (bitsOf a.x.data (f.w * (k % (2048 / f.w))) f.w, 0))
      | _ => .error 0x21) s

/-- `vperm.i8` -/
def execVpermI8 (o : AForm) (s : State) : Out := vecPerm .i8 o s
/-- `vperm.i32` -/
def execVpermI32 (o : AForm) (s : State) : Out := vecPerm .i32 o s
/-- `vbc.n32` -/
def execVbc (o : AUForm) (l : BitVec 6) (s : State) : Out :=
  vecAll .n32 2 (fun xs => List.replicate 64 (xs.getD l.toNat 0, 0)) o s

/-! ## The unary group (R303 to R305) -/

/-- `vmov.i8` -/
def execVmovI8 (o : AUForm) (s : State) : Out := vec1 .i8 2 (·, 0) o s
/-- `vmov.i32` -/
def execVmovI32 (o : AUForm) (s : State) : Out := vec1 .i32 2 (·, 0) o s
/-- `vmov.f32` -/
def execVmovF32 (o : AUForm) (s : State) : Out := vec1 .f32 2 (·, 0) o s
/-- `vmov.b16` -/
def execVmovB16 (o : AUForm) (s : State) : Out := vec1 .b16 2 (·, 0) o s

/-- The magnitude of a two's-complement lane, wrapping. -/
def absBits (w a : Nat) : Nat × Flags :=
  let x := BitVec.ofNat w a
  ((if x.msb then -x else x).toNat, 0)
/-- The negative of a two's-complement lane, wrapping. -/
def negBits (w a : Nat) : Nat × Flags := ((-(BitVec.ofNat w a)).toNat, 0)
/-- A floating lane with its sign changed by g; a NaN becomes canonical, without a flag. -/
def signTo (f : NFmt) (g : Nat → Nat) (a : Nat) : Nat × Flags :=
  if (decode f 0 a).isNaN then (canonNaN f, 0)
  else (a % 2 ^ (f.bits - 1) + 2 ^ (f.bits - 1) * (g (a / 2 ^ (f.bits - 1)) % 2), 0)

/-- `vabs.i8` -/
def execVabsI8 (o : AUForm) (s : State) : Out := vec1 .i8 2 (absBits 8) o s
/-- `vabs.i32` -/
def execVabsI32 (o : AUForm) (s : State) : Out := vec1 .i32 2 (absBits 32) o s
/-- `vabs.f32` -/
def execVabsF32 (o : AUForm) (s : State) : Out := vec1 .f32 2 (signTo .f32 fun _ => 0) o s
/-- `vabs.b16` -/
def execVabsB16 (o : AUForm) (s : State) : Out := vec1 .b16 2 (signTo .b16 fun _ => 0) o s
/-- `vneg.i8` -/
def execVnegI8 (o : AUForm) (s : State) : Out := vec1 .i8 2 (negBits 8) o s
/-- `vneg.i32` -/
def execVnegI32 (o : AUForm) (s : State) : Out := vec1 .i32 2 (negBits 32) o s
/-- `vneg.f32` -/
def execVnegF32 (o : AUForm) (s : State) : Out := vec1 .f32 2 (signTo .f32 (· + 1)) o s
/-- `vneg.b16` -/
def execVnegB16 (o : AUForm) (s : State) : Out := vec1 .b16 2 (signTo .b16 (· + 1)) o s

/-- The sum of all lanes in lane 0, and zeros. -/
def sumLanes (sum : List Nat → Nat × Flags) (l : List Nat) : List (Nat × Flags) :=
  sum l :: List.replicate (l.length - 1) (0, 0)
/-- The sums of the lanes up to each lane. -/
def scanLanes (sum : List Nat → Nat × Flags) (l : List Nat) : List (Nat × Flags) :=
  (List.range l.length).map fun m => sum (l.take (m + 1))
/-- A wrapping sum. -/
def intSum (l : List Nat) : Nat × Flags := (l.foldl (· + ·) 0 % 2 ^ 32, 0)
/-- An exact sum, rounded once. -/
def fpSum (f : NFmt) (l : List Nat) : Nat × Flags := exactRound f (l.map (decode f 0))

/-- `vsum.i32` -/
def execVsumI32 (o : AUForm) (s : State) : Out := vecAll .i32 6 (sumLanes intSum) o s
/-- `vsum.f32` -/
def execVsumF32 (o : AUForm) (s : State) : Out := vecAll .f32 6 (sumLanes (fpSum .f32)) o s
/-- `vsum.b16` -/
def execVsumB16 (o : AUForm) (s : State) : Out := vecAll .b16 6 (sumLanes (fpSum .b16)) o s
/-- `vscan.i32` -/
def execVscanI32 (o : AUForm) (s : State) : Out := vecAll .i32 8 (scanLanes intSum) o s
/-- `vscan.f32` -/
def execVscanF32 (o : AUForm) (s : State) : Out := vecAll .f32 8 (scanLanes (fpSum .f32)) o s
/-- `vscan.b16` -/
def execVscanB16 (o : AUForm) (s : State) : Out := vecAll .b16 8 (scanLanes (fpSum .b16)) o s

/-- A function of one value, rounded once (R305). -/
def special (f : NFmt) (g : Val → Val × Flags) (a : Nat) : Nat × Flags :=
  let (v, x) := g (decode f 0 a)
  let (c, y) := roundTo f 0 v
  (c, x ||| y)

/-- `vrcp.f32` -/
def execVrcpF32 (o : AUForm) (s : State) : Out := vec1 .f32 8 (special .f32 rcpVal) o s
/-- `vrcp.b16` -/
def execVrcpB16 (o : AUForm) (s : State) : Out := vec1 .b16 8 (special .b16 rcpVal) o s
/-- `vrsq.f32` -/
def execVrsqF32 (o : AUForm) (s : State) : Out := vec1 .f32 8 (special .f32 rsqVal) o s
/-- `vrsq.b16` -/
def execVrsqB16 (o : AUForm) (s : State) : Out := vec1 .b16 8 (special .b16 rsqVal) o s
/-- `vex2.f32` -/
def execVex2F32 (o : AUForm) (s : State) : Out := vec1 .f32 10 (special .f32 ex2Val) o s
/-- `vex2.b16` -/
def execVex2B16 (o : AUForm) (s : State) : Out := vec1 .b16 10 (special .b16 ex2Val) o s
/-- `vlg2.f32` -/
def execVlg2F32 (o : AUForm) (s : State) : Out := vec1 .f32 10 (special .f32 lg2Val) o s
/-- `vlg2.b16` -/
def execVlg2B16 (o : AUForm) (s : State) : Out := vec1 .b16 10 (special .b16 lg2Val) o s

/-! ## Conversion and quantisation (R306 to R311) -/

/-- The quarter that holds element k of an operand in format f. -/
def Opnd.quarterOf (o : Opnd) (f : NFmt) (k : Nat) : Nat := (o.off + k * f.bits / 8) / 64
/-- The tag of that quarter. -/
def Opnd.tagOf (o : Opnd) (f : NFmt) (k : Nat) : Tag := (o.x.quarter (o.quarterOf f k)).tag
/-- The code value of element k. -/
def Opnd.elem (o : Opnd) (f : NFmt) (k : Nat) : Val := decode f o.extra (bitsOf o.x.data (8 * o.off + k * f.bits) f.bits)

/-- Elements as a result of format f, with the tag of each 64-byte block of it. -/
def elemRes (f : NFmt) (l : List (Nat × Flags)) (tags : List Tag) : AMake :=
  .ok (⟨ofLanes f.bits (l.map Prod.fst), tags.foldr (fun t n => (n <<< 16) ||| t.setWidth 64) 0⟩,
    l.foldl (fun a e => a ||| e.2) 0, [])

/-- How many elements `vcvt` converts from src to t (R307). -/
def cvtCount (src t : NFmt) : Nat := 2048 / max src.bits t.bits

/-- The conversion of `vcvt` (R307). -/
def cvtRun (src t : NFmt) (mode : Nat) (o : Opnd) : AMake :=
  let n := cvtCount src t
  let per := 512 / t.bits
  if src.scaled && (List.range n).any fun k => tagFmt (o.tagOf src k) != src.code then .error 0x15
  else
    let scaleOf (k : Nat) : Nat := if src.scaled then tagScale (o.tagOf src (k / per * per)) else 127
    let conv (k : Nat) : Nat × Flags :=
      let x := o.elem src k
      let x := if src.scaled then x.scale (scaleExp (tagScale (o.tagOf src k))) else x
      roundTo t mode (if t.scaled then x.scale (-(scaleExp (scaleOf k))) else x)
    elemRes t ((List.range n).map conv)
      ((List.range ((n + per - 1) / per)).map fun b => mkTag t.code (if t.scaled then scaleOf (b * per) else 0))

/-- `vcvt` into format t of source code f under mode m; the codes 1 to 8 are those of R67. -/
def vecCvt (t : NFmt) (o : AUForm) (m : BitVec 2) (f : BitVec 4) (s : State) : Out :=
  let src := (NFmt.ofCode f.toNat).getD .i8
  let n := cvtCount src t
  aIssue o.d.toNat (n * t.bits / 8) o.g o.s o.k 4 [(o.a.toNat, n * src.bits / 8)] .plain none
    (fun l _ _ => match l with
      | [a] => cvtRun src t m.toNat a
      | _ => .error 0x21) s

/-- `vcvt.i8` -/
def execVcvtI8 (o : AUForm) (m : BitVec 2) (f : BitVec 4) (s : State) : Out := vecCvt .i8 o m f s
/-- `vcvt.i32` -/
def execVcvtI32 (o : AUForm) (m : BitVec 2) (f : BitVec 4) (s : State) : Out := vecCvt .i32 o m f s
/-- `vcvt.f32` -/
def execVcvtF32 (o : AUForm) (m : BitVec 2) (f : BitVec 4) (s : State) : Out := vecCvt .f32 o m f s
/-- `vcvt.b16` -/
def execVcvtB16 (o : AUForm) (m : BitVec 2) (f : BitVec 4) (s : State) : Out := vecCvt .b16 o m f s
/-- `vcvt.e4` -/
def execVcvtE4 (o : AUForm) (m : BitVec 2) (f : BitVec 4) (s : State) : Out := vecCvt .e4 o m f s
/-- `vcvt.e5` -/
def execVcvtE5 (o : AUForm) (m : BitVec 2) (f : BitVec 4) (s : State) : Out := vecCvt .e5 o m f s
/-- `vcvt.f4` -/
def execVcvtF4 (o : AUForm) (m : BitVec 2) (f : BitVec 4) (s : State) : Out := vecCvt .f4 o m f s
/-- `vcvt.ds8` -/
def execVcvtDs8 (o : AUForm) (m : BitVec 2) (f : BitVec 4) (s : State) : Out := vecCvt .ds8 o m f s

/-- The source formats of `vqmax` and `vqcvt` (R229). -/
def qSource : Nat → NFmt
  | 0 => .i32
  | 1 => .f32
  | _ => .b16
/-- The elements of a source vector. -/
def qElems (f : NFmt) (o : Opnd) : List Val := (List.range (2048 / f.bits)).map fun k => o.elem f k
/-- The target blocks of a source vector (R309). -/
def qBlocks (src t : NFmt) (l : List Val) : List (List Val) :=
  if src = .b16 ∧ t ≠ .f4 then [l.take 64, l.drop 64] else [l]
/-- The binary32 code of a largest magnitude, rounded up; a free value where the block holds no finite element (log
27). -/
def amaxCode (free : Nat) : Option (Nat × Int) → Nat × Flags
  | some (m, e) => roundTo .f32 3 (.fin false m e)
  | none => ((Config.emptyAmax free).toNat, 0)

/-- What `vqmax` makes (R90, R309). -/
def qmaxRun (src t : NFmt) (free : Nat) (o : Opnd) : AMake :=
  let bs := (qBlocks src t (qElems src o)).map fun b =>
    let a := amaxOf b
    (amaxCode free a, selectScale t a)
  let data := bs.foldr (fun b n => b.1.1 + 2 ^ 32 * b.2 + 2 ^ 512 * n) 0
  let sc (i : Nat) : BitVec 8 := BitVec.ofNat 8 ((bs[i]?.map Prod.snd).getD 0)
  .ok (⟨BitVec.ofNat 2048 data, tags4 (mkTag src.code 0)⟩, bs.foldl (fun a b => a ||| b.1.2) 0,
    [.q ⟨true, src.code, t.code, sc 0, sc 1⟩])

/-- `vqmax` (R308, R309) -/
def execVqmax (o : AUForm) (t : BitVec 4) (f : BitVec 2) (s : State) : Out :=
  aIssue o.d.toNat 256 o.g o.s o.k 3 [(o.a.toNat, 256)] .takesFree none
    (fun l _ free => match l with
      | [a] => qmaxRun (qSource f.toNat) ((NFmt.ofCode t.toNat).getD .i8) free a
      | _ => .error 0x21) s

/-- What `vqcvt` makes under a quantiser state (R308, R310). -/
def qcvtRun (src t : NFmt) (mode : Nat) (q : Qs) (o : Opnd) : AMake :=
  if !q.valid || q.source != src.code || q.target != t.code then .error 0x16
  else
    let bs := qBlocks src t (qElems src o)
    let sc (i : Nat) : Nat := (if i = 0 then q.s0 else q.s1).toNat
    let conv (e : Nat × List Val) : List (Nat × Flags) :=
      e.2.map fun x => roundTo t mode (x.scale (-(scaleExp (sc e.1))))
    elemRes t ((List.range bs.length).zip bs |>.flatMap conv) ((List.range bs.length).map fun i => mkTag t.code (sc i))

/-- `vqcvt` into t (R310): 64 bytes for each target block -/
def vecQcvt (t : NFmt) (o : AUForm) (m : BitVec 2) (src : NFmt) (s : State) : Out :=
  aIssue o.d.toNat (64 * (if src = .b16 ∧ t ≠ .f4 then 2 else 1)) o.g o.s o.k 4 [(o.a.toNat, 256)] .readsQs none
    (fun l q _ => match l with
      | [a] => qcvtRun src t m.toNat q a
      | _ => .error 0x21) s

/-- The targets of `vqcvt` (R229). -/
def qTarget : Nat → NFmt
  | 0 => .e4
  | 1 => .e5
  | 2 => .f4
  | _ => .ds8

/-- `vqcvt` (R310) -/
def execVqcvt (o : AUForm) (m t f : BitVec 2) (s : State) : Out := vecQcvt (qTarget t.toNat) o m (qSource f.toNat) s
/-- `vqcvt.i8` (R310) -/
def execVqcvtI8 (o : AUForm) (m f : BitVec 2) (s : State) : Out := vecQcvt .i8 o m (qSource f.toNat) s

/-- What `vdq` makes: every block must be scaled and of the width of the first (R311). -/
def dqRun (t : NFmt) (n : Nat) (o : Opnd) : AMake :=
  let fmtAt (q : Nat) : Option NFmt := (NFmt.ofCode (tagFmt (o.x.quarter q).tag)).filter NFmt.scaled
  match fmtAt (o.off / 64) with
  | none => .error 0x15
  | some first =>
    let one (k : Nat) : Option (Nat × Flags) :=
      match fmtAt (o.quarterOf first k) with
      | some f =>
        if f.bits = first.bits then
          some (roundTo t 0 ((o.elem f k).scale (scaleExp (tagScale (o.tagOf first k)))))
        else none
      | none => none
    match (List.range n).mapM one with
    | some l => elemRes t l (List.replicate 4 (mkTag t.code 0))
    | none => .error 0x15

/-- The tag of the block at which an operand code's take begins. -/
def State.headTag (s : State) (code : Nat) : Tag :=
  if code < 56 then ((mget Vec.zero s.here.ve.v (s.physA code)).quarter 0).tag
  else
    let q := s.here.inPort (code - 56)
    ((q.fifo.headD Vec.zero).quarter (q.cursor / 64)).tag

/-- `vdq` (R311): the first block fixes how many bytes it takes -/
def execVdq (o : AUForm) (t : BitVec 2) (s : State) : Out :=
  let f : NFmt := if t = 1 then .f32 else .b16
  let n := 2048 / f.bits
  let c := if tagFmt (s.headTag o.a.toNat) = 7 then n / 2 else n
  aIssue o.d.toNat 256 o.g o.s o.k 4 [(o.a.toNat, c)] .plain none
    (fun l _ _ => match l with
      | [a] => dqRun f n a
      | _ => .error 0x21) s

/-! ## Guards (R312) -/

/-- `gop`: and, or, andn, mov -/
def gopVal (op : Nat) (a b : Bool) : Bool :=
  match op with
  | 0 => a && b
  | 1 => a || b
  | 2 => a && !b
  | _ => a

/-- `gop` (R312): carries no guard -/
def execGop (op : BitVec 2) (w x y k : BitVec 4) (s : State) : Out :=
  let g (v : BitVec 4) : Nat := physG s.eng.rb v.toNat
  moIssue k 0 (fun s => s.shadowAsk [] .plain ([g w, g x] ++ if op = 3 then [] else [g y]))
    (fun s =>
      let a := s.aGuard (g x)
      let b := if op = 3 then (false, a.2) else a.2.aGuard (g y)
      let t := b.2
      t.addJob (t.job k 0 (t.beat + 1) [] 0 (.arith [.g (g w) (gopVal op.toNat a.1 b.1)]))) s

end Sys2Proof.Machine
end

