-- ==== Sys2Proof/Machine/Mat.lean ====
section
/-!
DEFINITION. The matrix stream: stamps and rows, the array's sums, retirement to the scratchpad, and the meanings of
mmac, mclr, mret, mwsel, mstamp and mnop (14_ins_matrix_copy.md R316 to R324; 08_timing.md R189 to R191;
03_numbers.md R82 to R86).
-/

namespace Sys2Proof.Machine

/-! ## Accumulator tiles (R35) -/

/-- The key of element (row, col) of a tile. -/
def tileKey (t r c : Nat) : Nat := (t * 256 + r) * 256 + c
/-- The row r of a tile. -/
def Mat.row (m : Mat) (t r : Nat) : List Nat :=
  (mgetList 0 (m.tiles.filter fun e => decide (tileKey t r 0 ≤ e.1) && decide (e.1 < tileKey t (r + 1) 0)) (tileKey t r 0) 256).map
    BitVec.toNat
/-- The row r of a tile replaced. -/
def Mat.setRow (m : Mat) (t r : Nat) (vs : List Nat) : Mat :=
  let k := tileKey t r 0
  let new : SMap W32 := ((upFrom k 256).zip (vs.map (BitVec.ofNat 32))).filter fun e => e.2 != 0
  { m with tiles := m.tiles.filter (fun e => e.1 < k) ++ new ++ m.tiles.filter fun e => k + 256 ≤ e.1 }
/-- A tile cleared to +0. -/
def Mat.clearTile (m : Mat) (t : Nat) : Mat := { m with tiles := mclear m.tiles (tileKey t 0 0) 65536 }
/-- The matrix side of core n changed. -/
def Core.onMat (c : Core) (f : Mat → Mat) : Core := { c with mx := f c.mx }

/-! ## Weight tiles (R83, R337) -/

/-- The blocks of an uncompressed tile of a class (R337). -/
def clsBlocks : Nat → Nat
  | 0 => 1024
  | 1 => 512
  | _ => 2048
/-- The blocks of its presence map. -/
def mapBlocks (cls : Nat) : Nat := clsBlocks cls / 512
/-- Bit u of a presence map. -/
def mapBit (bs : List Blk) (u : Nat) : Bool := ((bs[u / 512]?).getD Blk.zero).data.getLsbD (u % 512)
/-- The present blocks of a tile's compressed form, by their number u. -/
def unpackTile (cls : Nat) (dense : Bool) (bs : List Blk) : SMap (Option Blk) :=
  if dense then (List.range (clsBlocks cls)).zip (bs.map some)
  else
    let us := (List.range (clsBlocks cls)).filter (mapBit bs)
    us.zip ((bs.drop (mapBlocks cls)).map some)
/-- The compressed form of a resident tile. -/
def Mat.tileBlocks (m : Mat) (w : WTile) : List Blk := mgetList Blk.zero m.wbuf w.start w.len

/-! ## Array modes (R82, R189) -/

/-- The array mode of an A format and the formats of the present weight blocks; the class stands in where there is
none. -/
def macMode (a : Nat) (ws : List Nat) (cls : Nat) : Option Nat :=
  let all (l : List Nat) : Bool := ws.all l.contains
  let isF8 := a == 5 || a == 6
  if ws = [] then
    if cls = 2 then (if a = 4 then some 4 else none)
    else if cls = 1 then (if a = 7 then some 3 else none)
    else if a = 1 then some 0 else if isF8 then some 1 else none
  else if a = 1 && all [1] then some 0
  else if isF8 && all [5, 6] then some 1
  else if isF8 && all [8] then some 2
  else if a = 7 && all [7] then some 3
  else if a = 4 && all [4] then some 4
  else none
/-- An A block's format belongs to a mode. -/
def modeTakes (mode a : Nat) : Bool :=
  match mode with
  | 0 => a == 1
  | 1 => a == 5 || a == 6
  | 2 => a == 5 || a == 6
  | 3 => a == 7
  | _ => a == 4
/-- The beat, after the stamp, on which row j enters (R189). -/
def rowBeat (mode j : Nat) : Nat :=
  match mode with
  | 0 => j
  | 1 => j
  | 4 => 4 * j
  | _ => j / 2
/-- How many beats n rows occupy the array (R189). -/
def occupancy (mode n : Nat) : Nat :=
  match mode with
  | 0 => n
  | 1 => n
  | 4 => 4 * n
  | _ => (n + 1) / 2

/-! ## Sums (R84 to R86) -/

/-- Element k of a row of A, with its scale; x is the row's vectors. In FP4 the row's 128 bytes begin at byte 0. -/
def macA (j : MacJob) (xs : List Vec) (k : Nat) : Val :=
  match j.mode with
  | 4 => decode .b16 0 (bitsOf ((xs[k / 128]?).getD Vec.zero).data (16 * (k % 128)) 16)
  | 3 =>
    let x := xs.headD Vec.zero
    (decode .f4 j.extraA (bitsOf x.data (4 * k) 4)).scale (scaleExp (tagScale (x.quarter (k / 128)).tag))
  | _ =>
    let x := xs.headD Vec.zero
    let t := (x.quarter (k / 64)).tag
    (decode ((NFmt.ofCode (tagFmt t)).getD .i8) 0 (bitsOf x.data (8 * k) 8)).scale (scaleExp (tagScale t))

/-- K element k of column n of the weights, with its scale; an absent block decodes as zero (R337). -/
def macW (j : MacJob) (n k : Nat) : Val :=
  let at_ (u e : Nat) : Val :=
    match mget none j.ws u with
    | none => .fin false 0 0
    | some b =>
      let f := (NFmt.ofCode (tagFmt b.tag)).getD .i8
      let v := decode f j.extraW (bitsOf b.data (f.bits * e) f.bits)
      if f.scaled then v.scale (scaleExp (tagScale b.tag)) else v
  match j.cls with
  | 0 => at_ (4 * n + k / 64) (k % 64)
  | 1 => at_ (2 * n + k / 128) (k % 128)
  | _ => at_ (8 * n + 2 * (k / 64) + k % 64 / 32) (k % 32)

/-- The binary exponent of a finite nonzero value; none for any other. -/
def Val.top : Val → Option Int
  | .fin _ m e => if m = 0 then none else some (e + Nat.log2 m)
  | _ => none

/-- A value truncated toward zero to a multiple of 2^q, and whether bits were dropped. -/
def Val.chop (v : Val) (q : Int) : Val × Bool :=
  match v with
  | .fin n m e => if q ≤ e then (v, false) else let r := roundAt 1 n m e q; (.fin n r.1 q, r.2)
  | v => (v, false)

/-- The products of one K block as the BF16 adder takes them (R85): each truncated 60 places below the largest. -/
def chopBlock (ps : List Val) : List Val × Bool :=
  match (ps.filterMap Val.top).max? with
  | none => (ps, false)
  | some emax =>
    let cs := ps.map fun p => p.chop (emax - 60)
    (cs.map Prod.fst, cs.any Prod.snd)

/-- One output: the old accumulator code, row and column give the new code with its flags (R84 to R86). -/
def macOut (j : MacJob) (xs : List Vec) (n old : Nat) : Nat × Flags :=
  let prods (b : Nat) : List Val := (upFrom (64 * b) 64).map fun k => (macA j xs k).mul (macW j n k)
  let blocks := (List.range 4).map fun b => if j.mode = 4 then chopBlock (prods b) else (prods b, false)
  let r := exactRound .f32 (decode .f32 0 old :: blocks.flatMap Prod.fst)
  (r.1, if blocks.any Prod.snd then r.2 ||| fNX else r.2)

/-- The vectors of row r of a job. -/
def MacJob.rowVecs (j : MacJob) (r : Nat) : List Vec := if j.mode = 4 then (j.vecs.drop (2 * r)).take 2 else (j.vecs.drop r).take 1

/-- The rows of a job accumulated onto its tile (R318). -/
def macRows (j : MacJob) (m : Mat) : Mat × Flags :=
  (List.range j.rows).foldl (fun acc r =>
    let xs := j.rowVecs r
    let outs := ((List.range 256).zip (acc.1.row j.tile r)).map fun e => macOut j xs e.1 e.2
    (acc.1.setRow j.tile r (outs.map Prod.fst), outs.foldl (fun f e => f ||| e.2) acc.2)) (m, 0)

/-! ## Rows entering (R189, R190, R317) -/

/-- The tags that one row brings. -/
def rowTags (mode : Nat) (xs : List Vec) : List Tag :=
  if mode = 3 then (xs.flatMap fun x => [x.quarter 0, x.quarter 1]).map Blk.tag
  else (xs.flatMap fun x => (List.range 4).map x.quarter).map Blk.tag

/-- A row taken from a port: its vectors and the port after it; none where they are not at its head. In FP4 a row is
half a vector, the half at the cursor (R294). -/
def InPort.takeRow (q : InPort) (mode : Nat) : Option (List Vec × InPort) :=
  match mode with
  | 4 => match q.fifo with
    | x :: y :: t => some ([x, y], { q with fifo := t })
    | _ => none
  | 3 => match q.fifo with
    | x :: t =>
      let h : Vec := ⟨x.data >>> (8 * q.cursor), x.tags >>> (16 * (q.cursor / 64))⟩
      if q.cursor + 128 = 256 then some ([h], { q with fifo := t, cursor := 0 })
      else some ([h], { q with cursor := q.cursor + 128 })
    | _ => none
  | _ => match q.fifo with
    | x :: t => some ([x], { q with fifo := t })
    | _ => none

/-- A port whose walk is exhausted and whose FIFO is empty (R32). -/
def InPort.spent (q : InPort) : Bool := decide (nestCount q.nest ≤ q.pos) && q.fifo.isEmpty

/-- What a row that enters finds wrong (R32, R69, R82, R190, R294). -/
def rowFault (cells : Bool) (mode : Nat) (q : InPort) : Option (BitVec 8) :=
  if q.spent then some 0x29
  else if (if mode = 3 then 128 < q.cursor else q.cursor ≠ 0) then some 0x2A
  else match q.takeRow mode with
    | none => some 0x2D
    | some (xs, _) =>
      let ts := rowTags mode xs
      if ts.any fun t => !tagOk cells t then some causeBadTag
      else if ts.any fun t => !modeTakes mode (tagFmt t) then some 0x15
      else none

/-- The report of an `mmac`: for a schedule miss the missed stamp and the beat M reached the step, for a reduction depth
exceeded the stamp and the beat on which the occupancy would have ended (R443, R461). -/
def missFault (c : BitVec 8) (stamp reached ending : Nat) : EngFault :=
  if c = 0x2D then ⟨c, stamp, reached⟩ else if c = 0x2E then ⟨c, stamp, ending⟩ else .of c

/-- The rows of a job of core n that are due enter; one that cannot stops M at the step of the `mmac`, whose tile then
stays as it was (R190). fuel bounds the rows. -/
def State.enterRows (s : State) (n id : Nat) : Nat → State
  | 0 => s
  | k + 1 =>
    match s.jobAt n id with
    | none => s
    | some j => match j.work with
      | .mmac x =>
        if x.entered < x.rows ∧ x.stamp + rowBeat x.mode x.entered ≤ s.beat then
          let q := (s.coreAt n).inPort x.port
          match rowFault (s.feature 1) x.mode q with
          | some c =>
            (s.dropJob n id).onCore n fun c' =>
              c'.stopEng .m (missFault c x.stamp x.reached 0) j.step j.step j.word s.beat
          | none => match q.takeRow x.mode with
            | none => s
            | some (xs, q') =>
              let s := s.onCore n fun c => c.onIn x.port fun _ => q'
              (s.onJob n id fun j => { j with work := .mmac { x with entered := x.entered + 1, vecs := x.vecs ++ xs } }).enterRows
                n id k
        else s
      | _ => s

/-! ## mmac (R189 to R191, R316 to R318) -/

/-- M's stamp for an offset in units of four beats. -/
def State.macStamp (s : State) (o : BitVec 6) : Nat := (s.here.tr.mbase + w64 (4 * o.toNat)).toNat

/-- An `mret` of a tile that still reads it on or after the first row of an `mmac` with this stamp (R324). -/
def Core.retConflict (c : Core) (tile stamp : Nat) : Bool :=
  c.ve.jobs.any fun j => match j.work with
    | .mret t _ _ _ _ _ => t == tile && decide (stamp + 24 ≤ j.issued + 255)
    | _ => false

/-- The job of an `mmac` that may issue on this beat, or what stops it. -/
def State.macStart (s : State) (e : BitVec 6) (p t : BitVec 3) (r : BitVec 8) (stamp reached : Nat) : Except EngFault MacJob :=
  let c := s.here
  let miss : Except EngFault MacJob := .error ⟨0x2D, stamp, reached⟩
  let q := c.inPort p.toNat
  let rows := r.toNat + 1
  if !q.bound || !q.toM then .error (.of 0x27)
  else if stamp < s.beat then miss
  else if !c.prefixMet s.eng || !c.tokenRoom e.toNat then miss
  else if stamp < c.mx.occEnd then miss
  else match c.mx.sel with
    | none => miss
    | some (w, beat) =>
      let wt := mget WTile.rest c.mx.wtiles w
      if wt.state ≠ .resident ∨ stamp < beat + 32 then miss
      else match q.fifo.head? with
        | none => if q.spent then .error (.of 0x29) else miss
        | some x =>
          let ws := unpackTile wt.cls wt.dense (c.mx.tileBlocks wt)
          let at_ := q.cursor / 64
          let tag := (x.quarter at_).tag
          match macMode (tagFmt tag) (ws.filterMap fun e => e.2.map fun b => tagFmt b.tag) wt.cls with
          | none => if tagOk (s.feature 1) tag then .error (.of 0x15) else .error (.of causeBadTag)
          | some mode =>
            if c.retConflict t.toNat stamp then miss
            else if s.rdepth s.turn.core = 0 ∨ c.mx.retire + s.rdepth s.turn.core < stamp + occupancy mode rows then .error ⟨0x2E, stamp, stamp + occupancy mode rows⟩
            else match rowFault (s.feature 1) mode q with
              | some f => .error (missFault f stamp reached 0)
              | none => .ok ⟨t.toNat, p.toNat, w, rows, stamp, mode, 0, [], nestExtra q.nest, ws, wt.cls, wt.extra, reached⟩

/-- `mmac` (R189 to R191, R317, R318): M waits at the step until its stamp, still running (R20, R190), and misses it where it cannot
issue then -/
def execMmac (e : BitVec 6) (p t : BitVec 3) (r : BitVec 8) (o : BitVec 6) (s : State) : Out :=
  let stamp := s.macStamp o
  let reached := (s.here.mx.reached).getD s.beat
  if s.beat < stamp then
    .next ((s.onEng fun g => { g with state := .running }).onHere fun c => c.onMat fun m => { m with reached := some reached })
  else
    let s := s.onHere fun c => c.onMat fun m => { m with reached := none }
    match s.macStart e p t r stamp reached with
      | .error f => .next (s.stopHere f)
      | .ok j =>
        let last := rowBeat j.mode (j.rows - 1)
        let id := s.nextId
        let s := s.onHere fun c => c.takePrefix .m
        let s := s.addJob { s.job 0 e.toNat (stamp + last + 24) [] 0 (.mmac j) with ix := s.here.c.tlIx }
        let s := s.onHere fun c => { c.onMat fun m => { m with occEnd := stamp + occupancy j.mode j.rows } with
          c := { c.c with tlIx := c.c.tlIx + 1 } }
        let s := s.enterRows s.turn.core id 2
        .next (if s.eng.state = .stopped then s else s.stepOn)

/-! ## The other micro-orders of M -/

/-- An earlier M micro-order that reads or writes a tile is not complete; writes: one that writes it. -/
def Core.tileBusy (c : Core) (tile : Nat) (reads : Bool) : Bool :=
  c.ve.jobs.any fun j => match j.work with
    | .mmac x => x.tile == tile
    | .mclr t => t == tile
    | .mret t _ _ _ clr _ => t == tile && (reads || clr)
    | _ => false

/-- A micro-order of M that is complete on its issue beat raises its token at once (R316). -/
def State.tokenUp (s : State) (e : Nat) : State :=
  if e = 0 then s
  else s.onHere fun c => { c with ve := { c.ve with tokens := mset 0 c.ve.tokens e (min 63 (mget 0 c.ve.tokens e + 1)) } }

/-- `mclr` (R321) -/
def execMclr (e : BitVec 6) (t : BitVec 3) (s : State) : Out :=
  moIssue 0 e.toNat (fun s => if s.here.tileBusy t.toNat true then .stall else .ok)
    (fun s => s.addJob (s.job 0 e.toNat (s.beat + 2) [] 0 (.mclr t.toNat))) s

/-- `mwsel` (R319) -/
def execMwsel (e : BitVec 6) (w : BitVec 4) (s : State) : Out :=
  moIssue 0 e.toNat (fun _ => .ok)
    (fun s => (s.onHere fun c => c.onMat fun m => { m with sel := some (w.toNat, s.beat) }).tokenUp e.toNat) s

/-- `mstamp.abs` (R320): M's feed side gives the base -/
def execMstampAbs (e : BitVec 6) (s : State) : Out :=
  moIssue 0 e.toNat (fun s => if mget [] s.here.ch.feeds 3 = [] then .stall else .ok)
    (fun s =>
      let l := mget [] s.here.ch.feeds 3
      (s.onHere fun c => { c with ch := { c.ch with feeds := mset [] c.ch.feeds 3 (l.drop 1) }
                                  tr := { c.tr with mbase := l.headD 0 } }).tokenUp e.toNat) s

/-- `mstamp.add` (R320) -/
def execMstampAdd (e : BitVec 6) (b : BitVec 19) (s : State) : Out :=
  moIssue 0 e.toNat (fun _ => .ok)
    (fun s => (s.onHere fun c => { c with tr := { c.tr with mbase := c.tr.mbase + b.setWidth 64 } }).tokenUp e.toNat) s

/-- `mnop` (R321) -/
def execMnop (e : BitVec 6) (s : State) : Out :=
  moIssue 0 e.toNat (fun _ => .ok) (fun s => s.addJob (s.job 0 e.toNat s.beat [] 0 .plain)) s

/-! ## Retirement (R322 to R324) -/

/-- The vectors of one row in a format of `mret`. -/
def retVecs : Nat → Nat
  | 0 => 4
  | 1 => 2
  | _ => 1
/-- The formats of `mret`. -/
def retFmt : Nat → NFmt
  | 0 => .f32
  | 1 => .b16
  | 2 => .e4
  | _ => .e5

/-- The first fault that the vectors of a walk find, by a check of one vector. -/
def walkCheck (j : BitVec 256) (chk : Nat → Option EngFault) : Option EngFault :=
  (List.range (nestCount j)).findSome? fun p => (chk p).map fun f => { f with walk := nestWalk j p }

/-- The checks of R322, in its order. -/
def State.retCheck (s : State) (j : BitVec 256) (fmt : Nat) : Option EngFault :=
  let b := s.baseHere (nestBase j)
  let n := s.turn.core
  let off (p : Nat) : Int := nestOff j p
  if b.extent = 0 then some (.of 0x0C)
  else if !b.wr then some (.of 0x0B)
  else
    match walkCheck j fun p => if off p < 0 ∨ (b.extent : Int) < off p + 256 then some (.of 0x28) else none with
    | some f => some f
    | none =>
      let vaOf (p : Nat) : Nat := b.addr + (off p).toNat
      let placed (p : Nat) : Option EngFault :=
        match s.engReach n .m b true (off p) 256 0x28 with
        | .error f => some { f with addr := vaOf p }
        | .ok _ => none
      match walkCheck j placed with
      | some f => some f
      | none => if nestCount j ≠ 256 * retVecs fmt then some (.of 0x2F) else none

/-- The blocks of a row in a format of `mret`, with its flags (R323). -/
def retBlocks (fmt mode : Nat) (row : List Nat) : List (Blk × Flags) :=
  let f := retFmt fmt
  let per := 512 / f.bits
  (List.range (256 / per)).map fun q =>
    let vs := ((row.drop (per * q)).take per).map (decode .f32 0)
    let sc := if f.scaled then selectScale f (amaxOf vs) else 0
    let es := vs.map fun v => roundTo f mode (if f.scaled then v.scale (-(scaleExp sc)) else v)
    (⟨BitVec.ofNat 512 (es.foldr (fun e n => e.1 + 2 ^ f.bits * n) 0), mkTag f.code sc⟩, es.foldl (fun a e => a ||| e.2) 0)

/-- One block of an `mret` is performed in the scratchpad of core n. -/
def State.retWrite (s : State) (n : Nat) (b : Base) (va : Nat) (l : Loc) (x : Blk) : State :=
  let id := s.nextId
  let s := (s.addAcc { s.walkAccess n .m l va (.wblk 0 64 x) false b.owner 0 0 with stage := .arrived }).perform id
  s.setAcc id none

/-- Row r of a retirement is read and performed. -/
def State.retRow (s : State) (n : Nat) (j : Job) (tile : Nat) (nest : BitVec 256) (fmt mode : Nat) (b : Base) (r : Nat) :
    State :=
  let bs := retBlocks fmt mode ((s.coreAt n).mx.row tile r)
  let v := retVecs fmt
  let s := ((List.range bs.length).zip bs).foldl (fun s e =>
    match s.engReach n .m b true (nestOff nest (r * v + e.1 / 4)) 256 0x28 with
    | .ok (va, l) => s.retWrite n b (va + 64 * (e.1 % 4)) (l.plus (64 * (e.1 % 4))) e.2.1
    | .error _ => s) s
  s.onJob n j.id fun j => { j with flags := bs.foldl (fun a e => a ||| e.2) j.flags }

/-- `mret` (R322 to R324): the converter serves one at a time; row 0 is read on the issue beat -/
def execMret (e : BitVec 6) (n : BitVec 4) (t f : BitVec 3) (m : BitVec 2) (c : Bool) (s : State) : Out :=
  let j := mget 0 s.here.ve.nests n.toNat
  moIssue 0 e.toNat
    (fun s =>
      if s.here.tileBusy t.toNat false || decide (s.beat < s.here.mx.convBusy) then .stall
      else match s.retCheck j f.toNat with
        | some x => .fault x
        | none => .ok)
    (fun s =>
      let b := s.baseHere (nestBase j)
      let w := s.job 0 e.toNat (s.beat + 256) [b.uid] 0 (.mret t.toNat j f.toNat m.toNat c b)
      let s := (s.addJob w).retRow s.turn.core w t.toNat j f.toNat m.toNat b 0
      let gate := s.canPreempt s.turn.core && s.rdepth s.turn.core != 0
      s.onHere fun k => k.onMat fun x => { x with convBusy := s.beat + 256, gate := x.gate || gate }) s

/-- Row r of a retirement of core n is read; with the last one, a tile to be cleared is (R323). -/
def State.retStep (s : State) (n : Nat) (j : Job) (t : Nat) (nest : BitVec 256) (f m : Nat) (clr : Bool) (b : Base) (r : Nat) : State :=
  let s := s.retRow n j t nest f m b r
  if clr && r == 255 then s.onCore n fun c => c.onMat fun m => m.clearTile t else s

/-- The row that a retirement of core n reads on this beat (R324). -/
def State.retireRows (s : State) (n : Nat) : State :=
  (s.coreAt n).ve.jobs.foldl (fun s j => match j.work with
    | .mret t nest f m clr b =>
      if j.issued ≤ s.beat ∧ s.beat < j.issued + 256 then s.retStep n j t nest f m clr b (s.beat - j.issued) else s
    | _ => s) s

/-- The rows that enter the array of core n on this beat. -/
def State.arrayRows (s : State) (n : Nat) : State :=
  (s.coreAt n).ve.jobs.foldl (fun s j => match j.work with
    | .mmac _ => s.enterRows n j.id 2
    | _ => s) s

/-- A job of M is ready to complete (R316). -/
def State.mReady (s : State) (n : Nat) (j : Job) : Bool :=
  decide (j.due ≤ s.beat) && (match j.work with
    | .plain => !(s.coreAt n).ve.jobs.any fun i => i.eng == .m && decide (i.id < j.id)
    | .mmac x => x.entered == x.rows
    | _ => true)

/-- A complete job of M leaves its effect (R318, R321, R324): the rows accumulated, the tile cleared, a retirement
point. -/
def State.mEnd (s : State) (n : Nat) (j : Job) : State :=
  match j.work with
  | .mmac x =>
    let (m, fl) := macRows x (s.coreAt n).mx
    (s.onCore n fun c => c.onMat fun _ => m).endJob n { j with flags := j.flags ||| fl }
  | .mclr t => (s.onCore n fun c => c.onMat fun m => m.clearTile t).endJob n j
  | .mret _ _ _ _ _ _ => (s.onCore n fun c => c.onMat fun m => { m with retire := s.beat }).endJob n j
  | _ => s.endJob n j

end Sys2Proof.Machine
end

