-- ==== Sys2Proof/Machine/Copy.lean ====
section
/-!
DEFINITION. The copy stream: descriptors, walks, faults and restart, and the meanings of xcopy, xgat, xsct, xwload,
xred, xwenq, xsend and xcoll (14_ins_matrix_copy.md R328 to R344).
-/

namespace Sys2Proof.Machine

/-! ## Descriptors (R329, R335, R336, R340 to R343) -/

/-- Word i of a descriptor. -/
def dW (d : List Word) (i : Nat) : Word := d.getD i 0
/-- How many dimensions it has beside the run. -/
def dNdim (d : List Word) : Nat := bitsOf (dW d 0) 60 4
/-- A result record is pushed at completion. -/
def dNotify (d : List Word) : Bool := (dW d 0).getLsbD 59
/-- The FP4 extra value. -/
def dExtra (d : List Word) : BitVec 16 := (dW d 0).extractLsb' 40 16
/-- The blocks of the innermost run. -/
def dRun (d : List Word) : Nat := bitsOf (dW d 0) 0 32
/-- The byte offset from base p. -/
def dSrcOff (d : List Word) : Nat := bitsOf (dW d 1) 0 40
/-- The byte offset from base q. -/
def dDstOff (d : List Word) : Nat := bitsOf (dW d 2) 0 40
/-- The offset of the sync word that counts destination bytes, if one does. -/
def dSync (d : List Word) : Option Nat := if (dW d 3).getLsbD 63 then some (16 * bitsOf (dW d 3) 4 18) else none
/-- The iterations of dimension k. -/
def dCount (d : List Word) (k : Nat) : Nat := bitsOf (dW d (7 + 2 * k)) 40 24 + 1
/-- The source stride of dimension k. -/
def dSStride (d : List Word) (k : Nat) : Int := ((dW d (6 + 2 * k)).extractLsb' 0 52).toInt
/-- The destination stride of dimension k. -/
def dDStride (d : List Word) (k : Nat) : Int :=
  ((dW d (7 + 2 * k)).extractLsb' 0 40 ++ (dW d (6 + 2 * k)).extractLsb' 52 12).toInt
/-- The dimensions, 1 to ndim. -/
def dDims (d : List Word) : List Nat := upFrom 1 (dNdim d)
/-- The blocks of the whole walk. -/
def dTotal (d : List Word) : Nat := (dDims d).foldl (fun n k => n * dCount d k) (dRun d)
/-- The operation of `xred`. -/
def dRedOp (d : List Word) : Nat := bitsOf (dW d 4) 61 3
/-- The class of `xwload`. -/
def dClass (d : List Word) : Nat := bitsOf (dW d 4) 62 2
/-- The dense bit of `xwload`. -/
def dDense (d : List Word) : Bool := (dW d 4).getLsbD 61
/-- The start block of `xwload`. -/
def dStart (d : List Word) : Nat := bitsOf (dW d 4) 0 14
/-- The payload bytes of `xwenq`. -/
def dLen (d : List Word) : Nat := bitsOf (dW d 5) 0 13
/-- The ring offset of `xwenq`. -/
def dRing (d : List Word) : Nat := bitsOf (dW d 4) 0 52
/-- The route entries that packets of `xcoll` carry. -/
def dLeft (d : List Word) : Nat := bitsOf (dW d 4) 8 4
/-- The keep and own bits of `xcoll`. -/
def dKeep (d : List Word) : Bool := (dW d 4).getLsbD 7
/-- The contribution is an operand of the local buffer. -/
def dOwn (d : List Word) : Bool := (dW d 4).getLsbD 6
/-- The mode and the form of `xcoll`. -/
def dMode (d : List Word) : Nat := bitsOf (dW d 6) 62 2
/-- The form of `xcoll`. -/
def dForm (d : List Word) : Nat := bitsOf (dW d 6) 60 2
/-- The key of the staging buffer of `xcoll`. -/
def dStage (d : List Word) : Nat := 128 * bitsOf (dW d 6) 59 1 + bitsOf (dW d 6) 52 7
/-- The status area's offset. -/
def dStatus (d : List Word) : Nat := bitsOf (dW d 6) 0 52
/-- The chunks of a contribution. -/
def dChunks (d : List Word) : Nat := dRun d / 8
/-- The bytes that a chunk's result takes (R145, R173). -/
def dResultStep (d : List Word) : Nat := if dMode d = 3 ∧ dForm d ≠ 2 then 64 else 512
/-- The packets of `xcoll`: groups of up to 16 chunks (R344). -/
def dPackets (d : List Word) : Nat := if dLeft d = 0 then 0 else (dChunks d + 15) / 16
/-- The route of `xcoll`. -/
def dRoute (d : List Word) : List (BitVec 16) :=
  (List.range 8).map fun e => (dW d (8 + e / 4)).extractLsb' (16 * (e % 4)) 16

/-- The words from i on are zero. -/
def zeroFrom (d : List Word) (i : Nat) : Bool := (d.drop i).all (· == 0)
/-- The operation words from i on are zero. -/
def opsZero (d : List Word) (i : Nat) : Bool := (upFrom i (8 - i)).all fun k => dW d k == 0

/-- The fields that every descriptor has (R329). -/
def descOk (d : List Word) (coll : Bool) : Bool :=
  bitsOf (dW d 0) 56 3 == 0 && bitsOf (dW d 0) 32 8 == 0 && dRun d != 0 && dNdim d ≤ 11 &&
    bitsOf (dW d 1) 40 24 == 0 && dSrcOff d % 64 == 0 && bitsOf (dW d 2) 40 24 == 0 && dDstOff d % 64 == 0 &&
    bitsOf (dW d 3) 22 41 == 0 && bitsOf (dW d 3) 0 4 == 0 &&
    (dDims d).all (fun k => dSStride d k % 64 == 0 && dDStride d k % 64 == 0) &&
    zeroFrom d (if coll then 10 else 8 + 2 * dNdim d)

/-- The fields of each micro-order (R334 to R336, R340 to R343). An exact `xred` is held to offsets and strides of 512; of its bases' addresses,
the destination's is judged where the chunk is merged, and the source's is not (R87, log 189). -/
def kindOk (kind : Nat) (d : List Word) : Bool :=
  match kind with
  | 1 => opsZero d 4
  | 2 | 3 =>
    dNdim d != 0 && bitsOf (dW d 4) 22 41 == 0 && bitsOf (dW d 4) 0 22 % (if (dW d 4).getLsbD 63 then 8 else 4) == 0 && opsZero d 5
  | 4 => dNdim d == 0 && dClass d != 3 && bitsOf (dW d 4) 14 47 == 0 && opsZero d 5 && dRun d ≤ 4096 && dStart d + dRun d ≤ 16384
  | 5 =>
    dRedOp d ≤ 4 && bitsOf (dW d 4) 0 61 == 0 && opsZero d 5 && (dSync d).isNone &&
      (dRedOp d != 4 || (dRun d % 8 == 0 && dSrcOff d % 512 == 0 && dDstOff d % 512 == 0 &&
        (dDims d).all fun k => dSStride d k % 512 == 0 && dDStride d k % 512 == 0))
  | 6 =>
    dNdim d == 0 && bitsOf (dW d 4) 52 12 == 0 && dRing d % 64 == 0 && bitsOf (dW d 5) 13 51 == 0 && 1 ≤ dLen d &&
      dLen d ≤ 4096 && dRun d == (dLen d + 63) / 64
  | 7 => opsZero d 4
  | _ =>
    dNdim d == 0 && dRun d % 8 == 0 && dLeft d ≤ 8 && (!dOwn d || dKeep d) && (dMode d == 0 || dMode d == 3) &&
      (if dMode d = 0 then dForm d == 0 else dForm d != 3) && dStatus d % 16 == 0 && bitsOf (dW d 7) 4 60 == 0 &&
      ((dRoute d).drop (dLeft d)).all (· == 0)

/-- A micro-order that adds exact chunks, which needs feature 0 (R412). -/
def dExact (kind : Nat) (d : List Word) : Bool := (kind == 5 && dRedOp d == 4) || (kind == 8 && dMode d == 3)

/-! ## Walks (R330, R335) -/

/-- The place in its run and the indices i_1 to i_ndim of block p. -/
def walkIdx (d : List Word) (p : Nat) : Nat × List Nat :=
  (p % dRun d,
    ((dDims d).foldl (fun (a : List Nat × Nat) k => (a.1 ++ [a.2 % dCount d k], a.2 / dCount d k)) ([], p / dRun d)).1)
/-- The lowest byte and the end of one side of a walk, from its base; first: dimensions that count. -/
def sideRange (d : List Word) (off : Nat) (stride : Nat → Int) (ks : List Nat) : Int × Int :=
  let span (k : Nat) : Int := (dCount d k - 1 : Int) * stride k
  (ks.foldl (fun a k => a + min 0 (span k)) (off : Int), ks.foldl (fun a k => a + max 0 (span k)) (off + 64 * dRun d : Int))
/-- A range lies in a base's extent. -/
def inExtent (b : Base) (r : Int × Int) : Bool := decide (0 ≤ r.1) && decide (r.2 ≤ b.extent)
/-- The offset of block p on a side; first is what stands in place of i_1. -/
def sideOff (d : List Word) (off : Nat) (stride : Nat → Int) (p : Nat) (first : Option Int) : Int :=
  let (r, is) := walkIdx d p
  ((dDims d).zip is).foldl (fun a e =>
    a + (if e.1 = 1 then (first.getD e.2) * stride 1 else (e.2 : Int) * stride e.1)) ((off : Int) + 64 * r)

/-! ## Issue -/

/-- A collective packet of another package that goes on through this one (R167, R171). -/
def Outgoing.forwarded (o : Outgoing) : Bool :=
  match o.kind with
  | .packet _ => o.job == 0
  | _ => false
/-- A queue that one more joins: behind the others, but a packet that is forwarded goes on as soon as it can, ahead of all but those
forwarded before it (R167, log 187). -/
def joinQueue (l : List Outgoing) (o : Outgoing) : List Outgoing :=
  if o.forwarded then l.takeWhile Outgoing.forwarded ++ o :: l.dropWhile Outgoing.forwarded else l ++ [o]
/-- The sends that a port's queue for a peer holds, up to their last byte; transactions and forwarded packets take no place (R166, R168,
log 104). -/
def Port.sends (p : Port) (peer : Nat) : List Outgoing :=
  (mget [] p.queues peer).filter fun o => decide (o.sent < o.bytes) && !o.forwarded && match o.kind with
    | .trans _ => false
    | _ => true
/-- The bytes that wait at a port, across its queues (R470). -/
def Port.waiting (p : Port) : Nat :=
  p.queues.foldl (fun n q => q.2.foldl (fun n o => n + (o.bytes - o.sent)) n) 0
/-- The port sends on eight wavelengths. -/
def Port.narrow (p : Port) : Bool := p.width == .parked || p.width == .waking
/-- Quarter beats of a flit, and of a frame of seventeen (R158, R469). -/
def Port.flitTime (p : Port) : Nat := if p.narrow then 20 else 5
/-- A frame. -/
def Port.frameTime (p : Port) : Nat := 17 * p.flitTime
/-- The next frame boundary at or after a quarter beat: frames follow one another. -/
def Port.boundary (p : Port) (q : Nat) : Nat :=
  if q ≤ p.frameEnd then p.frameEnd else p.frameEnd + (q - p.frameEnd + p.frameTime - 1) / p.frameTime * p.frameTime
/-- A notice leaves in the next flit time (R471): the start of the frame that gives up a flit for it; none where an idle flit of the frame
under way carries it. -/
def Port.noticeFrame (p : Port) (q : Nat) : Option Nat :=
  let next := p.boundary q
  if next = q then some q
  else
    let j := (q + p.frameTime - next + p.flitTime - 1) / p.flitTime
    if max j (if q < p.frameEnd then p.filled else 0) < 16 then none else some next
/-- A parked port begins to wake, and tells its peer (R471). -/
def Port.beginWake (p : Port) (beat : Nat) : Port :=
  { p with width := .waking, trigger := beat, attempt := beat, missed := false, relocked := false, announced := false
           notice := p.noticeFrame (4 * beat) }
/-- A parked port whose queued bytes reach the threshold wakes (R471). -/
def Port.wakeFull (p : Port) (beat : Nat) : Port :=
  if p.width = .parked ∧ 0 < p.waiting ∧ 64 * p.wdepth ≤ p.waiting then p.beginWake beat else p
/-- A send joins the queue of its peer at a port: it cancels a parking, and wakes a parked port at its threshold (R471). -/
def State.enqueueSend (s : State) (port : Nat) (o : Outgoing) : State :=
  s.onPort port fun p =>
    let p := { p with queues := mset [] p.queues o.peer (joinQueue (mget [] p.queues o.peer) o), busyAt := s.beat }
    if p.width = .parking then { p with width := .awake, announced := false } else p.wakeFull s.beat
/-- The peer of a base bound to a peer's memory, with its owner there. -/
def Base.peer (b : Base) : Option (Nat × Nat) :=
  match b.pieces.head? with
  | some p => match p.loc with
    | .peer g w _ => some (g, w)
    | _ => none
  | none => none
/-- The kind of place a base is bound to: 0 HBM, 1 shared memory, 2 scratchpad, 3 peer. -/
def Base.kind (b : Base) : Nat := ((b.pieces.head?).map fun p => (placeOf p.loc).1).getD 0

/-- The descriptor of the current micro-order: its words, or the fault of reading it (R69, R100, R116, R328). -/
def State.xDesc (s : State) (i : Nat) : Except EngFault (List Word) :=
  let l : Loc := .scr s.turn.core (256 * i)
  match s.engReadOk s.turn.core (256 * i) l 256 with
  | some f => .error f
  | none => .ok ((List.range 32).map fun k =>
      let b := blkOf (l.plus (64 * (k / 8)))
      (s.mem.maskedBlk b (s.mem.rawBlk b)).word (k % 8))

/-- The bases of a micro-order are bound and carry their rights (R33, R111, R330). -/
def baseAsk (kind : Nat) (p q via : Base) (d : List Word) : Ask :=
  let one (b : Base) (rd : Bool) : Ask :=
    if b.extent = 0 then .fault (.of 0x0C) else if (if rd then !b.rd else !b.wr) then .fault (.of 0x0B) else .ok
  let qs : Ask := if kind = 4 then .ok else one q false
  let vs : Ask := if kind = 8 ∧ dLeft d ≠ 0 then one via false else .ok
  ((one p true).and qs).and vs

/-- The kinds of place that a micro-order takes (R330). -/
def kindsAsk (kind : Nat) (p q via : Base) (d : List Word) : Ask :=
  let bad : Ask := .fault (.of causeScope)
  if p.kind = 3 then bad
  else match kind with
    | 4 => .ok
    | 5 => if q.kind = 0 ∨ q.kind = 1 then .ok else bad
    | 6 | 7 => if q.kind = 3 then .ok else bad
    | 8 => if q.kind = 3 ∨ (dLeft d ≠ 0 ∧ via.kind ≠ 3) then bad else .ok
    | _ => if q.kind = 3 then bad else .ok

/-- A sync word is named only for a destination in a scratchpad; at a peer it is judged there (R329). -/
def syncAsk (kind : Nat) (q : Base) (d : List Word) : Ask :=
  if (dSync d).isSome ∧ kind ≠ 6 ∧ kind ≠ 7 ∧ (kind = 4 ∨ q.kind ≠ 2) then .fault (.of 0x36) else .ok

/-- The extents of both sides, as far as they are known at issue (R330, R335, R342, R343). -/
def extentAsk (kind : Nat) (p q : Base) (d : List Word) : Ask :=
  let bad : Ask := .fault (.of 0x37)
  let rest := (dDims d).drop 1
  let src := sideRange d (dSrcOff d) (dSStride d) (if kind = 2 then [] else dDims d)
  let dst := sideRange d (dDstOff d) (dDStride d) (if kind = 3 then [] else dDims d)
  let srcOk := if kind = 2 then true else inExtent p src
  let dstOk := match kind with
    | 3 => true
    | 4 => true
    | 6 => inExtent q ((dDstOff d : Int), (dDstOff d + dLen d : Nat)) && inExtent q ((dRing d : Int), (dRing d + 64 : Nat))
    | 8 => !dKeep d || (inExtent q ((dDstOff d : Int), (dDstOff d + dChunks d * dResultStep d : Nat)) &&
        inExtent q ((dStatus d : Int), (dStatus d + 16 : Nat)))
    | _ => inExtent q dst
  if srcOk && dstOk && rest.length ≤ 11 then .ok else bad

/-- The generation that a base was bound under is that of its port (R164). -/
def State.genAsk (s : State) (b : Base) : Ask := if (s.portAt b.port).gen = b.gen then .ok else .fault (.of 0x30)

/-- A circuit of a send's port reaches its peer, and the queue for it has room (R166). -/
def State.routeAsk (s : State) (b : Base) : Ask :=
  match b.peer with
  | none => .fault (.of causeScope)
  | some (g, _) =>
    if !s.portReaches b.port g then .fault (.of 0x32)
    else if 32 ≤ ((s.portAt b.port).sends g).length then .stall
    else .ok

/-- Tile w of the current core overlaps another tile that is loading or resident (R36, R336). -/
def Mat.overlapped (m : Mat) (w start len : Nat) : Bool :=
  m.wtiles.any fun e => e.1 != w && e.2.state != .empty && overlaps e.2.start e.2.len start len

/-- A circuit of the port of a collective's packets reaches their peer; where its queue is full they wait there (R166, R344). -/
def State.reachAsk (s : State) (b : Base) : Ask :=
  match b.peer with
  | none => .fault (.of causeScope)
  | some (g, _) => if s.portReaches b.port g then .ok else .fault (.of 0x32)

/-- What else each micro-order asks. -/
def State.kindAsk (s : State) (kind q : Nat) (qb via : Base) (d : List Word) : Ask :=
  match kind with
  | 4 =>
    if s.here.mx.overlapped q (dStart d) (dRun d) then .fault (.of 0x38)
    else if s.here.ve.jobs.any fun j => match j.work with
      | .mmac x => x.weight == q && decide (x.entered < x.rows)
      | _ => false
    then .stall else .ok
  | 6 => s.routeAsk qb
  | 7 => s.routeAsk qb
  | 8 =>
    if dKeep d && (mget none s.coll.bufs (dStage d)).isSome then .fault (.of 0x3A)
    else if dLeft d ≠ 0 then (s.genAsk via).and (s.reachAsk via) else .ok
  | _ => .ok

/-- The base of a collective's sends. -/
def State.viaBase (s : State) (kind : Nat) (d : List Word) : Base :=
  if kind = 8 then s.baseHere (bitsOf (dW d 7) 0 4) else Base.rest

/-- A collective start under way still has packets for a full queue: X is stalled (R166, R344). -/
def Core.packetsOwed (c : Core) : Bool :=
  c.ve.jobs.any fun j => match j.work with
    | .copy x => x.kind == 8 && decide (x.queued < dPackets x.desc)
    | _ => false

/-- The conditions of an X micro-order (R328 to R330, R341); sends and collectives need feature 2 (R412). -/
def State.xAsk (s : State) (kind : Nat) (o : XOForm) : Ask :=
  if 6 ≤ kind ∧ !s.feature 2 then .fault (.of causeFeature)
  else if 8 ≤ (s.here.jobsOf .x).length ∨ s.here.packetsOwed then .stall
  else match s.xDesc o.i.toNat with
    | .error f => .fault f
    | .ok d =>
      if !(descOk d (kind == 8) && kindOk kind d) || (dExact kind d && !s.feature 0) then .fault ⟨0x36, 256 * o.i.toNat, 0⟩
      else
        let p := s.baseHere o.p.toNat
        let q := s.baseHere o.q.toNat
        let via := s.viaBase kind d
        let gen : Ask := if kind = 6 ∨ kind = 7 then s.genAsk q else .ok
        (((((baseAsk kind p q via d).and (kindsAsk kind p q via d)).and (syncAsk kind q d)).and gen).and (extentAsk kind p q d)).and
          (s.kindAsk kind o.q.toNat q via d)

/-- The staging buffer that an `xcoll` installs, with the pins of its extents (R172, R173, R329, R344). -/
def State.installBuf (s : State) (d : List Word) (q : Base) : State :=
  let b : Buf :=
    { handle := bitsOf (dW d 4) 12 20, seq := bitsOf (dW d 4) 32 32, n := bitsOf (dW d 4) 0 6 + 1,
      first := (dW d 5).toNat, count := dChunks d, mode := dMode d, form := dForm d, base := q,
      result := dDstOff d, status := dStatus d, core := s.turn.core, task := s.taskNo s.turn.core, ops := [], written := [],
      failed := false, flags := 0, sync := dSync d, left := 0, code := none, ending := 0 }
  let s := { s with coll := { s.coll with bufs := mset none s.coll.bufs (dStage d) (some b) } }
  s.addPins ((q.pieces.map Piece.pin).eraseDups.filter (· != 0))

/-- A weight tile begins to load: its pins drop, its range and class are recorded (R36, R336). -/
def State.beginLoad (s : State) (n w : Nat) (src : Base) (d : List Word) : State :=
  let old := mget WTile.rest (s.coreAt n).mx.wtiles w
  let places := (List.range (dRun d)).map fun i => (src.locAt (src.addr + dSrcOff d + 64 * i)).getD (.hbm 0)
  (s.dropPins old.pins).onCore n fun c => c.onMat fun m =>
    { m with wtiles := mset WTile.rest m.wtiles w
                         ⟨.loading, dStart d, dRun d, dClass d, dDense d, dExtra d, places, src.addr + dSrcOff d,
                           src.owner, []⟩ }

/-- The result code of a refusal's cause (R333). -/
def refusalCode (c : BitVec 8) : Nat :=
  if c = causeUncorrectable ∨ c = causeBadTag ∨ c = 0x15 then 2 else if c = 0x31 then 4 else 1

/-! ## The jobs of X -/

/-- The work of an X job changed. -/
def State.onX (s : State) (n id : Nat) (f : XWork → XWork) : State :=
  s.onJob n id fun j => match j.work with
    | .copy x => { j with work := .copy (f x) }
    | _ => j
/-- The work of an X job. -/
def State.xAt (s : State) (n id : Nat) : Option XWork :=
  match s.jobAt n id with
  | some j => match j.work with
    | .copy x => some x
    | _ => none
  | none => none

/-- A micro-order whose blocks go on, as they are read, into the store queue or into a send. -/
def XWork.emits (x : XWork) : Bool := x.kind != 4 && x.kind != 8
/-- Its blocks go on in the order of its walk even past a fault (R166, R335). -/
def XWork.inOrder (x : XWork) : Bool := x.kind == 3 || x.kind == 6 || x.kind == 7
/-- An exact reduction, which moves whole chunks (R87, R340). -/
def XWork.byChunk (x : XWork) : Bool := x.kind == 5 && dRedOp x.desc == 4
/-- A micro-order that may still put a block into a queue or find a fault: no later one puts a block before it has done
(R328, R331). -/
def XWork.isOpen (x : XWork) : Bool :=
  decide (x.pos < x.total) || x.redo != [] || x.reading != [] || (x.emits && x.blocks != [])
/-- Every block of the source has been read. -/
def XWork.whole (x : XWork) : Bool := x.pos == x.total && x.redo == [] && x.reading == []

/-- Chunk i of a contribution, from the blocks read. -/
def XWork.chunk (x : XWork) (i : Nat) : BitVec 4096 :=
  (upFrom (8 * i) 8).foldr (fun k c => (c <<< 512) ||| ((mget none x.blocks k).getD Blk.zero).data.setWidth 4096) 0

/-- The chunks of packet i of a collective. -/
def XWork.packetChunks (x : XWork) (i : Nat) : List Nat := upFrom (16 * i) (min 16 (dChunks x.desc - 16 * i))

/-- Packet i of a collective (R171, R344); its data is filled in when the contribution has been read. -/
def XWork.packet (x : XWork) (i : Nat) : CollPacket :=
  let d := x.desc
  ⟨bitsOf (dW d 4) 32 32, bitsOf (dW d 4) 12 20, dLeft d, (dW d 5).toNat + 16 * i, dMode d, dRoute d,
    if x.whole then (x.packetChunks i).map x.chunk else []⟩

/-- The first refusal of a job stays its code and cause (R332, R333). -/
def XWork.failed (x : XWork) (c : BitVec 8) : XWork := if x.code = 0 then { x with code := refusalCode c, cause := c } else x

/-- The first exchange of a slice's tasks waits for the scheduler node, which knows when every package is resident (R64, log 152). -/
def State.exchangeWaits (s : State) (task : Nat) : Bool :=
  match s.taskAt task with
  | some t => s.node.gangs.contains t.slice
  | none => false

/-- The packets of a collective join their port's queue, as it has room, each in a place of its own (R166, R344, log 186); they wait for
the first exchange of their slice (R64). Where their circuit is committed away before they are in, they are flushed (R165), and those of
an aborted run are dropped and counted (R174). fuel bounds the packets, of which a queue holds 32. -/
def State.xPackets (s : State) (n id : Nat) : Nat → State
  | 0 => s
  | k + 1 =>
    match s.jobAt n id, s.xAt n id with
    | some j, some x =>
      if x.kind = 8 ∧ x.queued < dPackets x.desc then
        let owed := dPackets x.desc - x.queued
        let ended (s : State) (c : BitVec 8) : State :=
          s.onX n id fun x => { (if c = 0 then x else x.failed c) with sent := x.sent + owed, queued := dPackets x.desc }
        match x.via.peer with
        | none => s
        | some (g, w) =>
          if bitsOf (dW x.desc 4) 32 32 < mget 0 s.coll.aborted (bitsOf (dW x.desc 4) 12 20) then
            ended { s with coll := { s.coll with dropped := s.coll.dropped + owed } } 0
          else if s.exchangeWaits j.task then s
          else if (s.portAt x.via.port).gen ≠ x.via.gen then ended s 0x31
          else if 32 ≤ ((s.portAt x.via.port).sends g).length then s
          else
            let (oid, s) := s.fresh
            ((s.enqueueSend x.via.port
              { id := oid, core := n, task := j.task, job := id, kind := .packet (x.packet x.queued), peer := g, pown := w,
                gen := x.via.gen, blks := [], bytes := 64 + 512 * (x.packetChunks x.queued).length, sent := 0, sync := none }).onX
              n id fun x => { x with queued := x.queued + 1 }).xPackets n id k
      else s
    | _, _ => s

/-- An X micro-order issues (R328): its descriptor is copied, its history entry written, its buffer, tile or send
prepared. -/
def State.xStart (s : State) (kind : Nat) (o : XOForm) : State :=
  match s.xDesc o.i.toNat with
  | .error _ => s
  | .ok d =>
    let n := s.turn.core
    let s := s.warn (.scr n (256 * o.i.toNat)) 256
    let p := s.baseHere o.p.toNat
    let q := s.baseHere o.q.toNat
    let via := s.viaBase kind d
    let first := q.addr + dDstOff d
    let (h, s) :=
      if kind = 4 then (0, s)
      else s.addHist n 2 s.eng.step.toNat (s.here.issueNo 3) s.here.c.cpIx (if q.kind = 3 then first else first % 2 ^ 52)
    let uses := [p.uid] ++ (if kind = 4 then [] else [q.uid]) ++ (if kind = 8 ∧ dLeft d ≠ 0 then [via.uid] else [])
    let x : XWork :=
      { kind := kind, q := o.q.toNat, desc := d, src := p, dst := q, via := via, pos := 0, total := dTotal d,
        reading := [], outs := [], redo := [], blocks := [], bytes := 0, code := 0, cause := 0, queued := 0, sent := 0,
        issue := s.here.issueNo 3 }
    let id := s.nextId
    let s := s.addJob { s.job 0 o.e.toNat (s.beat + 1) uses h (.copy x) with ix := s.here.c.cpIx }
    let s := s.onCtl fun c => { c with cpIx := c.cpIx + 1 }
    match kind with
    | 4 => s.beginLoad n o.q.toNat p d
    | 8 => (if dKeep d then s.installBuf d q else s).xPackets n id 32
    | 6 | 7 => match q.peer with
      | none => s
      | some (g, w) =>
        let (oid, s) := s.fresh
        let bytes := if kind = 6 then dLen d else 64 * dTotal d
        let note : BitVec 128 := dW d 7 ++ dW d 6
        s.enqueueSend q.port
          { id := oid, core := n, task := s.taskNo n, job := id,
            kind := if kind = 6 then .enqueue (match q.locAt (q.addr + dRing d) with
              | some (.peer _ _ a) => a
              | _ => 0) note else .send,
            peer := g, pown := w, gen := q.gen, blks := [], bytes := bytes, sent := 0, sync := dSync d }
    | _ => s

/-- The common form of the X micro-orders. -/
def xIssue (kind : Nat) (o : XOForm) (s : State) : Out :=
  moIssue 0 o.e.toNat (fun s => s.xAsk kind o) (fun s => s.xStart kind o) s

/-- `xcopy` (R334) -/
def execXcopy (o : XOForm) (s : State) : Out := xIssue 1 o s
/-- `xgat` (R335) -/
def execXgat (o : XOForm) (s : State) : Out := xIssue 2 o s
/-- `xsct` (R335) -/
def execXsct (o : XOForm) (s : State) : Out := xIssue 3 o s
/-- `xwload` (R336 to R339) -/
def execXwload (o : XOForm) (s : State) : Out := xIssue 4 o s
/-- `xred` (R340) -/
def execXred (o : XOForm) (s : State) : Out := xIssue 5 o s
/-- `xwenq` (R342) -/
def execXwenq (o : XOForm) (s : State) : Out := xIssue 6 o s
/-- `xsend` (R341) -/
def execXsend (o : XOForm) (s : State) : Out := xIssue 7 o s
/-- The buffer of an `xcoll` whose circuit is stale or gone: it is installed before its port is used (R344). -/
def State.installFirst (s : State) (o : XOForm) : State :=
  match s.xDesc o.i.toNat with
  | .error _ => s
  | .ok d => if dKeep d then s.installBuf d (s.baseHere o.q.toNat) else s
/-- `xcoll` (R343, R344) -/
def execXcoll (o : XOForm) (s : State) : Out :=
  if !s.here.prefixMet s.eng || !s.here.tokenRoom o.e.toNat then xIssue 8 o s
  else match (s.popped 0).xAsk 8 o with
    | .fault f => if f = .of 0x30 ∨ f = .of 0x32 then .next ((s.installFirst o).stopHere f) else xIssue 8 o s
    | _ => xIssue 8 o s

/-! ## The walk (R328, R330, R331, R335) -/

/-- A fault is found at block pos of a job (R331): X stops at the micro-order's step, to resume at the step it would have
issued next; the block is read again after the restart. -/
def State.xFault (s : State) (n id pos va : Nat) (cause : BitVec 8) : State :=
  match s.jobAt n id with
  | none => s
  | some j =>
    let s := s.onX n id fun x =>
      { x with reading := x.reading.filter (· != pos), outs := x.outs.filter fun o => o.pos != pos,
               redo := if pos < x.pos then insertUp pos x.redo else x.redo }
    s.onCore n fun c => c.stopEng .x ⟨cause, va, pos⟩ j.step (c.eng .x).next j.word s.beat

/-- A tile that did not load (R338): X stops, the tile is empty, and a restart reads the source again from its first
block (log 29). -/
def State.badTile (s : State) (n id : Nat) (x : XWork) (pos : Nat) : State :=
  let s := (s.xFault n id pos 0 0x39).dropAccs n id
  let s := s.onX n id fun x => { x with pos := 0, reading := [], outs := [], redo := [], blocks := [], bytes := 0 }
  s.onCore n fun c => c.onMat fun m =>
    { m with wtiles := mset WTile.rest m.wtiles x.q { mget WTile.rest m.wtiles x.q with state := .empty } }

/-- The index that the list of an `xgat` or `xsct` gives for block pos, or the fault of reading it (R100, R335). -/
def State.xIndex (s : State) (n : Nat) (x : XWork) (pos : Nat) : Except (BitVec 8) (Option Int) :=
  if x.kind ≠ 2 ∧ x.kind ≠ 3 then .ok none
  else
    let wide := (dW x.desc 4).getLsbD 63
    let w := if wide then 8 else 4
    let i := (walkIdx x.desc pos).2.headD 0
    let o := (bitsOf (dW x.desc 4) 0 22 + w * i) % 2 ^ 22
    let l : Loc := .scr n o
    let b := blkOf l
    if mget false s.mem.bad b then .error causeUncorrectable
    else if !tagOk (s.feature 1) (mget 0 s.mem.tags b) then .error causeBadTag
    else if !(s.coreAt n).cr.spwarn && !s.mem.allValid b (inBlk l) w then .error causeUninit
    else
      let v := (s.mem.maskedBlk b (s.mem.rawBlk b)).nat (inBlk l) w
      .ok (some (if wide then (BitVec.ofNat 64 v).toInt else (BitVec.ofNat 32 v).toInt))

/-- The list entry of block pos is read in warn mode: with the copy's other blocks it counts one warning (R100). -/
def State.warnIndex (s : State) (n id : Nat) (x : XWork) (pos : Nat) : State :=
  if x.kind ≠ 2 ∧ x.kind ≠ 3 then s
  else
    let w := if (dW x.desc 4).getLsbD 63 then 8 else 4
    let l : Loc := .scr n ((bitsOf (dW x.desc 4) 0 22 + w * (walkIdx x.desc pos).2.headD 0) % 2 ^ 22)
    match s.jobAt n id, s.mem.firstInvalid (blkOf l) (inBlk l) w with
    | some j, some k =>
      if j.warned then s else (s.onJob n id fun j => { j with warned := true }).onCore n fun c => c.countWarn (4 * k)
    | _, _ => s

/-- The run of block pos on an indexed side lies in its extent (R335). -/
def runOk (d : List Word) (b : Base) (off : Int) (pos : Nat) : Bool :=
  let start := off - 64 * (walkIdx d pos).1
  inExtent b (start, start + 64 * dRun d)

/-- A block of a job goes into X's load queue, or meets a fault (R330, R331). -/
def State.xPut (s : State) (n id pos : Nat) (fresh : Bool) : State :=
  match s.xAt n id with
  | none => s
  | some x =>
    match s.xIndex n x pos with
    | .error c => (s.countBad c (.scr n 0)).xFault n id pos 0 c
    | .ok i =>
      let s := s.warnIndex n id x pos
      let so := sideOff x.desc (dSrcOff x.desc) (dSStride x.desc) pos (if x.kind = 2 then i else none)
      let d := sideOff x.desc (dDstOff x.desc) (dDStride x.desc) pos (if x.kind = 3 then i else none)
      if (x.kind = 2 ∧ !runOk x.desc x.src so pos) ∨ (x.kind = 3 ∧ !runOk x.desc x.dst d pos) then s.xFault n id pos 0 0x37
      else
        let sva := x.src.addr + so.toNat
        let dva := x.dst.addr + d.toNat
        let dl := (x.dst.locAt dva).getD (.hbm 0)
        match x.src.locAt sva with
        | none => s.xFault n id pos sva 0x37
        | some l =>
          let s := s.onX n id fun x =>
            { x with reading := x.reading ++ [pos], outs := x.outs ++ [⟨pos, sva, dva, dl⟩],
                     redo := x.redo.filter (· != pos), pos := if fresh then x.pos + 1 else x.pos }
          let a := s.walkAccess n .x l sva .rblk true x.src.owner id pos
          (s.addAcc { a with issue := (s.coreAt n).issueNo 2 }).onCore n fun c => c.bumpIssue 2

/-- The first of core n's X jobs that is still open. -/
def State.xOpen (s : State) (n : Nat) : Option (Nat × XWork) :=
  (s.coreAt n).ve.jobs.findSome? fun j => match j.work with
    | .copy x => if x.isOpen then some (j.id, x) else none
    | _ => none

/-- X's walk goes on (R328, R331): the first job that is open puts in its next blocks; up to k, with at most 64 of a job not
performed. A weight tile that was left empty begins to load again, unless another now lies in its range (R36). -/
def State.xSteps (s : State) (n : Nat) : Nat → State
  | 0 => s
  | k + 1 =>
    if ((s.coreAt n).eng .x).state = .stopped then s
    else
      match s.xOpen n with
      | none => s
      | some (id, x) =>
        let again := x.kind == 4 && x.pos == 0 && (mget WTile.rest (s.coreAt n).mx.wtiles x.q).state != .loading
        if 64 ≤ x.outs.length ∨ (x.pos = x.total ∧ x.redo = []) then s
        else if again && (s.coreAt n).mx.overlapped x.q (dStart x.desc) (dRun x.desc) then s.xFault n id 0 0 0x38
        else
          let s := if again then s.beginLoad n x.q x.src x.desc else s
          if x.kind = 4 ∧ dDense x.desc ∧ dRun x.desc ≠ clsBlocks (dClass x.desc) then s.badTile n id x 0
          else match x.redo with
          | p :: _ => (s.xPut n id p false).xSteps n k
          | [] => (s.xPut n id x.pos true).xSteps n k

/-! ## What comes back -/

/-- An access of X that writes. -/
def State.xStore (s : State) (n id : Nat) (x : XWork) (o : XOut) (op : AOp) : State :=
  let h := ((s.jobAt n id).map Job.hist).getD 0
  let a := s.walkAccess n .x o.loc o.va op false x.dst.owner id o.pos
  (s.addAcc { a with issue := (s.coreAt n).issueNo 3, hist := h, sync := dSync x.desc }).onCore n fun c => c.bumpIssue 3

/-- What waits in the queues of the ports, changed. -/
def State.onQueued (s : State) (f : Outgoing → Outgoing) : State :=
  { s with circ := { s.circ with ports := s.circ.ports.map fun e =>
      (e.1, { e.2 with queues := e.2.queues.map fun q => (q.1, q.2.map f) }) } }
/-- The sends of a job, wherever they wait, changed. -/
def State.onSends (s : State) (n id : Nat) (f : Outgoing → Outgoing) : State :=
  s.onQueued fun o => if o.core = n ∧ o.job = id then f o else o

/-- A block of a send stands ready in the port's queue, with its place at the peer (R341, R342). -/
def State.xSendBlock (s : State) (n id : Nat) (x : XWork) (o : XOut) (b : Blk) : State :=
  let a := match o.loc with
    | .peer _ _ v => v
    | _ => 0
  let len := if x.kind = 6 then min 64 (dLen x.desc - 64 * o.pos) else 64
  (s.onSends n id fun q => { q with blks := q.blks ++ [(a, b, len)] }).onX n id fun x =>
    { x with outs := x.outs.filter fun y => y.pos != o.pos }

/-- The blocks of a job that go on next, all read: the lowest, behind every block still being read; a whole chunk of an exact
reduction (R87, R328, R334, R340). -/
def XWork.emission (x : XWork) : Option (List (Nat × Blk)) :=
  match x.blocks with
  | [] => none
  | (p, _) :: _ =>
    if !x.emits || x.reading.any (fun q => decide (q < p)) || (x.inOrder && x.redo.any fun q => decide (q < p)) then none
    else (if x.byChunk then upFrom (p / 8 * 8) 8 else [p]).mapM fun q => (mget none x.blocks q).map fun b => (q, b)

/-- Blocks of a job that have been read go on (R328, R340 to R342): up to k; a chunk is eight blocks, so one goes on every
other beat. -/
def State.xEmit (s : State) (n id : Nat) : Nat → State
  | 0 => s
  | k + 1 =>
    match s.xAt n id with
    | none => s
    | some x => match x.emission with
      | none => s
      | some bs =>
        let p := (bs.headD (0, Blk.zero)).1
        let b := (bs.headD (0, Blk.zero)).2
        match x.outs.find? fun o => o.pos == p with
        | none => s
        | some o =>
          let gone (s : State) : State := s.onX n id fun x => { x with blocks := x.blocks.filter fun e => !(bs.map Prod.fst).contains e.1 }
          if x.byChunk then
            if s.beat % 2 = 1 then s
            else gone (s.xStore n id x o (.redChunk (bs.foldr (fun b c => (c <<< 512) ||| b.2.data.setWidth 4096) 0)))
          else if x.kind = 6 ∨ x.kind = 7 then (gone (s.xSendBlock n id x o b)).xEmit n id k
          else (gone (s.xStore n id x o (if x.kind = 5 then .red (dRedOp x.desc) b else .wblk 0 64 b))).xEmit n id k

/-- The formats of a class (R338). -/
def clsTakes (cls f : Nat) : Bool :=
  match cls with
  | 0 => f == 1 || f == 5 || f == 6 || f == 8
  | 1 => f == 7
  | _ => f == 4

/-- The blocks that the presence map of a loading tile lists. -/
def Mat.mapCount (m : Mat) (start cls : Nat) : Nat :=
  let bs := mgetList Blk.zero m.wbuf start (mapBlocks cls)
  ((List.range (clsBlocks cls)).filter (mapBit bs)).length

/-- A block of a weight tile has landed (R337 to R339). A tile that was emptied as its load was restored stays empty: what is left of the
walk is read and goes nowhere (R327). -/
def State.xLand (s : State) (n id : Nat) (x : XWork) (pos : Nat) (b : Blk) : State :=
  let d := x.desc
  let cls := dClass d
  let isMap := !dDense d && pos < mapBlocks cls
  if !isMap && !clsTakes cls (tagFmt b.tag) then s.badTile n id x pos
  else if (mget WTile.rest (s.coreAt n).mx.wtiles x.q).state != .loading then
    s.onX n id fun x =>
      { x with reading := x.reading.filter (· != pos), outs := x.outs.filter (fun o => o.pos != pos), bytes := x.bytes + 64 }
  else
    let s := s.onX n id fun x =>
      { x with reading := x.reading.filter (· != pos), outs := x.outs.filter (fun o => o.pos != pos), bytes := x.bytes + 64 }
    let later := (s.coreAt n).ve.jobs.any fun j => decide (id < j.id) && (match j.work with
      | .copy y => y.kind == 4 && y.q == x.q
      | _ => false)
    let s := s.onCore n fun c => c.onMat fun m => { m with wbuf := mset Blk.zero m.wbuf (dStart d + pos) b }
    match s.xAt n id with
    | none => s
    | some x =>
      let mapIn := !dDense d && mapBlocks cls ≤ x.pos && !(x.outs.any fun o => o.pos < mapBlocks cls) &&
        !(x.redo.any (· < mapBlocks cls))
      if mapIn && mapBlocks cls + (s.coreAt n).mx.mapCount (dStart d) cls != dRun d then s.badTile n id x pos
      else if x.pos = x.total ∧ x.outs = [] ∧ x.redo = [] then
        if !dDense d && !mapIn then s.badTile n id x pos
        else if later then s
        else
          let pins := ((x.src.pieces.filter fun p =>
            overlaps p.va p.len (x.src.addr + dSrcOff d) (64 * dRun d)).map Piece.pin).eraseDups.filter (· != 0)
          (s.addPins pins).onCore n fun c => c.onMat fun m =>
            { m with wtiles := mset WTile.rest m.wtiles x.q
                       { mget WTile.rest m.wtiles x.q with state := .resident, pins := pins } }
      else s

/-- The whole contribution has been read: it is an operand of the buffer of its run where own says so, and the data of the
packets that wait (R344). -/
def State.xContribute (s : State) (n id : Nat) (x : XWork) : State :=
  let s := s.onSends n id fun o => match o.kind with
    | .packet g => { o with kind := .packet { g with chunks := (x.packetChunks ((g.chunk - (dW x.desc 5).toNat) / 16)).map x.chunk } }
    | _ => o
  match mget none s.coll.bufs (dStage x.desc) with
  | none => s
  | some b =>
    if !dOwn x.desc || b.handle != bitsOf (dW x.desc 4) 12 20 || b.seq != bitsOf (dW x.desc 4) 32 32 then s
    else
      let b := (List.range (dChunks x.desc)).foldl (fun (b : Buf) i =>
        let l := mget [] b.ops (b.first + i)
        if b.n ≤ l.length ∨ mget false b.written (b.first + i) then { b with failed := true }
        else { b with ops := mset [] b.ops (b.first + i) (l ++ [x.chunk i]) }) b
      { s with coll := { s.coll with bufs := mset none s.coll.bufs (dStage x.desc) (some b) } }

/-- X moves on a beat: its walk, up to four blocks that have been read, and the packets of its collectives (R328). -/
def State.xWalk (s : State) (n : Nat) : State :=
  let s := s.xSteps n 4
  let s := match s.xOpen n with
    | some (id, _) => s.xEmit n id 4
    | none => s
  (s.coreAt n).ve.jobs.foldl (fun s j => s.xPackets n j.id 32) s

/-- An exact contribution does not lie on chunks: the address of its first block is no multiple of 512 (R87). -/
def XWork.crooked (x : XWork) : Bool := x.kind == 8 && dMode x.desc == 3 && (x.src.addr + dSrcOff x.desc) % 512 != 0

/-- The tag that a source block must carry (R340, R343). -/
def XWork.needs (x : XWork) : Option Nat :=
  match x.kind with
  | 5 => some (redFmt (dRedOp x.desc))
  | 8 => some (if dMode x.desc = 0 then 2 else 0x10)
  | _ => none

/-- A read of X has come back (R331). -/
def State.xRead (s : State) (n id pos va : Nat) (r : Res) : State :=
  match s.xAt n id with
  | none => s
  | some x =>
    if !x.reading.contains pos then s
    else match r with
      | .err c => s.xFault n id pos va c
      | .blk b =>
        if x.needs.any (· != tagFmt b.tag) || x.crooked then s.xFault n id pos va 0x15
        else match x.kind with
          | 4 => s.xLand n id x pos b
          | 8 =>
            let s := s.onX n id fun x =>
              { x with blocks := mset none x.blocks pos (some b), reading := x.reading.filter (· != pos),
                       outs := x.outs.filter fun o => o.pos != pos }
            match s.xAt n id with
            | some y => if y.whole then s.xContribute n id y else s
            | none => s
          | _ =>
            s.onX n id fun x => { x with blocks := mset none x.blocks pos (some b), reading := x.reading.filter (· != pos) }
      | _ => s

/-- A write of X has completed: performed, or refused (R332, R333). -/
def State.xWrote (s : State) (n id pos : Nat) (r : Res) (fl : Flags) : State :=
  let s := s.onJob n id fun j => { j with flags := j.flags ||| fl }
  s.onX n id fun x =>
    let chunk := x.byChunk
    let x := { x with outs := x.outs.filter fun o => if chunk then o.pos / 8 != pos / 8 else o.pos != pos }
    match r with
    | .err c => x.failed c
    | _ => { x with bytes := x.bytes + if chunk then 512 else 64 }

/-! ## Completion (R332, R333, R341, R344) -/

/-- Every part of an X job is done; a result record needs a free entry. -/
def State.xReady (s : State) (n : Nat) (j : Job) (x : XWork) : Bool :=
  decide (j.due ≤ s.beat) && x.pos == x.total && x.redo == [] && x.outs == [] && (match x.kind with
    | 6 => x.sent == 1
    | 7 => x.sent == 1
    | 8 => x.sent == dPackets x.desc
    | _ => true) && (!dNotify x.desc || decide ((mget [] (s.coreAt n).ch.results 4).length < 16))

/-- The result record of a job (R333). -/
def xRecord (j : Job) (x : XWork) : Word :=
  w64 (j.step.toNat * 2 ^ 51 + x.code * 2 ^ 47 + min (2 ^ 47 - 1) x.bytes)

/-- A complete X job: its failure is in the history, or in its record (R332, R333, R448). -/
def State.xEnd (s : State) (n : Nat) (j : Job) (x : XWork) : State :=
  let s :=
    if dNotify x.desc then
      s.onCore n fun c => { c with ch := { c.ch with results := mset [] c.ch.results 4 (mget [] c.ch.results 4 ++ [xRecord j x]) } }
    else if x.code ≠ 0 then s.markNeg n j.hist 2 j.ix x.cause else s
  s.endJob n j

/-- A job of a stopped X that can go no further before a restart (R331, R345): it is open, and nothing of it is under way. -/
def State.xHalted (s : State) (n : Nat) (j : Job) : Bool :=
  match j.work with
  | .copy x => x.isOpen && x.reading == [] && x.emission == none && !s.accsOf n j.id
  | _ => false

/-- What a job had put into its port's queues is taken out of them. -/
def State.dropSends (s : State) (n id : Nat) : State :=
  { s with circ := { s.circ with ports := s.circ.ports.map fun e =>
      (e.1, { e.2 with queues := (e.2.queues.map fun q => (q.1, q.2.filter fun o => !(o.core == n && o.job == id))).filter fun q =>
        q.2 != [] }) } }

/-- An `estop` of an X stream that a walk fault has stopped gives up the jobs whose walk is not over (R364, log 29). -/
def State.xAbandon (s : State) (n : Nat) : State :=
  let c := s.coreAt n
  if (c.eng .x).closing && (c.eng .x).state == .stopped then
    (c.ve.jobs.filter (s.xHalted n)).foldl (fun t j => (t.dropSends n j.id).dropJob n j.id) s
  else s

end Sys2Proof.Machine
end

