-- ==== Sys2Proof/Machine/Outside.lean ====
section
/-!
DEFINITION. What the completions of accesses leave that no core issued: requests of the host (05_ordering.md R132;
19_drv_launch.md R409, R410, R425), deposits of stations (06_conveyor.md R143, R146) and the writes of a collective's result
(07_circuits_cells.md R172 to R174; 14_ins_matrix_copy.md R344).
-/

namespace Sys2Proof.Machine

/-! ## The host -/

/-- A word enters a mailbox; a ninth is dropped (R425). -/
def Core.pushMail (c : Core) (w : Word) : Core :=
  if 8 ≤ c.ch.mail.length then { c with ch := { c.ch with drops := min 65535 (c.ch.drops + 1) } }
  else { c with ch := { c.ch with mail := c.ch.mail ++ [w] } }

/-- A posted host write that came before access id is not performed yet (R132). -/
def State.hostWriteBefore (s : State) (id : Nat) : Bool :=
  s.accs.any fun e => match e.2 with
    | some a => decide (e.1 < id) && a.agent == .host && a.sq && a.stage != .performed
    | none => false

/-- The mailbox pushes that wait no longer enter their mailboxes, in the order received (R132); fuel bounds their number. -/
def State.servePushes : Nat → State → State
  | 0, s => s
  | k + 1, s => match s.ev.pushes with
    | [] => s
    | (n, w, id) :: t =>
      if s.hostWriteBefore id then s
      else State.servePushes k ({ s with ev := { s.ev with pushes := t } }.onCore n fun c => c.pushMail w)

/-- The parts of a request of n bytes from an offset, block by block: the offset and the length of each; fuel bounds their
number. -/
def hostParts : Nat → Nat → Nat → List (Nat × Nat)
  | 0, _, _ => []
  | k + 1, off, n =>
    let m := min n (64 - off % 64)
    if n = 0 then [] else (off, m) :: hostParts k (off + m) (n - m)

/-- A request is answered with bytes. -/
def State.answer (s : State) (no : Nat) (l : List Byte) : State :=
  { s with ev := { s.ev with replies := s.ev.replies ++ [(no, l)] } }

/-- What a part of a host request has brought; none where it failed. -/
def Access.hostBytes (a : Access) (n : Nat) : Option (List Byte) :=
  match a.res with
  | .blk b => some ((List.range n).map fun i => b.byte (inBlk a.loc + i))
  | .val v => some (leBytes v.toNat n)
  | _ => none

/-- A part of a request is back. -/
def HostReq.take (r : HostReq) (a : Access) : HostReq :=
  match a.hostBytes (((hostParts (r.len + 1) r.off r.len).getD a.part (0, 0)).2) with
  | some l => { r with left := r.left - 1, got := mset [] r.got a.part l }
  | none => { r with left := r.left - 1, bad := true }

/-- The bytes of a request whose parts are all back; none where one failed (R409). -/
def HostReq.bytes (r : HostReq) : List Byte := if r.bad then [] else r.got.flatMap Prod.snd

/-- An access of the host is complete: a read or atomic is answered once its parts are back; a write lets mailbox pushes go on
that waited for it (R132). -/
def State.hostDone (s : State) (a : Access) : State :=
  if a.sq then s.servePushes s.ev.pushes.length
  else match s.ev.reqs.find? fun r => r.no == a.job with
    | none => s
    | some r =>
      let r := r.take a
      let rest := s.ev.reqs.filter fun x => x.no != a.job
      if r.left = 0 then { s with ev := { s.ev with reqs := rest } }.answer r.no r.bytes
      else { s with ev := { s.ev with reqs := rest ++ [r] } }

/-! ## Stations -/

/-- A block of a deposit is performed or refused: the flag of a raising act tells the refusal (R146). -/
def State.stationDone (s : State) (a : Access) : State :=
  match a.res with
  | .err _ => s.onDie (a.core / 24) fun d =>
    { d with flagsDue := d.flagsDue.map fun f => if f.act = a.job then { f with bits := f.bits ||| 128 } else f }
  | _ => s

/-! ## Collectives (R172 to R174, R344) -/

/-- The staging buffer of a key. -/
def State.bufAt (s : State) (k : Nat) : Option Buf := mget none s.coll.bufs k
/-- That buffer written. -/
def State.setBuf (s : State) (k : Nat) (b : Option Buf) : State :=
  { s with coll := { s.coll with bufs := mset none s.coll.bufs k b } }
/-- The staging buffer of a key while its run goes on. -/
def State.liveBuf (s : State) (k : Nat) : Option Buf := (s.bufAt k).filter fun b => b.ending == 0 && b.code.isNone
/-- A live buffer is marked failed. -/
def State.failBuf (s : State) (k : Nat) : State :=
  match s.liveBuf k with
  | some b => s.setBuf k (some { b with failed := true })
  | none => s

/-- A write into an extent of a buffer's base sets out from an optical engine die; one that has no place is refused. -/
def State.collWrite (s : State) (k off : Nat) (op : AOp) (sync : Option Nat) : State :=
  match s.bufAt k with
  | none => s
  | some b => match b.base.locAt (b.base.addr + off) with
    | none => s.setBuf k (some { b with failed := true })
    | some l =>
      let (id, s) := s.fresh
      (s.setBuf k (some { b with left := b.left + 1 })).setAcc id (some
        { agent := .optical, core := b.core, task := b.task, owner := b.base.owner, loc := l, va := b.base.addr + off, op := op
          dst := k, pc := 0, issue := 0, ix := 0, six := 0, lq := false, sq := false, epoch := 0, scope := 9, job := k + 1, part := 0
          hist := 0, sync := sync, chain := 0, depth := 0, stage := .queued, due := 0, res := .none, flags := 0 })

/-- A run is over at this package: its flags reach the task while it is placed, and its pins drop. -/
def State.freeBuf (s : State) (k : Nat) (b : Buf) : State :=
  let s := if (s.coreAt b.core).pl.task = some b.task then
      s.onCore b.core fun c => { c with cr := { c.cr with fflags := c.cr.fflags ||| b.flags } } else s
  (s.setBuf k none).dropPins ((b.base.pieces.map Piece.pin).eraseDups.filter (· != 0))

/-- A run goes on once nothing of it is out: its status word, then its completion counter, then it is over (R174, R344). Three
steps lead to the end. -/
def State.pushRun (s : State) (k : Nat) : Nat → State
  | 0 => s
  | fuel + 1 => match s.bufAt k with
    | none => s
    | some b => match b.code with
      | none => s
      | some c =>
        if b.left ≠ 0 then s
        else if b.ending = 0 then
          ((s.setBuf k (some { b with ending := 1 })).collWrite k b.status (.store 8 (w64 (c + 256 * b.flags.toNat))) none).pushRun k fuel
        else if b.ending = 1 then
          ((s.setBuf k (some { b with ending := 2 })).collWrite k (b.status + 8) (.sqadd 1) none).pushRun k fuel
        else s.freeBuf k b

/-- A run ends at this package with a status (R174, R344); one that ends already stays so. -/
def State.endRun (s : State) (k status : Nat) : State :=
  match s.bufAt k with
  | none => s
  | some b => if b.code.isSome then s else (s.setBuf k (some { b with code := some status })).pushRun k 3

/-- Every chunk of a run is written and performed: it ends, with status 2 where something failed (R174). -/
def State.checkRun (s : State) (k : Nat) : State :=
  match s.liveBuf k with
  | some b => if b.left = 0 ∧ b.written.length = b.count then s.endRun k (if b.failed then 2 else 0) else s
  | none => s

/-- A write of a collective is complete. -/
def State.collDone (s : State) (a : Access) : State :=
  match s.bufAt a.dst with
  | none => s
  | some b =>
    let bad : Bool := match a.res with
      | .err _ => true
      | _ => false
    let b := { b with left := b.left - 1, failed := b.failed || bad }
    ((s.setBuf a.dst (some b)).checkRun a.dst).pushRun a.dst 3

end Sys2Proof.Machine
end

