-- ==== Sys2Proof/Machine/Flow.lean ====
section
/-!
DEFINITION. How accesses move: the rules that hold an access back, its release to its point of coherence, its way as a
parcel or a transaction, and the meanings of ACCESS_COMPLETION and ENGINE_COMPLETION (05_ordering.md R118 to R135;
04_memory.md R95 to R98; 12_ins_memory_sync.md R258, R260; 13_ins_vector.md R287).
-/

namespace Sys2Proof.Machine

/-! ## Order (R119 to R128, R135) -/

/-- The scope of a place (R95): core 0, die 1, package 2, fabric 3. -/
def locScope : Loc → Nat
  | .scr _ _ => 0
  | .dsm _ _ => 1
  | .hbm _ => 2
  | .peer _ _ _ => 3

/-- An access is performed; an armed watch counts as performed, since nothing waits for it (R119, R278). -/
def Access.done (a : Access) : Bool :=
  match a.stage with
  | .performed => true
  | .returning => true
  | .back => true
  | .parked => (match a.op with
    | .waddr _ _ _ (some _) => true
    | _ => false)
  | _ => false

/-- Deposits of one beat at a station into one block are performed in the order of their strands (R143). -/
def depositAhead (b a : Access) : Bool :=
  a.agent == .station && b.epoch == a.epoch && blkOf b.loc == blkOf a.loc && !b.done

/-- An earlier access b of a stream holds a in its queue: it has not left the queue for the same point of coherence, or a `qalign`
between them, the scope of either as an atomic, or a `fup` behind it (R122, R123, R128, R135). -/
def State.holds (s : State) (b a : Access) : Bool :=
  (b.stage == .queued && s.oneTurn b a) ||
  (b.agent == a.agent && b.core == a.core &&
    (depositAhead b a || (b.task == a.task &&
      ((!b.done && (decide (b.epoch < a.epoch) || (decide (a.scope ≤ 3) && decide (locScope b.loc ≤ a.scope)) || (match a.op with
          | .fup _ _ => true
          | _ => false))) ||
        (decide (b.scope ≤ 3) && decide (locScope a.loc ≤ b.scope))))))

/-- Something holds access id in its queue. -/
def State.isHeld (s : State) (id : Nat) (a : Access) : Bool :=
  s.accs.any fun e => match e.2 with
    | some b => decide (b.place e.1 < a.place id) && s.holds b a
    | none => false

/-! ## The way (R98, R151, R152, R168) -/

/-- An access reaches its point of coherence without leaving the issuer's die. -/
def State.isLocal (s : State) (a : Access) : Bool :=
  match a.agent with
  | .station => true
  | .optical => true
  | .host => true
  | .peer => true
  | .timetable => true
  | .context => true
  | _ => mortOf s.placing a.loc == dieOf a.core

/-- An access at its point of coherence, in its turn: a scratchpad performs it, a bank queues it, a chunk merge in the queues of all its
banks at once, and a home slice takes it by its own transitions (R103, R105, R122). A `post` waits for its timetable. -/
def State.arrive (s : State) (id : Nat) (a : Access) : State :=
  match a.op with
  | .post _ _ => s
  | _ => match a.loc with
    | .scr _ _ => if s.outOfTurn id a then s else (s.perform id).countLanding id
    | .dsm _ _ =>
      if s.outOfTurn id a || a.banks.any fun k => (mget [] s.mem.bankq k).contains id || decide (16 ≤ (mget [] s.mem.bankq k).length) then s
      else s.onMem fun m => { m with bankq := a.banks.foldl (fun q k => mset [] q k (mget [] q k ++ [id])) m.bankq }
    | _ => s

/-- What an access carries when it leaves its queue: a `fup` reads its value block then (R362). -/
def State.laden (s : State) (a : Access) : AOp :=
  match a.op with
  | .fup o _ =>
    let l : Loc := .scr a.core o
    .fup o (s.seenBlk a.owner l)
  | o => o

/-- An access leaves its queue (R98, R151, R168): as a transaction for a peer, as a parcel for another die, or to its own
die's point of coherence. -/
def State.depart (s : State) (id : Nat) (a : Access) : State :=
  match a.loc with
  | .peer g w _ => match s.portTo g with
    | none => s.onAcc id fun x => { x with stage := .back, res := .err 0x31 }
    | some p =>
      let (oid, s) := s.fresh
      (s.onAcc id fun x => { x with stage := .away }).enqueueSend p
        { id := oid, core := a.core, task := a.task, job := 0, kind := .trans id, peer := g, pown := w, gen := 0, blks := [],
          bytes := 64, sent := 0, sync := none }
  | l =>
    if a.agent = .station then
      let b : Blk := match a.op with
        | .wblk _ _ b => b
        | _ => Blk.zero
      (s.onAcc id fun x => { x with stage := .away }).enterModule (linkKey (a.core / 24) a.pc) false [.deposit id b]
    else if s.isLocal a then (s.onAcc id fun x => { x with stage := .arrived }).arrive id a
    else
      let m := dieOf a.core
      let dest := mortOf s.placing l
      (s.onAcc id fun x => { x with stage := .away }).enterModule (linkKey m (strandTo m dest)) true
        ((parcelsOf id false (a.rows false) dest).flatMap s.unitsOf)

/-- The completion of a remote access sets out from where it was performed, through the module of that mortise. -/
def State.reply (s : State) (id : Nat) (a : Access) : State :=
  let m := mortOf s.placing a.loc
  let die := dieOf a.core
  let s := s.onAcc id fun x => { x with stage := .returning }
  s.enterModule (linkKey m (strandTo m die)) true ((parcelsOf id true (a.rows true) die).flatMap s.unitsOf)

/-- In warn mode the value block that a `fup` reads as it leaves its queue counts a warning (R100, R362). -/
def State.warnLaden (s : State) (a : Access) : State :=
  match a.op with
  | .fup o _ => if (s.coreAt a.core).cr.spwarn then s.warnAt a.core (.scr a.core o) 64 else s
  | _ => s

/-- A release move of access id: it leaves its queue if nothing holds it back, acts at its point of coherence, or sends
its completion home. -/
def State.release (s : State) (id : Nat) : State :=
  match s.accAt id with
  | none => s
  | some a => match a.stage with
    | .queued => if s.isHeld id a then s
      else ((s.warnLaden a).onAcc id fun x => { x with op := s.laden a }).depart id { a with op := s.laden a }
    | .arrived => s.arrive id a
    | .performed => if s.isLocal a ∨ s.beat < a.due then s else s.reply id a
    | _ => s

/-! ## Completion -/

/-- A fault of a tailed task whose core has another task by now: it stands in the core's history at its place, as reported, where
that task has written no entry (R58, R448, log 146). -/
def Core.noteTailed (c : Core) (e : Hist) : Core :=
  if e.seq % 64 < c.tr.hcount then c
  else { c with tr := { c.tr with hist := mset Hist.rest c.tr.hist (e.seq % 64) { e with reported := true } } }

/-- A negative completion of a posted access of a task (R58, R448): kept in its core's history; of a tailed task, kept to end it
failed; of a task that has ended, discarded (R459). -/
def State.postedFault (s : State) (n task h src ix : Nat) (e : Hist) : State :=
  if (s.coreAt n).pl.task = some task then s.markNeg n h src ix e.cause
  else if (s.taskAt task).isNone then s
  else
    let s := if (s.coreAt n).pl.task.isNone then s.markNeg n h src ix e.cause else s.onCore n fun c => c.noteTailed e
    s.onTask task fun t => if t.bad.isSome then t else { t with bad := some (e.cause, e.word0, e.word1) }

/-- A held fault takes its place, earliest issued first (R447). -/
def insertHeld (h : Held) : List Held → List Held
  | [] => [h]
  | x :: t => if h.ix < x.ix then h :: x :: t else x :: insertHeld h t

/-- A value reaches register d of core n's C stream (R25, R183). -/
def Core.landReg (c : Core) (d : Nat) (v : Word) : Core :=
  if d = 0 then c else { c with c := { c.c with regs := mset 0 c.c.regs d v } }

/-- The completion of an access of C whose task is still there (R258, R260, R275, R278). A watch whose block cannot be read leaves an entry
with cause 0 (log 192). -/
def State.cDone (s : State) (id : Nat) (a : Access) : State :=
  let n := a.core
  let s := s.onCore n fun c => { c with cr := { c.cr with fflags := c.cr.fflags ||| a.flags } }
  let wait (f : CWait → CWait) : State :=
    s.onCore n fun c => { c with c := { c.c with cwait := c.c.cwait.map fun w => if w.acc = id then f w else w } }
  match a.op, a.res with
  | .waddr _ _ _ (some q), .val v => s.pushWake n q v
  | .waddr _ _ _ (some q), _ => s.pushWake n q (watchEntry false a.va)
  | .waddr _ _ _ none, .err c => wait fun w => { w with fault := some (c, a.va) }
  | .sqwait _, .err c => wait fun w => { w with fault := some (c, a.va) }
  | .waddr _ _ _ none, .val v => wait fun w => { w with value := some v }
  | .sqwait _, _ => wait fun w => { w with value := some 0 }
  | .fill _, .vec v =>
    s.onCore n fun c => { c with ve := { c.ve with v := mset Vec.zero c.ve.v (a.dst - 64) v } }
  | op, .err c =>
    if a.lq then s.onCore n fun k => { k with c := { k.c with held := insertHeld ⟨a.ix, c, a.va, a.pc, a.dst⟩ k.c.held } }
    else match op with
      | .spill _ _ => s
      | _ => s.markNeg n a.hist 0 a.six c
  | _, .val v => if a.lq then s.onCore n fun c => c.landReg a.dst v else s
  | _, _ => s

/-- The completion of an access of a peer package (R168): the response goes to the port that reaches it, with 64 bytes of its quota (log
174). -/
def State.peerDone (s : State) (id : Nat) (a : Access) : State :=
  match s.portTo a.core with
  | none => s.setAcc id none
  | some p =>
    let (oid, s) := s.fresh
    (s.onAcc id fun x => { x with stage := .returning }).enqueueSend p
      { id := oid, core := a.core, task := 0, job := 0, kind := .trans id, peer := a.core, pown := 0, gen := 0, blks := [],
        bytes := 64, sent := 0, sync := none }

/-- The step of a job of core n. -/
def State.jobStep (s : State) (n id : Nat) : Nat := ((s.jobAt n id).map fun j => j.step.toNat).getD 0

/-- The result code of a write (R333). -/
def Access.code (a : Access) : Nat :=
  match a.res with
  | .err c => if a.part ≠ 0 then a.part else if c = 0x07 ∨ c = 0x08 then 2 else 1
  | _ => 0
/-- A peer is told how a block of a send, or a write-with-enqueue, ended (R134, R169, R170, log 163). -/
def State.tellPeer (s : State) (a : Access) : State :=
  { s with circ := { s.circ with told := s.circ.told ++ [⟨a.core, a.dst, a.issue, a.va, a.code⟩] } }

/-- A complete access leaves its result with its issuer. -/
def State.complete (s : State) (id : Nat) (a : Access) : State :=
  let n := a.core
  match a.agent with
  | .peer =>
    if a.job = 0 then s.peerDone id a
    else if a.hist ≠ 0 then (s.setAcc id none).enqNext a.hist
    else (s.setAcc id none).tellPeer a
  | .host => (s.setAcc id none).hostDone a
  | .station => (s.setAcc id none).stationDone a
  | .optical => (s.setAcc id none).collDone a
  | .c =>
    let s := s.setAcc id none
    if (s.coreAt n).pl.task = some a.task then s.cDone id a
    else match a.res with
      | .err c => s.postedFault n a.task a.hist 0 a.six ⟨a.issue, 0, a.pc, c, false, true, a.va, a.six, a.hist⟩
      | _ => s
  | .l =>
    let s := s.setAcc id none
    match a.res with
    | .blk b => s.onJob n a.job fun j => { j with work := j.work.takeBlk a.part b }
    | .err c => match s.jobAt n a.job with
      | some j => s.loadFault n j c a.va
      | none => s
    | _ => s
  | .s =>
    let s := s.setAcc id none
    match a.res with
    | .err c => s.postedFault n a.task a.hist 1 0 ⟨a.issue, 1, s.jobStep n a.job, c, false, true, a.va, 0, a.hist⟩
    | _ => s
  | .x =>
    let s := s.setAcc id none
    match a.op with
    | .rblk => s.xRead n a.job a.part a.va a.res
    | _ => s.xWrote n a.job a.part a.res a.flags
  | _ => s.setAcc id none

/-- ACCESS_COMPLETION (R258, R287, R331, R332): the completion of an access has come back -/
def execAccessCompletion (id : Nat) (s : State) : Out :=
  match s.accAt id with
  | some a =>
    if a.stage == .back || (a.stage == .performed && s.isLocal a && decide (a.due ≤ s.beat)) then .next (s.complete id a) else .next s
  | none => .next s

/-- An access leaves the queues of the banks, and is performed. -/
def State.serveNow (s : State) (id : Nat) : State :=
  let s := s.onMem fun m =>
    { m with bankq := m.bankq.map (fun e => (e.1, e.2.filter (· != id))) |>.filter fun e => e.2 != [] }
  (s.perform id).countLanding id

/-- An access that has to be performed on this beat is performed at its point of coherence, behind what stands before it in its bank's
queue, which goes with it; one that a module keeps back cannot be (R103, R143, R390, log 151). -/
def State.force (s : State) (id : Nat) (a : Access) : State :=
  if a.done ∨ a.stage = .back then s
  else if !(s.moduleAt (linkKey (a.core / 24) a.pc)).open_ then s.linkFail id
  else
    let ahead := (a.banks.flatMap fun k => (mget [] s.mem.bankq k).takeWhile (· != id)).eraseDups
    ((ahead.foldl State.serveNow s).enterWq a.loc 0 a.wqBlks).serveNow id

/-- The deposits of 31 beats ago are performed by the end of this beat, in their order, and their flags know what was refused
(R143, R146, log 151). -/
def State.forceDeposits (s : State) : State :=
  (s.accs.filterMap fun e => match e.2 with
    | some a => if a.agent = .station ∧ a.epoch + 31 ≤ s.beat then some e.1 else none
    | none => none).foldl (fun t id => match t.accAt id with
      | some a =>
        let u := t.force id a
        match u.accAt id with
        | some b => u.complete id b
        | none => u
      | none => t) s

/-- The writes of an A micro-order that is due. One whose push cannot be made stops A at its step (R292, R294, log 158). -/
def State.aEnd (s : State) (n : Nat) (j : Job) (ws : List AWrite) : State :=
  let c := s.coreAt n
  if c.pl.task ≠ some j.task then s.endJob n j
  else
    (s.onCore n fun c =>
      let k := ws.foldl (fun k w => k.aWrite w) c
      match ws.findSome? c.pushFault with
      | some f => k.stopEng .a (.of f) j.step j.step j.word s.beat
      | none => k).endJob n j

/-- A job that is ready completes. -/
def State.finishJob (s : State) (n : Nat) (j : Job) : State :=
  match j.eng, j.work with
  | .a, .arith ws => if j.due ≤ s.beat then s.aEnd n j ws else s
  | .m, _ => if s.mReady n j then s.mEnd n j else s
  | .x, .copy x =>
    if s.xReady n j x then
      if (s.coreAt n).pl.task ≠ some j.task then
        if x.code = 0 ∨ dNotify x.desc then s.dropJob n j.id
        else (s.dropJob n j.id).postedFault n j.task j.hist 2 j.ix
          ⟨x.issue, 2, j.step.toNat, x.cause, false, true, x.dst.addr + dDstOff x.desc, j.ix, j.hist⟩
      else s.xEnd n j x
    else s
  | _, _ => if s.lsReady n j then s.lEnd n j else s

/-- ENGINE_COMPLETION (R126, R182, R287, R316, R332): a micro-order of a core completes. What has landed on this beat is
counted before a copy completes (R110). -/
def execEngineCompletion (core job : Nat) (s : State) : Out :=
  match s.jobAt core job with
  | some j => if j.eng == .x && s.mem.landed != [] then .next s else .next (s.finishJob core j)
  | none => .next s

end Sys2Proof.Machine
end

