-- ==== Sys2Proof/Machine/Tasks.lean ====
section
/-!
DEFINITION. Images, the timetables of the dies, frames, placement, the overlay loader and the end of tasks
(01_machine.md R39; 02_execution.md R40 to R58; 09_assembly.md R207; 19_drv_launch.md R424 to R427; 20_drv_traps.md R438; 21_fleet.md R467): the meanings
of TIMETABLE_POST, COUNTER_REPORT, RELEASE_TICK, PLACEMENT, OVERLAY_LOAD_DONE, FRAME_BARRIER, POWER_HOLD_END,
DEADLINE_PASSED and TASK_RETIRE.
-/

namespace Sys2Proof.Machine

/-! ## Images (R207, R424) -/

/-- n bytes of HBM from a physical address, read under owner 0's key. -/
def State.hbmBytes (s : State) (p n : Nat) : List Byte :=
  (upFrom p n).map fun a => (s.mem.blkUnder (s.keyOf 0) (a / 64)).byte (a % 64)
/-- n bytes of HBM as a little-endian number. -/
def State.hbmNat (s : State) (p n : Nat) : Nat := leNat (s.hbmBytes p n)
/-- A block of HBM that a read of these bytes needs is uncorrectable. -/
def State.hbmBad (s : State) (p n : Nat) : Bool := (upFrom (p / 64) ((p % 64 + n + 63) / 64)).any (mget false s.mem.bad)

/-- The first such block is counted (R464). -/
def State.countHbm (s : State) (p n : Nat) : State :=
  match s.mem.bad.find? fun e => decide (p / 64 ≤ e.1) && decide (e.1 < (p + n + 63) / 64) with
  | some e => s.countUncorr (.hbm (64 * e.1))
  | none => s

/-- The fields of an image header that its parts are found by. -/
structure ImgHead where
  needs : Nat
  checked : Bool
  nwords : Nat
  norders : Nat
  nestmask : Nat
  scratch : Nat
  dataaddr : Nat
  datalen : Nat
  reserved : Bool
  deriving DecidableEq, Repr

/-- The header of the image at a physical address; reserved tells that its fixed fields are as R207 gives. -/
def State.imgHead (s : State) (p : Nat) : ImgHead :=
  let f (o n : Nat) : Nat := s.hbmNat (p + o) n
  { needs := f 0x08 8, checked := f 0x10 8 % 2 == 1, nwords := f 0x1A 2, norders := f 0x1C 4, nestmask := f 0x24 2,
    scratch := f 0x20 4, dataaddr := f 0x28 8, datalen := f 0x30 8,
    reserved := f 0x00 4 == 0x444C4948 && f 0x04 4 == 0 && f 0x10 8 / 2 == 0 && f 0x18 2 == 0 && f 0x26 2 == 0 && f 0x38 8 == 0 }

/-- A length rounded up to whole blocks. -/
def roundBlk (n : Nat) : Nat := (n + 63) / 64 * 64
/-- The nest sets that an image presets. -/
def ImgHead.nestList (h : ImgHead) : List Nat := (List.range 16).filter fun k => h.nestmask / 2 ^ k % 2 == 1
/-- Where the micro-order words, the nest sets, the data and the tags of an image start, and its end (R207). -/
def ImgHead.ordersAt (h : ImgHead) : Nat := 64 + roundBlk (4 * h.nwords)
/-- The nest sets. -/
def ImgHead.nestsAt (h : ImgHead) : Nat := h.ordersAt + roundBlk (4 * h.norders)
/-- The data. -/
def ImgHead.dataAt (h : ImgHead) : Nat := h.nestsAt + roundBlk (32 * h.nestList.length)
/-- The tags. -/
def ImgHead.tagsAt (h : ImgHead) : Nat := h.dataAt + roundBlk h.datalen
/-- The end of the last section, whose 64-byte boundary counts even where it is empty (log 86). -/
def ImgHead.endAt (h : ImgHead) : Nat := h.tagsAt + 2 * ((h.datalen + 63) / 64)

/-- The words of a section, as the sparse memory they fill. -/
def State.imgWords (s : State) (p n : Nat) : SMap W32 :=
  (List.range n).filterMap fun i =>
    let w : W32 := BitVec.ofNat 32 (s.hbmNat (p + 4 * i) 4)
    if w = 0 then none else some (i, w)

/-- The header of an image agrees with R207. -/
def ImgHead.ok (h : ImgHead) : Bool :=
  h.reserved && decide (h.nwords ≤ 16384) && decide (h.norders ≤ 8192) && h.scratch % 4096 == 0 &&
    decide (h.scratch ≤ 2 ^ 22) && decide (h.dataaddr < 2 ^ 52)

/-! ## Ticks and stretches (R44, R45, R55) -/

/-- The package is at or past a tick. -/
def Frame.passed (f : Frame) (fr off : Nat) : Bool := decide (fr < f.fno) || (fr == f.fno && decide (off ≤ f.fofs))

/-- A task is placed on a core, or tailed or draining there. -/
def Task.placed (t : Task) : Bool := t.st == .running || t.st == .tailed || t.st == .draining

/-- The late tasks of the package. -/
def State.lateTasks (s : State) : List Nat :=
  (s.tasks.filter fun e => match e.2 with
    | some t => t.late && t.placed
    | none => false).map Prod.fst

/-- The stretch bit as the machine now stands: a late task, a power hold, or a critical temperature (R45, R55, R467,
R468). -/
def State.stretchNow (s : State) : Bool := s.lateTasks != [] || (decide (0 < s.frame.hold) && !s.frame.ending) || s.fleet.tstate == 2
/-- The stretch bit brought up to date. -/
def State.restretch (s : State) : State := { s with frame := { s.frame with stretch := s.stretchNow } }

/-! ## Posting (R41 to R43, R46) -/

/-- The conditions of a descriptor for an owner, each with its place; core: the poster's, whose local window it may name
(R41, R46). None where an address does not lead to a readable place. -/
def State.descCondsOf (s : State) (owner : Nat) (core : Option Nat) (ws : List Word) : Nat → Option (List Cond)
  | 0 => some []
  | k + 1 => match s.descCondsOf owner core ws k with
    | none => none
    | some l =>
      let va := (ws.getD (8 + 2 * k) 0).toNat
      let th := ws.getD (9 + 2 * k) 0
      if va % 8 ≠ 0 ∨ 2 ^ 52 ≤ va then none
      else match core with
        | some n =>
          if va < 2 ^ 22 then some (l ++ [⟨va, .scr n va, th, 0⟩])
          else match s.translate owner va .read with
            | .ok h => some (l ++ [⟨va, h.loc, th, h.pin⟩])
            | .error _ => none
        | none => match s.translate owner va .read with
          | .ok h => some (l ++ [⟨va, h.loc, th, h.pin⟩])
          | .error _ => none

/-- The reserved fields of a descriptor are zero and its other fields are as R42 asks. -/
def descFieldsOk (ws : List Word) : Bool :=
  let w (i : Nat) : Word := ws.getD i 0
  bitsOf (w 2) 52 12 == 0 && bitsOf (w 2) 20 12 == 0 && bitsOf (w 3) 52 5 == 0 && bitsOf (w 3) 24 8 == 0 &&
    bitsOf (w 4) 32 32 == 0 && bitsOf (w 5) 52 12 == 0 && w 6 == 0 && w 7 == 0 && decide (descConds ws ≤ 4) &&
    bitsOf (w 3) 0 24 != 0 &&
    (!(w 3).getLsbD 63 || decide ((w 0).toNat < (w 1).toNat) ||
      (w 0 == w 1 && decide (bitsOf (w 2) 0 20 ≤ bitsOf (w 2) 32 20)))

/-- The entry that a descriptor makes in a row of a die (R41 to R43): n is the poster's core, 192 for the management window. Where
four posts were accepted on the beat, it is one of the next beat's. -/
def State.entryOf (s : State) (die : Nat) (ws : List Word) (owner n row : Nat) (cs : List Cond) (slice : Nat) (box : Option Nat) :
    Task :=
  let w (i : Nat) : Word := ws.getD i 0
  let d := s.dieAt die
  { owner := owner, image := bitsOf (w 4) 0 32, argbase := w64 (bitsOf (w 5) 0 52), rframe := (w 0).toNat,
    roffset := bitsOf (w 2) 0 20, dl := (w 3).getLsbD 63, dframe := (w 1).toNat, doffset := bitsOf (w 2) 32 20,
    die := die, conds := cs, rdepth := bitsOf (w 3) 32 20, mask := (w 3).extractLsb' 0 24,
    order := ((s.beat + d.posts / 4) * 256 + n) * 8 + d.posts % 4, st := .pending, row := some row, lastRow := row, core := none,
    chain := s.circ.pkg % 4096 * 2 ^ 32 + die * 2 ^ 29 + (d.accepted + 1) % 2 ^ 29, depth := 0, groups := [], arrived := [],
    slot := none, slotWait := none, eval := none, answered := false, late := false, held := 0, due := 0,
    slice := slice, box := box, bad := none }

/-- What the lookup of the first condition that leads nowhere leaves behind (R414, R464). -/
def State.noteConds (s : State) (owner : Nat) (core : Option Nat) (ws : List Word) (k : Nat) : State :=
  match (List.range k).find? fun i => (s.descCondsOf owner core ws (i + 1)).isNone with
  | some i =>
    let va := (ws.getD (8 + 2 * i) 0).toNat
    if va % 8 ≠ 0 ∨ 2 ^ 52 ≤ va then s else s.noteLookup owner va
  | none => s

/-- The result of offering a descriptor to the timetable of a die, and what it leaves: for an owner, from a core or the
management window, in a slice, from the mailbox of a core (R41 to R43, R176, R426). Among the posts of one beat a mailbox's launch takes
the number of its core and a launch packet's post the window's 192 (log 4). -/
def State.offerDesc (s : State) (die : Nat) (ws : List Word) (owner : Nat) (core : Option Nat) (slice : Nat) (box : Option Nat) :
    Word × State :=
  let w (i : Nat) : Word := ws.getD i 0
  match s.freeRow die with
  | none => (neg64 1, s)
  | some r =>
    match s.descCondsOf owner core ws (min 4 (descConds ws)) with
    | none => (neg64 2, s.noteConds owner core ws (min 4 (descConds ws)))
    | some cs =>
      if !descFieldsOk ws then (neg64 2, s)
      else if !s.imageFor (bitsOf (w 4) 0 32) owner then (neg64 3, s)
      else
        let x := s.entryOf die ws owner (core.getD (box.getD 192)) r cs slice box
        let (t, s) := s.fresh
        let s := (s.addPins ((cs.map Cond.pin).filter (· != 0))).setTask t (some x)
        (w64 r, s.onDie die fun d => { d with accepted := d.accepted + 1 })

/-- A descriptor offered, as one of the timetable's posts of the beat (R43). -/
def State.postDesc (s : State) (die : Nat) (ws : List Word) (owner : Nat) (core : Option Nat) (slice : Nat) (box : Option Nat) :
    Word × State :=
  let r := s.offerDesc die ws owner core slice box
  (r.1, r.2.onDie die fun d => { d with posts := d.posts + 1 })

/-- TIMETABLE_POST (R42, R43, R366): a post that has arrived is accepted or refused; a fifth on one beat waits -/
def execTimetablePost (id : Nat) (s : State) : Out :=
  match s.accAt id with
  | some a => match a.op with
    | .post die ws =>
      if a.stage == .arrived && decide ((s.dieAt die).posts < 4) then
        let r := s.postDesc die ws a.owner (some a.core) 0 none
        .next (r.2.finish id (.val r.1))
      else .next s
    | _ => .next s
  | none => .next s

/-! ## Readiness (R44 to R47) -/

/-- Every condition of a task is met: a counter whose block is uncorrectable or badly tagged meets none (R46, R69, log 38). -/
def State.condsMet (s : State) (t : Task) : Bool :=
  t.conds.all fun c => (s.pocFault c.loc).isNone && decide (c.thresh.toNat ≤ s.wordAt t.owner c.loc 8)
/-- A look at the counters of a task counts those that cannot be corrected (R464). -/
def State.condLooks (s : State) (t : Task) : State :=
  t.conds.foldl (fun u c => match u.pocFault c.loc with
    | some f => u.countBad f c.loc
    | none => u) s

/-- A waiting entry is evaluated (R46, R47). A pre-empted evaluator that is ready takes the place among the evaluators that it
had by its arrival (R40, R48); tasks are numbered as they arrive. -/
def State.evaluate (s : State) (id : Nat) : State :=
  match s.taskAt id with
  | some t =>
    if t.st != .waiting then s
    else if s.condsMet t then
      let s := s.onTask id fun x => { x with st := .ready }
      if t.eval.isSome then s.onDie t.die fun d => { d with evalq := insertUp id d.evalq } else s
    else s.condLooks t
  | none => s

/-- The release tick of a pending entry passes (R44 to R46): an entry without conditions is ready a beat later. -/
def State.releaseEntry (s : State) (id : Nat) : State :=
  match s.taskAt id with
  | some t =>
    let s := s.onTask id fun x => { x with st := .waiting }
    if t.conds = [] then s.onDie t.die fun d => { d with reports := d.reports ++ [(id, s.beat + 1)] } else s.evaluate id
  | none => s

/-- The beat on which an entry was accepted, as its place in the order of posts says (R43). -/
def Task.accepted (t : Task) : Nat := t.order / 2048

/-- The entries of a die, accepted by now, that are released on this beat, outside a stretch (R43, R45). A pre-empted evaluator is released so
too, though stretches do not delay its placement (log 188). -/
def State.releasable (s : State) (die : Nat) : List Nat :=
  if s.frame.stretch then []
  else (s.tasks.filter fun e => match e.2 with
    | some t => t.die == die && t.st == .pending && decide (t.accepted ≤ s.beat) && s.frame.passed t.rframe t.roffset
    | none => false).map Prod.fst

/-- RELEASE_TICK (R44, R45): release ticks that have passed -/
def execReleaseTick (die : Nat) (s : State) : Out := .next ((s.releasable die).foldl State.releaseEntry s)

/-- COUNTER_REPORT (R46, R47): the reports that are due at a die -/
def execCounterReport (die : Nat) (s : State) : Out :=
  let due := (s.dieAt die).reports.filter fun e => decide (e.2 ≤ s.beat)
  .next ((due.map Prod.fst).foldl State.evaluate
    (s.onDie die fun d => { d with reports := d.reports.filter fun e => !decide (e.2 ≤ s.beat) }))

/-! ## Placement (R39, R48 to R50, R178, R427, R453, R458) -/

/-- A core is free for placement (R48). -/
def State.coreFree (s : State) (n : Nat) : Bool := (s.coreAt n).pl.phase == .free && (s.coreAt n).pl.task.isNone

/-- Die-local core k is reserved for evaluators (R49). -/
def Die.reserved (d : Die) (k : Nat) : Bool := decide (24 ≤ k + d.reserve)

/-- The core that an evaluator of a die takes (R49). -/
def State.evalCore (s : State) (die : Nat) (e : EvalFor) : Option Nat :=
  let ks := match e.quad with
    | some q => upFrom (4 * q) 4
    | none => if (s.dieAt die).reserve = 0 then List.range 24 else (List.range 24).filter (s.dieAt die).reserved
  (ks.map (24 * die + ·)).find? s.coreFree

/-- The core that an ordinary entry of a die takes (R48). -/
def State.entryCore (s : State) (t : Task) : Option Nat :=
  (((List.range 24).filter fun k => t.mask.getLsbD k && !(s.dieAt t.die).reserved k).map (24 * t.die + ·)).find? s.coreFree

/-- Entry a comes before entry b in the order of R48. -/
def Task.before (a b : Task) : Bool :=
  decide (a.rframe < b.rframe) || (a.rframe == b.rframe && (decide (a.roffset < b.roffset) ||
    (a.roffset == b.roffset && decide (a.order < b.order))))

/-- The first ready entry of a die, in that order, with a core to take; held slices are passed over (R48, R435). -/
def State.firstEntry (s : State) (die : Nat) : Option (Nat × Nat × Task) :=
  s.tasks.foldl (fun best e => match e.2 with
    | some t =>
      if t.die == die && t.st == .ready && t.eval.isNone && !(t.slice != 0 && s.node.aside.contains t.slice) then
        match s.entryCore t with
        | none => best
        | some n => match best with
          | some b => if t.before b.2.2 then some (e.1, n, t) else best
          | none => some (e.1, n, t)
      else best
    | none => best) none

/-- Task t asks for a context slot: the lowest free one, or its turn behind those that wait (R453). -/
def State.askSlot (s : State) (t : Nat) : State :=
  match s.taskAt t with
  | none => s
  | some x =>
    if x.slot.isSome || x.slotWait.isSome then s
    else match if (s.slotTaker x.die).isSome then none else s.freeCtxSlot x.die with
      | some k => s.takeSlot t k
      | none =>
        (s.onTask t fun y => { y with slotWait := some (s.dieAt x.die).slotOrder }).onDie x.die fun d =>
          { d with slotOrder := d.slotOrder + 1 }

/-- The commit field of the slot header at an address (R454). -/
def State.slotCommit (s : State) (a : Nat) : Nat := s.hbmNat a 8 / 2 ^ 62
/-- The committed buffer of a task's slot, if it has one. -/
def State.committed (s : State) (t : Task) : Option Nat :=
  match t.slot with
  | none => none
  | some k =>
    let a := (s.dieAt t.die).slotAddr k
    match s.slotCommit a with
    | 1 => some 0
    | 2 => some 1
    | _ => none

/-- Buffer b of a slot. -/
def Slot.buf (x : Slot) (b : Nat) : Option Core := if b = 0 then x.buf0 else x.buf1

/-- The beats in which the committed buffer of a task is read, at 256 bytes a beat: all sections of R455, and of the tiles those
that it holds (R35, R458). -/
def State.restoreBeats (s : State) (t : Task) : Nat :=
  match (mget Slot.rest (s.dieAt t.die).slots (t.slot.getD 0)).buf ((s.committed t).getD 0) with
  | none => 0
  | some c => (0x675000 - 0x40000 * ((List.range 8).filter fun i => !c.pl.saveMask.getLsbD i).length + 255) / 256

/-- The core state that a placement makes (R39, R253): what the mailbox holds, issue numbers, and what a tailed task
still has in flight stay. The eight words of a descriptor fill the mailbox of an evaluator (R178, log 183: what the host had written into
it is then lost); a resumed one finds the mailbox as it is. -/
def Core.place (c : Core) (t : Nat) (x : Task) (beat due : Nat) (ph : Phase) : Core :=
  { c with
    c := { Ctl.rest with issues := c.c.issues, ready := due, regs := mset 0 (mset 0 [] 1 x.argbase) 2 (w64 x.image) }
    ch := { ChanState.rest with
            mail := match x.eval, ph with
              | some e, .loading => (List.range 8).map fun i => e.descr.word i
              | _, _ => c.ch.mail
            drops := c.ch.drops, lres := c.ch.lres }
    cr := Ctrls.rest
    tr := TrapState.rest
    ve := { Vecs.rest with old := c.ve.old, jobs := c.ve.jobs }
    mx := { Mat.rest with retire := beat }
    pl := { Place.rest with task := some t, phase := ph, due := due, tailed := c.pl.tailed } }

/-- Task t is placed on core n (R39, R48, R55, R427, R453, R458); its conditions are pinned no longer (R42), and a barrier that
it held open may complete (R61). -/
def State.placeTask (s : State) (t n : Nat) : State :=
  match s.taskAt t with
  | none => s
  | some x =>
    let s := s.dropPins ((x.conds.map Cond.pin).filter (· != 0))
    let s := (s.dropTiles n).onMem fun m => { m with valid := mclear m.valid (storeAddr (.scr n 0) / 4) (2 ^ 20) }
    let s := s.onTask t fun y =>
      { y with st := .running, core := some n, lastRow := y.row.getD y.lastRow, row := none
               late := y.late || (y.dl && s.frame.passed y.dframe (min y.doffset (s.frame.len - 1))) }
    let s := match x.slot with
      | some k => s.countHbm ((s.dieAt x.die).slotAddr k) 8
      | none => s
    if let some b := s.committed x then
      let dog := (((mget Slot.rest (s.dieAt x.die).slots (x.slot.getD 0)).buf b).map fun c => c.pl.dog).getD Dog.rest
      let s := s.onCore n fun c =>
        let k := c.place t x s.beat (s.beat + s.restoreBeats x) .restoring
        { k with pl := { k.pl with dog := { dog with stall := 0, warnedStall := false } } }
      x.groups.foldl (fun u h => u.tryBarrier (handleId h)) s
    else
      let h := s.imgHead (((mget none s.images x.image).map Image.addr).getD 0)
      let due := s.beat + 64 + (4 * h.nwords + 4 * h.norders + 32 * h.nestList.length + 255) / 256
      let s := s.onCore n fun c => c.place t x s.beat due .loading
      if (s.dieAt (dieOf n)).incr then s.askSlot t else s

/-- PLACEMENT (R48, R49): on a beat a die places at most one task, evaluators first -/
def execPlacement (die : Nat) (s : State) : Out :=
  let ev : Option (Nat × Nat) := match (s.dieAt die).evalq with
    | [] => none
    | t :: _ => match (s.taskAt t).bind Task.eval with
      | some e => (s.evalCore die e).map fun n => (t, n)
      | none => none
  match ev with
  | some (t, n) => .next ((s.onDie die fun d => { d with evalq := d.evalq.drop 1 }).placeTask t n).restretch
  | none =>
    if s.frame.stretch then .next s
    else match s.firstEntry die with
      | some (t, n, _) => .next (s.placeTask t n).restretch
      | none => .next s

/-- A failed read of the loader or of a restore (R427, R450, R458). -/
def State.loadFailed (s : State) (n : Nat) : State := (s.logTrap n 6 0 0x59 [0, 0, 0, 0, 0]).failTask n

/-- OVERLAY_LOAD_DONE (R39, R50, R207, R427): the memories, nest sets and the reservation are in place, and C issues -/
def execOverlayLoadDone (core : Nat) (s : State) : Out :=
  let c := s.coreAt core
  match c.pl.task.bind s.taskAt with
  | none => .next s
  | some x =>
    if c.pl.phase != .loading || decide (s.beat + 1 < c.pl.due) then .next s
    else
      let p := ((mget none s.images x.image).map Image.addr).getD 0
      let h := s.imgHead p
      if s.hbmBad p h.dataAt then .next ((s.countHbm p h.dataAt).loadFailed core)
      else
        let nest (i k : Nat) : BitVec 256 × Nat := (BitVec.ofNat 256 (s.hbmNat (p + h.nestsAt + 32 * i) 32), k)
        let ns := ((List.range h.nestList.length).zip h.nestList).map fun e => nest e.1 e.2
        let s := s.setCore core { c with
          c := { c.c with ready := c.pl.due }
          cr := { c.cr with tcheck := h.checked }
          ve := { c.ve with nests := ns.foldl (fun m e => mset 0 m e.2 e.1) c.ve.nests }
          pl := { c.pl with phase := .running, imem := s.imgWords (p + 64) h.nwords,
                            omem := s.imgWords (p + h.ordersAt) h.norders } }
        .next (if h.scratch = 0 then s else s.openRegion core 0 h.scratch)

/-! ## Frames (R44, R54, R55, R467) -/

/-- The beats of power hold of a frame of length len, after one that took energy e in n beats: e / n is its average power, and the limit is
counted in halves (R467). -/
def State.holdFor (s : State) (e n len : Nat) : Nat :=
  let limit := n * if s.fleet.tstate = 1 then s.fleet.plimit else 2 * s.fleet.plimit
  if 2 * e ≤ limit then 0 else min len ((len * (2 * e - limit) + limit - 1) / limit)

/-- FRAME_BARRIER (R54): from offset L - 1 on, the frame ends with the first beat on which no task is late -/
def execFrameBarrier (s : State) : Out :=
  if s.frame.fofs + 1 < s.frame.len ∨ s.lateTasks ≠ [] ∨ s.frame.ending then .next s
  else .next { s with frame := { s.frame with ending := true } }

/-- POWER_HOLD_END (R467): the beats of a hold have run out -/
def execPowerHoldEnd (s : State) : Out :=
  if s.frame.hold = 1 then .next { s with frame := { s.frame with hold := 0 } }.restretch else .next s

/-- DEADLINE_PASSED (R55): a placed task becomes late -/
def execDeadlinePassed (task : Nat) (s : State) : Out :=
  match s.taskAt task with
  | some t =>
    if t.dl && !t.late && t.placed && s.frame.passed t.dframe (min t.doffset (s.frame.len - 1)) then
      .next (s.onTask task fun x => { x with late := true }).restretch
    else .next s
  | none => .next s

/-! ## Retirement (R40, R57, R58) -/

/-- An access or a micro-order of a task is incomplete. -/
def State.taskBusy (s : State) (n t : Nat) : Bool :=
  (s.accs.any fun e => match e.2 with
    | some a => a.core == n && a.task == t && a.agent.stream
    | none => false) || (s.coreAt n).ve.jobs.any fun j => j.task == t

/-- The record of a fault that ended a tailed task (R58, R450). -/
def State.logTail (s : State) (n : Nat) (x : Task) (b : BitVec 8 × Word × Word) : State :=
  let r : List Word :=
    [ w64 s.beat, w64 (localOf n * 2 ^ 58 + x.owner * 2 ^ 54 + x.lastRow * 2 ^ 44 + x.chain),
      w64 (5 * 2 ^ 24 + b.1.toNat), 0, 0, b.2.2, b.2.1, 0 ]
  (s.onDie (dieOf n) fun d => { d with trap := d.trap.push r }).raiseMsix (2 + dieOf n)

/-- TASK_RETIRE (R40, R56 to R58): the last access of a tailed or draining task is complete -/
def execTaskRetire (task : Nat) (s : State) : Out :=
  match s.taskAt task with
  | some x => match x.core with
    | some n =>
      if s.taskBusy n task then .next s
      else match x.st with
        | .tailed =>
          let s := s.slipRecord task (if x.bad.isSome then 2 else 1)
          let s := match x.bad with
            | some b => s.logTail n x b
            | none => s
          let s := (s.freeSlot task).setTask task none
          .next (s.onCore n fun c => { c with pl := { c.pl with tailed := if c.pl.tailed = some task then none else c.pl.tailed } }).restretch
        | .draining =>
          let s := ((s.slipRecord task 0).releaseCore n).freeSlot task
          .next ((s.setTask task none).onCore n Core.freed).restretch
        | _ => .next s
    | none => .next s
  | none => .next s

/-! ## Mailboxes in launch mode (R425, R426) -/

/-- The mailbox of a core is in launch mode (R426). -/
def State.launchMode (s : State) (n : Nat) : Bool :=
  (s.coreAt n).pl.task.isNone && !(s.tasks.any fun e => match e.2 with
    | some t => t.box == some n && (t.st == .pending || t.st == .waiting || t.st == .ready)
    | none => false)

/-- A launch record: the entry that it asks for (R426). -/
def launchDesc (n : Nat) (w0 w1 : Word) : List Word :=
  [0, 0, 0, w64 (dieOf n * 2 ^ 60 + bitsOf w0 32 20 * 2 ^ 32 + 2 ^ localOf n), w64 (bitsOf w0 0 32), w64 (bitsOf w1 0 52)]

/-- The outcome of a launch record: the code of lres, and the state (R425, R426). -/
def State.launch (s : State) (n : Nat) (w0 w1 : Word) : Nat × State :=
  let owner := bitsOf w0 52 4
  let image := bitsOf w0 0 32
  if (s.freeRow (dieOf n)).isNone then (1, s)
  else if bitsOf w0 56 7 ≠ 0 ∨ bitsOf w1 52 12 ≠ 0 then (2, s)
  else if !(s.ownerAt owner).live then (5, s)
  else if !s.imageFor image owner then (3, s)
  else if (s.dieAt (dieOf n)).reserved (localOf n) then (4, s)
  else
    let r := s.postDesc (dieOf n) (launchDesc n w0 w1) owner none 0 (some n)
    (if r.1.toNat < 1024 then 0 else 2, r.2)

/-- The loop of R426, for at most a number of passes; a fifth post on a beat waits (R43). -/
def State.mailLoop (s : State) (n : Nat) : Nat → State
  | 0 => s
  | k + 1 =>
    if !s.launchMode n ∨ 4 ≤ (s.dieAt (dieOf n)).posts then s
    else match (s.coreAt n).ch.mail with
      | [] => s
      | w0 :: rest =>
        if !w0.getLsbD 63 then
          (s.onCore n fun c => { c with ch := { c.ch with mail := rest, drops := min 65535 (c.ch.drops + 1) } }).mailLoop n k
        else match rest with
          | [] => s
          | w1 :: more =>
            let r := s.launch n w0 w1
            (r.2.onCore n fun c => { c with ch := { c.ch with mail := more, lres := r.1 } }).mailLoop n k

end Sys2Proof.Machine
end

