-- ==== Sys2Proof/Machine/Contexts.lean ====
section
/-!
DEFINITION. Pre-emption, contexts, events and the watchdog (20_drv_traps.md R443 to R463; 08_timing.md R185 to R188;
14_ins_matrix_copy.md R326, R327): the meanings of PREEMPT_REQUEST, PREEMPT_CANCEL, DRIVER_INTERRUPT, EVENT_TAKEN,
PREEMPT_AT_RETIREMENT, CONTEXT_SAVE, SAVE_COMMIT, CONTEXT_SLOT_ACQUIRE, RESTORE_DONE, CHECKPOINT_WRITEBACK,
WATCHDOG_STALL, WATCHDOG_LATE and WATCHDOG_SAVE. A buffer lies in HBM by R455; what the sections of the device's own order
stand for is kept beside it.
-/

namespace Sys2Proof.Machine

/-! ## Requests (R326, R451 to R453) -/

/-- The task of core n has not left running (R452). -/
def Place.live (p : Place) : Bool := p.task.isSome && (p.phase == .loading || p.phase == .running || p.phase == .restoring)

/-- A pre-emption request for core n (R452, R453); without a task there it is ignored. -/
def State.requestPreempt (s : State) (n : Nat) : State :=
  if (s.coreAt n).pl.live then
    let s := s.onCore n fun c => { c with pl := { c.pl with preempt := true } }
    (s.askSlot (s.taskNo n)).gateNow n
  else s

/-- Every running task of a slice is asked to pre-empt (R435, R462); slice 0 is no slice. -/
def State.preemptSlice (s : State) (slice : Nat) : State :=
  s.tasks.foldl (fun t e => match e.2 with
    | some x => match x.core with
      | some n => if slice != 0 && x.slice == slice && (t.coreAt n).pl.task == some e.1 then t.requestPreempt n else t
      | none => t
    | none => t) s

/-- PREEMPT_REQUEST (R451, R452) -/
def execPreemptRequest (die core : Nat) (s : State) : Out :=
  if s.boot.state = 8 then .next (s.noService (0x100000 + 0x20000 * die + 0xC0)) else
  if 24 ≤ core then .next s
  else .next ((s.onDie die fun d => { d with reqCore := core }).requestPreempt (24 * die + core))

/-- PREEMPT_CANCEL (R451): a pending request is withdrawn -/
def execPreemptCancel (die core : Nat) (s : State) : Out :=
  if s.boot.state = 8 then .next (s.noService (0x100000 + 0x20000 * die + 0xC0)) else
  if 24 ≤ core then .next s
  else .next ((s.onDie die fun d => { d with reqCore := core }).onCore (24 * die + core) fun c =>
    if c.pl.preempt then { c with pl := { c.pl with preempt := false }, mx := { c.mx with gate := false } } else c)

/-- Events with one more; of one cause one is held, with the newest data. -/
def addEvent (l : List (BitVec 8 × Word)) (e : BitVec 8 × Word) : List (BitVec 8 × Word) := (l.filter fun x => x.1 != e.1) ++ [e]
/-- An event joins those that wait for core n's task. -/
def Core.raiseEvent (c : Core) (cause : BitVec 8) (data : Word) : Core :=
  { c with tr := { c.tr with events := addEvent c.tr.events (cause, data) } }

/-- DRIVER_INTERRUPT (R451): event 0x57 with the driver's data; without a task there it is ignored -/
def execDriverInterrupt (die core : Nat) (data : W32) (s : State) : Out :=
  if s.boot.state = 8 then .next (s.noService (0x100000 + 0x20000 * die + 0xC0)) else
  if 24 ≤ core then .next s
  else
    let s := s.onDie die fun d => { d with reqCore := core, req := data }
    .next (if (s.coreAt (24 * die + core)).pl.task.isSome then
      s.onCore (24 * die + core) fun c => c.raiseEvent 0x57 (data.setWidth 64) else s)

/-- EVENT_TAKEN (R185, R439, R443, R446, R447): behind an instruction that has issued, or in a stall that an event may end -/
def execEventTaken (core : Nat) (s : State) : Out :=
  let c := s.coreAt core
  match c.tr.events with
  | [] => .next s
  | e :: rest =>
    if c.pl.phase == .running && c.c.evOk && !c.c.hlevel then
      let s := (s.withdrawWait core).onCore core fun c => { c with tr := { c.tr with events := rest } }
      .next (s.enterTrap core ⟨4, 0, e.1, c.c.pc, 0, 0, 0, e.2, 0, none⟩)
    else .next s

/-- PREEMPT_AT_RETIREMENT (R326): the request is taken once M's micro-orders are complete -/
def execPreemptAtRetirement (core : Nat) (s : State) : Out :=
  let c := s.coreAt core
  if c.mx.gate && s.canPreempt core && c.pl.phase == .running && c.c.evOk && (c.jobsOf .m).isEmpty then
    .next ((s.withdrawWait core).beginSave core c.cr.mlive)
  else .next s

/-! ## The drain and the save (R179, R187, R253, R454 to R457) -/

/-- Loads of core n that wait on a cell leave its list (R179); the first waiter leaves the cell as it is. -/
def State.withdrawLoads (s : State) (n : Nat) : State :=
  s.accs.foldl (fun t e => match e.2 with
    | some a =>
      let load := a.agent.stream && a.core == n && a.task == t.taskNo n && a.stage == .parked && (match a.op with
        | .load _ _ => true
        | .rblk => true
        | _ => false)
      if load then
        let b := blkOf a.loc
        let q := (mget [] t.mem.cellq b)
        let q := if q.head? = some e.1 then 0 :: q.drop 1 else q.filter (· != e.1)
        let t := t.onMem fun m => { m with cellq := mset [] m.cellq b q }
        (t.unpark (pocOf t.placing a.loc) [e.1]).onAcc e.1 fun x => { x with stage := .withdrawn }
      else t
    | none => t) s

/-- Everything of core n's task is complete, but for loads withdrawn from cells, armed watches, and what a stopped X keeps
(R187, R345). -/
def State.drained (s : State) (n : Nat) : Bool :=
  let c := s.coreAt n
  let t := s.taskNo n
  let away (id : Nat) : Bool := s.accs.any fun e => match e.2 with
    | some a => a.core == n && a.agent.engine && a.job == id && a.stage == .withdrawn
    | none => false
  c.c.pend == [] && c.c.pushes == [] && !(s.accs.any fun e => match e.2 with
    | some a => a.core == n && a.task == t && a.stage != .withdrawn && a.agent.stream && (match a.op with
        | .waddr _ _ _ (some _) => false
        | _ => true)
    | none => false) && c.ve.jobs.all fun j => j.task != t || away j.id || ((c.eng .x).state == .stopped && s.xHalted n j)

/-- The first storage byte of core n's scratchpad. -/
def scrBase (n : Nat) : Nat := storeAddr (.scr n 0)

/-- Tiles that a live-tile mask does not name read zero after resumption (R35). -/
def Mat.keepTiles (m : Mat) (mask : BitVec 8) : Mat :=
  (List.range 8).foldl (fun k t => if mask.getLsbD t then k else k.clearTile t) m

/-- The context of core n. -/
def State.context (s : State) (n : Nat) : Ctx :=
  let c := s.coreAt n
  ⟨{ c with mx := c.mx.keepTiles c.pl.saveMask, ve := { c.ve with jobs := c.ve.jobs.filter fun j => some j.task == c.pl.task } },
    mslice s.mem.bytes (scrBase n) (2 ^ 22), mslice s.mem.tags (scrBase n / 64) (2 ^ 16),
    mslice s.mem.valid (scrBase n / 4) (2 ^ 20)⟩

/-- The dirty bits for it. -/
def Slot.clean (x : Slot) (b : Nat) : Clean := if b = 0 then x.clean0 else x.clean1
/-- That buffer and its dirty bits put in place. -/
def Slot.putBuf (x : Slot) (b : Nat) (c : Option Core) (k : Clean) : Slot :=
  if b = 0 then { x with buf0 := c, clean0 := k } else { x with buf1 := c, clean1 := k }

/-- The dirty bit of unit u is clear. -/
def Clean.has (k : Clean) (u : Nat) : Bool := k.whole != k.units.contains u
/-- The dirty bit of unit u becomes clear. -/
def Clean.clear (k : Clean) (u : Nat) : Clean :=
  { k with units := if k.whole then k.units.filter (· != u) else u :: k.units.filter (· != u) }
/-- The dirty bit of unit u becomes set. -/
def Clean.soil (k : Clean) (u : Nat) : Clean :=
  { k with units := if k.whole then u :: k.units.filter (· != u) else k.units.filter (· != u) }

/-! The units of R457: granule 0 to 1,023 of scratchpad data with its tags and valid bits; unit 1,024 + 64 t + i the piece i of
tile t; unit 1,536 + r the vector register r; units 1,592 to 1,599 the other sections of R455: the first, channels, nest
sets, weight tiles, guards, ports, instruction memory and order memory. -/

/-- The bytes of a unit in a buffer (R455). -/
def unitBytes (u : Nat) : Nat :=
  if u < 1024 then 4352 else if u < 1536 then 4096 else if u < 1592 then 264
  else [4096, 16384, 4096, 4096, 1600, 73728, 65536, 32768].getD (u - 1592) 0

/-- A unit of a core, from 1,024 on, written over the one in a buffer. -/
def Core.putUnit (old now : Core) (u : Nat) : Core :=
  if u < 1536 then
    let k := 1024 * (u - 1024)
    { old with mx := { old.mx with tiles := msplice old.mx.tiles k 1024 (mslice now.mx.tiles k 1024) } }
  else if u < 1592 then
    { old with ve := { old.ve with v := mset Vec.zero old.ve.v (u - 1536) (mget Vec.zero now.ve.v (u - 1536)) } }
  else match u - 1592 with
    | 0 => { now with
        ch := old.ch
        ve := { now.ve with v := old.ve.v, g := old.ve.g, nests := old.ve.nests, ins := old.ve.ins, outs := old.ve.outs }
        mx := { now.mx with tiles := old.mx.tiles, wtiles := old.mx.wtiles, wbuf := old.mx.wbuf }
        pl := { now.pl with imem := old.pl.imem, omem := old.pl.omem } }
    | 1 => { old with ch := now.ch }
    | 2 => { old with ve := { old.ve with nests := now.ve.nests } }
    | 3 => { old with mx := { old.mx with wtiles := now.mx.wtiles, wbuf := now.mx.wbuf } }
    | 4 => { old with ve := { old.ve with g := now.ve.g } }
    | 5 => { old with ve := { old.ve with ins := now.ve.ins, outs := now.ve.outs } }
    | 6 => { old with pl := { old.pl with imem := now.pl.imem } }
    | 7 => { old with pl := { old.pl with omem := now.pl.omem } }
    | _ => old

/-- A unit of a context written over the one in a buffer (R457). -/
def Ctx.putUnit (old now : Ctx) (u : Nat) : Ctx :=
  if u < 1024 then
    { old with bytes := msplice old.bytes (4096 * u) 4096 (mslice now.bytes (4096 * u) 4096)
               tags := msplice old.tags (64 * u) 64 (mslice now.tags (64 * u) 64)
               valid := msplice old.valid (1024 * u) 1024 (mslice now.valid (1024 * u) 1024) }
  else { old with core := old.core.putUnit now.core u }

/-- The dirty bit d[b] of a unit (R457). -/
def Slot.dirtyUnit (x : Slot) (b u : Nat) : Bool := !(x.clean b).has u

/-- The units of a core that a move has changed; the watchdog's counts are in no section of a buffer (R455, R457). -/
def Core.changed (c d : Core) : List Nat :=
  let c := { c with pl := { c.pl with dog := d.pl.dog } }
  if c == d then [] else (upFrom 1024 576).filter fun u => c.putUnit d u != c
/-- The granules of core n's scratchpad that a move has changed. -/
def Mem.changed (m k : Mem) (n : Nat) : List Nat :=
  let f (m : Mem) (g : Nat) := (mslice m.bytes (scrBase n + 4096 * g) 4096, mslice m.tags (scrBase n / 64 + 64 * g) 64,
    mslice m.valid (scrBase n / 4 + 1024 * g) 1024)
  if m.bytes == k.bytes && m.tags == k.tags && m.valid == k.valid then [] else (List.range 1024).filter fun g => f m g != f k g

/-- A unit of a tile that a live-tile mask does not name (R35, R456). -/
def deadUnit (mask : BitVec 8) (u : Nat) : Bool := decide (1024 ≤ u) && decide (u < 1536) && !mask.getLsbD ((u - 1024) / 64)

/-- The bytes of a list of units. -/
def unitsBytes (us : List Nat) : Nat := us.foldl (fun n u => n + unitBytes u) 0

/-- The units that a save into buffer b writes: the dirty ones, but for dead tiles (R456). -/
def Slot.saveUnits (x : Slot) (b : Nat) (mask : BitVec 8) : List Nat :=
  (List.range 1600).filter fun u => !deadUnit mask u && x.dirtyUnit b u

/-- The buffer that the next save writes: the one not named by commit, buffer 0 where none is (R456). -/
def State.openBuf (s : State) (a : Nat) : Nat := if s.slotCommit a = 1 then 1 else 0

/-- The task on core n, its slot, and the slot's address. -/
def State.slotOf (s : State) (n : Nat) : Option (Task × Nat × Nat) :=
  match s.taskAt (s.taskNo n) with
  | some x => match x.slot with
    | some k => some (x, k, (s.dieAt x.die).slotAddr k)
    | none => none
  | none => none

/-- Every unit that a move from s to t has changed of a running or draining task with a context slot has both dirty bits set (R457). -/
def State.soilUnits (s t : State) : State :=
  t.cores.foldl (fun u e => match t.slotOf e.1 with
    | some (x, k, _) =>
      let c := s.coreAt e.1
      let live := c.pl.phase == .running || c.pl.phase == .draining || (c.pl.phase == .saving && c.pl.saveBeat.isNone)
      if live && e.2.pl.saveBeat.isNone && c.pl.task == e.2.pl.task then
        let us := c.changed e.2 ++ s.mem.changed t.mem e.1
        let soil (y : Slot) : Slot := { y with clean0 := us.foldl Clean.soil y.clean0, clean1 := us.foldl Clean.soil y.clean1 }
        u.onDie x.die fun d => { d with slots := mmod Slot.rest d.slots k soil }
      else u
    | none => u) t

/-- The place of buffer b of the slot at a (R454). -/
def bufStart (a b : Nat) : Nat := a + 0x100000 + 0x700000 * b

/-- Where a unit of a context lies in a buffer whose order the spec gives: offset, bytes and contents of each run (R455). -/
def Ctx.unitRuns (x : Ctx) (u : Nat) : List (Nat × Nat × List Host.Cell) :=
  if u < 1024 then
    [ (0x300000 + 4096 * u, 4096, mslice x.bytes (4096 * u) 4096),
      (0x060000 + 128 * u, 128, cellTable 128 (wordBytes 2 (mslice x.tags (64 * u) 64))),
      (0x040000 + 128 * u, 128, cellTable 128 (bitBytes (mslice x.valid (1024 * u) 1024))) ]
  else if u < 1536 then
    [(0x100000 + 4096 * (u - 1024), 4096, cellTable 4096 (wordBytes 4 (mslice x.core.mx.tiles (1024 * (u - 1024)) 1024)))]
  else if u = 1598 then [(0x20000, 0x10000, cellTable 0x10000 (wordBytes 4 x.core.pl.imem))]
  else if u = 1599 then [(0x30000, 0x8000, cellTable 0x8000 (wordBytes 4 x.core.pl.omem))]
  else []
/-- Where a unit lies in a section of the device's own order. -/
def ownRun (u : Nat) : Option (Nat × Nat) :=
  if u < 1536 then none
  else if u < 1592 ∨ u = 1596 then some (0x7000, 0x4000)
  else [(0, 0x1000), (0x1000, 0x4000), (0x5000, 0x1000), (0x6000, 0x1000), (0x7000, 0x4000), (0xB000, 0x12000)][u - 1592]?

/-- A unit written into the buffer at p under its owner's key (R454 to R456). -/
def State.writeUnit (s : State) (owner p : Nat) (x : Ctx) (u : Nat) : State :=
  let s := (x.unitRuns u).foldl (fun t e => t.writeArea (s.keyOf owner) ((p + e.1) / 64) (e.2.1 / 64) e.2.2) s
  match ownRun u with
  | some e => { s.writeArea (Config.deviceKey s.free) ((p + e.1) / 64) (e.2 / 64) [] with free := s.free + 1 }
  | none => s

/-- A core without what a buffer holds in the order of R455. -/
def Core.slim (c : Core) : Core := { c with mx := { c.mx with tiles := [] }, pl := { c.pl with imem := [], omem := [] } }

/-- Units of a context written into buffer b of slot k of a die, whose dirty bits for it are then clear (R456, R457). -/
def State.storeUnits (s : State) (die k b owner : Nat) (x : Ctx) (us : List Nat) : State :=
  let s := us.foldl (fun t u => t.writeUnit owner (bufStart ((s.dieAt die).slotAddr k) b) x u) s
  let put (y : Slot) : Slot :=
    y.putBuf b (some (us.foldl (fun c u => c.putUnit x.core u) ((y.buf b).getD Core.rest)).slim) (us.foldl Clean.clear (y.clean b))
  s.onDie die fun d => { d with slots := mmod Slot.rest d.slots k put }

/-- The context that buffer b of the slot at a holds, as the owner's key reads it (R454, R455). -/
def State.bufCtx (s : State) (owner a b : Nat) (c : Core) : Ctx :=
  let run (o n : Nat) : List Host.Cell := s.mem.areaBytes (s.keyOf owner) ((bufStart a b + o) / 64) (n / 64)
  ⟨{ c with mx := { c.mx with tiles := wordTable 32 (8 * 65536) 4 (run 0x100000 0x200000) }.keepTiles c.pl.saveMask
            pl := { c.pl with imem := wordTable 32 16384 4 (run 0x20000 0x10000), omem := wordTable 32 8192 4 (run 0x30000 0x8000) } },
    run 0x300000 0x400000, wordTable 16 65536 2 (run 0x60000 0x20000), bitTable (2 ^ 20) (run 0x40000 0x20000)⟩

/-- A context as a save reads it: the bytes of an uncorrectable block of the scratchpad are free, and its read is counted (R116, R464,
log 182). -/
def State.readCtx (s : State) (n : Nat) (gs : List Nat) : Ctx × State :=
  let lost := s.mem.bad.filter fun e => decide (scrBase n / 64 ≤ e.1) && decide (e.1 < scrBase n / 64 + 2 ^ 16) &&
    gs.contains ((e.1 - scrBase n / 64) / 64)
  let x := s.context n
  let bytes := lost.zipIdx.foldl (fun m e =>
    msetList 0 m (64 * (e.1.1 - scrBase n / 64)) (leBytes (Config.lostBlock s.free e.1.1).toNat 64)) x.bytes
  ({ x with bytes := bytes }, { lost.foldl (fun t e => t.countUncorr (locOfBlk e.1)) s with free := s.free + min 1 lost.length })

/-- CONTEXT_SAVE (R63, R187, R253, R278, R456): the drain has ended; watches fire, copy outputs and leases are let go, and
the dirty units are written to the open buffer, 256 bytes on a beat -/
def execContextSave (core : Nat) (s : State) : Out :=
  if (s.coreAt core).pl.phase != .saving || (s.coreAt core).pl.saveBeat.isSome then .next s
  else
    let s := s.withdrawLoads core
    if !s.drained core then .next s
    else
      let s := (s.soilUnits ((((s.fireWatches core).unbindAll core true).revokeLent core).revokeLease core)).onCore core fun c =>
        { c with pl := { c.pl with saveBeat := some s.beat } }
      match s.slotOf core with
      | some (x, k, a) =>
        let s := s.countHbm a 8
        let us := (mget Slot.rest (s.dieAt x.die).slots k).saveUnits (s.openBuf a) (s.coreAt core).pl.saveMask
        let s := s.onCore core fun c => { c with pl := { c.pl with due := s.beat + (unitsBytes us + 255) / 256 } }
        let r := s.readCtx core us
        .next (r.2.storeUnits x.die k (s.openBuf a) x.owner r.1 us)
      | none => .next s

/-- The task of core n leaves it for pending, with nothing let go but the core; its counter conditions are pinned again (R40,
R42, R456, log 45). -/
def State.leaveCore (s : State) (n : Nat) : State :=
  let t := s.taskNo n
  let s := s.addPins ((((s.taskAt t).map Task.conds).getD []).map Cond.pin |>.filter (· != 0))
  let s := s.onTask t fun x => { x with st := .pending, core := none, late := false }
  s.onCore n fun c =>
    Core.freed { c with ve := { c.ve with engs := [], bases := [], old := c.ve.old.filter (fun b => c.ve.jobs.any fun j => j.task != t && j.uses.contains b.uid),
                                          jobs := c.ve.jobs.filter fun j => j.task != t }
                        mx := { c.mx with wtiles := [] } }

/-- SAVE_COMMIT (R454, R456): every byte of the buffer is performed, and the commit word is written; events that came during the
save are kept with it -/
def execSaveCommit (core : Nat) (s : State) : Out :=
  match (s.coreAt core).pl.phase, (s.coreAt core).pl.saveBeat, s.slotOf core with
  | .saving, some b, some (x, k, a) =>
    if s.beat < (s.coreAt core).pl.due then .next s
    else
    let w := s.hbmNat a 8
    let slot := mget Slot.rest (s.dieAt x.die).slots k
    let ctx := (slot.buf (s.openBuf a)).map fun c => { c with tr := { c.tr with events := (s.coreAt core).tr.events } }
    let s := s.onDie x.die fun y => { y with slots := mset Slot.rest y.slots k (slot.putBuf (s.openBuf a) ctx (slot.clean (s.openBuf a))) }
    let commit := (s.openBuf a + 1) * 2 ^ 62 + (w + 1) % 2 ^ 32
    let s := (s.devWrite (a + 8) 8 b).devWrite a 8 commit
    .next (s.leaveCore core).restretch
  | _, _, _ => .next s

/-- CONTEXT_SLOT_ACQUIRE (R453): of the tasks of a die that wait for a slot, the one that has waited longest takes the
lowest free one -/
def execContextSlotAcquire (die : Nat) (s : State) : Out := .next (s.grantSlot die)

/-! ## The restore (R187, R327, R458) -/

/-- A local-window place moved to core n's scratchpad. -/
def Loc.rehome (l : Loc) (va n : Nat) : Loc :=
  match l with
  | .scr m o => if va < 2 ^ 22 then .scr n o else .scr m o
  | l => l
/-- A binding whose local pieces follow the task to core n. -/
def Base.rehome (b : Base) (n : Nat) : Base := { b with pieces := b.pieces.map fun p => { p with loc := p.loc.rehome p.va n } }

/-- A weight tile whose source in the local window follows the task to core n. -/
def WTile.rehome (w : WTile) (n : Nat) : WTile :=
  { w with pieces := ((List.range w.pieces.length).zip w.pieces).map fun e => e.2.rehome (w.va + 64 * e.1) n }

/-- The source blocks of a weight tile, as R327 reads them; none where one of them fails, or its presence map no longer counts
its blocks (R338). -/
def State.reloadTile (s : State) (w : WTile) : Option (List Blk) :=
  let bs := w.pieces.map fun l => (blkOf l, s.mem.blkUnder (s.keyOf w.owner) (blkOf l))
  let isMap (i : Nat) : Bool := !w.dense && decide (i < mapBlocks w.cls)
  let ok := ((List.range bs.length).zip bs).all fun e =>
    !mget false s.mem.bad e.2.1 && tagOk (s.feature 1) e.2.2.tag && (isMap e.1 || clsTakes w.cls (tagFmt e.2.2.tag))
  let count := mapBlocks w.cls + ((List.range (clsBlocks w.cls)).filter (mapBit (bs.map Prod.snd))).length
  if ok && (w.dense || count == w.len) then some (bs.map Prod.snd) else none

/-- The tiles of a resumed task: a resident one is read again, or is empty; a loading one is empty (R327). -/
def State.reloadTiles (s : State) (m : Mat) : Mat :=
  m.wtiles.foldl (fun k e =>
    if e.2.state = .resident then
      match s.reloadTile e.2 with
      | some bs => { k with wbuf := msetList Blk.zero k.wbuf e.2.start bs }
      | none => { k with wtiles := mset WTile.rest k.wtiles e.1 { e.2 with state := .empty } }
    else { k with wtiles := mset WTile.rest k.wtiles e.1 { e.2 with state := .empty } }) { m with wbuf := [] }

/-- The matrix side moved by the beats that the task was away (R187, R326). -/
def Mat.moved (m : Mat) (d : Nat) : Mat :=
  { m with sel := m.sel.map fun x => (x.1, x.2 + d), occEnd := if m.occEnd = 0 then 0 else m.occEnd + d, retire := m.retire + d,
           reached := none, convBusy := 0, gate := false }

/-- The core that a restore makes on core n of a saved one, after d beats away (R315, R455, R458). -/
def State.restored (s : State) (n : Nat) (x : Core) (d : Nat) : Core :=
  let c := s.coreAt n
  { x with
    c := { x.c with ready := s.beat + 1, issues := c.c.issues, issued := false, cwait := none, settling := false, evOk := true }
    ch := { x.ch with mail := c.ch.mail, drops := c.ch.drops, lres := c.ch.lres }
    tr := { x.tr with mbase := x.tr.mbase + w64 d, events := c.tr.events.foldl addEvent x.tr.events }
    ve := { x.ve with bases := x.ve.bases.map fun e => (e.1, e.2.rehome n), old := c.ve.old ++ x.ve.old.map (·.rehome n),
                      jobs := c.ve.jobs ++ x.ve.jobs
                      engs := x.ve.engs.map fun e => (e.1, { e.2 with ready := s.beat + 1 }) }
    mx := s.reloadTiles { x.mx.moved d with wtiles := x.mx.wtiles.map fun e => (e.1, e.2.rehome n) }
    pl := { x.pl with task := c.pl.task, phase := .running, due := 0, tailed := c.pl.tailed, preempt := c.pl.preempt,
                      saveBeat := none, lent := [], dog := c.pl.dog } }

/-- A send of task t that waits in a port's queue half built goes on from core n; one that was flushed meanwhile has failed
(R165, R345). -/
def State.followSends (s : State) (t n : Nat) : State :=
  let s := s.onQueued fun o => if o.task = t ∧ o.job ≠ 0 then { o with core := n } else o
  let kept (id : Nat) : Bool := s.circ.ports.any fun e => e.2.queues.any fun q => q.2.any fun o => o.job == id
  (s.coreAt n).ve.jobs.foldl (fun u j => match j.work with
    | .copy x => if (x.kind = 6 ∨ x.kind = 7) ∧ x.sent = 0 ∧ j.task = t ∧ !kept j.id then
        u.onX n j.id fun x => { x.failed 0x31 with sent := 1 } else u
    | _ => u) s

/-- The accesses that left their cells issue again, from core n (R179). -/
def State.reissue (s : State) (t n : Nat) : State :=
  { s with accs := s.accs.map fun e => match e.2 with
      | some a => if a.task == t && a.stage == .withdrawn then
          (e.1, some { a with core := n, loc := a.loc.rehome a.va n, stage := .queued }) else e
      | none => e }

/-- The parts of a slot that the restore of buffer b reads, from the slot's start: the header, the sections, and the tiles that it holds (R35,
R455, R458). -/
def restoreParts (b : Nat) (mask : BitVec 8) : List (Nat × Nat) :=
  let parts : List (Nat × Nat) := [(0, 0x1D000), (0x20000, 0x18000), (0x40000, 0x40000), (0x300000, 0x400000)] ++
    ((List.range 8).filter mask.getLsbD).map fun t => (0x100000 + 0x40000 * t, 0x40000)
  (0, 64) :: parts.map fun e => (bufStart 0 b + e.1, e.2)

/-- RESTORE_DONE (R187, R457, R458): the committed buffer is back, with d clear for it and set for the other, or a failed read of it
fails the task. This beat is the resume_beat of the stamps, and streams issue from the next one on (log 190) -/
def execRestoreDone (core : Nat) (s : State) : Out :=
  if (s.coreAt core).pl.phase != .restoring || decide (s.beat < (s.coreAt core).pl.due) then .next s
  else match s.slotOf core with
    | none => .next (s.loadFailed core)
    | some (x, k, a) =>
      let b := (s.committed x).getD 0
      match (mget Slot.rest (s.dieAt x.die).slots k).buf b with
      | none => .next (s.loadFailed core)
      | some c =>
        match (restoreParts b c.pl.saveMask).find? fun (e : Nat × Nat) => s.hbmBad (a + e.1) e.2 with
        | some e => .next ((s.countHbm (a + e.1) e.2).loadFailed core)
        | none =>
          let d := s.beat - s.hbmNat (a + 8) 8
          let ctx := s.bufCtx x.owner a b c
          let s := s.onMem fun m =>
            { m with bytes := msplice m.bytes (scrBase core) (2 ^ 22) ctx.bytes
                     tags := msplice m.tags (scrBase core / 64) (2 ^ 16) ctx.tags
                     valid := msplice m.valid (scrBase core / 4) (2 ^ 20) ctx.valid
                     bad := mclear m.bad (scrBase core / 64) (2 ^ 16) }
          let s := s.setCore core (s.restored core ctx.core d)
          let mark (z : Slot) : Slot := (z.putBuf b (some c) ⟨true, []⟩).putBuf (1 - b) (z.buf (1 - b)) ⟨false, []⟩
          let s := s.onDie x.die fun y => { y with slots := mmod Slot.rest y.slots k mark }
          .next (((s.reissue (s.taskNo core) core).followSends (s.taskNo core) core).gateNow core)

/-! ## Incremental checkpoints (R188, R457) -/

/-- No register of core n has a write under way (R188). -/
def State.settledRegs (s : State) (n : Nat) : Bool :=
  (s.coreAt n).c.pend == [] && (s.coreAt n).ve.jobs == [] && !s.accs.any fun e => match e.2 with
    | some a => a.core == n && a.agent == .c && a.dst != 0
    | none => false

/-- CHECKPOINT_WRITEBACK (R188, R457): with incr, a dirty unit of a running task is written to the open buffer, a register only
when no write to it is under way -/
def execCheckpointWriteback (core unit_ : Nat) (s : State) : Out :=
  if (s.coreAt core).pl.phase != .running || !(s.dieAt (dieOf core)).incr then .next s
  else match s.slotOf core with
    | none => .next s
    | some (x, k, a) =>
      let b := s.openBuf a
      if 1600 ≤ unit_ || !(mget Slot.rest (s.dieAt x.die).slots k).dirtyUnit b unit_ ||
          (decide (1536 ≤ unit_) && !s.settledRegs core) then .next s
      else
        let r := s.readCtx core [unit_]
        .next (r.2.storeUnits x.die k b x.owner { r.1 with core := s.coreAt core } [unit_])

/-! ## The watchdog (R459, R460) -/

/-- A limit register's beats; 0: none. -/
def limitBeats (x : Nat) : Nat := 1024 * x

/-- The loads of a task that had left their cells are given up. -/
def State.dropWithdrawn (s : State) (t : Nat) : State :=
  { s with accs := s.accs.filter fun e => match e.2 with
      | some y => !(y.task == t && decide (y.stage = Stage.withdrawn))
      | none => true }

/-- The task on core n is ended by a limit (R459). -/
def State.watchEnd (s : State) (n reason : Nat) : State := (((s.dropWithdrawn (s.taskNo n)).logTrap n reason 0 0x56 [0, 0, 0, 0, 0]).failTask n).restretch

/-- WATCHDOG_STALL (R459): event 0x56 at the limit, the end of the task at twice the limit -/
def execWatchdogStall (core : Nat) (s : State) : Out :=
  let c := s.coreAt core
  let l := limitBeats (s.dieAt (dieOf core)).stallLim
  if l = 0 ∨ c.pl.task = none ∨ c.pl.dog.stall < l then .next s
  else if 2 * l ≤ c.pl.dog.stall then .next (s.watchEnd core 2)
  else if c.pl.dog.warnedStall then .next s
  else .next (s.onCore core fun c =>
    { c.raiseEvent 0x56 (w64 (c.pl.dog.stall / 1024)) with pl := { c.pl with dog := { c.pl.dog with warnedStall := true } } })

/-- WATCHDOG_LATE (R459) -/
def execWatchdogLate (core : Nat) (s : State) : Out :=
  let c := s.coreAt core
  let l := limitBeats (s.dieAt (dieOf core)).lateLim
  if l = 0 ∨ c.pl.task = none ∨ c.pl.dog.late < l then .next s
  else if 2 * l ≤ c.pl.dog.late then .next (s.watchEnd core 3)
  else if c.pl.dog.warnedLate then .next s
  else .next (s.onCore core fun c =>
    { c.raiseEvent 0x56 (w64 (c.pl.dog.late / 1024)) with pl := { c.pl with dog := { c.pl.dog with warnedLate := true } } })

/-- A task resumed from an earlier buffer keeps its count of late beats (R459). -/
def Core.keepLate (c : Core) (d : Dog) : Core :=
  { c with pl := { c.pl with dog := { c.pl.dog with late := d.late, warnedLate := d.warnedLate } } }

/-- WATCHDOG_SAVE (R460): the save limit is reached; the open buffer is given up, and the task is lost or resumes from its
committed one -/
def execWatchdogSave (core : Nat) (s : State) : Out :=
  let d := s.dieAt (dieOf core)
  match (s.coreAt core).pl.phase, (s.coreAt core).pl.saveBeat, s.slotOf core with
  | .saving, some b, some (x, k, a) =>
    if d.save = 0 ∨ s.beat < b + limitBeats d.save then .next s
    else
      let s := (s.devWrite (a + 0x18) 8 (s.hbmNat (a + 0x18) 8 + 2 ^ 32)).dropWithdrawn (s.taskNo core)
      let s := s.onDie x.die fun y => { y with slots := mmod Slot.rest y.slots k fun z => z.putBuf (s.openBuf a) none ⟨false, []⟩ }
      match s.committed x, d.lsres with
      | some cb, true =>
        let slot := mget Slot.rest (s.dieAt x.die).slots k
        let ctx := (slot.buf cb).map fun c => c.keepLate (s.coreAt core).pl.dog
        let s := s.onDie x.die fun y => { y with slots := mset Slot.rest y.slots k (slot.putBuf cb ctx (slot.clean cb)) }
        let s := (s.dropPins (s.coreAt core).pinList).addPins ((ctx.map Core.pinList).getD [])
        .next ((s.logTrap core 7 0 0x5A [0, 0, 0, 0, 0]).leaveCore core).restretch
      | _, _ => .next ((s.logTrap core 4 0 0x5A [0, 0, 0, 0, 0]).failTask core).restretch
  | _, _, _ => .next s

end Sys2Proof.Machine
end

