-- ==== Sys2Proof/Machine/Boot.lean ====
section
/-!
DEFINITION. The boot ROM, features, owners and commands of the driver (19_drv_launch.md R403 to R416, R422 to R424, R428,
R430 to R432; 20_drv_traps.md R438; 21_fleet.md R486): the meanings of POWER_ON, FUNCTION_LEVEL_RESET, BUNDLE_VERIFIED,
LINK_HBM_TRAINING_DONE, FEATURE_GO, KEY_INSTALL, OCTL_WRITE, HVEC_WRITE, the six commands, DIRTY_SNAPSHOT and the rewrite of
the placement tables.
-/

namespace Sys2Proof.Machine

/-! ## Measured boot (R403 to R406) -/

/-- A bit vector as little-endian bytes (log 31). -/
def bytesOf {w : Nat} (x : BitVec w) : List Byte := leBytes x.toNat (w / 8)

/-- Bytes d measured into register i (R406). -/
def State.measure (s : State) (i : Nat) (d : List Byte) : State :=
  { s with boot := { s.boot with
      meas := mset 0 s.boot.meas i (Config.sha384 (bytesOf (mget 0 s.boot.meas i) ++ d)) } }

/-- The boot state register changes, which is an event (R405, R463). -/
def State.bootTo (s : State) (state error : Nat) : State :=
  { s with boot := { s.boot with state := state, error := error } }.raiseMsix 0

/-- The fused security version: that of the part, or what command 6 has raised it to (R403, R486). -/
def State.fused (s : State) : Nat := max Config.fusedVersion.toNat s.boot.committed

/-- The ROM starts: the measurements of M0, then verification (R403, R405, R406). -/
def State.romStart (s : State) : State :=
  ((((s.measure 0 (bytesOf Config.romDigest)).measure 0 (bytesOf (Config.fusedKeyHash 0))).measure 0
    (bytesOf (Config.fusedKeyHash 1))).measure 0 (leBytes s.fused 4)).bootTo 1 0

/-- POWER_ON (R403): everything is at reset but the fuses, and the flash holds the bundle; the ROM runs -/
def execPowerOn (b : Bundle) (s : State) : Out :=
  .next { State.reset with free := s.free, boot := { Boot.rest with flash := some b, committed := s.boot.committed } }.romStart

/-- FUNCTION_LEVEL_RESET (R37, R403, R413, R485): all tasks end and every register is at reset; the beat counter, the fuses
and the flash stay (log 32) -/
def execFunctionLevelReset (s : State) : Out :=
  .next { State.reset with
    beat := s.beat, free := s.free, nextId := s.nextId
    circ := { Circ.rest with joined := s.circ.joined, pkg := s.circ.pkg }
    boot := { Boot.rest with flash := s.boot.flash, committed := s.boot.committed } }.romStart

end Sys2Proof.Machine

namespace Sys2Proof

/-- Header bytes 0x000 to 0x0FF of a bundle (R404). -/
def Bundle.head (b : Bundle) : List Byte :=
  Machine.bytesOf b.magic ++ Machine.bytesOf b.svn ++ Machine.bytesOf b.length ++ Machine.bytesOf b.digest ++
    Machine.bytesOf b.ekey ++ Machine.bytesOf b.lkey ++ (b.reserved ++ List.replicate 40 0).take 40

end Sys2Proof

namespace Sys2Proof.Machine

/-- The checks of R403, in their order: the code of the first that fails, 0 for none. -/
def bundleCode (fused : Nat) (b : Bundle) : Nat :=
  let d := Config.sha384 b.head
  if b.magic ≠ 0x56424C50 ∨ b.length.toNat ≠ b.body.length ∨ b.body.length < 4096 ∨ 2 ^ 24 < b.body.length ∨
      !b.reserved.all (· == 0) then 1
  else if Config.sha384 (bytesOf b.ekey) ≠ Config.fusedKeyHash 0 ∨ Config.sha384 (bytesOf b.lkey) ≠ Config.fusedKeyHash 1 then 6
  else if b.svn.toNat < fused then 5
  else if Config.sha384 b.body ≠ b.digest then 2
  else if !Config.ecdsaOk b.ekey b.esig d then 3
  else if !Config.lmsOk b.lkey b.lsig b.head then 4
  else 0

/-- BUNDLE_VERIFIED (R403, R405, R406): the bundle runs, or the device is in recovery -/
def execBundleVerified (s : State) : Out :=
  if s.boot.state ≠ 1 then .next s
  else match s.boot.flash with
    | none => .next (s.bootTo 8 1)
    | some b =>
      let e := bundleCode s.fused b
      if e ≠ 0 then .next (s.bootTo 8 e)
      else
        let s := { s with boot := { s.boot with svn := b.svn.toNat } }
        .next ((s.measure 1 b.head).bootTo 2 0)

/-- LINK_HBM_TRAINING_DONE (R405): every HBM block holds zero under no key, or training failed -/
def execLinkHbmTrainingDone (ok : Bool) (s : State) : Out :=
  if s.boot.state ≠ 2 then .next s
  else if !ok then .next (s.bootTo 8 7)
  else
    .next ((s.onMem fun m =>
      { m with bytes := clearHbm 64 m.bytes, tags := clearHbm 1 m.tags, keys := clearHbm 1 m.keys
               areas := [], tweaks := clearHbm 1 m.tweaks, bad := clearHbm 1 m.bad }).bootTo 3 0)

/-- FEATURE_GO (R406, R412): go is written -/
def execFeatureGo (s : State) : Out :=
  if s.boot.state ≠ 3 then .next s
  else if s.boot.accepted &&& ~~~0x1FF#64 ≠ 0 then
    .next { s with boot := { s.boot with refused := true, accepted := 0 } }
  else
    let s := { s with boot := { s.boot with go := true, refused := false } }
    .next ((s.measure 2 (bytesOf s.boot.accepted)).bootTo 4 0)

/-! ## Owners (R414, R415) -/

/-- The BAR4 offset of a register of an owner. -/
def ownerOff (o a : Nat) : Nat := o * 2 ^ 36 + a

/-- KEY_INSTALL (R415): the last key word is written -/
def execKeyInstall (owner : Nat) (w : Word) (s : State) : Out :=
  if s.boot.state = 8 then .next (s.noService (ownerOff owner 0x78)) else
  if 16 ≤ owner then .next s
  else if (s.ownerAt owner).live then .next (s.badWrite (ownerOff owner 0x78) w)
  else
    .next (s.onOwner owner fun o =>
      let k := (List.range 7).foldl (fun (n : Nat) i => n + (mget 0 o.keyBuf i).toNat * 2 ^ (64 * i)) (w.toNat * 2 ^ 448)
      { o with key := BitVec.ofNat 512 k, keyvalid := true, keyBuf := [] })

/-- An owner holds a task, an entry, a group membership, a hand, a pinned entry or a valid range entry (R415). -/
def State.ownerBusy (s : State) (o : Nat) : Bool :=
  (s.tasks.any fun e => match e.2 with
    | some t => t.owner == o
    | none => false) ||
  (s.groups.any fun e => e.2.members != [] && e.2.owner == o) ||
  (s.conv.hands.any fun e => (s.groupAt (handleId e.1)).owner == o &&
    ((s.beat / 64) :: e.2.map Prod.fst).any fun r => decide (s.beat / 64 ≤ r) && s.conv.holdsHand e.1 r) ||
  ((s.ownerAt o).ranges.any fun e => e.2.ctl.getLsbD 0 || bitsOf e.2.ctl 52 12 != 0) ||
  (s.cores.any fun e => (e.2.ve.bases.map Prod.snd ++ e.2.ve.old).any fun b => b.owner == o && b.pieces.any fun p => p.pin != 0) ||
  s.coll.bufs.any fun e => match e.2 with
    | some b => b.base.owner == o && b.base.pieces.any fun p => p.pin != 0
    | none => false

/-- OCTL_WRITE (R415) -/
def execOctlWrite (owner : Nat) (w : Word) (s : State) : Out :=
  if s.boot.state = 8 then .next (s.noService (ownerOff owner 0)) else
  if 16 ≤ owner then .next s
  else
    let o := s.ownerAt owner
    if (w.getLsbD 1 && !o.keyvalid) || (!w.getLsbD 1 && o.live && s.ownerBusy owner) then
      .next (s.badWrite (ownerOff owner 0) w)
    else .next (s.onOwner owner fun o => { o with circ := w.getLsbD 3, conv := w.getLsbD 2, live := w.getLsbD 1 })

/-! ## Commands (R411) -/

/-- Argument i of the command interface. -/
def State.arg (s : State) (i : Nat) : Word := mget 0 s.cmd.args i
/-- A command ends with a result, which is an event (R411, R463). -/
def State.cmdDone (s : State) (r : Nat) : State :=
  { s with cmd := { s.cmd with busy := false, run := 0, result := r } }.raiseMsix 1
/-- A command word is written: ignored and logged while a command runs (R411); in recovery the block does not respond (R405). -/
def State.command (s : State) (n : Nat) (k : State → State) : State :=
  if s.boot.state = 8 then s.noService 0x2000
  else if s.cmd.busy then s.badWrite 0x2000 (w64 n) else k s

/-- The tags of an image's data that need a feature which is not accepted (R424). -/
def State.imgTagsBad (s : State) (p : Nat) (h : ImgHead) : Bool :=
  (List.range ((h.datalen + 63) / 64)).any fun i =>
    let f := s.hbmNat (p + h.tagsAt + 2 * i) 2 / 256
    (f == 0xF0 && !s.feature 1) || (f == 0x10 && !s.feature 0)

/-- The refusal code of an image, 0 for none (R424). -/
def State.imageCode (s : State) (handle p len : Nat) : Nat :=
  let h := s.imgHead p
  if handle = 0 ∨ 2 ^ 32 ≤ handle ∨ (mget none s.images handle).isSome then 1
  else if !h.ok then 2
  else if BitVec.ofNat 64 h.needs &&& ~~~s.boot.accepted ≠ 0 ∨ (h.checked && !s.feature 4) ∨ s.imgTagsBad p h then 3
  else if len < h.endAt then 4
  else 0

/-- REGISTER_IMAGE (R406, R424): handle, owner mask, physical address, length -/
def execRegisterImage (s : State) : Out :=
  .next (s.command 1 fun s =>
    let handle := (s.arg 0).toNat
    let p := (s.arg 2).toNat
    let len := (s.arg 3).toNat
    let c := s.imageCode handle p len
    if c ≠ 0 then s.cmdDone c
    else
      let mask := (s.arg 1).setWidth 16
      let d := Config.sha384 (s.hbmBytes p len)
      let s := { s with images := mset none s.images handle (some ⟨mask, p, len⟩) }
      (((s.measure 3 (bytesOf d)).measure 3 (leBytes handle 4)).measure 3 (bytesOf mask)).cmdDone 0)

/-- A cell of a live owner names an image: face-down or turning, written under a live owner's key, or in the scratchpad of a
live owner's task (R424). -/
def State.cellNames (s : State) (handle : Nat) : Bool :=
  s.mem.tags.any fun e =>
    (tagFmt e.2 == 0xF0 || tagFmt e.2 == 0xF1) && cellImage (s.mem.rawBlk e.1) == handle &&
      (if isScrBlk e.1 then (s.ownerAt (s.ownerOn ((e.1 - 2 ^ 35) / 2 ^ 16))).live
       else (List.range 16).any fun o => (s.ownerAt o).live && s.mem.keyAt e.1 == some (s.keyOf o))

/-- An entry, or a task whose overlay is still loading, names an image. -/
def State.entryNames (s : State) (handle : Nat) : Bool :=
  s.tasks.any fun e => match e.2 with
    | some t => t.image == handle && (t.st == .pending || t.st == .waiting || t.st == .ready || (match t.core with
        | some n => (s.coreAt n).pl.phase == .loading
        | none => false))
    | none => false

/-- UNREGISTER_IMAGE (R424) -/
def execUnregisterImage (s : State) : Out :=
  .next (s.command 2 fun s =>
    let handle := (s.arg 0).toNat
    if s.entryNames handle || s.cellNames handle then s.cmdDone 5
    else ({ s with images := mset none s.images handle none }).cmdDone 0)

/-- The levels from the page entry at a physical address down, found from a node at some levels. -/
def State.levelsAt (s : State) (e : Nat) : List (Nat × Nat × Nat) → Nat → Option (List (Nat × Nat × Nat))
  | [], _ => none
  | (sh, bits, nx) :: rest, node =>
    if node ≤ e ∧ e < node + 16 * 2 ^ bits then some ((sh, bits, nx) :: rest)
    else (List.range (2 ^ bits)).findSome? fun i =>
      match s.hbmWord (node + 16 * i), s.hbmWord (node + 16 * i + 8) with
      | some t, some c => if c.getLsbD 9 && c.getLsbD 0 then s.levelsAt e rest t.toNat else none
      | _, _ => none

/-- The pins of a page entry, and of every leaf below it where it names a node (R422). -/
def State.pinsBelow (s : State) (e : Nat) : List (Nat × Nat × Nat) → Nat
  | [] => s.pinsOf (e + 8)
  | _ :: rest =>
    match s.hbmWord e, s.hbmWord (e + 8) with
    | some t, some c =>
      if c.getLsbD 9 then match rest with
        | [] => 0
        | (_, bits, _) :: _ => ((List.range (2 ^ bits)).map fun i => s.pinsBelow (t.toNat + 16 * i) rest).foldl (· + ·) 0
      else bitsOf c 52 12
    | _, _ => 0

/-- The pins that an unmap of an owner, a kind and an entry waits for. -/
def State.unmapPins (s : State) (o kind e : Nat) : Nat :=
  if kind = 1 then s.pinsOf (2 ^ 48 + 64 * o + e)
  else match s.levelsAt e pageLevels (s.ownerAt o).root with
    | some ls => s.pinsBelow e ls
    | none => s.pinsOf (e + 8)

/-- UNMAP (R422): the entry's valid bit is cleared; the command runs until its pins are gone -/
def execUnmap (s : State) : Out :=
  .next (s.command 3 fun s =>
    let o := (s.arg 0).toNat
    let kind := (s.arg 1).toNat
    let e := (s.arg 2).toNat
    if 16 ≤ o ∨ 1 < kind ∨ (kind = 1 ∧ 64 ≤ e) ∨ (kind = 0 ∧ 2 ^ 40 < e + 16) then s.cmdDone 0
    else
      let s := if kind = 1 then
          s.onOwner o fun x => { x with ranges := mmod RangeE.rest x.ranges e fun r => { r with ctl := r.ctl &&& ~~~1#64 } }
        else match s.hbmWord (e + 8) with
          | some c => (s.onMem fun m => m.patchBlk (s.keyOf 0) ((e + 8) / 64) ((e + 8) % 64) 8 (c &&& ~~~1#64).toNat).touch (e / 64)
          | none => s
      { s with cmd := { s.cmd with busy := true, run := 3 } })

/-- UNMAP_PINS_DROPPED (R422) -/
def execUnmapPinsDropped (s : State) : Out :=
  if s.cmd.busy ∧ s.cmd.run = 3 ∧ s.unmapPins (s.arg 0).toNat (s.arg 1).toNat (s.arg 2).toNat = 0 then .next (s.cmdDone 0)
  else .next s

/-- UNDEAL_COMMAND (R350, R352, R428): with no membership or owner check; the result is the code's low 16 bits -/
def execUndealCommand (s : State) : Out :=
  .next (s.command 5 fun s =>
    let h := bitsOf (s.arg 0) 0 20
    let n := (s.arg 1).toNat
    let v := dealResult
      [(6, !s.conv.holdsHand h n), (5, !s.handleLive h), (4, bitsOf (s.arg 0) 20 44 != 0), (1, decide (n < s.beat / 64 + 2))]
    (if v = 0 then s.onConv fun c => c.endHand h n s.beat else s).cmdDone (v.toNat % 65536))

/-- COMMIT_SVN (R486) -/
def execCommitSvn (s : State) : Out :=
  .next (s.command 6 fun s =>
    if s.boot.svn ≤ s.fused then s.cmdDone 1
    else if 64 < s.boot.svn then s.cmdDone 2
    else ({ s with boot := { s.boot with committed := s.boot.svn } }).cmdDone 0)

/-! ## Placement tables and rows (R105, R423, R430 to R432) -/

/-- The granule that the active tables place in a row, if there is one. -/
def granuleOf (t : Placing) (h r : Nat) : Option Nat :=
  let d := h / 64
  let e := h / 32 % 2
  let direct : Nat := 2 ^ 25 * d + match mget 0 t.modes d with
    | 0 => 64 * r + 2 * (h % 32) + e
    | _ => 32 * r + h % 32
  let cands := (t.regions.filterMap fun x =>
    let rb := bitsOf x.2.2 0 19
    if x.2.1.getLsbD 63 && 32 * bitsOf x.2.2 24 4 + bitsOf x.2.2 19 5 == h && decide (rb ≤ r) && decide (r < rb + bitsOf x.2.1 0 28) then
      some (bitsOf x.2.1 28 28 + (r - rb))
    else none) ++ [direct]
  cands.find? fun g => homeOf t (4096 * g) == some (h, r)

/-- The granule as which a row of a home slice is stored: the one placed in it, else its own number (Machine/Mem.lean). -/
def rowGran (t : Placing) (h r : Nat) : Nat := (granuleOf t h r).getD (2 ^ 31 + 2 ^ 19 * h + r)

/-- The keys of a granule's blocks. -/
def Mem.rowKeys (m : Mem) (g : Nat) : SMap (Option (BitVec 512)) :=
  (List.range 64).foldl (fun l i => mset none l i (m.keyAt (64 * g + i))) []
/-- The content of a granule as a row. -/
def Mem.rowOf (m : Mem) (g : Nat) : Row :=
  ⟨g, mslice m.bytes (4096 * g) 4096, mslice m.tags (64 * g) 64, m.rowKeys g, mslice m.tweaks (64 * g) 64,
    mslice m.bad (64 * g) 64, mget false m.dirty g⟩
/-- The tweaks of a row's blocks, as granule g tells them: a block that was written as another granule's keeps that one's
address as its tweak (R115, R432); one that was not written has none. -/
def Row.tweaksAt (r : Row) (g : Nat) : SMap (Option Nat) :=
  (List.range 64).foldl (fun l i =>
    let k := (mget none r.tweaks i).getD (64 * r.gran + i)
    mset none l i (if k = 64 * g + i ∨ mget none r.keys i = none then none else some k)) []
/-- A row that is stored as granule g. -/
def Mem.putRow (m : Mem) (g : Nat) (r : Row) : Mem :=
  { m with bytes := msplice m.bytes (4096 * g) 4096 r.bytes, tags := msplice m.tags (64 * g) 64 r.tags
           keys := msplice m.keys (64 * g) 64 r.keys, areas := cutAreas (64 * g) 64 m.areas, tweaks := msplice m.tweaks (64 * g) 64 (r.tweaksAt g)
           bad := msplice m.bad (64 * g) 64 r.bad, dirty := mset false m.dirty g r.dirty }

/-- The row of a home slice, wherever its content stands. -/
def State.rowAt (s : State) (h r : Nat) : Row := s.mem.rowOf (rowGran s.placing h r)
/-- That row replaced. -/
def State.setRow (s : State) (h r : Nat) (x : Row) : State := s.onMem fun m => m.putRow (rowGran s.placing h r) x

/-- Rows copied one by one; the first with an uncorrectable block ends it, with its number (R432). -/
def State.copyRows (s : State) (hs rs hd rd : Nat) : Nat → State × Option Nat
  | 0 => (s, none)
  | k + 1 =>
    let x := s.rowAt hs rs
    if x.bad ≠ [] then (s, some rs) else (s.setRow hd rd x).copyRows hs (rs + 1) hd (rd + 1) k

/-- The packed form of R432: slice of the package, and row. -/
def rowArg (w : Word) : Nat × Nat := (32 * bitsOf w 24 4 + bitsOf w 19 5, bitsOf w 0 19)

/-- RELOCATE (R432): source, destination, count -/
def execRelocate (s : State) : Out :=
  .next (s.command 4 fun s =>
    let (hs, rs) := rowArg (s.arg 0)
    let (hd, rd) := rowArg (s.arg 1)
    let (u, bad) := s.copyRows hs rs hd rd (min 512 (s.arg 2).toNat)
    match bad with
    | none => u.cmdDone 0
    | some r => ({ u with cmd := { u.cmd with args := mset 0 u.cmd.args 2 (w64 (bitsOf (s.arg 0) 19 9 * 2 ^ 19 + r)) } }).cmdDone 6)

/-- The granules of HBM that hold anything. -/
def Mem.granulesUsed (m : Mem) : List Nat :=
  let ofBytes : List Nat := ((m.bytes.map Prod.fst).filter fun k => isHbmBlk (k / 64)).map (· / 4096)
  let ofBlks (ks : List Nat) : List Nat := (ks.filter fun k => isHbmBlk k).map (· / 64)
  (ofBytes ++ ofBlks (m.tags.map Prod.fst) ++ ofBlks (m.keys.map Prod.fst) ++ ofBlks (m.bad.map Prod.fst) ++
    (m.areas.flatMap fun e => upFrom (e.1 / 64) ((e.1 + e.2.1 + 63) / 64 - e.1 / 64)) ++ m.dirty.map Prod.fst).eraseDups

/-- New active tables over the same rows: what was placed stands where its row is placed now (R430, R431). -/
def State.retable (s : State) (t : Placing) : State :=
  let rows : List (Nat × Nat × Row) :=
    s.mem.granulesUsed.filterMap fun g => (homeOf s.placing (4096 * g)).map fun h => (h.1, h.2, s.mem.rowOf g)
  let clear : Mem :=
    { s.mem with bytes := clearHbm 64 s.mem.bytes, tags := clearHbm 1 s.mem.tags, keys := clearHbm 1 s.mem.keys, areas := []
                 tweaks := clearHbm 1 s.mem.tweaks, bad := clearHbm 1 s.mem.bad, dirty := [] }
  rows.foldl (fun u e => u.setRow e.1 e.2.1 e.2.2) { s with mem := clear, placing := t }

/-- Where the row of an address under tables t stands under tables u. -/
def movedTo (t u : Placing) (p : Nat) : Nat :=
  match homeOf t p with
  | some h => 4096 * rowGran u h.1 h.2 + p % 4096
  | none => p

/-- An access that has left its queue keeps the row that it was routed to (R105, R431). -/
def Access.reroute (t u : Placing) (a : Access) : Access :=
  match a.stage, a.loc with
  | .queued, _ => a
  | .withdrawn, _ => a
  | _, .hbm p =>
    let q := movedTo t u p
    let k := a.orig.getD (p / 64)
    { a with loc := .hbm q, orig := if k = q / 64 then none else some k }
  | _, _ => a

/-- What stands at the home slices keeps its rows as the tables change: accesses, pending writes and cell waiters. -/
def State.reroute (s : State) (t u : Placing) : State :=
  let blk (b : Nat) : Nat := if isHbmBlk b then movedTo t u (64 * b) / 64 else b
  { s with
    accs := s.accs.map fun e => (e.1, e.2.map (Access.reroute t u))
    mem := { s.mem with wq := s.mem.wq.map fun e => (e.1, e.2.map fun x => { x with blk := blk x.blk })
                        cellq := s.mem.cellq.foldl (fun m e => mset [] m (blk e.1) e.2) [] } }

/-- Every two elements of a list, in their order, satisfy a test. -/
def allPairs {α : Type} (f : α → α → Bool) : List α → Bool
  | [] => true
  | a :: l => l.all (f a) && allPairs f l

/-- The staged tables are good: reserved fields zero, mode 3 not used, and the rows of valid regions within 2^19 and apart
(R430, R431). -/
def Placing.stagedOk (t : Placing) : Bool :=
  let rs := (t.stagedRegions.map Prod.snd).filter fun e => e.1.getLsbD 63
  let slice (e : Word × Word) : Nat := bitsOf e.2 19 9
  let apart (a b : Word × Word) : Bool :=
    slice a != slice b || !overlaps (bitsOf a.2 0 19) (bitsOf a.1 0 28) (bitsOf b.2 0 19) (bitsOf b.1 0 28)
  (t.stagedModes.all fun e => decide (e.2.toNat < 3)) &&
    (t.stagedRegions.all fun e => bitsOf e.2.1 56 7 == 0 && bitsOf e.2.2 28 36 == 0) &&
    (rs.all fun e => decide (1 ≤ bitsOf e.1 0 28) && decide (bitsOf e.1 0 28 ≤ 2 ^ 19) &&
      decide (bitsOf e.2 0 19 + bitsOf e.1 0 28 ≤ 2 ^ 19)) &&
    allPairs apart rs

/-- TABLE_REWRITE_COMMIT (R431) -/
def execTableRewriteCommit (s : State) : Out :=
  if s.boot.state = 8 then .next (s.noService (0x10000)) else
  let p := s.placing
  if p.draining then .next { s with placing := { p with result := 1 } }
  else if !p.stagedOk then .next { s with placing := { p with result := 2 } }
  else
    let old := (s.accs.filter fun e => match e.2 with
      | some a => !a.done && a.stage != .queued && a.stage != .withdrawn && (match a.loc with
        | .hbm _ => true
        | _ => false)
      | none => false).map Prod.fst
    let t := { p with modes := p.stagedModes.map fun e => (e.1, e.2.toNat), regions := p.stagedRegions
                      active := (p.active + 1) % 65536, result := 0, draining := true, before := old }
    .next ((s.reroute p t).retable t)

/-- TABLE_REWRITE_DRAINED (R431, R463): every request of the old generation is complete -/
def execTableRewriteDrained (s : State) : Out :=
  let p := s.placing
  let busy := p.before.any fun id => match s.accAt id with
    | some a => !a.done
    | none => false
  if p.draining && !busy then
    .next ({ s with placing := { p with drained := p.active, draining := false, before := [] } }.raiseMsix 31)
  else .next s

/-- DIRTY_SNAPSHOT (R423): a write of dsel -/
def execDirtySnapshot (slice : Nat) (w : Word) (s : State) : Out :=
  if s.boot.state = 8 then .next (s.noService (0x400000 + 0x20000 * slice + 8)) else
  if bitsOf w 13 51 ≠ 0 then .next (s.badWrite (0x400000 + 0x20000 * slice + 8) w)
  else
    let gs := (List.range 64).map fun b => (b, rowGran s.placing slice (64 * bitsOf w 0 13 + b))
    let v := gs.foldl (fun (n : Nat) e => if mget false s.mem.dirty e.2 then n + 2 ^ e.1 else n) 0
    .next (s.onMem fun m =>
      { m with dsnap := mset 0 m.dsnap slice (w64 v), dirty := gs.foldl (fun d e => mset false d e.2 false) m.dirty })

/-! ## Handler images (R438) -/

/-- The image of a handle may fill handler memories (R438). -/
def State.handlerOk (s : State) (handle : Nat) : Bool :=
  match mget none s.images handle with
  | some i =>
    let h := s.imgHead i.addr
    i.mask == 1 && h.norders == 0 && h.nestmask == 0 && h.scratch == 0 && h.datalen == 0 && decide (h.nwords ≤ 4096)
  | none => false

/-- HVEC_WRITE (R438): an image that breaks the rules, or a task placed on the die, leaves everything as it is -/
def execHvecWrite (die : Nat) (w : Word) (s : State) : Out :=
  if s.boot.state = 8 then .next (s.noService (0x100000 + 0x20000 * die + 0xA0)) else
  let handle := bitsOf w 0 32
  let placed := (List.range 24).any fun k => (s.coreAt (24 * die + k)).pl.task.isSome
  if placed || (handle != 0 && !s.handlerOk handle) then .next (s.badWrite (0x100000 + 0x20000 * die + 0xA0) w)
  else
    let mem := match mget none s.images handle with
      | some i => s.imgWords (i.addr + 64) (s.imgHead i.addr).nwords
      | none => []
    .next (s.onDie die fun d => { d with hvec := BitVec.ofNat 32 handle, hmem := mem })

end Sys2Proof.Machine
end

