-- ==== Sys2Proof/Machine/Host.lean ====
section
/-!
DEFINITION. What the host does to the machine: requests through the owner contexts, mailbox pushes and the post port
(19_drv_launch.md R408 to R410, R414, R415, R420, R425 to R427; 04_memory.md R114; 05_ordering.md R132): the meanings of
HOST_READ, HOST_WRITE, HOST_ATOMICOP, MAILBOX_PUSH and POST_PORT_POST. A request of the aperture sets out as accesses, one for
each block; its answer carries its number.
-/

namespace Sys2Proof.Machine

/-! ## Registers of an owner (R414, R415, R420) -/

/-- octl as it reads (R415). -/
def Owner.octl (o : Owner) : Word :=
  w64 ((if o.circ then 8 else 0) + (if o.conv then 4 else 0) + (if o.live then 2 else 0) + (if o.keyvalid then 1 else 0))

/-- Word i of a range entry as it reads (R420): its reserved bits, [63:52] of the address and of the length and [35:10] and [1]
of the control word, read zero (R6), whatever was written; the entry is malformed by what was written (R419). -/
def RangeE.word (r : RangeE) : Nat → Word
  | 0 => r.va &&& w64 (2 ^ 52 - 1)
  | 1 => r.len &&& w64 (2 ^ 52 - 1)
  | 2 => r.target
  | _ => r.ctl &&& ~~~(w64 (2 ^ 36 - 2 ^ 10 + 2))
/-- That word written; the pins stay with the device (R417). -/
def RangeE.setWord (r : RangeE) (i : Nat) (w : Word) : RangeE :=
  match i with
  | 0 => { r with va := w }
  | 1 => { r with len := w }
  | 2 => { r with target := w }
  | _ => { r with ctl := withPins w (bitsOf r.ctl 52 12) }

/-- Offset a of an owner's registers lies in its range entries. -/
def rangeOff (a : Nat) : Bool := decide (0x800 ≤ a) && decide (a < 0x1000)
/-- Offset a lies in the key. -/
def keyOff (a : Nat) : Bool := decide (0x40 ≤ a) && decide (a < 0x80)

/-- The register at an offset of an owner's registers, as it reads; none where there is none (R414). -/
def Owner.reg (o : Owner) (a : Nat) : Option Word :=
  if a % 8 ≠ 0 then none
  else if a = 0 then some o.octl
  else if a = 8 then some (w64 o.root)
  else if a = 0x10 then some (w64 o.aperture)
  else if a = 0x18 then some o.terr
  else if keyOff a then some 0
  else if rangeOff a then some ((mget RangeE.rest o.ranges ((a - 0x800) / 32)).word (a / 8 % 4))
  else none

/-- A word written to a register of an owner (R7, R414, R415, R420). -/
def State.ownerWrite (s : State) (o a : Nat) (w : Word) : Out :=
  let bad : Out := .next (s.badWrite (ownerOff o a) w)
  let x := s.ownerAt o
  if a = 0 then execOctlWrite o w s
  else if a = 8 then .next (s.onOwner o fun y => { y with root := w.toNat % 2 ^ 40 / 2 ^ 17 * 2 ^ 17 })
  else if a = 0x10 then .next (s.onOwner o fun y => { y with aperture := w.toNat % 2 ^ 52 / 2 ^ 30 * 2 ^ 30 })
  else if a = 0x18 then .next s
  else if a = 0x78 then execKeyInstall o w s
  else if keyOff a then
    if x.live then bad else .next (s.onOwner o fun y => { y with keyBuf := mset 0 y.keyBuf ((a - 0x40) / 8) w })
  else if rangeOff a then
    if (mget RangeE.rest x.ranges ((a - 0x800) / 32)).ctl.getLsbD 0 then bad
    else .next (s.onOwner o fun y =>
      { y with ranges := mmod RangeE.rest y.ranges ((a - 0x800) / 32) fun r => r.setWord (a / 8 % 4) w })
  else bad

/-! ## Requests (R409, R410) -/

/-- A request ends with Unsupported Request: a read gets no bytes, and the request is logged (R409, R410). -/
def State.unsupported (s : State) (kind off len : Nat) (answered : Bool) : State :=
  let s := if answered then s.answer s.ev.asked [] else s
  s.logHost [w64 s.beat, w64 kind, w64 off, w64 len]

/-- Where an aperture address leads with a right (R409): the entry carries the host bit and is of kind HBM or die shared
memory. -/
def State.hostLoc (s : State) (off : Nat) (r : Right) (sysatomic : Bool) : Option Loc :=
  let o := off / 2 ^ 36
  let va := (s.ownerAt o).aperture + (off % 2 ^ 36 - 2 ^ 30)
  if 16 ≤ o ∨ off % 2 ^ 36 < 2 ^ 30 ∨ 2 ^ 52 ≤ va ∨ s.boot.state = 8 then none
  else match s.translate o va r with
    | .ok h => if h.ctl.getLsbD 8 && decide (ctlKind h.ctl < 2) && (!sysatomic || h.ctl.getLsbD 5) then some h.loc else none
    | .error _ => none

/-- Those parts with their places; none where one of them leads nowhere. -/
def State.hostPlaces (s : State) (off n : Nat) (r : Right) : Option (List (Loc × Nat)) :=
  (hostParts (n + 1) off n).mapM fun p => (s.hostLoc p.1 r false).map fun l => (l, p.2)

/-- What the lookup of a request's first part without a place leaves behind (R414, R464). -/
def State.noteHost (s : State) (off n : Nat) (r : Right) : State :=
  match (hostParts (n + 1) off n).find? fun p => (s.hostLoc p.1 r false).isNone with
  | some p =>
    let o := p.1 / 2 ^ 36
    let va := (s.ownerAt o).aperture + (p.1 % 2 ^ 36 - 2 ^ 30)
    if 16 ≤ o ∨ p.1 % 2 ^ 36 < 2 ^ 30 ∨ 2 ^ 52 ≤ va ∨ s.boot.state = 8 then s else s.noteLookup o va
  | none => s

/-- An access of the host at a place: a part of request no. Posted writes take the order of a queue (R132). -/
def hostAccess (owner : Nat) (l : Loc) (op : AOp) (no part : Nat) : Access :=
  { agent := .host, core := 0, task := 0, owner := owner, loc := l, va := 0, op := op, dst := 0, pc := 0, issue := 0, ix := 0,
    six := 0, lq := false, sq := op.writes && !op.answers, epoch := 0, scope := 9, job := no, part := part, hist := 0,
    sync := none, chain := 0, depth := 0, stage := .queued, due := 0, res := .none, flags := 0 }

/-- A request is numbered. -/
def State.numbered (s : State) : State := { s with ev := { s.ev with asked := s.ev.asked + 1 } }

/-- The accesses of a request set out: op i is what part i does. -/
def State.sendParts (s : State) (o : Nat) (op : Nat → AOp) : List Loc → Nat → State
  | [], _ => s
  | l :: t, i =>
    let (id, s) := s.fresh
    (s.setAcc id (some (hostAccess o l (op i) s.ev.asked i))).sendParts o op t (i + 1)

/-- A request that is answered sets out (R409, R410). -/
def State.sendRequest (s : State) (o off n : Nat) (op : Nat → AOp) (ls : List Loc) : State :=
  if ls = [] then s.answer s.ev.asked []
  else
    let r : HostReq := ⟨s.ev.asked, off, n, ls.length, [], false⟩
    { s with ev := { s.ev with reqs := s.ev.reqs ++ [r] } }.sendParts o op ls 0

/-- HOST_READ (R114, R132, R409) -/
def execHostRead (off len : Nat) (s : State) : Out :=
  let o := off / 2 ^ 36
  let s := s.numbered
  if off % 2 ^ 36 < 2 ^ 16 ∧ o < 16 ∧ len = 8 ∧ s.boot.state ≠ 8 then
    match (s.ownerAt o).reg (off % 2 ^ 36) with
    | some w => .next (s.answer s.ev.asked (leBytes w.toNat 8))
    | none => .next (s.unsupported 0 off len true)
  else match s.hostPlaces off len .read with
    | none => .next ((s.noteHost off len .read).unsupported 0 off len true)
    | some ps => .next (s.sendRequest o off len (fun _ => .rblk) (ps.map Prod.fst))

/-- What part i of a write of bytes writes, of parts of these lengths: a whole block takes the tag that comes with it, if one does,
else a free one (log 30, log 160). -/
def State.hostBlock (s : State) (bytes : List Byte) (tags : List Tag) (ns : List Nat) (i : Nat) : AOp :=
  let k := (ns.take i).foldl (· + ·) 0
  let n := ns.getD i 0
  .wblk 0 n (blkOfBytes ((bytes.drop k).take n) (tags.getD i (Config.hostTag (s.free + i))))

/-- HOST_WRITE (R114, R132, R207, R409) -/
def execHostWrite (off : Nat) (data : HostData) (s : State) : Out :=
  let o := off / 2 ^ 36
  let bytes := data.bytes
  let s := s.numbered
  if off % 2 ^ 36 < 2 ^ 16 ∧ o < 16 ∧ bytes.length = 8 ∧ s.boot.state ≠ 8 then
    match (s.ownerAt o).reg (off % 2 ^ 36) with
    | some _ => s.ownerWrite o (off % 2 ^ 36) (w64 (leNat bytes))
    | none => .next (s.unsupported 1 off bytes.length false)
  else match s.hostPlaces off bytes.length .write with
    | none => .next ((s.noteHost off bytes.length .write).unsupported 1 off bytes.length false)
    | some ps => .next ({ s with free := s.free + ps.length }.sendParts o
        (s.hostBlock bytes data.tags (ps.map Prod.snd)) (ps.map Prod.fst) 0)

/-- The operation of an AtomicOp that the function completes. -/
def hostAtomicOp (op : HostAtomic) (width : Nat) (b cmp : Word) : Option AOp :=
  if width ≠ 4 ∧ width ≠ 8 then none
  else match op with
    | .fetchAdd => some (.amo 0 width false b)
    | .swap => some (.amo 7 width false b)
    | .cas => some (.cas width false b cmp)
    | .other => none

/-- HOST_ATOMICOP (R114, R410): the old value is the answer; refused as an uncorrectable block or a cell, it gets none -/
def execHostAtomicop (off width : Nat) (op : HostAtomic) (b cmp : Word) (s : State) : Out :=
  let s := s.numbered
  match hostAtomicOp op width b cmp, s.hostLoc off .atomic true with
  | some x, some l =>
    if !s.feature 7 || off % width != 0 then .next (s.unsupported 2 off width true)
    else .next (s.sendRequest (off / 2 ^ 36) off width (fun _ => x) [l])
  | _, _ => .next ((s.noteHost off width .atomic).unsupported 2 off width true)

/-! ## Mailboxes and the post port (R425 to R427) -/

/-- MAILBOX_PUSH (R132, R425, R426): a posted write too, which waits for those before it; a ninth word is dropped; in launch mode
records are taken -/
def execMailboxPush (core : Nat) (w : Word) (s : State) : Out :=
  if 192 ≤ core then .next s
  else if s.boot.state = 8 then .next (s.unsupported 1 (64 * core) 8 false)
  else if s.ev.pushes ≠ [] ∨ s.hostWriteBefore s.nextId then
    .next { s with ev := { s.ev with pushes := s.ev.pushes ++ [(core, w, s.nextId)] } }
  else .next ((s.onCore core fun c => c.pushMail w).mailLoop core 9)

/-- The descriptor in the buffer of a die's post port. -/
def Die.postWords (d : Die) : List Word :=
  (List.range 16).map fun i => w64 (leNat (mgetList 0 d.postBuf (8 * i) 8))

/-- A window post of the buffer words ws from the port of die, to timetable dest, for owner o. -/
def State.windowPost (s : State) (die dest o : Nat) (ws : List Word) : State :=
  let r := s.postDesc dest ws o none 0 none
  r.2.onDie die fun d => { d with postRes := r.1 }

/-- Window posts that found a full beat are accepted in their order, four on a beat (R43). -/
def State.servePosts (s : State) (dest : Nat) : State :=
  let l := (s.dieAt dest).posting
  let k := 4 - (s.dieAt dest).posts
  (l.take k).foldl (fun t e => t.windowPost e.1 dest e.2.1 e.2.2) (s.onDie dest fun d => { d with posting := d.posting.drop k })

/-- POST_PORT_POST (R41 to R43, R427): bit 8 posts the buffer for the owner in [3:0]. A timetable accepts four posts on a
beat; a further one waits for a later beat. -/
def execPostPortPost (die : Nat) (w : Word) (s : State) : Out :=
  if s.boot.state = 8 then .next (s.noService (0x100000 + 0x20000 * die + 0x80)) else
  let ws := (s.dieAt die).postWords
  let dest := descDie ws
  let d := s.dieAt dest
  if 8 ≤ die ∨ !w.getLsbD 8 then .next s
  else if 4 ≤ d.posts ∨ d.posting ≠ [] then
    .next (s.onDie dest fun d => { d with posting := d.posting ++ [(die, bitsOf w 0 4, ws)] })
  else .next (s.windowPost die dest (bitsOf w 0 4) ws)

end Sys2Proof.Machine
end

