-- ==== Sys2Proof/Machine/Conveyor.lean ====
section
/-!
DEFINITION. The conveyor: where slots stand, what a station does to the slot that has reached it, parcels, claims and
refusals (06_conveyor.md R136 to R156; 17_prog_sync.md R390; 02_execution.md R59): the meanings of STATION_LOAD, STATION_ADD,
STATION_COPY, STATION_TAKE, STATION_FLAG_RAISE, HAND_TAKES_EFFECT, HAND_WITHHOLD, PARCEL_BOARD, SLOT_CLAIM, PARCEL_DELIVERY,
FULL_SLOT_RETURN, HEADER_ERROR and GROUP_QUARANTINE_END.
-/

namespace Sys2Proof.Machine

/-! ## Slots (R136, R139) -/

/-- The slot of a strand that stands at the station of a mortise on a beat. -/
def slotNow (strand mort beat : Nat) : Nat :=
  if strand < 8 then (posOf mort + 64 - beat % 64) % 64 else (posOf mort + beat) % 64
/-- The beat of a rotation on which a slot stands at a station. -/
def slotBeat (strand mort slot : Nat) : Nat :=
  if strand < 8 then (posOf mort + 64 - slot) % 64 else (slot + 64 - posOf mort) % 64
/-- The number of that slot among all strands. -/
def State.keyNow (s : State) (strand mort : Nat) : Nat := 64 * strand + slotNow strand mort s.beat
/-- A slot. -/
def Conv.slot (c : Conv) (key : Nat) : CSlot := mget CSlot.rest c.slots key
/-- A slot written. -/
def Conv.putSlot (c : Conv) (key : Nat) (x : CSlot) : Conv := { c with slots := mset CSlot.rest c.slots key x }
/-- An emptied slot: only a claim stays (R139). -/
def CSlot.emptied (x : CSlot) : CSlot := { CSlot.rest with claimer := x.claimer }
/-- A bit enters the CRC-16 of polynomial 0x1021. -/
def crcStep (c : Nat) (b : Bool) : Nat := if (32768 ≤ c) != b then (2 * c % 65536) ^^^ 0x1021 else 2 * c % 65536
/-- The CRC-16 of bits 0 to n - 1 of a word, the highest first, from 0xFFFF (R139, log 150). -/
def crc16 (x : BitVec 256) (n : Nat) : Nat := (List.range n).foldl (fun c i => crcStep c (x.getLsbD (n - 1 - i))) 0xFFFF

/-- The header of a slot with its check field (R139). -/
def CSlot.header (x : CSlot) : BitVec 256 :=
  let bit (b : Bool) (i : Nat) : Nat := if b then 2 ^ i else 0
  let (cls, tags, npar) : Nat × List Tag × Nat := match x.cls with
    | .empty => (0, [], 0)
    | .hand => (1, x.pay.map Blk.tag, 0)
    | .parcels => (2, [], x.parcels.foldl (fun n p => n + p.rows) 0)
  let h := BitVec.ofNat 256
    (bit x.error 182 + bit x.sat 181 + x.fp.toNat * 2 ^ 176 + x.src % 64 * 2 ^ 170 + x.dst % 64 * 2 ^ 164 + npar % 16 * 2 ^ 160
      + bit x.full 159 + (x.claimer.map posOf).getD 0 * 2 ^ 153 + bit x.claimer.isSome 152 + cls * 2 ^ 150 + x.mode % 4 * 2 ^ 148
      + x.handle % 2 ^ 20 * 2 ^ 128
      + ((List.range tags.length).zip tags).foldl (fun n e => n + e.2.toNat * 2 ^ (16 * e.1)) 0)
  h ||| BitVec.ofNat 256 (crc16 h 240 * 2 ^ 240)
/-- A header passes the check of a station (R139). -/
def headerOk (h : BitVec 256) : Bool := bitsOf h 240 16 == crc16 h 240

/-- A count of a station raised by one, held at the largest value of its field (R156). -/
def bump (hi : Nat) (m : SMap Nat) (k : Nat) : SMap Nat := mmod 0 m k fun n => min hi (n + 1)

/-- The slot at a station is emptied as stale (R148, R150). -/
def Conv.emptyStale (c : Conv) (key st : Nat) : Conv :=
  { c.putSlot key (c.slot key).emptied with stale := bump 65535 c.stale st }

/-! ## Entries in force (R140, R148) -/

/-- The entry of a table key that acts on a beat, with the act index it has now: an accepted installation's is 0. -/
def Conv.entryFor (c : Conv) (ek beat : Nat) : BitVec 128 × Nat :=
  match inForce ((c.installs.filter fun i => i.key == ek).map fun i => (64 * i.rot, i.entry)) beat with
  | some (_, e) => (e, 0)
  | none => ((mget SEntry.rest c.tables ek).word, (mget SEntry.rest c.tables ek).act)

/-- HAND_TAKES_EFFECT (R148): the slot now at a station meets the entries that are due; a slot that has left every hand is
emptied of what a hand left in it -/
def execHandTakesEffect (strand mort : Nat) (s : State) : Out :=
  if 16 ≤ strand ∨ 28 ≤ mort then .next s
  else
    let key := s.keyNow strand mort
    let ek := entryKey strand mort (key % 64)
    let due (i : Install) : Bool := i.key == ek && decide (64 * i.rot ≤ s.beat)
    let c := s.conv
    let c := if c.installs.any due then
        { c with tables := mset SEntry.rest c.tables ek ⟨(c.entryFor ek s.beat).1, 0⟩
                 installs := c.installs.filter fun i => !due i } else c
    let c := if (c.slot key).cls == .hand && c.slotOwner key (s.beat / 64) == none then c.emptyStale key (linkKey mort strand)
      else c
    .next { s with conv := c }

/-! ## Buffers (R140, R143, R390) -/

/-- The owner of an entry's group. -/
def State.entOwner (s : State) (w : BitVec 128) : Nat := (s.groupAt (handleId (entHandle w))).owner
/-- The place at an offset of an entry's buffer at the station of a mortise. -/
def entLoc (w : BitVec 128) (mort off : Nat) : Loc :=
  match entKind w with
  | 0 => .scr (24 * mort + entCore w) off
  | 1 => .dsm mort off
  | _ => .hbm off
/-- The address of an entry's buffer at an act. -/
def entAddr (w : BitVec 128) (act : Nat) : Nat := entOffset w + act * entStep w
/-- The module between a station and its passenger is retraining or down (R390). -/
def State.behindDown (s : State) (strand mort : Nat) : Bool := !(s.moduleAt (linkKey mort strand)).open_

/-- A block that a station reads, and whether the read fails: an uncorrectable block, a bad tag, a cell, an unallocated offset
(R143, R177). Words that nothing has written read as zero. -/
def State.stationBlk (s : State) (owner : Nat) (l : Loc) : Bool × Blk :=
  let b := blkOf l
  let out := match l with
    | .scr n o => !s.inRegion n o 64
    | _ => pocOf s.placing l == 20000
  (out || mget false s.mem.bad b || !tagOk (s.feature 1) (mget 0 s.mem.tags b) || s.isCell b,
    s.mem.maskedBlk b (s.mem.blkUnder (s.keyOf owner) b))

/-- A chunk of a buffer that does not lie at a multiple of 512 (R87). -/
def entSkew (w : BitVec 128) (act : Nat) : Bool := entMode w == 3 && entForm w == 1 && entAddr w act % 512 != 0

/-- The buffer of an entry at an act, as it stands now. -/
def State.stationRead (s : State) (w : BitVec 128) (strand mort act : Nat) : Bool × List Blk :=
  let l := (List.range (entStep w / 64)).map fun i => s.stationBlk (s.entOwner w) (entLoc w mort (entAddr w act + 64 * i))
  (s.behindDown strand mort || entSkew w act || l.any Prod.fst, l.map Prod.snd)

/-- The key of a buffer read: entry, rotation of the act, act index. -/
def readKey (ek beat act : Nat) : Nat := (3 * ek + beat / 64 % 3) * 65536 + act

/-- The buffer read of an entry for the act on a beat, for each act index that it may then have. -/
def State.snap (s : State) (ek beat : Nat) (w : BitVec 128) (acts : List Nat) : State :=
  let c := { s.conv with reads := mclear s.conv.reads (readKey ek beat 0) 65536, coming := mset 0 s.conv.coming (readKey ek beat 0) 0 }
  { s with conv := acts.foldl (fun c a =>
      { c with reads := mset none c.reads (readKey ek beat a) (some (s.stationRead w (ek / 1792) (ek / 64 % 28) a)) }) c }

/-- What a read for an act index brings crosses the module to the station; its blocks are counted until they are there (R386,
R390). -/
def State.carryRead (s : State) (strand mort key act : Nat) : State :=
  let l := ((mget none s.conv.reads (key + act)).map Prod.snd).getD []
  if s.behindDown strand mort then s
  else (s.onConv fun c => { c with coming := mset 0 c.coming key l.length }).enterModule (linkKey mort strand) true (l.map (.read key))

/-- What a read for the act on a beat has brought, and whether it failed: what has not come through its module by then has failed
(R143, R390). -/
def State.readFor (s : State) (ek act : Nat) : Bool × List Blk :=
  let r := (mget none s.conv.reads (readKey ek s.beat act)).getD (true, [])
  (r.1 || mget 0 s.conv.coming (readKey ek s.beat 0) != 0, r.2)

/-- An entry reads its buffer. -/
def entReads (w : BitVec 128) : Bool := entOp w == 1 || entOp w == 3

/-- The reads of a beat (R143): for the acts 128 beats later, and, of an installation accepted on the beat before, for a first
act that is nearer. They see what was performed before this beat. -/
def State.stationReads (s : State) : State :=
  let keys := (s.conv.tables.map Prod.fst ++ s.conv.installs.map Install.key).eraseDups
  let s := (keys.filter fun ek => slotNow (ek / 1792) (ek / 64 % 28) s.beat == ek % 64).foldl (fun t ek =>
    let (w, i) := t.conv.entryFor ek (t.beat + 128)
    if entReads w then
      (t.snap ek (t.beat + 128) w ((List.range 3).map fun k => (i + k) % entActs w)).carryRead (ek / 1792) (ek / 64 % 28)
        (readKey ek (t.beat + 128) 0) (i % entActs w)
    else t) s
  s.conv.installs.foldl (fun t i =>
    let first := 64 * i.rot + slotBeat (i.key / 1792) (i.key / 64 % 28) (i.key % 64)
    if i.taken + 1 = t.beat ∧ first < t.beat + 128 ∧ entReads i.entry then
      (t.snap i.key first i.entry [0]).carryRead (i.key / 1792) (i.key / 64 % 28) (readKey i.key first 0) 0
    else t) s

/-! ## Sums (R144, R145) -/

/-- Eight blocks as a chunk. -/
def chunkOfBlks (l : List Blk) : Chunk := l.foldr (fun b c => (c <<< 512) ||| b.data.setWidth 4096) 0
/-- A chunk as eight blocks tagged as one (R87). -/
def blksOfChunk (c : Chunk) : List Blk := (List.range 8).map fun i => ⟨c.extractLsb' (512 * i) 512, 0x1000⟩
/-- The values of elements 0 to 11 of a value block; none where its format is neither FP32 nor BF16 (R145). -/
def valueBlock (b : Blk) : Option (List Val) :=
  match tagFmt b.tag with
  | 3 => some ((List.range 12).map fun i => decode .f32 0 (b.nat (4 * i) 4))
  | 4 => some ((List.range 12).map fun i => decode .b16 0 (b.nat (2 * i) 2))
  | _ => none
/-- Values added into a chunk (R88). -/
def chunkAdd (c : Chunk) (vs : List Val) : Chunk := chunkOf (List.zipWith Acc.addVal (chunkAccs c) vs)
/-- All blocks carry a format. -/
def allFmt (f : Nat) (l : List Blk) : Bool := l.all fun b => tagFmt b.tag == f

/-- The payload that a load of an entry gives a slot; none where the buffer is not of the shape that its mode names (R145). -/
def loadPay (w : BitVec 128) (l : List Blk) : Option (List Blk) :=
  if entMode w ≠ 3 then some l
  else if entForm w = 1 then if allFmt 0x10 l then some (blksOfChunk (chunkOfBlks l)) else none
  else (l.head?.bind valueBlock).map fun vs => blksOfChunk (chunkAdd 0 vs)

/-- Sixteen lanes of a block combined with another's, with flags. -/
def laneBlk (f : Nat → Nat → Nat × Flags) (a b : Blk) : Blk × Flags :=
  let r := laneZip 32 f a.data.toNat b.data.toNat 16
  (⟨BitVec.ofNat 512 r.1, a.tag⟩, r.2)

/-- A payload combined with a buffer in an entry's mode: the new payload, whether a lane was held, and flags; none where a
block is not of the format that the mode names (R144, R145). -/
def addPay (w : BitVec 128) (p l : List Blk) : Option (List Blk × Bool × Flags) :=
  let lanes (f : Nat → Nat → Nat × Flags) (fmt : Nat) : Option (List Blk × Flags) :=
    if allFmt fmt p && allFmt fmt l && p.length == l.length then
      let r := List.zipWith (laneBlk f) p l
      some (r.map Prod.fst, r.foldl (fun u e => u ||| e.2) 0)
    else none
  match entMode w with
  | 0 => (lanes (fun a b => (a + b, 0)) 2).map fun r => (r.1, false, 0)
  | 1 => (lanes satAdd32 2).map fun r => (r.1, r.2 != 0, 0)
  | 2 => (lanes (fpAdd .f32) 3).map fun r => (r.1, false, r.2)
  | _ =>
    let c := chunkOfBlks p
    if !allFmt 0x10 p then none
    else if entForm w = 1 then
      if allFmt 0x10 l then some (blksOfChunk (chunkMerge c (chunkOfBlks l)), false, 0) else none
    else (l.head?.bind valueBlock).map fun vs => (blksOfChunk (chunkAdd c vs), false, 0)

/-- What a copy or take of an entry writes of a payload, with the flags of its rounding (R145). -/
def takePay (w : BitVec 128) (p : List Blk) : List Blk × Flags :=
  if entMode w ≠ 3 ∨ entForm w = 1 then (p, 0)
  else
    let (f, n, t) : NFmt × Nat × Tag := if entForm w = 0 then (.f32, 4, 0x0300) else (.b16, 2, 0x0400)
    let r := (chunkAccs (chunkOfBlks p)).map (Acc.take f)
    ([⟨BitVec.ofNat 512 (leNat (r.flatMap fun e => leBytes e.1 n)), t⟩], r.foldl (fun u e => u ||| e.2) 0)

/-! ## Acts (R142 to R145) -/

/-- Block i of the deposit of an act sets out for its point of coherence (R97, R99, R110, R143). Its epoch is the beat of the act,
its task the hand: what a hand deposits at a station is performed in the order of the slots that carry it (R133). -/
def State.depositBlk (s : State) (w : BitVec 128) (strand mort id i off : Nat) (b : Blk) : State :=
  let (a, s) := s.fresh
  s.setAcc a (some
    { agent := .station, core := 24 * mort, task := entHandle w, owner := s.entOwner w, loc := entLoc w mort off, va := off,
      op := .wblk 0 64 b, dst := entHandle w, pc := strand, issue := 0, ix := 0, six := 0, lq := false, sq := true, epoch := s.beat
      scope := 9, job := id, part := i, hist := 0, sync := entSync w, chain := 0, depth := 0, stage := .queued, due := 0
      res := .none, flags := 0 })

/-- An entry pushed into a copy output; without a channel bound or room for it, it is an overrun (R143, R252). -/
def State.pushCopy (s : State) (strand mort : Nat) (w : Word) : State :=
  let d := s.dieAt mort
  if (mget none d.binders strand).isNone ∨ 16 ≤ (mget [] d.copies strand).length then
    s.onConv fun c => { c with overrun := bump 255 c.overrun (linkKey mort strand) }
  else s.onDie mort fun d => { d with copies := mset [] d.copies strand (mget [] d.copies strand ++ [w]) }

/-- A deposit of a payload by an entry at an act with a number: the flags of its rounding. -/
def State.deposit (s : State) (w : BitVec 128) (strand mort act id : Nat) (p : List Blk) : Flags × State :=
  if entKind w = 3 then (0, s.pushCopy strand mort ((p.headD Blk.zero).word 0))
  else
    let (l, fl) := takePay w p
    (fl, (List.range l.length).foldl (fun u i =>
      u.depositBlk w strand mort id i (entAddr w act + 64 * i) (l.getD i Blk.zero)) s)

/-- The first uncorrectable block of an entry's buffer at an act is counted (R464). -/
def State.countBuf (s : State) (w : BitVec 128) (mort act : Nat) : State :=
  let ls := (List.range (entStep w / 64)).map fun i => entLoc w mort (entAddr w act + 64 * i)
  match ls.find? fun l => mget false s.mem.bad (blkOf l) with
  | some l => s.countUncorr l
  | none => s

/-- What an act leaves: the slot, the flags of a rounding, and the state. -/
structure Act where
  slot : CSlot
  flags : Flags
  state : State

/-- A load at an act (R142, R143). -/
def State.actLoad (s : State) (w : BitVec 128) (ek mort act : Nat) (x : CSlot) : Act :=
  if x.cls ≠ .empty then ⟨{ x with error := true }, 0, s⟩
  else
    let (bad, l) := s.readFor ek act
    let p := loadPay w l
    ⟨{ x with cls := .hand, handle := entHandle w, mode := entMode w, src := posOf mort, error := bad || p.isNone,
              pay := p.getD [] }, 0, s⟩

/-- An add at an act (R142 to R144). -/
def State.actAdd (s : State) (w : BitVec 128) (ek act : Nat) (x : CSlot) : Act :=
  let (bad, l) := s.readFor ek act
  let r := if bad || x.mode != entMode w then none else addPay w x.pay l
  match r with
  | some (p, sat, fl) => ⟨{ x with pay := p, sat := x.sat || sat, fp := x.fp ||| fl }, 0, s⟩
  | none => ⟨{ x with error := true }, 0, s⟩

/-- A payload that an entry of exact mode rounds is no chunk (R87). -/
def notChunk (w : BitVec 128) (p : List Blk) : Bool := entMode w == 3 && entForm w != 1 && !(allFmt 0x10 p && p.length == 8)

/-- A copy or a take at an act with a number (R87, R142, R143, R390). -/
def State.actDeposit (s : State) (w : BitVec 128) (strand mort act id : Nat) (take : Bool) (x : CSlot) : Act :=
  let bad := (take && x.mode != entMode w) || (entKind w != 3 && s.behindDown strand mort) || notChunk w x.pay
  let x := if bad then { x with error := true } else x
  if x.error then ⟨x, 0, s⟩
  else
    let (fl, s) := s.deposit w strand mort act id x.pay
    ⟨x, fl, s⟩

/-- The act index after an act; an entry of one cycle becomes pass after it (R140). -/
def SEntry.advance (e : SEntry) : SEntry :=
  if e.act + 1 < entActs e.word then { e with act := e.act + 1 }
  else if entOnce e.word then SEntry.rest else { e with act := 0 }

/-- The bits that a raising act leaves in its station flag; a refused deposit adds the failed bit (R146). -/
def raiseBits (x : CSlot) (fl : Flags) : Word :=
  w64 ((if x.error then 128 else 0) + (if x.sat then 64 else 0) + (x.fp ||| fl).toNat)

/-- A station acts by an entry of operation op on the slot that has reached it (R142). -/
def State.station (s : State) (strand mort op : Nat) : State :=
  if 16 ≤ strand ∨ 24 ≤ mort then s
  else
    let key := s.keyNow strand mort
    let ek := entryKey strand mort (key % 64)
    let e := mget SEntry.rest s.conv.tables ek
    let x := s.conv.slot key
    if entOp e.word ≠ op ∨ op = 0 ∨ x.cls = .parcels ∨ (x.cls = .empty ∧ op ≠ 1) then s
    else if x.cls = .hand ∧ x.handle ≠ entHandle e.word then s.onConv fun c => c.emptyStale key (linkKey mort strand)
    else
      let (id, s) := s.fresh
      let a := match op with
        | 1 => s.actLoad e.word ek mort e.act x
        | 3 => s.actAdd e.word ek e.act x
        | _ => s.actDeposit e.word strand mort e.act id (op == 4) x
      let u := if entReads e.word then a.state.countBuf e.word mort e.act else a.state
      let t := u.onConv fun c =>
        { c.putSlot key (if op = 4 then a.slot.emptied else a.slot) with tables := mset SEntry.rest c.tables ek e.advance }
      if entRaise e.word then
        t.onDie mort fun d =>
          { d with flagsDue := d.flagsDue ++ [⟨s.beat + 32, entFlag e.word, id, raiseBits a.slot a.flags⟩] }
      else t

/-- STATION_LOAD (R142, R143) -/
def execStationLoad (strand mort : Nat) (s : State) : Out := .next (s.station strand mort 1)
/-- STATION_COPY (R142, R143) -/
def execStationCopy (strand mort : Nat) (s : State) : Out := .next (s.station strand mort 2)
/-- STATION_ADD (R142 to R145) -/
def execStationAdd (strand mort : Nat) (s : State) : Out := .next (s.station strand mort 3)
/-- STATION_TAKE (R142, R143, R145) -/
def execStationTake (strand mort : Nat) (s : State) : Out := .next (s.station strand mort 4)

/-- STATION_FLAG_RAISE (R133, R146): the acts of 32 beats ago raise their flags -/
def execStationFlagRaise (die : Nat) (s : State) : Out :=
  let now := (s.dieAt die).flagsDue.filter fun e => decide (e.due ≤ s.beat)
  .next (s.onDie die fun d =>
    { d with
      flagsDue := d.flagsDue.filter fun e => !decide (e.due ≤ s.beat)
      sflags := now.foldl (fun m e => mmod 0 m e.flag fun w => (w + 0x100000000) ||| e.bits) d.sflags })

/-- HEADER_ERROR (R139): the header of the slot at a station comes with these bits inverted. Where its check fails, what was aboard
is lost, and no refusal waits for it; an error that the check does not see is none (log 150) -/
def execHeaderError (strand : Nat) (e : HeaderNoise) (s : State) : Out :=
  let mort := e.mort
  if 16 ≤ strand ∨ 28 ≤ mort then .next s
  else if headerOk ((s.conv.slot (s.keyNow strand mort)).header ^^^ e.noise) then .next s
  else
    let key := s.keyNow strand mort
    .next (s.onConv fun c =>
      { c.putSlot key (c.slot key).emptied with
        hdrerr := bump 255 c.hdrerr (linkKey mort strand)
        blocked := (c.blocked.map fun e => (e.1, e.2.filter (· != key))).filter fun e => e.2 != [] })

/-! ## Parcels (R148, R151 to R155) -/

/-- A best-effort slot that a hand takes from the next rotation on (R148). -/
def Conv.withheld (c : Conv) (key n : Nat) : Bool := c.slotOwner key n == none && c.slotOwner key (n + 1) != none
/-- A slot that a station may board or claim at a rotation, but for a claim of another. -/
def Conv.open_ (c : Conv) (key n : Nat) : Bool := c.slotOwner key n == none && c.slotOwner key (n + 1) == none

/-- The key of the refusals between two positions on a strand. -/
def blockKey (strand src dst : Nat) : Nat := (64 * strand + src) * 64 + dst
/-- The destinations for which a station has parcels waiting on a strand. -/
def Conv.waitingFor (c : Conv) (strand mort : Nat) : List Nat :=
  (List.range 28).filter fun d => strandTo mort d == strand && mget [] c.queues (28 * mort + d) != []
/-- Of those, the one whose head parcel came first and whose destination refuses nothing. -/
def Conv.boardable (c : Conv) (strand mort : Nat) : Option Nat :=
  ((c.waitingFor strand mort).filter fun d => mget [] c.blocked (blockKey strand (posOf mort) (posOf d)) == []).foldl
    (fun best d => match best with
      | none => some d
      | some b =>
        let seq (x : Nat) : Nat := ((mget [] c.queues (28 * mort + x)).head?.map Parcel.seq).getD 0
        if seq d < seq b then some d else best) none

/-- HAND_WITHHOLD (R148, R153): a slot that a hand takes with the next rotation is claimed and watched no longer -/
def execHandWithhold (strand mort : Nat) (s : State) : Out :=
  if 16 ≤ strand ∨ 28 ≤ mort then .next s
  else
    let key := s.keyNow strand mort
    if s.conv.withheld key (s.beat / 64) then
      .next (s.onConv fun c =>
        { c.putSlot key { c.slot key with claimer := none } with
          watch := c.watch.filter fun e => !(e.1 % 16 == strand && (e.2.map Watch.slot) == some key) })
    else .next s

/-- PARCEL_BOARD (R152 to R154): the station's oldest queue boards the slot now there, if it is an empty best-effort slot -/
def execParcelBoard (strand mort : Nat) (s : State) : Out :=
  if 16 ≤ strand ∨ 28 ≤ mort then .next s
  else
    let key := s.keyNow strand mort
    let x := s.conv.slot key
    match s.conv.boardable strand mort with
    | none => .next s
    | some d =>
      if x.cls ≠ .empty ∨ !s.conv.open_ key (s.beat / 64) ∨ (x.claimer != none && x.claimer != some mort) then .next s
      else
        let q := 28 * mort + d
        let (ps, rest) := takeRows 8 (mget [] s.conv.queues q)
        let w := linkKey mort strand
        .next (s.onConv fun c =>
          { c.putSlot key { CSlot.rest with cls := .parcels, src := posOf mort, dst := posOf d, parcels := ps } with
            queues := mset [] c.queues q rest
            watch := if (mget none c.watch w).map Watch.slot = some key then mset none c.watch w none else c.watch })

/-- SLOT_CLAIM (R153): the station names the slot now there as its watch slot, claims it on its second arrival, or lets go a
watch or claim that nothing waits for -/
def execSlotClaim (strand mort : Nat) (s : State) : Out :=
  if 16 ≤ strand ∨ 28 ≤ mort then .next s
  else
    let key := s.keyNow strand mort
    let x := s.conv.slot key
    let w := linkKey mort strand
    let waiting := s.conv.waitingFor strand mort != []
    let free := x.claimer == none && s.conv.open_ key (s.beat / 64)
    let put (v : Option Watch) : State := s.onConv fun c => { c with watch := mset none c.watch w v }
    match mget none s.conv.watch w with
    | none => if waiting && free then .next (put (some ⟨key, s.beat, false⟩)) else .next s
    | some v =>
      if v.slot ≠ key ∨ s.beat ≤ v.seen then .next s
      else if !waiting then
        .next ((put none).onConv fun c => if v.claimed then c.putSlot key { x with claimer := none } else c)
      else if v.claimed then .next s
      else if free then
        .next ((put (some { v with claimed := true })).onConv fun c =>
          { c.putSlot key { x with claimer := some mort } with claims := bump 65535 c.claims w })
      else .next (put none)

/-- A parcel holds its rows of an inbound buffer until it is performed: a request until its access is, a reply until it is
back (R154). -/
def State.holdsRows (s : State) (e : Nat × Nat) : Bool :=
  match s.accAt (e.1 / 2) with
  | some a => if e.1 % 2 = 1 then a.stage == .returning else a.stage == .away || a.stage == .arrived
  | none => false

/-- PARCEL_DELIVERY (R152, R154, R390): the destination takes a parcel slot whole, or refuses it with the full bit -/
def execParcelDelivery (strand mort : Nat) (s : State) : Out :=
  if 16 ≤ strand ∨ 28 ≤ mort then .next s
  else
    let key := s.keyNow strand mort
    let x := s.conv.slot key
    if x.cls ≠ .parcels ∨ x.dst ≠ posOf mort then .next s
    else
      let w := linkKey mort strand
      let bk := blockKey strand x.src x.dst
      let refused := mget [] s.conv.blocked bk
      let training := (s.moduleAt w).retrainTill.isSome
      let rows := (mget [] s.conv.rows w).filter fun e => training || s.holdsRows e
      let used : Nat := rows.foldl (fun n e => n + e.2) 0
      let need : Nat := x.parcels.foldl (fun n p => n + p.rows) 0
      if (refused.head?.any (· != key)) || decide (64 < used + need) || training then
        .next (s.onConv fun c =>
          { c.putSlot key { x with full := true } with
            refused := bump 65535 c.refused w
            blocked := if refused.contains key then c.blocked else mset [] c.blocked bk (refused ++ [key]) })
      else
        let s := s.onConv fun c =>
          { c.putSlot key x.emptied with
            blocked := mset [] c.blocked bk (refused.filter (· != key))
            rows := mset [] c.rows w (rows ++ x.parcels.map fun p => (2 * p.acc + (if p.reply then 1 else 0), p.rows)) }
        .next (s.enterModule w false (x.parcels.flatMap s.unitsOf))

/-- FULL_SLOT_RETURN (R154): the sender clears full, and the parcels stay aboard -/
def execFullSlotReturn (strand mort : Nat) (s : State) : Out :=
  if 16 ≤ strand ∨ 28 ≤ mort then .next s
  else
    let key := s.keyNow strand mort
    let x := s.conv.slot key
    if x.cls = .parcels ∧ x.src = posOf mort ∧ x.full then .next (s.onConv fun c => c.putSlot key { x with full := false })
    else .next s

/-! ## Quarantine (R59, R167) -/

/-- The package is on a truss ring (R167): some port word of its table is open, and the chain of packages from there leads back to
it, which the tables of the others say (Config.trussRing, log 148). -/
def State.onRing (s : State) : Bool :=
  let t := s.circ.active
  ((List.range t.lens.length).any fun i => (List.range 48).any fun p => wordOpen (t.word i p)) && Config.trussRing t.words

/-- The beats that an identifier stays in quarantine: one period of the circuit table where the package is on a truss ring,
else 64 (R59). -/
def State.quarantine (s : State) : Nat := if s.onRing then s.circ.active.period else 64

/-- GROUP_QUARANTINE_END (R59) -/
def execGroupQuarantineEnd (gid : Nat) (s : State) : Out :=
  let g := s.groupAt gid
  let h := gid * 256 + (g.inc - 1).toNat
  if g.st == .quarantine && decide (g.left + s.quarantine ≤ s.beat) && !s.conv.holdsHand h (s.beat / 64) &&
      (mget [] s.conv.hands h).all fun e => decide (e.1 ≤ s.beat / 64) then
    .next (s.setGroup gid { g with st := .free, members := [], gen := 0, left := 0 })
  else .next s

end Sys2Proof.Machine
end

