-- ==== Sys2Proof/Machine/Optical.lean ====
section
/-!
DEFINITION. Circuits between packages: the slot table's walk, ports, frames, parking, what is received from peers, and
collectives (07_circuits_cells.md R157 to R174; 14_ins_matrix_copy.md R341 to R344; 19_drv_launch.md R437; 21_fleet.md R469 to
R472): the meanings of DOMAIN_JOIN, CIRCUIT_SLOT_START, DATA_WINDOW_OPEN, CIRCUIT_COMMIT, CONTROL_FRAME, the frame, port and
parking events, SEND_ACCEPTED, SEND_DATA_FLIT, TRANSACTION_FLIT, COLLECTIVE_PACKET, SWEEP_ADD, COLLECTIVE_ABORT and
ABORT_FLIT. Times inside a frame are in quarter beats.
-/

namespace Sys2Proof.Machine

/-! ## Joining and commits (R159 to R163) -/

/-- Every port changed by f. -/
def State.onPorts (s : State) (f : Port → Port) : State := (List.range 48).foldl (fun t p => t.onPort p f) s

/-- A task is placed on some core. -/
def State.anyPlaced (s : State) : Bool := s.cores.any fun e => e.2.pl.task.isSome

/-- DOMAIN_JOIN (R37, R159, R160, R162): the counter takes fabric time, once and before any task is placed; the default table is
active, and every generation 0 -/
def execDomainJoin (pkg time : Nat) (s : State) : Out :=
  if s.circ.joined ∨ 4096 ≤ pkg ∨ s.anyPlaced then .next s
  else
    .next <| { s with
      beat := time
      circ := { s.circ with joined := true, pkg := pkg, active := CTable.default, staged := none, commit := none } }.onPorts
        fun p => { p with gen := 0, lit := false }

/-- Beats of the guard of every slot (R161). -/
def guardBeats : Nat := 1250

/-- CIRCUIT_SLOT_START (R161, R163, R437): every circuit is to be set up again; in slot 0 of the rotation before a commit its
words go to the switch, and ports asked to reopen begin to -/
def execCircuitSlotStart (s : State) : Out :=
  let t := s.circ.active
  let (i, off) := t.slotAt s.beat
  if !s.circ.joined || off != 0 then .next s
  else
    let sends : Bool := match s.circ.commit with
      | some (_, k) => i == 0 && t.rotation s.beat + 1 == k
      | none => false
    .next ((s.onCirc fun c => { c with wordsSent := c.wordsSent || sends }).onPorts fun p =>
      { p with
        lit := false, counted := false, used := 0, reopen := p.reopen && i != 0
        reopening := p.reopening || (p.reopen && i == 0), good := if p.reopen && i == 0 then 0 else p.good })

/-- A send or transaction ends without going further: the micro-order of a send fails, a transaction completes negatively, an
answer to a peer is given up (R165, R168, R437). -/
def State.dropOut (s : State) (o : Outgoing) (send trans : BitVec 8) : State :=
  match o.kind with
  | .trans a => match s.accAt a with
    | some x => if x.agent = .peer then s.setAcc a none else s.onAcc a fun x => { x with stage := .back, res := .err trans }
    | none => s
  | _ => if o.job = 0 then s else s.onX o.core o.job fun x => { x.failed send with sent := x.sent + 1 }

/-- A kept frame without the flits of some sends, which are not sent further (R165). -/
def FecFrame.without (f : FecFrame) (ids : List Nat) : FecFrame :=
  let l := (f.shares.zip f.heads).filter fun e => !ids.contains e.1.1
  { f with shares := l.map Prod.fst, heads := l.map Prod.snd }

/-- What waits at port p and satisfies a test ends there, and is not sent again either (R165, R437). -/
def State.flushPort (s : State) (p : Nat) (test : Outgoing → Bool) (send trans : BitVec 8) : State :=
  let gone := (s.portAt p).queues.flatMap fun q => q.2.filter test
  let ids := gone.map Outgoing.id
  let s := s.onPort p fun x =>
    { x with queues := (x.queues.map fun q => (q.1, q.2.filter fun o => !test o)).filter fun q => q.2 != []
             retry := (x.retry.map fun f => f.without ids).filter fun f => f.shares != [] }
  gone.foldl (fun t o => t.dropOut o send trans) s

/-- A transaction, not a send. -/
def Outgoing.isTrans (o : Outgoing) : Bool :=
  match o.kind with
  | .trans _ => true
  | _ => false

/-- A transaction whose peer port p no longer reaches goes to the lowest port that does, or completes negatively (R168). -/
def State.rerouteTrans (s : State) (p : Nat) : State :=
  let lost (o : Outgoing) : Bool := o.isTrans && !s.portReaches p o.peer
  let moved := (s.portAt p).queues.flatMap fun q => q.2.filter fun o => lost o && (s.portTo o.peer).isSome
  let s := s.onPort p fun x =>
    { x with queues := (x.queues.map fun q => (q.1, q.2.filter fun o => !moved.contains o)).filter fun q => q.2 != [] }
  let s := moved.foldl (fun t o => match t.portTo o.peer with
    | some d => t.enqueueSend d o
    | none => t) s
  s.flushPort p lost 0x31 0x31

/-- CIRCUIT_COMMIT (R162, R163, R165, R168): from its beat on the pending table is active -/
def execCircuitCommit (s : State) : Out :=
  match s.circ.commit with
  | none => .next s
  | some (t, k) =>
    let old := s.circ.active
    if s.beat < old.epoch + k * old.period then .next s
    else
      let changed := (List.range 48).filter (advances old t)
      let s := s.onCirc fun c => { c with active := t, commit := none, wordsSent := false }
      let s := changed.foldl (fun u p => (u.onPort p fun x => { x with gen := (x.gen + 1) % 65536, lit := false }).flushPort p
        (fun o => !o.isTrans) 0x31 0x31) s
      .next ((List.range 48).foldl State.rerouteTrans s)

/-! ## Frames and their boundaries (R158, R469, R471) -/

/-- A change of width is announced in the frame under way, or where all of that one's flits are taken in the next: it comes at the end of
that frame (R471). -/
def Port.announce (p : Port) (beat : Nat) : Port :=
  match p.noticeFrame (4 * beat) with
  | none => { p with announced := true, change := p.boundary (4 * beat + 1) }
  | some q => { p with announced := true, change := q + p.frameTime, notice := some q }

/-! ## Control frames (R159, R161, R437, R471) -/

/-- A port goes down (R437, R472): what it holds ends, and its parking state is lost. -/
def State.portDown (s : State) (p : Nat) : State :=
  if (s.portAt p).health = .down then s
  else
    let s := s.flushPort p (fun _ => true) 0x31 0x33
    (s.onPort p fun x =>
      { x with health := .down, reopen := false, reopening := false, good := 0, retry := []
               width := .awake, announced := false, relocked := false, missed := false, notice := none }).raiseMsix 28

/-- An offset measured: the second in a row beyond 4 beats enters out-of-time, one within it leaves (R159, R463). -/
def State.noteOffset (s : State) (off : Int) : State :=
  let n := if 4 < off.natAbs then s.circ.offsets + 1 else 0
  let out := decide (2 ≤ n) || (s.circ.outOfTime && decide (1 ≤ n))
  let u := s.onCirc fun c => { c with offsets := n, outOfTime := out }
  if out = s.circ.outOfTime then u else u.raiseMsix 26

/-- A flight time measured: beyond 1,000 beats a port goes down; the second within it in a row reopens one (R159, R437). -/
def State.noteFlight (s : State) (p flight : Nat) : State :=
  let s := s.onPort p fun x => { x with flight := flight % 65536 }
  if 1000 < flight then (s.portDown p).onPort p fun x => { x with good := 0 }
  else s.onPort p fun x =>
    if !x.reopening then x
    else if 1 ≤ x.good then { x with health := .up, reopening := false, good := 0 }
    else { x with good := x.good + 1 }

/-- A control frame shows the width of the port at the other end (R471). -/
def Port.heard (p : Port) (narrow : Bool) : Port := { p with peerNarrow := narrow }

/-- CONTROL_FRAME (R159, R161, R163, R437, R471): in a guard it shows that the circuit is set up, and in slot 0's it carries the
measurements; a report of lock lets a waking port announce its change -/
def execControlFrame (g : ControlInfo) (s : State) : Out :=
  if 48 ≤ g.port ∨ !s.circ.joined then .next s
  else
    let t := s.circ.active
    let (i, off) := t.slotAt s.beat
    let s := s.onPort g.port fun x =>
      (if g.lock ∧ x.width = .waking ∧ x.relocked ∧ !x.announced then x.announce s.beat else x).heard g.narrow
    if guardBeats ≤ off then .next s
    else
      let s := if i = 0 then (s.noteOffset g.offset).noteFlight g.port g.flight else s
      .next (s.onPort g.port fun x => { x with lit := x.lit || wordOpen (t.word i g.port) })

/-! ## Sending (R158, R161, R166, R168, R469) -/

/-- The bytes of a send that stand ready: a send's blocks as they are read, anything else once it is whole. -/
def Outgoing.ready (o : Outgoing) : Nat :=
  let have_ := o.blks.foldl (fun n b => n + b.2.2) 0
  match o.kind with
  | .send => have_
  | .enqueue _ _ => if have_ = o.bytes then o.bytes else 0
  | .packet g => if g.chunks = [] then 0 else o.bytes
  | .trans _ => o.bytes

/-- The next flit of a queue within a quota: the share of the send that it carries, and the queue. The first send with bytes
left is the head. Only the last flit of a share is short: one that would end neither the send nor the quota waits for its bytes (R166). -/
def nextFlit (quota : Nat) : List Outgoing → Option ((Nat × Nat × Nat) × List Outgoing)
  | [] => none
  | o :: t =>
    if o.bytes ≤ o.sent then (nextFlit quota t).map fun r => (r.1, o :: r.2)
    else
      let n := min 240 (min quota (o.ready - o.sent))
      if n = 0 ∨ (n < 240 ∧ n < quota ∧ o.sent + n < o.bytes) then none else some ((o.id, o.sent, n), { o with sent := o.sent + n } :: t)

/-- Up to k flits of a queue within a quota. -/
def takeFlits : Nat → Nat → List Outgoing → List (Nat × Nat × Nat) × List Outgoing
  | 0, _, q => ([], q)
  | k + 1, quota, q =>
    match nextFlit quota q with
    | none => ([], q)
    | some (f, q') =>
      let r := takeFlits k (quota - f.2.2) q'
      (f :: r.1, r.2)

/-- The last 64 frames stay for replay (R158). -/
def keepFrames (l : List FecFrame) : List FecFrame := l.drop (l.length - 64)

/-- The type of the flits that carry a send (R158). -/
def SendKind.flitType : SendKind → Nat
  | .trans _ => 2
  | .packet _ => 3
  | _ => 1

/-- The header of a flit that carries n bytes of a send (R158): source package, the port with its generation, the destination queue
and the number of the send, the frame. The queue field holds the peer in its upper twelve bits (log 154). -/
def flitHead (pkg port gen peer id type frame n : Nat) : BitVec 128 :=
  BitVec.ofNat 128
    (type % 16 * 2 ^ 124 + pkg % 2 ^ 12 * 2 ^ 112 + gen % 2 ^ 16 * 2 ^ 96 + port % 64 * 2 ^ 90
      + (peer % 2 ^ 12 * 2 ^ 14 + id % 2 ^ 14) * 2 ^ 64 + frame % 2 ^ 32 * 2 ^ 32 + n % 256 * 2 ^ 24)

/-- A notice that leaves with the frame at quarter beat q, or has left in an earlier one, waits no longer (R471). -/
def Port.noted (p : Port) (q : Nat) : Port :=
  { p with notice := match p.notice with
      | some x => if x ≤ q then none else some x
      | none => none }

/-- A frame of port number no leaves at quarter beat q, of at most k flits and a number of payload bytes, with what waits for a
peer; one of its flits may be a notice's (R471). -/
def Port.sendFrame (p : Port) (pkg no peer q k quota beat : Nat) : Port :=
  let queue := mget [] p.queues peer
  let k := if p.notice = some q then k - 1 else k
  let (fs, rest) := takeFlits k quota queue
  let type (id : Nat) : Nat := ((queue.find? fun o => o.id == id).map fun o => o.kind.flitType).getD 0
  let heads := fs.map fun f => flitHead pkg no p.gen peer f.1 (type f.1) p.fseq f.2.2
  if fs = [] then p
  else
    { p.noted q with
      queues := mset [] p.queues peer rest, retry := keepFrames (p.retry ++ [⟨p.fseq, peer, false, fs, 0, heads⟩])
      fseq := (p.fseq + 1) % 2 ^ 32, frameEnd := q + p.frameTime, busyAt := beat
      filled := fs.length + if p.notice = some q then 1 else 0
      used := p.used + fs.foldl (fun n f => n + f.2.2) 0 }

/-- The first kept frame of a port that its peer has asked for again, sent at quarter beat q (R158). -/
def Port.replay (p : Port) (seq q : Nat) : Port :=
  { p.noted q with replays := min 65535 (p.replays + 1), frameEnd := q + p.frameTime, filled := 16
                   retry := p.retry.map fun y => if y.seq = seq then { y with replays := y.replays + 1, again := false } else y }

/-- DATA_WINDOW_OPEN (R158, R159, R161, R163, R166, R437): in the data window of a slot that is open, a port whose circuit is set up
sends a frame at each boundary, one that is asked for again before new ones, which go up to the quota; one that stays dark is counted once -/
def execDataWindowOpen (port : Nat) (s : State) : Out :=
  let t := s.circ.active
  let (i, off) := t.slotAt s.beat
  let w := t.word i port
  let p := s.portAt port
  if 48 ≤ port ∨ !s.circ.joined ∨ !wordOpen w ∨ off < 1258 then .next s
  else if !p.lit then
    .next (if p.counted then s else s.onPort port fun x => { x with counted := true, mismatch := min 65535 (x.mismatch + 1) })
  else
    let start := s.beat - off
    let last := 4 * (start + t.lens.getD i 0 - p.flight - 8)
    let q := p.boundary (4 * s.beat)
    let k := min 16 ((last - q) / p.flitTime)
    let quota := if wordQuota w = 0 then 2 ^ 64 else wordQuota w - p.used
    if s.circ.outOfTime || p.health == .down || decide (4 * s.beat + 4 ≤ q) then .next s
    else match p.retry.find? fun f => f.again && f.peer == wordPeer w with
      | some f => if f.shares.length ≤ k then .next (s.onPort port fun x => x.replay f.seq q) else .next s
      | none => .next (s.onPort port fun x => x.sendFrame s.circ.pkg port (wordPeer w) q k quota s.beat)

/-- FRAME_REPLAY_REQUEST (R158, R159, R161, R437): the frame is to be sent again, when data may leave; one replayed four times in vain takes
the port down -/
def execFrameReplayRequest (port seq : Nat) (s : State) : Out :=
  match (s.portAt port).retry.find? fun f => f.seq == seq with
  | none => .next s
  | some f =>
    if 4 ≤ f.replays then .next (s.portDown port)
    else .next (s.onPort port fun x => { x with retry := x.retry.map fun y => if y.seq = seq then { y with again := true } else y })

/-- FEC_FRAME_UNCORRECTABLE (R158, R437): a received frame is dropped and asked for again -/
def execFecFrameUncorrectable (port seq : Nat) (s : State) : Out :=
  if 48 ≤ port then .next s
  else
    let s := s.onPort port fun x =>
      { x with uncorr := min 65535 (x.uncorr + 1), fails := x.fails + 1, asked := x.asked ++ [seq] }
    let x := s.portAt port
    if x.health = .up ∧ x.thresh ≤ x.fails then .next ((s.onPort port fun x => { x with health := .degraded }).raiseMsix 28)
    else .next s

/-- SEND_ACCEPTED (R166, R168, R332, R333, R344): the peer has performed or refused every byte of a send, or has answered a
transaction. For a send, code is that of the result record and bytes what was performed; for a transaction, code is the cause
of a refusal or 0. -/
def execSendAccepted (port id bytes code : Nat) (s : State) : Out :=
  match ((s.portAt port).queues.flatMap fun q => q.2).find? fun o => o.id == id && o.sent == o.bytes with
  | none => .next s
  | some o =>
    let s := s.onPort port fun x =>
      { x with queues := (x.queues.map fun q => (q.1, q.2.filter fun y => y.id != id)).filter fun q => q.2 != [] }
    match o.kind with
    | .trans a => match s.accAt a with
      | none => .next s
      | some x =>
        if x.agent = .peer then .next (s.setAcc a none)
        else
          let v := match x.op with
            | .load w sx => extW sx w (Config.peerReply s.free).toNat
            | .amo _ w sx _ => extW sx w (Config.peerReply s.free).toNat
            | .cas w sx _ _ => extW sx w (Config.peerReply s.free).toNat
            | .fpeek => extW false 2 (Config.peerReply s.free).toNat
            | _ => Config.peerReply s.free
          let r : Res := if code ≠ 0 then .err (BitVec.ofNat 8 code) else if x.lq then .val v else .none
          let fl : Flags := match x.op with
            | .amo 8 _ _ _ => if code = 0 then Config.peerFlags s.free else 0
            | _ => 0
          .next ({ s with free := s.free + 1 }.onAcc a fun x => { x with stage := .back, res := r, flags := fl })
    | _ =>
      if o.job = 0 then .next s
      else .next (s.onX o.core o.job fun x =>
        let x := { x with sent := x.sent + 1, bytes := x.bytes + bytes }
        if code = 0 ∨ x.code ≠ 0 then x else { x with code := code, cause := if code = 4 then 0x31 else causeRefused })

/-! ## Health and parking (R437, R469 to R472) -/

/-- PORT_REOPEN (R437): reopen is written to a down port -/
def execPortReopen (port : Nat) (s : State) : Out :=
  if s.boot.state = 8 then .next (s.noService (0x300000 + 64 * port)) else
  if port < 48 ∧ (s.portAt port).health = .down then .next (s.onPort port fun x => { x with reopen := true }) else .next s

/-- PORT_HEALTH_WINDOW (R437): the count of uncorrected frames restarts -/
def execPortHealthWindow (port : Nat) (s : State) : Out :=
  let x := s.portAt port
  if port < 48 ∧ x.winStart + 65536 * x.window ≤ s.beat then
    .next (s.onPort port fun x => { x with fails := 0, winStart := s.beat })
  else .next s

/-- Parking of an awake port whose queues are empty begins: what has been sent whole and only awaits its acceptance is in none (R471). -/
def Port.beginPark (p : Port) (beat : Nat) : Port :=
  if p.width = .awake ∧ p.waiting = 0 ∧ p.health ≠ .down then { p with width := .parking }.announce beat else p

/-- PORT_PARK (R470, R471) -/
def execPortPark (port : Nat) (s : State) : Out :=
  if s.boot.state = 8 then .next (s.noService (0x300010 + 64 * port)) else
  if port < 48 then .next (s.onPort port fun x => x.beginPark s.beat) else .next s

/-- PORT_WAKE (R470, R471) -/
def execPortWake (port : Nat) (s : State) : Out :=
  if s.boot.state = 8 then .next (s.noService (0x300010 + 64 * port)) else
  if port < 48 ∧ (s.portAt port).width = .parked then .next (s.onPort port fun x => x.beginWake s.beat) else .next s

/-- PORT_IDLE_TIMEOUT (R470, R471): idle beats have passed without a data flit -/
def execPortIdleTimeout (port : Nat) (s : State) : Out :=
  let x := s.portAt port
  if port < 48 ∧ x.idle ≠ 0 ∧ x.busyAt + x.idle ≤ s.beat then .next (s.onPort port fun x => x.beginPark s.beat) else .next s

/-- The beats from a to b that lie in no guard. -/
def State.dataBeats (s : State) (a b : Nat) : Nat :=
  ((upFrom a (b - a)).filter fun x => !s.circ.joined || decide (guardBeats ≤ (s.circ.active.slotAt x).2)).length

/-- WIDTH_CHANGE_BOUNDARY (R470, R471): the announced frame boundary has come -/
def execWidthChangeBoundary (port : Nat) (s : State) : Out :=
  let x := s.portAt port
  if 48 ≤ port ∨ !x.announced ∨ 4 * s.beat < x.change then .next s
  else match x.width with
    | .parking =>
      .next (s.onPort port fun x =>
        { x with width := .parked, announced := false, frameEnd := x.change, parks := min 65535 (x.parks + 1) })
    | .waking =>
      .next (s.onPort port fun x =>
        { x with width := .awake, announced := false, frameEnd := x.change, relocked := false, missed := false, wakes := min 65535 (x.wakes + 1)
                 wmax := max x.wmax (min 65535 (s.beat - x.trigger)) })
    | _ => .next s

/-- WAVELENGTH_RELOCK_DONE (R471): the wavelengths have relocked, and the training pattern is sent -/
def execWavelengthRelockDone (port : Nat) (s : State) : Out :=
  let x := s.portAt port
  if x.width = .waking ∧ x.attempt + 1800 ≤ s.beat then .next (s.onPort port fun x => { x with relocked := true }) else .next s

/-- WAKE_BUDGET_EXPIRED (R472): 2,500 beats outside guards have passed, and no frame at full width begins on this one; the port
tries again -/
def execWakeBudgetExpired (port : Nat) (s : State) : Out :=
  let x := s.portAt port
  if x.width = .waking ∧ !x.missed ∧ 2500 ≤ s.dataBeats x.trigger s.beat ∧ !(x.announced && decide (x.change < 4 * (s.beat + 1))) then
    .next (s.onPort port fun x =>
      { x with missed := true, wfail := min 65535 (x.wfail + 1), relocked := false, announced := false, attempt := s.beat })
  else .next s

/-! ## What peers send (R161, R168 to R170, R341, R342) -/

/-- The beat lies in this package's guard. -/
def State.inGuard (s : State) : Bool := s.circ.joined && decide ((s.circ.active.slotAt s.beat).2 < guardBeats)

/-- A flit other than control that arrives in this package's guard is dropped, and its port counts it (R161, R437). -/
def State.guardDrop (s : State) (port : Nat) : State := s.onPort port fun p => { p with guarddrop := min 65535 (p.guarddrop + 1) }

/-- The operation and the right of a transaction. -/
def peerOp : PeerOp → AOp × Nat × Right
  | .read w => (.load w false, w, .read)
  | .write w v => (.store w v, w, .write)
  | .atomic op w b c => (if op < 9 then .amo op w false b else .cas w false b c, w, .atomic)

/-- TRANSACTION_FLIT (R97, R134, R161, R168, R449): translated and checked under the peer owner, and performed at its point of
coherence like any access there; a refusal is answered -/
def execTransactionFlit (t : Transaction) (s : State) : Out :=
  let (op, w, r) := peerOp t.op
  let va := t.va.toNat
  let dest : Except (BitVec 8) Loc :=
    if va % w ≠ 0 then .error causeMisaligned
    else match s.peerLoc t.pown va r with
      | .ok (.scr _ _) => .error causeScope
      | x => x
  if 48 ≤ t.port then .next s
  else if s.inGuard then .next (s.guardDrop t.port)
  else
    let (id, s) := s.fresh
    let a (l : Loc) : Access := peerAccess t.src t.core t.pown l va op t.issue t.chain t.depth 0
    match dest with
    | .ok l => .next (s.setAcc id (some (a l)))
    | .error c => .next ((s.refusePeer (a (.hbm 0)) c).setAcc id (some { a (.hbm 0) with stage := .performed, res := .err c }))

/-- A block of a send sets out for where it leads, with the sync word that counts it; one that leads nowhere is refused (R341). -/
def State.takeBlock (s : State) (f : SendFlit) : State :=
  let n := min 64 f.bytes
  let a (l : Loc) : Access :=
    { peerAccess f.src f.core f.pown l f.va.toNat (.wblk 0 n f.blk) f.issue f.chain 0 (f.issue + 1) with
      sync := if f.syncen then some f.sync else none }
  match s.sendLoc f.pown f.va.toNat n f.syncen with
  | .error c => (s.refusePeer (a (.peer 0 0 f.va.toNat)) c).tellPeer { a (.peer 0 0 f.va.toNat) with res := .err c }
  | .ok l =>
    let (id, s) := s.fresh
    s.setAcc id (some (a l))

/-- A write-with-enqueue sets out for the block of its ring's descriptor, which must be aligned, readable and writable; else it is
refused whole (R169, R170). -/
def State.takeEnqueue (s : State) (f : EnqueueFlit) : State :=
  let va := f.ring.toNat
  let a (l : Loc) : Access := peerAccess f.src f.core f.pown l va (.enq f) f.issue f.chain 0 (f.issue + 1)
  let no (c : BitVec 8) : State := ((s.refusePeer (a (.peer 0 0 va)) c).failEnq f).tellPeer { a (.peer 0 0 va) with res := .err c }
  if va % 64 ≠ 0 then no causeMisaligned
  else match s.peerLoc f.pown va .read, s.peerLoc f.pown va .write with
    | .ok l, .ok _ =>
      let (id, s) := s.fresh
      s.setAcc id (some (a l))
    | .error c, _ => no c
    | _, .error c => no c

/-- The port that a flit of a send came to. -/
def sendPort : SendData → Nat
  | .block x => x.port
  | .enqueue x => x.port
  | .unknown p _ => p

/-- SEND_DATA_FLIT (R158, R161, R168 to R170, R341, R342): a block of a send is performed; a write-with-enqueue is performed whole or
not at all; a flit of no type is dropped and counted -/
def execSendDataFlit (f : SendData) (s : State) : Out :=
  if 48 ≤ sendPort f then .next s
  else if s.inGuard then .next (s.guardDrop (sendPort f))
  else match f with
    | .block x => .next (s.takeBlock x)
    | .enqueue x => .next (s.takeEnqueue x)
    | .unknown p _ => .next (s.onPort p fun x => { x with unknown := x.unknown + 1 })

/-! ## Collectives (R60, R171 to R174) -/

/-- A packet is dropped and counted. -/
def State.dropPacket (s : State) : State := { s with coll := { s.coll with dropped := s.coll.dropped + 1 } }

/-- A chunk as it is written, in a buffer's mode and form (R173). -/
def collBlocks (b : Buf) (c : Chunk) : List Blk × Flags :=
  let blks (t : Tag) : List Blk := (List.range 8).map fun i => ⟨c.extractLsb' (512 * i) 512, t⟩
  if b.mode = 0 then (blks 0x0200, 0)
  else if b.form = 2 then (blks 0x1000, 0)
  else
    let (f, n, t) : NFmt × Nat × Tag := if b.form = 0 then (.f32, 4, 0x0300) else (.b16, 2, 0x0400)
    let r := (chunkAccs c).map (Acc.take f)
    ([⟨BitVec.ofNat 512 (leNat (r.flatMap fun e => leBytes e.1 n)), t⟩], r.foldl (fun u e => u ||| e.2) 0)

/-- A chunk of a run is written, once; when every chunk is performed, the run ends (R173, R174). The sync word that the run names
counts its bytes (R329). -/
def State.putChunk (s : State) (k c : Nat) (x : Chunk) : State :=
  match s.liveBuf k with
  | none => s
  | some b =>
    if mget false b.written c then s.failBuf k
    else
      let (l, fl) := collBlocks b x
      let s := s.setBuf k (some { b with written := mset false b.written c true, flags := b.flags ||| fl })
      let s := (List.range l.length).foldl (fun u i =>
        u.collWrite k (b.result + 64 * l.length * (c - b.first) + 64 * i) (.wblk 0 64 (l.getD i Blk.zero)) b.sync) s
      s.checkRun k

/-- SWEEP_ADD (R172, R173): a chunk that holds all its operands is summed, once -/
def execSweepAdd (die stage chunk : Nat) (s : State) : Out :=
  let k := 128 * die + stage
  match s.liveBuf k with
  | none => .next s
  | some b =>
    let ops := mget [] b.ops chunk
    if ops.length ≠ b.n ∨ 2 ≤ die ∨ 128 ≤ stage then .next s
    else
      let sum := if b.mode = 0 then
          ops.foldl (fun a x => BitVec.ofNat 4096 (laneZip 32 (fun u v => (u + v, 0)) a.toNat x.toNat 128).1) 0
        else ops.foldl chunkMerge 0
      .next ((s.setBuf k (some { b with ops := mset [] b.ops chunk [] })).putChunk k chunk sum)

/-- Every chunk of a packet lies in a buffer's range, and the packet is of its run (R171, R173). -/
def Buf.takes (b : Buf) (g : CollPacket) : Bool :=
  b.handle == g.handle && b.seq == g.seq && b.mode == g.mode && decide (b.first ≤ g.chunk) &&
    decide (g.chunk + g.chunks.length ≤ b.first + b.count)

/-- The chunks of a packet become operands; one beyond n marks the buffer failed (R172). -/
def State.addOperands (s : State) (k : Nat) (g : CollPacket) : State :=
  s.setBuf k ((s.bufAt k).map fun b => (List.range g.chunks.length).foldl (fun b i =>
    let l := mget [] b.ops (g.chunk + i)
    if b.n ≤ l.length ∨ mget false b.written (g.chunk + i) then { b with failed := true }
    else { b with ops := mset [] b.ops (g.chunk + i) (l ++ [g.chunks.getD i 0]) }) b)

/-- The chunks of a packet are deposited (R173). -/
def State.depositPacket (s : State) (k : Nat) (g : CollPacket) : State :=
  (List.range g.chunks.length).foldl (fun t i => t.putChunk k (g.chunk + i) (g.chunks.getD i 0)) s

/-- The peer that a port's word names in the circuit slot of a beat, or in the next slot of the table in which its word is open
(R167, log 155). -/
def CTable.peerFrom (t : CTable) (beat port : Nat) : Option Nat :=
  let n := t.lens.length
  let i := (t.slotAt beat).1
  (List.range n).findSome? fun k =>
    let w := t.word ((i + k) % n) port
    if wordOpen w then some (wordPeer w) else none

/-- A packet goes on through a port, to the peer that the port's word names now (R167, R171). -/
def State.forward (s : State) (port : Nat) (g : CollPacket) : State :=
  match s.circ.active.peerFrom s.beat port with
  | none => s.dropPacket
  | some peer =>
    if 48 ≤ port ∨ (s.portAt port).health = .down then s.dropPacket
    else
      let (id, s) := s.fresh
      s.enqueueSend port
        { id := id, core := 0, task := 0, job := 0, kind := .packet g, peer := peer, pown := 0, gen := (s.portAt port).gen,
          blks := [], bytes := 64 + 512 * g.chunks.length, sent := 0, sync := none }

/-- The incarnation of a handle is not that of its group here (R60). -/
def State.staleHandle (s : State) (h : Nat) : Bool :=
  let g := s.groupAt (handleId h)
  g.st != .free && g.inc.toNat != h % 256

/-- COLLECTIVE_PACKET (R60, R157, R161, R171 to R174): the station of the optical engine die of the port takes route entry 0 and
acts by it -/
def execCollectivePacket (port : Nat) (g : CollPacket) (s : State) : Out :=
  let die := port / 24
  let e := g.route.headD 0
  let op := bitsOf e 13 3
  let k := 128 * die + bitsOf e 0 7
  let rest := { g with left := g.left - 1, route := g.route.drop 1 ++ [0] }
  let bad := g.left = 0 ∨ 8 < g.left ∨ 4 ≤ op ∨ (g.mode ≠ 0 ∧ g.mode ≠ 3) ∨ g.chunks.length = 0 ∨ 16 < g.chunks.length
  if 48 ≤ port then .next s
  else if s.inGuard then .next (s.guardDrop port)
  else if g.seq < mget 0 s.coll.aborted g.handle ∨ s.staleHandle g.handle then .next s.dropPacket
  else if bad then .next (if g.left = 0 then s.dropPacket else s.dropPacket.failBuf k)
  else if op = 0 then .next (s.forward (bitsOf e 7 6) rest)
  else match s.liveBuf k with
    | none => .next s.dropPacket
    | some b =>
      if !b.takes g then .next (s.dropPacket.failBuf k)
      else match op with
        | 1 => .next (s.addOperands k g)
        | 2 => .next (s.depositPacket k g)
        | _ => .next ((s.depositPacket k g).forward (bitsOf e 7 6) rest)

/-- A run is aborted (R174): its packets are dropped, here and on arrival; its buffers are freed, each completing with status
1. -/
def State.abortRun (s : State) (handle seq : Nat) : State :=
  let s := { s with coll := { s.coll with aborted := mset 0 s.coll.aborted handle (max (mget 0 s.coll.aborted handle) (seq + 1)) } }
  let old (o : Outgoing) : Bool := match o.kind with
    | .packet g => g.handle == handle && decide (g.seq ≤ seq)
    | _ => false
  let s := (List.range 48).foldl (fun t p =>
    let gone := (t.portAt p).queues.flatMap fun q => q.2.filter old
    let t := t.onPort p fun x => { x with queues := (x.queues.map fun q => (q.1, q.2.filter fun o => !old o)).filter fun q => q.2 != [] }
    gone.foldl (fun t o => (if o.job = 0 then t else t.onX o.core o.job fun x => { x with sent := x.sent + 1 }).dropPacket) t) s
  let run := s.coll.bufs.filterMap fun e => match e.2 with
    | some b => if b.handle = handle ∧ b.seq = seq then some e.1 else none
    | none => none
  run.foldl (fun t k => t.endRun k 1) s

/-- The slices whose run a handle names: of the tasks whose staging buffers here serve it, and of the members of the group
(R462). -/
def State.runSlices (s : State) (handle seq : Nat) : List Nat :=
  ((s.coll.bufs.filterMap fun e => match e.2 with
    | some b => if b.handle = handle ∧ b.seq = seq then (s.taskAt b.task).map Task.slice else none
    | none => none) ++
    s.tasks.filterMap fun e => match e.2 with
      | some x => if x.groups.contains handle then some x.slice else none
      | none => none).eraseDups

/-- COLLECTIVE_ABORT (R174, R462): from the scheduler node; the tasks of the run's slice are asked to pre-empt -/
def execCollectiveAbort (handle seq : Nat) (s : State) : Out :=
  .next ((s.runSlices handle seq).foldl State.preemptSlice (s.abortRun handle seq))
/-- ABORT_FLIT (R174): from a member package; it need not be forwarded -/
def execAbortFlit (f : AbortFrom) (seq : Nat) (s : State) : Out :=
  if 48 ≤ f.port then .next s
  else if s.inGuard then .next (s.guardDrop f.port)
  else .next (s.abortRun f.handle seq)

end Sys2Proof.Machine
end

