-- ==== Sys2Proof/Machine/Records.lean ====
section
/-!
DEFINITION. The bodies of typed state records (21_fleet.md R480): what each holds of a saved context, as 64-bit words, and a
context put together from them again. R480 lists what a body holds; the places inside the bodies of types 2 to 10 are the
model's (log 34).
-/

namespace Sys2Proof.Machine

/-! ## Words -/

/-- Word i of a body. -/
def nth (l : List Word) (i : Nat) : Word := l.getD i 0
/-- n words of a body from word i, as one number. -/
def nthNat (l : List Word) (i n : Nat) : Nat := ((List.range n).map fun k => (nth l (i + k)).toNat * 2 ^ (64 * k)).foldl (· + ·) 0
/-- Pieces of n words of a body from word i, k of them. -/
def nthParts (l : List Word) (i n k : Nat) : List (List Word) := (List.range k).map fun j => (l.drop (i + n * j)).take n
/-- A number as n words. -/
def natWords (v n : Nat) : List Word := (List.range n).map fun k => w64 (v / 2 ^ (64 * k))
/-- A queue of at most 16 words in seventeen: its length, then its entries. -/
def queueWords (l : List Word) : List Word := w64 l.length :: (List.range 16).map fun i => l.getD i 0
/-- That queue read again. -/
def queueOf (l : List Word) : List Word := (l.drop 1).take (nth l 0).toNat
/-- A vector with its tags in 33 words. -/
def vecWords (v : Vec) : List Word := natWords v.data.toNat 32 ++ [v.tags]
/-- That vector read again. -/
def vecRead (l : List Word) : Vec := ⟨BitVec.ofNat 2048 (nthNat l 0 32), nth l 32⟩
/-- A FIFO of at most 16 vectors. -/
def fifoWords (l : List Vec) : List Word := w64 l.length :: (List.range 16).flatMap fun i => vecWords (l.getD i Vec.zero)
/-- That FIFO read again. -/
def fifoRead (l : List Word) : List Vec := (nthParts l 1 33 (min 16 (nth l 0).toNat)).map vecRead

/-! ## Type 1: scalar state -/

/-- The stream state of a code. -/
def stateOf : Nat → EState
  | 1 => .running
  | 2 => .stalled
  | 3 => .done
  | 4 => .stopped
  | _ => .idle

/-- x1 to x31, pc, control registers 0x002 to 0x00B, hs0 to hs7 (R480). -/
def scalarBody (x : Core) (f : Frame) : List Word :=
  mgetList 0 x.c.regs 1 31 ++
    [ x.c.pc.setWidth 64
    , w64 (((List.range 5).map fun e => (x.eng (streamOf e)).state.code * 8 ^ e).foldl (· + ·) 0)
    , w64 f.fno, w64 ((if f.stretch then 2 ^ 32 else 0) + f.fofs), w64 f.next
    , x.cr.vlend.setWidth 64, x.cr.fflags.setWidth 64, x.cr.fenable.setWidth 64
    , w64 (x.cr.spcount * 2 ^ 48 + x.cr.spfirst * 2 ^ 24 + (if x.cr.spwarn then 1 else 0))
    , wBool x.cr.tcheck, x.cr.mlive.setWidth 64 ] ++ mgetList 0 x.tr.hs 0 8

/-- That state taken by a core; the frame registers are the package's own. -/
def Core.takeScalar (x : Core) (l : List Word) : Core :=
  let sp := nth l 39
  { x with
    c := { x.c with regs := msetList 0 [] 1 (l.take 31), pc := (nth l 31).setWidth 14 }
    cr := { x.cr with vlend := (nth l 36).setWidth 16, fflags := (nth l 37).setWidth 5, fenable := (nth l 38).setWidth 5,
                      spcount := bitsOf sp 48 16, spfirst := bitsOf sp 24 22, spwarn := sp.getLsbD 0,
                      tcheck := (nth l 40).getLsbD 0, mlive := (nth l 41).setWidth 8 }
    tr := { x.tr with hs := msetList 0 [] 0 ((l.drop 42).take 8) } }

/-! ## Type 2: streams, tokens, quantizer, stamps -/

/-- A stream in seven words (R480). -/
def engWords (g : Eng) : List Word :=
  [ w64 g.state.code, g.step.setWidth 64, g.resume.setWidth 64, w64 g.rb, w64 g.lc0, w64 g.lc1
  , w64 ((if g.arm0 then 1 else 0) + if g.arm1 then 2 else 0) ]
/-- That stream read again; of the fault of a stopped stream no record holds more than the steps: the rest is free (log 33). -/
def engRead (k e : Nat) (l : List Word) : Eng :=
  let v (i : Nat) : Word := Config.importVal k (8 * e + i)
  let st := stateOf (nth l 0).toNat
  { Eng.rest with
    state := st, step := (nth l 1).setWidth 13, resume := (nth l 2).setWidth 13, rb := (nth l 3).toNat
    lc0 := (nth l 4).toNat, lc1 := (nth l 5).toNat, arm0 := (nth l 6).getLsbD 0, arm1 := (nth l 6).getLsbD 1
    fault := if st = .stopped then
      some ⟨(v 0).setWidth 8, (nth l 1).setWidth 13, (nth l 2).setWidth 13, v 1, v 2, v 3, (v 4).toNat⟩ else none }

/-- The streams, e1 to e63, the link-token FIFOs, qs, the stamp base and the `mwsel` selection, from the beat of the save (R480). -/
def streamBody (x : Core) (save : Nat) : List Word :=
  ((List.range 5).flatMap fun e => engWords (x.eng (streamOf e))) ++ (mgetList 0 x.ve.tokens 1 63).map w64 ++
    [ w64 x.ve.fifoLA, w64 x.ve.fifoAL, w64 x.ve.fifoAS, w64 x.ve.fifoSA, w64 x.ve.depthLA, w64 x.ve.depthAS
    , wBool x.ve.qs.valid, w64 x.ve.qs.source, w64 x.ve.qs.target, x.ve.qs.s0.setWidth 64, x.ve.qs.s1.setWidth 64
    , x.tr.mbase - w64 save ] ++
    match x.mx.sel with
    | none => [0, 0]
    | some (w, b) => [w64 (w + 1), w64 b - w64 save]

/-- The beat that lies a signed distance from another, 0 at the earliest. -/
def beatAfter (now : Nat) (d : Word) : Nat := ((now : Int) + d.toInt).toNat
/-- That state taken by a core on the beat of an import. The end of the last occupancy and the last retirement point, which no record
holds, are free (log 33). -/
def Core.takeStreams (x : Core) (l : List Word) (k now : Nat) : Core :=
  let r := l.drop 98
  { x with
    ve := { x.ve with
      engs := msetList Eng.rest [] 0 ((nthParts l 0 7 5).zipIdx.map fun e => engRead k e.2 e.1)
      tokens := msetList 0 [] 1 (((l.drop 35).take 63).map BitVec.toNat)
      fifoLA := (nth r 0).toNat, fifoAL := (nth r 1).toNat, fifoAS := (nth r 2).toNat, fifoSA := (nth r 3).toNat
      depthLA := (nth r 4).toNat, depthAS := (nth r 5).toNat
      qs := ⟨(nth r 6).getLsbD 0, (nth r 7).toNat, (nth r 8).toNat, (nth r 9).setWidth 8, (nth r 10).setWidth 8⟩ }
    tr := { x.tr with mbase := nth r 11 + w64 now }
    mx := { x.mx with
      sel := if nth r 12 = 0 then none else some ((nth r 12).toNat - 1, beatAfter now (nth r 13))
      occEnd := (Config.importVal k 40).toNat, retire := (Config.importVal k 41).toNat } }

/-! ## Types 3 to 5: vector registers, channels, ports -/

/-- v0 to v55 with their tags; g0 to g14. -/
def vectorBody (x : Core) : List Word :=
  ((List.range 56).flatMap fun k => vecWords (mget Vec.zero x.ve.v k)) ++
    [w64 (((List.range 15).map fun k => if mget false x.ve.g k then 2 ^ k else 0).foldl (· + ·) 0)]
/-- Those registers taken by a core. -/
def Core.takeVectors (x : Core) (l : List Word) : Core :=
  { x with ve := { x.ve with
      v := msetList Vec.zero [] 0 ((nthParts l 0 33 56).map vecRead)
      g := msetList false [] 0 ((List.range 15).map fun k => (nth l 1848).getLsbD k) } }

/-- A binding as a code: 0 none, 1 to 5 a result side, 16 to 20 a feed side, 32 the mailbox, 64 and up a wake queue. -/
def bindCode : Option Queue → Nat
  | some (.result e) => 1 + e
  | some (.feed e) => 16 + e
  | some .mailbox => 32
  | some (.wakeQ q) => 64 + q
  | _ => 0
/-- The binding of a code. -/
def bindRead (n : Nat) : Option Queue :=
  if n = 0 then none else if n < 16 then some (.result (n - 1)) else if n < 32 then some (.feed (n - 16))
  else if n = 32 then some .mailbox else if 64 ≤ n then some (.wakeQ (n - 64)) else none

/-- The channel table, the entries of the engine sides and wake queues, and the entries that wait for room in a wake queue, each with
its queue plus one. Armed watches have fired at the save (R278). -/
def channelBody (x : Core) : List Word :=
  ((List.range 32).map fun c => w64 (bindCode (mget none x.ch.table c))) ++
    ((List.range 5).flatMap fun e => queueWords (mget [] x.ch.results e)) ++
    ((List.range 5).flatMap fun e => queueWords (mget [] x.ch.feeds e)) ++
    ((List.range 16).flatMap fun q => queueWords (mget [] x.ch.wakes q)) ++
    (List.range 16).flatMap fun i => match x.ch.late[i]? with
      | some e => [w64 (e.1 + 1), e.2]
      | none => [0, 0]
/-- Those taken by a core. -/
def Core.takeChannels (x : Core) (l : List Word) : Core :=
  { x with ch := { x.ch with
      table := msetList none [] 0 ((l.take 32).map fun w => bindRead w.toNat)
      results := msetList [] [] 0 ((nthParts l 32 17 5).map queueOf)
      feeds := msetList [] [] 0 ((nthParts l 117 17 5).map queueOf)
      wakes := msetList [] [] 0 ((nthParts l 202 17 16).map queueOf)
      late := ((nthParts l 474 2 16).filter fun p => nth p 0 != 0).map fun p => (bitsOf (nth p 0) 0 5 - 1, nth p 1) } }

/-- The number plus one of the base that a binding's name stands for; 0: none. -/
def Core.baseIx (x : Core) (uid : Nat) : Nat :=
  match (List.range 16).find? fun k => (mget Base.rest x.ve.bases k).extent != 0 && (mget Base.rest x.ve.bases k).uid == uid with
  | some k => k + 1
  | none => 0

/-- An input port; vectors that were fetched past one that faulted do not travel, and the walk goes on from that one (log 34). -/
def inWords (x : Core) (p : InPort) : List Word :=
  [ w64 ((if p.bound then 1 else 0) + (if p.toM then 2 else 0)), w64 p.pos, w64 p.cursor, p.step.setWidth 64, w64 p.pos
  , w64 (x.baseIx p.base) ] ++ natWords p.nest.toNat 4 ++ fifoWords p.fifo
/-- That port read again; the binding's name is set by the import. -/
def inRead (l : List Word) : InPort :=
  { bound := (nth l 0).getLsbD 0, toM := (nth l 0).getLsbD 1, pos := (nth l 1).toNat, cursor := (nth l 2).toNat
    step := (nth l 3).setWidth 13, asked := (nth l 4).toNat, base := (nth l 5).toNat, nest := BitVec.ofNat 256 (nthNat l 6 4)
    fifo := fifoRead (l.drop 10), got := [] }
/-- An output port. -/
def outWords (x : Core) (p : OutPort) : List Word :=
  [ wBool p.bound, w64 p.pushed, w64 p.pos, w64 p.packed, p.step.setWidth 64, w64 (x.baseIx p.base) ] ++
    natWords p.nest.toNat 4 ++ vecWords p.part ++ fifoWords p.fifo
/-- That port read again. -/
def outRead (l : List Word) : OutPort :=
  { bound := (nth l 0).getLsbD 0, pushed := (nth l 1).toNat, pos := (nth l 2).toNat, packed := (nth l 3).toNat
    step := (nth l 4).setWidth 13, base := (nth l 5).toNat, nest := BitVec.ofNat 256 (nthNat l 6 4)
    part := vecRead (l.drop 10), fifo := fifoRead (l.drop 43) }

/-- j0 to j15, the input ports and the output ports. -/
def portBody (x : Core) : List Word :=
  ((List.range 16).flatMap fun k => natWords (mget 0 x.ve.nests k).toNat 4) ++
    ((List.range 8).flatMap fun p => inWords x (mget InPort.rest x.ve.ins p)) ++
    (List.range 8).flatMap fun p => outWords x (mget OutPort.rest x.ve.outs p)
/-- Those taken by a core: an input port takes 539 words, an output port 572. -/
def Core.takePorts (x : Core) (l : List Word) : Core :=
  { x with ve := { x.ve with
      nests := msetList 0 [] 0 ((nthParts l 0 4 16).map fun w => BitVec.ofNat 256 (nthNat w 0 4))
      ins := msetList InPort.rest [] 0 ((nthParts l 64 539 8).map inRead)
      outs := msetList OutPort.rest [] 0 ((nthParts l 4376 572 8).map outRead) } }

/-! ## Types 6 to 11 -/

/-- The bound bases: number, address, extent, rights, port, generation. -/
def baseBody (x : Core) : List Word :=
  (List.range 16).flatMap fun k =>
    let b := mget Base.rest x.ve.bases k
    if b.extent = 0 then []
    else [w64 k, w64 b.addr, w64 b.extent, w64 ((if b.rd then 1 else 0) + (if b.wr then 2 else 0)), w64 b.port, w64 b.gen]

/-- The state of a weight tile as a code. -/
def WState.code : WState → Nat
  | .empty => 0
  | .loading => 1
  | .resident => 2

/-- The pieces of a weight tile's source, one in each granule: their virtual addresses as loaded (R339, R480). -/
def WTile.pieceVas (w : WTile) : List Nat :=
  (List.range 65).filterMap fun i =>
    let a := if i = 0 then w.va else (w.va / 4096 + i) * 4096
    if 0 < w.len ∧ a < w.va + 64 * w.len then some a else none
/-- The weight tiles, in 73 words each: number, state, range, class, form, extra value, and how many source pieces there are, with the
virtual address of each. -/
def tileBody (x : Core) : List Word :=
  x.mx.wtiles.flatMap fun e =>
    let w := e.2
    [ w64 e.1, w64 w.state.code, w64 w.start, w64 w.len, w64 w.cls, wBool w.dense, w.extra.setWidth 64, w64 w.pieceVas.length ] ++
      (List.range 65).map fun i => w64 (w.pieceVas.getD i 0)

/-- The live accumulator tiles, each its number and 256 KiB. -/
def accBody (x : Core) : List Word :=
  (List.range 8).flatMap fun t =>
    if x.pl.saveMask.getLsbD t then
      w64 t :: (List.range 32768).map fun i =>
        w64 ((mget 0 x.mx.tiles (65536 * t + 2 * i)).toNat + 2 ^ 32 * (mget 0 x.mx.tiles (65536 * t + 2 * i + 1)).toNat)
    else []
/-- Those taken by a core. -/
def Core.takeTiles (x : Core) (l : List Word) : Core :=
  (nthParts l 0 32769 (l.length / 32769)).foldl (fun x p =>
    let words : List (BitVec 32) := (p.drop 1).flatMap fun w => [w.setWidth 32, w.extractLsb' 32 32]
    { x with mx := { x.mx with tiles := msetList 0 x.mx.tiles (65536 * ((nth p 0).toNat % 8)) words } }) x

/-- The region table, and of each live region its valid bits, tags and data. -/
def scratchBody (c : Ctx) : List Word :=
  w64 c.core.pl.regions.length :: (c.core.pl.regions.flatMap fun r => [w64 r.1, w64 r.2]) ++
    c.core.pl.regions.flatMap fun r =>
      ((List.range (r.2 / 256)).map fun i =>
          w64 (((List.range 64).map fun k => if mget false c.valid (r.1 / 4 + 64 * i + k) then 2 ^ k else 0).foldl (· + ·) 0)) ++
        ((List.range (r.2 / 256)).map fun i =>
          w64 (((List.range 4).map fun k => (mget 0 c.tags (r.1 / 64 + 4 * i + k)).toNat * 2 ^ (16 * k)).foldl (· + ·) 0)) ++
        (List.range (r.2 / 8)).map fun i => w64 (leNat (mgetList 0 c.bytes (r.1 + 8 * i) 8))

/-- One region's words put into a context. -/
def Ctx.takeRegion (c : Ctx) (r : Nat × Nat) (l : List Word) : Ctx :=
  let tags := l.drop (r.2 / 256)
  let data := tags.drop (r.2 / 256)
  { c with
    bytes := msetList 0 c.bytes r.1 ((data.take (r.2 / 8)).flatMap fun w => leBytes w.toNat 8)
    tags := msetList 0 c.tags (r.1 / 64) ((tags.take (r.2 / 256)).flatMap fun w => (List.range 4).map fun k => w.extractLsb' (16 * k) 16)
    valid := msetList false c.valid (r.1 / 4) ((l.take (r.2 / 256)).flatMap fun w => (List.range 64).map w.getLsbD) }

/-- Regions taken one after another. -/
def Ctx.takeRegions (c : Ctx) : List (Nat × Nat) → List Word → Ctx
  | [], _ => c
  | r :: t, l => (c.takeRegion r l).takeRegions t (l.drop (r.2 / 8 + 2 * (r.2 / 256)))

/-- That memory taken by a context; what would lie beyond the scratchpad is left out. -/
def Ctx.takeScratch (c : Ctx) (l : List Word) : Ctx :=
  let n := min 32 (nth l 0).toNat
  let rs := (nthParts l 1 2 n).map fun p =>
    let o := bitsOf (nth p 0) 0 22 / 4096 * 4096
    (o, min (2 ^ 22 - o) (bitsOf (nth p 1) 0 23 / 4096 * 4096))
  let c := { c with core := { c.core with pl := { c.core.pl with regions := rs } } }
  c.takeRegions rs (l.drop (1 + 2 * n))

/-- The posted-store history: how many entries were made, and those kept. -/
def histBody (x : Core) : List Word :=
  w64 x.tr.hcount :: x.tr.hist.flatMap fun e =>
    let h := e.2
    [ w64 e.1, w64 h.issue, w64 h.source, w64 h.loc, h.cause.setWidth 64
    , w64 ((if h.reported then 1 else 0) + (if h.neg then 2 else 0)), w64 h.addr, w64 h.ix, w64 h.seq ]
/-- That history taken by a core. -/
def Core.takeHist (x : Core) (l : List Word) : Core :=
  { x with tr := { x.tr with
      hcount := (nth l 0).toNat
      hist := (nthParts l 1 9 (min 64 (l.length / 9))).foldl (fun m p =>
        mset Hist.rest m ((nth p 0).toNat % 64)
          ⟨(nth p 1).toNat, (nth p 2).toNat, (nth p 3).toNat, (nth p 4).setWidth 8, (nth p 5).getLsbD 0, (nth p 5).getLsbD 1,
            (nth p 6).toNat, (nth p 7).toNat, (nth p 8).toNat⟩) [] } }

/-- The timetable entry: rdepth, coremask, chain identifier. -/
def entryBody (t : Task) : List Word := [w64 t.rdepth, t.mask.setWidth 64, w64 t.chain]

/-- The records of a saved context, in the order of their types, without the end record: type, whether required, body. -/
def ctxRecords (c : Ctx) (t : Task) (f : Frame) (save : Nat) : List (Nat × Bool × List Word) :=
  let x := c.core
  [ (1, true, scalarBody x f), (2, true, streamBody x save), (3, true, vectorBody x), (4, true, channelBody x)
  , (5, true, portBody x), (6, true, baseBody x), (7, true, tileBody x), (8, true, accBody x), (9, true, scratchBody c)
  , (10, false, histBody x), (11, true, entryBody t) ]

/-- A context with one record taken; bases, weight tiles and the timetable entry are the import's. -/
def Ctx.take (c : Ctx) (k now kind : Nat) (l : List Word) : Ctx :=
  match kind with
  | 1 => { c with core := c.core.takeScalar l }
  | 2 => { c with core := c.core.takeStreams l k now }
  | 3 => { c with core := c.core.takeVectors l }
  | 4 => { c with core := c.core.takeChannels l }
  | 5 => { c with core := c.core.takePorts l }
  | 8 => { c with core := c.core.takeTiles l }
  | 9 => c.takeScratch l
  | 10 => { c with core := c.core.takeHist l }
  | _ => c

end Sys2Proof.Machine
end

