-- ==== Sys2Proof/Machine/Fleet.lean ====
section
/-!
DEFINITION. Operating a package in a fleet (19_drv_launch.md R433 to R435; 21_fleet.md R464 to R468, R473 to R486): the meanings of
LAUNCH_PACKET, SLICE_SET_ASIDE, THERMAL_CHANGE, MIGRATION_PASS, MIGRATION_RECEIVE, MIGRATION_ABORT, SESSION_KEY_INSTALL,
MSESS_WRITE, GRANULE_RECORD, RECORD_ACK, TASK_EXPORT, TASK_IMPORT, TYPED_STATE_RECORD, QUOTE, QUOTE_SIGNED, NONCE_WRITE,
UPDATE_VERIFY, UPDATE_VERIFY_DONE, UPDATE_INSTALL, UPDATE_INSTALL_DONE and UPLOAD_WINDOW_WRITE.
-/

namespace Sys2Proof.Machine

/-! ## The scheduler node (R433 to R435) -/

/-- The owner mask of the registration stands in word 1 (R433, log 35). -/
def Node.ownerMask (x : Node) : Word := mget 0 x.regs 1
/-- A packet comes from the registered node: word 0 holds the path in bit 63, 1 for the Naob link, and the endpoint or package in
[31:0] (R433, log 35). -/
def Node.from_ (x : Node) (src : LaunchSrc) : Bool :=
  let w : Word := mget 0 x.regs 0
  x.regs != [] && match src with
    | .endpoint n => !w.getLsbD 63 && n == bitsOf w 0 32
    | .package n => w.getLsbD 63 && n == bitsOf w 0 32

/-- A launch packet of its words (R434); none where the type is not 1, a count is above 7, slice is zero, a reserved field is not
zero or words are missing. -/
def launchOf (ws : List Word) : Option Launch :=
  let w (i : Nat) : Word := ws.getD i 0
  let n := bitsOf (w 0) 52 4
  let ok := bitsOf (w 0) 56 8 == 1 && decide (n ≤ 7) && bitsOf (w 0) 0 48 == 0 && bitsOf (w 2) 32 32 != 0 && bitsOf (w 4) 20 44 == 0 &&
    w 5 == 0 && w 6 == 0 && w 7 == 0 && decide (8 + 16 * n ≤ ws.length)
  if ok then
    some ⟨1, bitsOf (w 0) 48 4, (w 1).toNat, bitsOf (w 2) 32 32, bitsOf (w 2) 0 32, (w 3).toNat, bitsOf (w 4) 0 20,
      (List.range n).map fun i => (ws.drop (8 + 16 * i)).take 16⟩
  else none

/-- A packet is dropped and counted (R433, R434, R463). -/
def State.dropLaunch (s : State) : State :=
  { s with node := { s.node with dropped := s.node.dropped + 1 } }.raiseMsix 30

/-- A packet is taken: from another source, of another form, or not after the last, it is dropped and counted; else its prior slice
is set aside (R433 to R435). -/
def State.takeLaunch (s : State) (src : LaunchSrc) (ws : List Word) : State :=
  match launchOf ws with
  | none => s.dropLaunch
  | some g =>
    if !s.node.from_ src || decide (g.seq < s.node.lastSeq) then s.dropLaunch
    else
      let aside := if g.prior = 0 ∨ s.node.aside.contains g.prior then s.node.aside else s.node.aside ++ [g.prior]
      { s with node := { s.node with lastSeq := g.seq + 1, pending := some g, aside := aside } }.preemptSlice g.prior

/-- Packets that wait are taken in their order, until one is accepted; fuel bounds their number. -/
def State.serveLaunches : Nat → State → State
  | 0, s => s
  | k + 1, s => match s.node.pending, s.node.inbox with
    | none, e :: t => State.serveLaunches k ({ s with node := { s.node with inbox := t } }.takeLaunch e.1 e.2)
    | _, _ => s

/-- LAUNCH_PACKET (R433 to R435): an accepted packet sets its prior slice aside; a further packet waits for its end -/
def execLaunchPacket (g : LaunchMsg) (s : State) : Out :=
  .next (State.serveLaunches (s.node.inbox.length + 1) { s with node := { s.node with inbox := s.node.inbox ++ [(g.src, g.words)] } })

/-- A task of a slice is on a core and has not re-entered pending (R435). -/
def State.sliceOn (s : State) (slice : Nat) : Bool :=
  s.tasks.any fun e => match e.2 with
    | some x => slice != 0 && x.slice == slice && x.core.isSome && x.st == .running
    | none => false

/-- The descriptors of a packet posted together: the state with all of them and their rows, or the status of the refusal (R42,
R435). Of more than four for a timetable the others are accepted on its next beat, in rows kept for them, so that all are posted or none
(R43, log 4). -/
def State.postAll (s : State) (owner slice : Nat) : List (List Word) → Except Nat (List Nat × State)
  | [] => .ok ([], s)
  | d :: rest =>
    let r := s.postDesc (descDie d) d owner none slice none
    if r.1 = neg64 1 then .error 2
    else if 1024 ≤ r.1.toNat then .error 3
    else match r.2.postAll owner slice rest with
      | .ok (rows, u) => .ok (r.1.toNat :: rows, u)
      | .error e => .error e

/-- The report of a packet (R435). -/
def State.residency (s : State) (g : Launch) (status : Nat) (rows : List Nat) : List Word :=
  let r := ((List.range rows.length).zip rows).foldl (fun (v : Nat) e => v + e.2 * 2 ^ (10 * e.1)) 0
  [ w64 (3 * 2 ^ 56 + status * 2 ^ 48 + s.circ.pkg % 4096 * 2 ^ 36), w64 g.seq, w64 g.slice, w64 s.beat, w64 r, w64 (r / 2 ^ 64),
    0, 0 ]

/-- Step 4 of a packet has ended: its report is sent, and the next packet taken; the first exchange of a slice that is resident waits for
the node (R64, R435, R463). -/
def State.endLaunch (s : State) (g : Launch) (status : Nat) (rows : List Nat) : State :=
  let gangs := if status < 2 ∧ !s.node.gangs.contains g.slice then s.node.gangs ++ [g.slice] else s.node.gangs
  let u := { s with node := { s.node with pending := none, rows := none, gangs := gangs
                                          reports := s.node.reports ++ [s.residency g status rows] } }
  State.serveLaunches u.node.inbox.length (if 2 ≤ status then u.raiseMsix 30 else u)

/-- The status of a packet whose descriptors are all accepted: its start tick may have passed (R435). -/
def State.launchStatus (s : State) (g : Launch) : Nat := if s.frame.passed g.sframe g.soffset then 1 else 0

/-- SLICE_SET_ASIDE (R43, R435, R462, R463): every task of the prior slice has re-entered pending; held entries are released, the
descriptors posted, and once the last of them is accepted the report is sent -/
def execSliceSetAside (s : State) : Out :=
  match s.node.pending with
  | none => .next (State.serveLaunches s.node.inbox.length s)
  | some g =>
    let full (s : State) : Bool := g.descs.any fun d => decide (4 < (s.dieAt (descDie d)).posts)
    if let some rows := s.node.rows then .next (if full s then s else s.endLaunch g (s.launchStatus g) rows)
    else if s.sliceOn g.prior then .next s
    else
      let s := { s with node := { s.node with aside := s.node.aside.filter (· != g.slice) } }
      let owned := s.node.ownerMask.getLsbD g.owner && decide (g.owner < 16) && (s.ownerAt g.owner).live
      let posted : Except Nat (List Nat × State) := if owned then s.postAll g.owner g.slice g.descs else .error 4
      match posted with
      | .error e => .next (s.endLaunch g e [])
      | .ok (rows, u) =>
        .next (if full u then { u with node := { u.node with rows := some rows } } else u.endLaunch g (u.launchStatus g) rows)

/-- The scheduler node has every package's report of a slice: its first exchange begins (R64). -/
def State.openExchange (s : State) (slice : Nat) : State :=
  { s with node := { s.node with gangs := s.node.gangs.filter (· != slice) } }

/-! ## Temperature (R464, R466, R468) -/

/-- The state of the temperatures, from the state before: thresholds are in degrees, readings in quarters of one (R468). -/
def Fleet.thermal (f : Fleet) : Nat :=
  let hot := (List.range 28).foldl (fun (m : Nat) k => max m (mget 0 f.temps k)) 0
  let fall (st th : Nat) : Bool := f.tstate == st && decide (hot + 20 ≤ 4 * th)
  if 4 * f.tcrit ≤ hot then 2
  else if f.tstate = 2 then (if fall 2 f.tcrit then 1 else 2)
  else if 4 * f.twarn ≤ hot then 1
  else if f.tstate = 1 then (if fall 1 f.twarn then 0 else 1)
  else 0

/-- The fleet registers replaced, and the state of the temperatures brought up to date; entering the critical state asks every
running task to pre-empt (R468). -/
def State.setThermal (s : State) (f : Fleet) : State :=
  let n : Nat := f.thermal
  let u : State := { s with fleet := { f with tstate := n } }
  (if n = 2 ∧ s.fleet.tstate ≠ 2 then (List.range 192).foldl State.requestPreempt u else u).restretch

/-- THERMAL_CHANGE (R464, R468): a sensor of a mortise reads another temperature -/
def execThermalChange (mort temp : Nat) (s : State) : Out :=
  if 28 ≤ mort then .next s
  else
    let t := temp % 65536
    let f := s.fleet
    .next (s.setThermal
      { f with temps := mset 0 f.temps mort t, tmax := mset 0 f.tmax mort (max (mget 0 f.tmax mort) t) })

/-! ## Records (R476) -/

/-- A list of tags as words, four to a word. -/
def tagWords (l : List Tag) : List Word :=
  (List.range ((l.length + 3) / 4)).map fun i =>
    w64 (((List.range 4).map fun k => (l.getD (4 * i + k) 0).toNat * 2 ^ (16 * k)).foldl (· + ·) 0)
/-- A list of bytes as words. -/
def byteWords (l : List Byte) : List Word := (List.range ((l.length + 7) / 8)).map fun i => w64 (leNat ((l.drop (8 * i)).take 8))

end Sys2Proof.Machine

namespace Sys2Proof

/-- The words of a granule record before its tag, as it travels: its tags and data are encrypted (R476). -/
def GranuleRec.words (g : GranuleRec) : List Word :=
  [Machine.w64 (2 ^ 56 + g.session.toNat), Machine.w64 g.seq, g.va, 0] ++ Machine.tagWords g.tags ++ Machine.byteWords g.data
/-- The words of a typed state record before its tag, as it travels (R476). -/
def StateRec.sealed (r : StateRec) : List Word :=
  [Machine.w64 (2 * 2 ^ 56 + r.session.toNat), Machine.w64 r.seq, Machine.w64 r.len, 0] ++ r.words

end Sys2Proof

namespace Sys2Proof.Machine

/-- Tags of a granule record encrypted, or the other way round (R476). -/
def cryptTags (key : BitVec 256) (session : W32) (seq : Nat) (l : List Tag) : List Tag :=
  l.zipIdx.map fun e => e.1 ^^^ (Config.keyStream key session seq (e.2 / 4)).extractLsb' (16 * (e.2 % 4)) 16
/-- Its data, which follow 32 words of tags. -/
def cryptData (key : BitVec 256) (session : W32) (seq : Nat) (l : List Byte) : List Byte :=
  l.zipIdx.map fun e => e.1 ^^^ (Config.keyStream key session seq (32 + e.2 / 8)).extractLsb' (8 * (e.2 % 8)) 8
/-- The words of a typed state record. -/
def cryptWords (key : BitVec 256) (session : W32) (seq : Nat) (l : List Word) : List Word :=
  l.zipIdx.map fun e => e.1 ^^^ Config.keyStream key session seq e.2

/-- The head and the body of a typed state record (R480). -/
def TypedRec.words (r : TypedRec) : List Word :=
  [w64 (r.kind % 2 ^ 16 * 2 ^ 48 + (if r.required then 2 ^ 32 else 0) + 8 * r.body.length), r.needs] ++ r.body
/-- That record read again. -/
def typedOf (l : List Word) : TypedRec :=
  ⟨bitsOf (nth l 0) 48 16, (nth l 0).getLsbD 32, nth l 1, (l.drop 2).take (bitsOf (nth l 0) 0 32 / 8)⟩

/-- The session changed by f. -/
def State.onMig (s : State) (f : Mig → Mig) : State := { s with mig := f s.mig }
/-- A count of mstat, which saturates. -/
def Mig.refuse (m : Mig) (n : Nat) : Mig := { m with refused := min 65535 (m.refused + n) }
/-- A record sent or accepted. -/
def Mig.took (m : Mig) : Mig := { m with sent := min (2 ^ 32 - 1) (m.sent + 1) }

/-- A pass or session begins (R473). -/
def Mig.begin (m : Mig) : Mig := { m with busy := true, abort := false, pos := 0, sent := 0, refused := 0, taken := none, part := [] }

/-! ## Sending (R473 to R475) -/

/-- A granule as it is sent: a turning cell as the face-down cell that it was, an uncorrectable block as a reserved tag
(R475). -/
def State.sentBlk (s : State) (o b : Nat) : Blk :=
  if mget false s.mem.bad b then ⟨0, 0xFF00⟩
  else
    let x := s.mem.blkUnder (s.keyOf o) b
    if tagFmt x.tag = 0xF1 then cellWith x (cellFails x) 0 0 0xF000 else x

/-- The record of a granule of these blocks, with the next number of the session (R475, R476). -/
def Mig.granuleRecord (m : Mig) (key : BitVec 256) (va : Word) (bs : List Blk) : GranuleRec :=
  let g : GranuleRec := ⟨m.msess, m.seq + 1, va, cryptTags key m.msess (m.seq + 1) (bs.map Blk.tag),
    cryptData key m.msess (m.seq + 1) (bs.flatMap fun b => leBytes b.data.toNat 64), 0⟩
  { g with gcm := Config.sealTag key g.session g.seq g.words }

/-- Where entry e of the granule list leads: its address and place, or none where it is refused (R474). -/
def State.listEntry (s : State) (e : Nat) : Option (Word × Loc) :=
  let p := s.mig.mlist + 16 * e
  match s.hbmWord p, s.hbmWord (p + 8) with
  | some va, some w =>
    let t := bitsOf w 0 40
    let kind := bitsOf w 40 2
    if va.toNat % 4096 ≠ 0 ∨ 2 ^ 52 ≤ va.toNat ∨ t % 4096 ≠ 0 then none
    else if kind = 0 then (if (homeOf s.placing t).isSome then some (va, .hbm t) else none)
    else if kind = 1 then (if t < 2 ^ 29 then some (va, .dsm (t / 2 ^ 26) (t % 2 ^ 26)) else none)
    else none
  | _, _ => none

/-- The dirty bit of a granule, and the memory with it cleared; die shared memory has none (R475). -/
def Mem.takeDirty (m : Mem) : Loc → Bool × Mem
  | .hbm p => (mget false m.dirty (p / 4096), { m with dirty := mset false m.dirty (p / 4096) false })
  | _ => (true, m)

/-- The engine goes on to the next entry. -/
def Mig.step (m : Mig) : Mig := { m with pos := m.pos + 1, taken := none, part := [] }

/-- No entry is left to a pass, or it was told to end and no record is in progress: one is from the snapshot of its dirty bit on
(R473, R478). -/
def Mig.over (m : Mig) : Bool := (m.abort && m.taken.isNone) || decide (m.mcount < m.pos)

/-- A pass is over: its entries are done, or it was told to end, and every record is acknowledged (R473, R475). -/
def State.endPass (s : State) : State :=
  if s.mig.busy && !s.mig.recv && s.mig.over && s.mig.pending == [] then
    s.onMig fun m => { m with busy := false, abort := false }
  else s

/-- The next blocks of a granule are read, each at its point of coherence, up to n of them; an uncorrectable one is counted
(R475, R478). -/
def State.readPart (s : State) (l : Loc) (n : Nat) : State :=
  (upFrom s.mig.part.length (min n (64 - s.mig.part.length))).foldl (fun t i =>
    let x := l.plus (64 * i)
    let bad := mget false t.mem.bad (blkOf x)
    let u := if bad then t.countUncorr x else t
    u.onMig fun m => { (if bad then m.refuse 1 else m) with part := m.part ++ [t.sentBlk m.owner (blkOf x)] }) s

/-- The record of an entry whose blocks are all read is sent (R475). -/
def Mig.sendGranule (m : Mig) (key : BitVec 256) (va : Word) (l : Loc) : Mig :=
  let g := m.granuleRecord key va m.part
  { m.took.step with seq := g.seq, pending := m.pending ++ [(g.seq, storeAddr l / 4096)], granules := m.granules ++ [g] }

/-- A sending pass works on its next entry: its dirty bit, then its blocks, some at a time, then its record; it waits while no key seals a
record and while the entry's previous record is not acknowledged (R475). How many blocks are read together is free (log 157). -/
def State.passEntry (s : State) : State :=
  match s.listEntry s.mig.pos, s.mig.key with
  | none, _ => (s.countHbm (s.mig.mlist + 16 * s.mig.pos) 16).onMig fun m => (m.refuse 1).step
  | some _, none => s
  | some (va, l), some key =>
    let d := match s.mig.taken with
      | some d => (d, s.mem)
      | none => s.mem.takeDirty l
    let s := { s with mem := d.2 }
    if !s.mig.full && !d.1 then s.onMig Mig.step
    else
      let s := s.onMig fun m => { m with taken := some d.1 }
      if s.mig.part == [] && s.mig.pending.any fun e => e.2 == storeAddr l / 4096 then s
      else
        let s := s.draw.2.readPart l (1 + s.draw.1 % 64)
        if s.mig.part.length = 64 then s.onMig fun m => m.sendGranule key va l else s

/-- MIGRATION_PASS (R473, R475): a pass begins, or goes on by one entry of its list -/
def execMigrationPass (s : State) : Out :=
  if s.boot.state = 8 ∧ !s.mig.busy then .next (s.noService (0x219800)) else
  if !s.feature 5 || s.mig.recv || s.mig.go then .next s
  else if !s.mig.busy then .next (s.onMig Mig.begin)
  else if s.mig.over then .next s.endPass
  else .next s.passEntry.endPass

/-- RECORD_ACK (R475): a record is acknowledged -/
def execRecordAck (seq : Nat) (s : State) : Out :=
  .next (s.onMig fun m => { m with pending := m.pending.filter fun e => e.1 != seq }).endPass

/-! ## Receiving (R473, R477) -/

/-- MIGRATION_RECEIVE (R473): records are accepted from now on -/
def execMigrationReceive (s : State) : Out :=
  if s.boot.state = 8 then .next (s.noService (0x219800)) else
  if !s.feature 5 || !s.mig.recv || s.mig.busy || s.mig.aborted then .next s else .next (s.onMig Mig.begin)

/-- An export or an import ends with a result (R483). -/
def State.migDone (s : State) (r : Nat) : State := s.onMig fun m => { m with go := false, busy := false, result := r, got := [] }

/-- MIGRATION_ABORT (R473): the pass or session ends after the record in progress -/
def execMigrationAbort (s : State) : Out :=
  if s.boot.state = 8 then .next (s.noService (0x219800)) else
  if !s.feature 5 || !s.mig.busy then .next s
  else if s.mig.go then .next (s.migDone 7)
  else if s.mig.recv then .next (s.onMig fun m => { m with busy := false })
  else .next (s.onMig fun m => { m with abort := true }).endPass

/-- The offset of a register of the engine (R411, R473). -/
def migOff (a : Nat) : Nat := 0x219000 + a

/-- SESSION_KEY_INSTALL (R473): the last word of mkey is written; numbers start at 0 under a new key -/
def execSessionKeyInstall (w : Word) (s : State) : Out :=
  if s.boot.state = 8 then .next (s.noService (0x219858)) else
  if !s.feature 5 || s.mig.busy then .next (s.badWrite (migOff 0x858) w)
  else
    let key := (List.range 4).foldl (fun (v : Nat) i => v + (if i = 3 then w else mget 0 s.mig.keyBuf i).toNat * 2 ^ (64 * i)) 0
    .next (s.onMig fun m => { m with key := some (BitVec.ofNat 256 key), keyBuf := [], seq := 0, high := 0, seen := [], pending := [] })

/-- MSESS_WRITE (R473): another session number clears the key -/
def execMsessWrite (w : Word) (s : State) : Out :=
  if s.boot.state = 8 then .next (s.noService (0x219820)) else
  if !s.feature 5 || s.mig.busy || bitsOf w 32 32 != 0 then .next (s.badWrite (migOff 0x820) w)
  else if w.setWidth 32 = s.mig.msess then .next s
  else .next (s.onMig fun m =>
    { m with msess := w.setWidth 32, key := none, keyBuf := [], seq := 0, high := 0, seen := [], aborted := false, pending := [] })

/-- The session is broken: it accepts nothing more, and an import under way ends with result 7 (R477, R483). -/
def Mig.broken (m : Mig) : Mig :=
  { m with aborted := true, busy := false, got := []
           go := false, result := if m.go && m.imp then 7 else m.result }

/-- A record under the session's number and key. -/
def Mig.genuine (m : Mig) (session : W32) (seq : Nat) (words : List Word) (gcm : BitVec 128) : Bool :=
  match m.key with
  | some k => session == m.msess && gcm == Config.sealTag k session seq words
  | none => false
/-- A number that was accepted before, or lies behind the window of 4,096 (R477). -/
def Mig.stale (m : Mig) (seq : Nat) : Bool := m.seen.contains seq || decide (seq + 4096 < m.high)
/-- A number is accepted. -/
def Mig.accept (m : Mig) (seq : Nat) : Mig :=
  let high := max m.high seq
  { m with high := high, seen := (m.seen ++ [seq]).filter fun n => decide (high ≤ n + 4096) }

/-- The places of the 64 blocks of a granule record; none where a translation fails, a place cannot be written or holds a
turning cell (R177, R477). -/
def State.granulePlaces (s : State) (va : Nat) : Option (List Loc) :=
  if va % 4096 ≠ 0 ∨ 2 ^ 52 ≤ va then none
  else (List.range 64).mapM fun i =>
    match s.translate s.mig.owner (va + 64 * i) .write with
    | .error _ => none
    | .ok h =>
      let turning := s.feature 1 && tagFmt (mget 0 s.mem.tags (blkOf h.loc)) == 0xF1
      match h.loc with
      | .hbm p => if turning || (homeOf s.placing p).isNone then none else some h.loc
      | .dsm _ _ => if turning then none else some h.loc
      | _ => none

/-- What the lookup of a granule's first block that leads nowhere leaves behind (R414, R464). -/
def State.noteGranule (s : State) (va : Nat) : State :=
  match (List.range 64).find? fun i => (match s.translate s.mig.owner (va + 64 * i) .write with
    | .error _ => true
    | .ok _ => false) with
  | some i => if va % 4096 ≠ 0 ∨ 2 ^ 52 ≤ va then s else s.noteLookup s.mig.owner (va + 64 * i)
  | none => s

/-- The write of a block of a granule record: the writes of the session stand in one queue, in the order of its records. -/
def granuleWrite (owner : Nat) (l : Loc) (b : Blk) : Access :=
  { hostAccess owner l (.wblk 0 64 b) 0 0 with agent := .context, sq := true }

/-- GRANULE_RECORD (R476, R477): all 64 blocks are checked, and then their writes set out (log 157) -/
def execGranuleRecord (g : GranuleRec) (s : State) : Out :=
  if !s.mig.busy || !s.mig.recv || s.mig.aborted || s.mig.go then .next s
  else if !s.mig.genuine g.session g.seq g.words g.gcm || g.tags.length != 64 || g.data.length != 4096 then
    .next (s.onMig Mig.broken)
  else if s.mig.stale g.seq then .next (s.onMig fun m => m.refuse 1)
  else
    let s := s.onMig fun m => m.accept g.seq
    match s.granulePlaces g.va.toNat with
    | none => .next ((s.noteGranule g.va.toNat).onMig fun m => m.refuse 1)
    | some ls =>
      let key := s.mig.key.getD 0
      let tags := cryptTags key g.session g.seq g.tags
      let data := cryptData key g.session g.seq g.data
      let blks := (List.range 64).map fun i => blkOfBytes ((data.drop (64 * i)).take 64) (tags.getD i 0)
      .next ((s.setOut ((ls.zip blks).map fun e => granuleWrite s.mig.owner e.1 e.2)).onMig Mig.took)

/-! ## Export (R480, R482, R483) -/

/-- The features that a body needs (R480): checked mode, exact chunks and cells. -/
def bodyNeeds (kind : Nat) (c : Ctx) : Word :=
  if kind = 1 then (if c.core.cr.tcheck then 0x10 else 0)
  else if kind = 9 then
    w64 ((if c.tags.any fun e => tagFmt e.2 == 0x10 then 1 else 0) +
      if c.tags.any fun e => tagFmt e.2 == 0xF0 || tagFmt e.2 == 0xF1 then 2 else 0)
  else 0

/-- A typed state record sent on the session, with the next number (R476, R480). -/
def Mig.sendState (m : Mig) (kind : Nat) (required : Bool) (needs : Word) (body : List Word) : Mig :=
  let ws := TypedRec.words ⟨kind, required, needs, body⟩
  let key := m.key.getD 0
  let r : StateRec := ⟨m.msess, m.seq + 1, 8 * ws.length, cryptWords key m.msess (m.seq + 1) ws, 0⟩
  { m.took with seq := r.seq, outbox := m.outbox ++ [{ r with gcm := Config.sealTag key r.session r.seq r.sealed }] }

/-- The records of a context, with the end record. -/
def Mig.sendCtx (m : Mig) (c : Ctx) (t : Task) (f : Frame) (save : Nat) : Mig :=
  let rs := ctxRecords c t f save
  (rs.foldl (fun m r => m.sendState r.1 r.2.1 (bodyNeeds r.1 c) r.2.2) m).sendState 0xFFFF true 0 [w64 rs.length]

/-- A task has a row and no core (R40). -/
def Task.inTable (t : Task) : Bool := t.core.isNone && (t.st == .pending || t.st == .waiting || t.st == .ready)

/-- The task in the named slot with its committed buffer, if there is one. -/
def State.exportable (s : State) : Option (Nat × Task × Ctx) :=
  let slot := mget Slot.rest (s.dieAt s.mig.die).slots s.mig.slot
  match slot.holder with
  | some t => match s.taskAt t with
    | some x => match s.committed x with
      | some b => match slot.buf b with
        | some c => if x.inTable then some (t, x, s.bufCtx x.owner ((s.dieAt s.mig.die).slotAddr s.mig.slot) b c) else none
        | none => none
      | none => none
    | none => none
  | none => none

/-- TASK_EXPORT (R482, R483): the records of the committed buffer are sent, and the task leaves the die as if retired -/
def execTaskExport (s : State) : Out :=
  if s.boot.state = 8 then .next (s.noService (0x219870)) else
  if !s.feature 5 || s.mig.busy then .next s
  else if !s.feature 6 then .next (s.migDone 4)
  else match s.exportable with
    | none => .next (s.migDone 1)
    | some (t, x, c) =>
      if c.core.pl.lease.isSome || x.groups != [] || x.eval.isSome then .next (s.migDone 2)
      else if s.mig.aborted || s.mig.key.isNone then .next (s.migDone 7)
      else
        let save := s.hbmNat ((s.dieAt x.die).slotAddr s.mig.slot + 8) 8
        let s := s.onMig fun m => m.sendCtx c x s.frame save
        let s := s.dropPins (c.core.pinList ++ (x.conds.map Cond.pin).filter (· != 0))
        .next (((((s.dropWithdrawn t).freeSlot t).setTask t none).onDie x.die fun d =>
          { d with evalq := d.evalq.filter (· != t) }).migDone 0)

/-! ## Import (R480 to R483) -/

/-- TASK_IMPORT (R482): one sequence of records is received -/
def execTaskImport (s : State) : Out :=
  if s.boot.state = 8 then .next (s.noService (0x219870)) else
  if !s.feature 5 || s.mig.busy then .next s
  else if !s.feature 6 then .next (s.migDone 4)
  else if s.mig.aborted then .next (s.migDone 7)
  else .next (s.onMig fun m => { m.begin with go := true, imp := true, got := [] })

/-- A sequence with its end record is refused by R481. -/
def State.refuses (s : State) (rs : List TypedRec) (last : TypedRec) : Bool :=
  rs.length != (nth last.body 0).toNat || last.needs &&& ~~~s.boot.accepted != 0 || rs.any fun r =>
    (r.required && !(decide (1 ≤ r.kind) && decide (r.kind ≤ 11))) || r.needs &&& ~~~s.boot.accepted != 0

/-- The body of the record of a type. -/
def recBody (rs : List TypedRec) (kind : Nat) : List Word := ((rs.find? fun r => r.kind == kind).map TypedRec.body).getD []

/-- The bases of a type 6 body bound as `tbind` binds them under an owner; none where one is refused (R268, R482). -/
def State.importBases (s : State) (owner : Nat) (l : List (List Word)) : Option (SMap Base × State) :=
  l.foldl (fun r p => match r with
    | none => none
    | some (m, s) =>
      let a := nth p 1
      let b := w64 ((nth p 2 - 1).toNat % 2 ^ 40 + (nth p 4).toNat % 64 * 2 ^ 40 + (nth p 5).toNat % 2 ^ 16 * 2 ^ 46)
      match s.bindingFor owner 0 ((nth p 3).setWidth 2) a b with
      | .error _ => none
      | .ok (x, pins) =>
        let (uid, u) := (s.addPins pins).fresh
        some (mset Base.rest m ((nth p 0).toNat % 16) { x with uid := uid }, u)) (some ([], s))

/-- The weight tiles of a type 7 body, with the sources of resident ones translated and pinned; none where that fails (R339,
R482). -/
def State.importTiles (s : State) (owner : Nat) (l : List (List Word)) : Option (SMap WTile × State) :=
  l.foldl (fun r p => match r with
    | none => none
    | some (m, s) =>
      let va := (nth p 8).toNat
      let len := (nth p 3).toNat % 2 ^ 15
      let t : WTile :=
        ⟨.resident, (nth p 2).toNat % 2 ^ 14, len, (nth p 4).toNat % 8, (nth p 5).getLsbD 0, (nth p 6).setWidth 16, [], va, owner, []⟩
      let k := (nth p 0).toNat % 16
      if (nth p 1).toNat ≠ 2 then some (mset WTile.rest m k { t with state := .empty }, s)
      else
        let ps : Except (BitVec 8 × Nat) (List Piece) :=
          if va < 2 ^ 22 then .ok [⟨va, 64 * len, .scr 0 va, 0⟩] else s.pieces owner true false (len + 2) va (64 * len)
        match ps with
        | .error _ => none
        | .ok ps =>
          let pins := (ps.map Piece.pin).eraseDups.filter (· != 0)
          let b : Base := { Base.rest with pieces := ps }
          let places := (List.range len).filterMap fun i => b.locAt (va + 64 * i)
          if pins.any (fun p => s.pinsOf p == 4095) || places.length != len then none
          else some (mset WTile.rest m k { t with pieces := places, pins := pins }, s.addPins pins)) (some ([], s))

/-- Ports name their bindings by number plus one in a type 5 body; here by the names of the new bindings. -/
def Vecs.renamePorts (v : Vecs) : Vecs :=
  let uid (k : Nat) : Nat := if k = 0 then 0 else (mget Base.rest v.bases (k - 1)).uid
  { v with ins := v.ins.map (fun e => (e.1, { e.2 with base := uid e.2.base }))
           outs := v.outs.map fun e => (e.1, { e.2 with base := uid e.2.base }) }

/-- Words that no record holds, as the instruction and order memories of an imported task (log 33). -/
def importMem (k lo n : Nat) : SMap W32 :=
  (List.range n).filterMap fun i => if Config.importWord k (lo + i) = 0 then none else some (i, Config.importWord k (lo + i))

/-- The context that the records of a sequence make; bases and tiles are the import's (R480, R482). -/
def State.importCtx (s : State) (rs : List TypedRec) (bases : SMap Base) (tiles : SMap WTile) : Ctx :=
  let c : Ctx := rs.foldl (fun (c : Ctx) r => c.take s.free s.beat r.kind r.body) ⟨Core.rest, [], [], []⟩
  let x := c.core
  { c with core := { x with
      ve := Vecs.renamePorts { x.ve with bases := bases }
      mx := { x.mx with wtiles := tiles }
      pl := { x.pl with imem := importMem s.free 0 16384, omem := importMem s.free 16384 8192, saveMask := 0xFF } } }

/-- The owner's words of the import descriptor (R473, R482). -/
def State.importDesc (s : State) : List Word := (List.range 16).map fun i => w64 (s.hbmNat (s.mig.mxdesc + 8 * i) 8)

/-- The end of a sequence: its context takes a free slot as a committed buffer, and a pending entry is made (R481 to R483). -/
def State.importEnd (s : State) (last : TypedRec) : State :=
  let m := s.mig
  let ws := s.importDesc
  let entry := recBody m.got 11
  if s.refuses m.got last || !descFieldsOk ws then s.migDone 3
  else match s.freeCtxSlot m.die, s.freeRow m.die with
    | some k, some r =>
      if descDie ws ≠ m.die ∨ bitsOf (ws.getD 3 0) 32 20 < (nth entry 0).toNat then s.migDone 6
      else match s.descCondsOf m.owner none ws (min 4 (descConds ws)) with
        | none => s.migDone 3
        | some cs => match s.importBases m.owner (nthParts (recBody m.got 6) 0 6 ((recBody m.got 6).length / 6)) with
          | none => s.migDone 5
          | some (bases, u) => match u.importTiles m.owner (nthParts (recBody m.got 7) 0 73 ((recBody m.got 7).length / 73)) with
            | none => s.migDone 5
            | some (tiles, u) =>
              let c := u.importCtx m.got bases tiles
              let x := { u.entryOf m.die ws m.owner 192 r cs 0 none with image := 0, argbase := 0, chain := (nth entry 2).toNat % 2 ^ 44 }
              let (t, u) := { u with free := u.free + 1 }.fresh
              let u := ((u.addPins ((cs.map Cond.pin).filter (· != 0))).setTask t (some x)).takeSlot t k
              let u := (u.storeUnits m.die k 0 m.owner c (List.range 1600)).onDie m.die fun d => { d with accepted := d.accepted + 1 }
              let a := (u.dieAt m.die).slotAddr k
              ((u.devWrite (a + 8) 8 u.beat).devWrite a 8 (2 ^ 62 + 1)).migDone 0
    | _, _ => s.migDone 6

/-- TYPED_STATE_RECORD (R476, R477, R480 to R483): a record of a sequence that is being imported; the end record ends it -/
def execTypedStateRecord (g : StateRec) (s : State) : Out :=
  if !s.mig.go || !s.mig.imp then .next s
  else if !s.mig.genuine g.session g.seq g.sealed g.gcm then .next (s.onMig Mig.broken)
  else if s.mig.stale g.seq then .next (s.onMig fun m => m.refuse 1)
  else
    let s := s.onMig fun m => (m.accept g.seq).took
    let r := typedOf (cryptWords (s.mig.key.getD 0) g.session g.seq g.words)
    if r.kind = 0xFFFF then .next (s.importEnd r) else .next (s.onMig fun m => { m with got := m.got ++ [r] })

/-! ## Attestation (R484) -/

/-- The fleet registers changed by f. -/
def State.onFleet (s : State) (f : Fleet → Fleet) : State := { s with fleet := f s.fleet }

/-- NONCE_WRITE (R484): a write to the nonce clears done -/
def execNonceWrite (i : Nat) (w : Word) (s : State) : Out :=
  if 6 ≤ i then .next s else .next (s.onFleet fun f => { f with nonce := mset 0 f.nonce i w, qdone := false })

/-- The quoted words: nonce, M0 to M3, running and fused svn, accepted word (R484). -/
def State.quoteWords (s : State) : List Word :=
  mgetList 0 s.fleet.nonce 0 6 ++ ((List.range 4).flatMap fun i => natWords (mget 0 s.boot.meas i).toNat 6) ++
    [w64 (s.boot.svn % 2 ^ 32 + s.fused % 2 ^ 32 * 2 ^ 32), s.boot.accepted]

/-- QUOTE (R484): go snapshots the contents -/
def execQuote (s : State) : Out := .next (s.onFleet fun f => { f with quote := s.quoteWords, qgo := true, qdone := false })

/-- QUOTE_SIGNED (R484): the signature is written, and done is 1 -/
def execQuoteSigned (s : State) : Out :=
  if s.fleet.qgo then .next (s.onFleet fun f => { f with qsig := Config.quoteSign f.quote, qgo := false, qdone := true })
  else .next s

/-! ## Firmware update (R404, R485) -/

/-- Bytes of the upload window. -/
def Fleet.bytes (f : Fleet) (a n : Nat) : List Byte := mgetList 0 f.window a n

/-- The bundle in the upload window, by the layout of R404. -/
def Fleet.uploaded (f : Fleet) : Bundle :=
  let nat (a n : Nat) : Nat := leNat (f.bytes a n)
  { magic := BitVec.ofNat 32 (nat 0 4), svn := BitVec.ofNat 32 (nat 4 4), length := w64 (nat 8 8),
    digest := BitVec.ofNat 384 (nat 0x10 48), ekey := BitVec.ofNat 768 (nat 0x40 96), lkey := BitVec.ofNat 448 (nat 0xA0 56),
    reserved := f.bytes 0xD8 40 ++ f.bytes 0x84C 1972, esig := BitVec.ofNat 768 (nat 0x100 96), lsig := f.bytes 0x160 1772,
    body := f.bytes 0x1000 (min (nat 8 8) (2 ^ 24 - 0x1000)) }

/-- The result of the checks on the upload window (R403, R485). -/
def State.uploadCode (s : State) : Nat :=
  let b := s.fleet.uploaded
  if 2 ^ 24 < 0x1000 + b.length.toNat then 8 else bundleCode s.fused b

/-- The boot states in which the upload window can be written (R485). -/
def State.updatable (s : State) : Bool := s.boot.state == 4 || s.boot.state == 8

/-- UPDATE_VERIFY (R485) -/
def execUpdateVerify (s : State) : Out :=
  if s.fleet.upStatus == .busy then .next (s.badWrite 0x400 1)
  else .next (s.onFleet fun f => { f with upStatus := .busy, upResult := 0, installing := false })

/-- UPDATE_VERIFY_DONE (R403, R485) -/
def execUpdateVerifyDone (s : State) : Out :=
  if s.fleet.upStatus != .busy || s.fleet.installing then .next s
  else .next (s.onFleet fun f =>
    { f with upResult := s.uploadCode, upStatus := if s.uploadCode = 0 then .verified else .idle })

/-- UPDATE_INSTALL (R485): ignored and logged unless a bundle is verified -/
def execUpdateInstall (s : State) : Out :=
  if s.fleet.upStatus = .verified then .next (s.onFleet fun f => { f with upStatus := .busy, installing := true })
  else .next (s.badWrite 0x400 2)

/-- UPDATE_INSTALL_DONE (R485) -/
def execUpdateInstallDone (ok : Bool) (s : State) : Out :=
  if s.fleet.upStatus != .busy || !s.fleet.installing then .next s
  else if ok then
    .next ({ s with boot := { s.boot with flash := some s.fleet.uploaded } }.onFleet fun f =>
      { f with upStatus := .installed, installing := false })
  else .next (s.onFleet fun f => { f with upStatus := .idle, upResult := 9, installing := false })

/-- UPLOAD_WINDOW_WRITE (R405, R485): a write to the window sets status to 0 -/
def execUploadWindowWrite (off : Nat) (bytes : List Byte) (s : State) : Out :=
  if !s.updatable || decide (2 ^ 24 < off + bytes.length) then .next (s.badWrite (0x4800000 + off) (w64 (leNat bytes)))
  else .next (s.onFleet fun f => { f with window := msetList 0 f.window off bytes, upStatus := .idle, installing := false })

end Sys2Proof.Machine
end

