-- ==== Sys2Proof/Machine/Window.lean ====
section
/-!
DEFINITION. What the registers of the management window and of the boot mailboxes read as (19_drv_launch.md R405, R406, R411,
R412, R416, R423, R425, R427, R428, R430, R431, R436, R437; 20_drv_traps.md R449 to R451; 21_fleet.md R464, R466, R470, R473,
R482 to R485; 06_conveyor.md R156). No instruction reads them; the driver does.
-/

namespace Sys2Proof.Machine

/-- Fields, each a value and the place of its lowest bit, as a word. -/
def wFields (l : List (Nat × Nat)) : Word := w64 ((l.map fun e => e.1 * 2 ^ e.2).foldl (· + ·) 0)
/-- A truth value as a number. -/
def bNat (b : Bool) : Nat := if b then 1 else 0

/-- Word i of a vector of bits. -/
def bitsWord {w : Nat} (x : BitVec w) (i : Nat) : Word := x.extractLsb' (64 * i) 64

/-- The boot block (R405, R406, R484, R485). -/
def State.bootRead (s : State) (a : Nat) : Word :=
  let m (i : Nat) : BitVec 384 := mget 0 s.boot.meas i
  let key := Config.aliasKey (m 0) (m 1)
  if a = 0 then wFields [(s.boot.svn % 2 ^ 16, 32), (s.boot.error, 16), (s.boot.state, 0)]
  else if 0x100 ≤ a ∧ a < 0x1C0 then bitsWord (m ((a - 0x100) / 48)) ((a - 0x100) % 48 / 8)
  else if 0x200 ≤ a ∧ a < 0x230 then mget 0 s.fleet.nonce ((a - 0x200) / 8)
  else if a = 0x238 then wFields [(bNat s.fleet.qdone, 1)]
  else if 0x240 ≤ a ∧ a < 0x340 then nth s.fleet.quote ((a - 0x240) / 8)
  else if 0x340 ≤ a ∧ a < 0x3A0 then bitsWord s.fleet.qsig ((a - 0x340) / 8)
  else if 0x3A0 ≤ a ∧ a < 0x400 then bitsWord key ((a - 0x3A0) / 8)
  else if a = 0x400 then
    wFields [(s.fleet.upResult, 16), (match s.fleet.upStatus with
      | .idle => 0
      | .busy => 1
      | .verified => 2
      | .installed => 3, 2)]
  else if 0x440 ≤ a ∧ a < 0x4A0 then bitsWord (Config.aliasCert key (m 0) (m 1)) ((a - 0x440) / 8)
  else if 0x4A0 ≤ a ∧ a < 0x500 then bitsWord Config.identKey ((a - 0x4A0) / 8)
  else 0

/-- The feature block (R412). -/
def State.featureRead (s : State) (a : Nat) : Word :=
  if a = 0 then 0x1FF
  else if a = 8 then s.boot.accepted
  else if a = 0x10 then wFields [(bNat s.boot.refused, 1), (bNat s.boot.go, 0)]
  else 0

/-- The streams of link IDE that the function offers (R407, R412, log 156). -/
def State.ideStreams (s : State) : Nat := if s.feature 8 then 1 else 0

/-- The command interface (R411). -/
def State.cmdRead (s : State) (a : Nat) : Word :=
  if 8 ≤ a ∧ a ≤ 0x20 then s.arg (a / 8 - 1)
  else if a = 0x28 then wFields [(bNat s.cmd.busy, 63), (s.cmd.result, 0)]
  else 0

/-- A word of a region entry as it reads: bit 63, [55:28] and [27:0] of word 0, [27:0] of word 1 (R6, R430). -/
def regionWord (e : Word × Word) (hi : Bool) : Word :=
  if hi then e.2 &&& w64 (2 ^ 28 - 1) else e.1 &&& w64 (2 ^ 63 + (2 ^ 56 - 1))

/-- The interleave and region tables (R430, R431): reserved bits read zero (R6). -/
def State.tableRead (s : State) (a : Nat) : Word :=
  let p := s.placing
  let region (m : SMap (Word × Word)) (o : Nat) : Word := regionWord (mget (0, 0) m (o / 16)) (o / 8 % 2 == 1)
  if a = 0 then wFields [(p.active, 32), (p.drained, 16), (p.result, 8), (bNat p.draining, 1)]
  else if 0x100 ≤ a ∧ a < 0x140 then mget 0 p.stagedModes ((a - 0x100) / 8) &&& 3
  else if 0x200 ≤ a ∧ a < 0x600 then region p.stagedRegions (a - 0x200)
  else if 0x800 ≤ a ∧ a < 0x840 then w64 (mget 0 p.modes ((a - 0x800) / 8))
  else if 0x900 ≤ a ∧ a < 0xD00 then region p.regions (a - 0x900)
  else 0

/-- Word i of a ring whose records have k words. -/
def Ring.word (r : Ring) (k i : Nat) : Word := (mget [] r.recs (i / k)).getD (i % k) 0

/-- The errors counted at a home slice or a die (R464). -/
def State.errorWord (s : State) (key : Nat) : Word := wFields [(mget 0 s.mem.corr key, 32), (mget 0 s.mem.uncorr key, 16)]

/-- The block of a compute die (R94, R416, R427, R449 to R451, R464). -/
def State.dieRead (s : State) (d a : Nat) : Word :=
  let x := s.dieAt d
  let core := s.coreAt (24 * d + x.reqCore)
  if a < 0x80 then x.postWords.getD (a / 8) 0
  else if a = 0x88 then x.postRes
  else if a = 0x90 then w64 x.reserve
  else if a = 0x98 then w64 x.slip.lost
  else if a = 0xA0 then x.hvec.setWidth 64
  else if a = 0xA8 then w64 x.cxbase
  else if a = 0xB0 then wFields [(x.cxcount, 1), (bNat x.incr, 0)]
  else if a = 0xB8 then wFields [(bNat x.lsres, 48), (x.save, 32), (x.lateLim, 16), (x.stallLim, 0)]
  else if a = 0xC0 then
    wFields [(x.req.toNat, 32), (bNat (core.tr.events.any fun e => e.1 == 0x57), 10), (bNat core.pl.preempt, 8), (x.reqCore, 0)]
  else if a = 0xC8 then w64 x.trap.lost
  else if a = 0xD0 then w64 x.inbound.lost
  else if a = 0xD8 then s.errorWord d
  else if 0x100 ≤ a ∧ a < 0x120 then
    w64 (((List.range 8).map fun k => (mget 0 x.dmap (a - 0x100 + k)).toNat * 2 ^ (8 * k)).foldl (· + ·) 0)
  else if 0x1000 ≤ a ∧ a < 0x3000 then x.slip.word 4 ((a - 0x1000) / 8)
  else if 0x4000 ≤ a ∧ a < 0x6000 then x.inbound.word 4 ((a - 0x4000) / 8)
  else if 0x6000 ≤ a ∧ a < 0xA000 then x.trap.word 8 ((a - 0x6000) / 8)
  else if 0xA000 ≤ a ∧ a < 0xA800 then (mget 0 s.mem.flags (1000 + 256 * d + (a - 0xA000) / 8)).setWidth 64
  else 0

/-- The health register of a module (R436). -/
def Module.health (m : Module) : Word :=
  wFields [(m.crcfail, 48), (m.replays, 32), (m.retrains, 24), (m.thresh, 16), (m.window, 4), (bNat m.dead, 2), (m.width, 0)]

/-- mctl (R473). -/
def Mig.mctl (m : Mig) : Word :=
  wFields [(bNat (m.abort || m.aborted), 8), (m.owner, 4), (bNat m.recv, 3), (bNat m.full, 2), (bNat m.busy, 0)]

/-- The registers of the pre-copy engine; zero while feature 5 is not accepted (R473, R482). -/
def State.migRead (s : State) (a : Nat) : Word :=
  let m := s.mig
  if !s.feature 5 then 0
  else if a = 0x800 then m.mctl
  else if a = 0x808 then w64 m.mlist
  else if a = 0x810 then w64 m.mcount
  else if a = 0x818 then w64 m.mpeer
  else if a = 0x820 then m.msess.setWidth 64
  else if a = 0x868 then wFields [(m.sent, 32), (m.refused, 16), (m.result, 0)]
  else if a = 0x870 then wFields [(bNat m.go, 63), (bNat m.imp, 62), (m.slot, 52), (m.die, 49)]
  else if a = 0x878 then w64 m.mxdesc
  else 0

/-- The package control registers (R466). Energy is held in units of 0.2 nJ. -/
def State.powerRead (s : State) (a : Nat) : Word :=
  let f := s.fleet
  if a = 0x800 then wFields [(f.plimit, 32), (f.twarn, 24), (f.tcrit, 16), (f.tstate, 0)]
  else if a = 0x808 then wFields [(s.frame.holds, 32), (s.frame.hbeats, 0)]
  else if a = 0x810 then w64 (s.frame.energy / 5000000)
  else 0

/-- The averaged power of a mortise, which is 0 on the first beat after reset (R464, log 25). -/
def State.mortPower (s : State) (m : Nat) : BitVec 16 :=
  if s.frame.fno = 0 ∧ s.frame.fofs = 0 then 0 else Config.mortPower m s.beat

/-- The block of a station (R156, R436, R464, R466, R473). -/
def State.stationWords (s : State) (m a : Nat) : Word :=
  let k := linkKey m (a / 8 % 16)
  let c := s.conv
  if a < 0x80 then
    wFields [(mget 0 c.stale k, 48), (mget 0 c.refused k, 32), (mget 0 c.claims k, 16), (mget 0 c.overrun k, 8), (mget 0 c.hdrerr k, 0)]
  else if 0x100 ≤ a ∧ a < 0x180 then (s.moduleAt k).health
  else if a = 0x200 then
    wFields [((s.mortPower m).toNat, 48), (mget 0 s.fleet.tmax m, 32), (mget 0 s.fleet.temps m, 16)]
  else if m = 24 then s.powerRead a
  else if m = 25 then s.migRead a
  else 0

/-- The four words of an optical port (R437, R470). -/
def Port.word (p : Port) : Nat → Word
  | 0 => wFields [(p.uncorr, 48), (p.replays, 32), (p.thresh, 24), (p.window, 12), (match p.health with
      | .up => 0
      | .degraded => 1
      | .down => 2, 1)]
  | 1 => wFields [(p.mismatch, 48), (p.guarddrop, 32), (p.flight, 0)]
  | 2 => wFields [(p.idle, 32), (p.wdepth, 16), (match p.width with
      | .awake => 0
      | .parking => 1
      | .parked => 2
      | .waking => 3, 2)]
  | 3 => wFields [(p.parks, 48), (p.wakes, 32), (p.wfail, 16), (p.wmax, 0)]
  | _ => 0

/-- The dealer view of a slot key (R428). -/
def State.dealerView (s : State) (key : Nat) : Word :=
  match s.conv.slotOwner key (s.beat / 64) with
  | some h => wFields [(1, 63), (h, 0)]
  | none => 0

/-- The block of a home slice (R94, R423, R464). -/
def State.sliceRead (s : State) (h a : Nat) : Word :=
  if a = 0 then (mget 0 s.mem.flags (10000 + h)).setWidth 64
  else if a = 0x10 then mget 0 s.mem.dsnap h
  else if a = 0x18 then s.errorWord (10000 + h)
  else if a = 0x20 then w64 (mget 0 s.mem.ulast (10000 + h))
  else 0

/-- The word of the management window at an offset (R411). -/
def State.bar0 (s : State) (off : Nat) : Word :=
  if off % 8 ≠ 0 then 0
  else if off < 0x1000 then s.bootRead off
  else if off < 0x2000 then s.featureRead (off - 0x1000)
  else if off < 0x3000 then s.cmdRead (off - 0x2000)
  else if 0x10000 ≤ off ∧ off < 0x20000 then s.tableRead (off - 0x10000)
  else if 0x100000 ≤ off ∧ off < 0x200000 then s.dieRead ((off - 0x100000) / 0x20000) ((off - 0x100000) % 0x20000)
  else if 0x200000 ≤ off ∧ off < 0x21C000 then s.stationWords ((off - 0x200000) / 0x1000) (off % 0x1000)
  else if 0x300000 ≤ off ∧ off < 0x300C00 then (s.portAt ((off - 0x300000) / 64)).word (off % 64 / 8)
  else if 0x310000 ≤ off ∧ off < 0x311000 then mget 0 s.node.regs ((off - 0x310000) / 8)
  else if 0x320000 ≤ off ∧ off < 0x322000 then s.dealerView ((off - 0x320000) / 8)
  else if 0x400000 ≤ off ∧ off < 0x4400000 then s.sliceRead ((off - 0x400000) / 0x20000) ((off - 0x400000) % 0x20000)
  else if 0x4800000 ≤ off ∧ off < 0x5800000 then w64 (leNat (s.fleet.bytes (off - 0x4800000) 8))
  else 0

/-- The status register of a mailbox (R425). -/
def State.mailStatus (s : State) (n : Nat) : Word :=
  let c := (s.coreAt n).ch
  wFields [(c.drops, 48), (c.lres, 32), (bNat (s.launchMode n), 8), (c.mail.length, 0)]

/-- The word of the boot mailboxes at an offset (R425). -/
def State.bar2 (s : State) (off : Nat) : Word := if off % 64 = 8 ∧ off / 64 < 192 then s.mailStatus (off / 64) else 0

/-- In recovery only the boot block, the feature block and the recovery window respond (R405). -/
def State.responds (s : State) (off : Nat) : Bool :=
  s.boot.state != 8 || decide (off < 0x2000) || decide (0x4800000 ≤ off ∧ off < 0x5800000)

/-- What a driver's read of BAR0 or BAR2 gives; none is Unsupported Request (R405, R408). -/
def State.barRead (s : State) (bar off : Nat) : Option Word :=
  if bar = 0 then (if s.responds off then some (s.bar0 off) else none)
  else if bar = 2 ∧ s.boot.state ≠ 8 then some (s.bar2 off)
  else none

end Sys2Proof.Machine
end

