-- ==== Sys2Proof/Machine/Registers.lean ====
section
/-!
DEFINITION. Writes of the driver: the meaning of REGISTER_WRITE, over the three BARs (19_drv_launch.md R405, R408, R411, R412,
R415, R416, R425, R427, R430, R431, R433, R436, R437; 20_drv_traps.md R451; 21_fleet.md R464, R466, R470, R473, R482, R484,
R485; 03_numbers.md R94; 06_conveyor.md R156). A field whose value is not allowed is ignored and logged, and the other fields of
the word take effect (log 36).
-/

namespace Sys2Proof.Machine

/-- The machine goes on from the state that an outcome leaves. -/
def andThen (o : Out) (k : State → Out) : Out :=
  match o with
  | .next t => k t
  | o => o

/-- A count of n bits at bit lo: cleared by a write with all its bits set (R7). -/
def w1c (w : Word) (lo n old : Nat) : Nat := if bitsOf w lo n = 2 ^ n - 1 then 0 else old

/-- A field of a table cleared so. -/
def w1cMap (w : Word) (lo n : Nat) (m : SMap Nat) (k : Nat) : SMap Nat := mmod 0 m k (w1c w lo n)

/-- An event that a bit of a written word begins. -/
def onBit (b : Bool) (f : State → Out) (s : State) : Out := if b then f s else .next s

/-! ## Blocks of BAR0 -/

/-- The boot block (R405, R406, R484, R485). -/
def State.bootWrite (s : State) (a : Nat) (w : Word) : Out :=
  if 0x200 ≤ a ∧ a < 0x230 then execNonceWrite ((a - 0x200) / 8) w s
  else if a = 0x238 then onBit (w.getLsbD 0) execQuote s
  else if a = 0x400 then andThen (onBit (w.getLsbD 0) execUpdateVerify s) (onBit (w.getLsbD 1) execUpdateInstall)
  else if a = 0 ∨ (0x100 ≤ a ∧ a < 0x1C0) ∨ (0x240 ≤ a ∧ a < 0x400) ∨ (0x440 ≤ a ∧ a < 0x500) then .next s
  else .next (s.badWrite a w)

/-- The feature block (R412). -/
def State.featureWrite (s : State) (a : Nat) (w : Word) : Out :=
  if a = 0 then .next s
  else if a = 8 then
    if s.boot.go then .next (s.badWrite 0x1008 w) else .next { s with boot := { s.boot with accepted := w } }
  else if a = 0x10 then onBit (w.getLsbD 0) execFeatureGo s
  else .next (s.badWrite (0x1000 + a) w)

/-- The command interface (R411). -/
def State.cmdWrite (s : State) (a : Nat) (w : Word) : Out :=
  if a = 0 then
    if w = 1 then execRegisterImage s
    else if w = 2 then execUnregisterImage s
    else if w = 3 then execUnmap s
    else if w = 4 then execRelocate s
    else if w = 5 then execUndealCommand s
    else if w = 6 then execCommitSvn s
    else .next (s.badWrite 0x2000 w)
  else if 8 ≤ a ∧ a ≤ 0x20 then .next { s with cmd := { s.cmd with args := mset 0 s.cmd.args (a / 8 - 1) w } }
  else if a = 0x28 then .next s
  else .next (s.badWrite (0x2000 + a) w)

/-- The interleave and region tables (R430, R431). -/
def State.tableWrite (s : State) (a : Nat) (w : Word) : Out :=
  let p := s.placing
  if a = 0 then onBit (w.getLsbD 0) execTableRewriteCommit s
  else if 0x100 ≤ a ∧ a < 0x140 then .next { s with placing := { p with stagedModes := mset 0 p.stagedModes ((a - 0x100) / 8) w } }
  else if 0x200 ≤ a ∧ a < 0x600 then
    let f (e : Word × Word) : Word × Word := if a / 8 % 2 = 0 then (w, e.2) else (e.1, w)
    .next { s with placing := { p with stagedRegions := mmod (0, 0) p.stagedRegions ((a - 0x200) / 16) f } }
  else if (0x800 ≤ a ∧ a < 0x840) ∨ (0x900 ≤ a ∧ a < 0xD00) then .next s
  else .next (s.badWrite (0x10000 + a) w)

/-- The BAR0 offset of a register of a die. -/
def dieOff (d a : Nat) : Nat := 0x100000 + 0x20000 * d + a

/-- A task of a die holds a context slot (R451). -/
def Die.slotHeld (x : Die) : Bool := x.slots.any fun e => e.2.holder.isSome

/-- cxcount and incr (R451): the count stays while a slot is held. -/
def State.cxWrite (s : State) (d : Nat) (w : Word) : State :=
  let s := s.onDie d fun x => { x with incr := w.getLsbD 0 }
  let n := bitsOf w 1 10
  if (s.dieAt d).slotHeld && n != (s.dieAt d).cxcount then s.badWrite (dieOff d 0xB0) w
  else (s.onDie d fun x => { x with cxcount := n }).grantSlots d n

/-- The request register (R451): cancel, then preempt, then intr. A word with a must-be-zero bit set, or that names no core of
the die, is ignored and logged as a whole (DESIGN CHOICE: the rule gives it no effect, log 14). -/
def State.reqWrite (s : State) (d : Nat) (w : Word) : Out :=
  let n := bitsOf w 0 5
  let data := w.extractLsb' 32 32
  if 24 ≤ n ∨ bitsOf w 5 3 ≠ 0 ∨ bitsOf w 11 21 ≠ 0 then .next (s.badWrite (dieOff d 0xC0) w)
  else andThen (andThen (onBit (w.getLsbD 9) (execPreemptCancel d n) (s.onDie d fun x => { x with req := data, reqCore := n }))
    (onBit (w.getLsbD 8) (execPreemptRequest d n))) (onBit (w.getLsbD 10) (execDriverInterrupt d n data))

/-- Error counts cleared (R464). -/
def State.errorWrite (s : State) (key : Nat) (w : Word) : State :=
  s.onMem fun m => { m with corr := w1cMap w 32 32 m.corr key, uncorr := w1cMap w 16 16 m.uncorr key }

/-- Flags of a unit cleared (R94). -/
def State.flagWrite (s : State) (poc : Nat) (w : Word) : State :=
  s.onMem fun m => { m with flags := mmod 0 m.flags poc fun f => f &&& ~~~(w.setWidth 5) }

/-- Owners of shared ranges: eight bytes of the map; a byte with a bit of [6:4] set is ignored and logged (R416). -/
def State.dmapWrite (s : State) (d a : Nat) (w : Word) : State :=
  let bytes : List (Nat × BitVec 8) := (List.range 8).map fun k => (a - 0x100 + k, w.extractLsb' (8 * k) 8)
  let s := if bytes.any fun e => bitsOf e.2 4 3 != 0 then s.badWrite (dieOff d a) w else s
  s.onDie d fun x =>
    { x with dmap := bytes.foldl (fun m e => if bitsOf e.2 4 3 = 0 then mset 0 m e.1 e.2 else m) x.dmap }

/-- The block of a compute die (R94, R416, R427, R449 to R451, R464). -/
def State.dieWrite (s : State) (d a : Nat) (w : Word) : Out :=
  if a < 0x80 then .next (s.onDie d fun x => { x with postBuf := msetList 0 x.postBuf a (leBytes w.toNat 8) })
  else if a = 0x80 then execPostPortPost d w s
  else if a = 0x90 then
    if 4 < bitsOf w 0 3 then .next (s.badWrite (dieOff d a) w) else .next (s.onDie d fun x => { x with reserve := bitsOf w 0 3 })
  else if a = 0xA0 then execHvecWrite d w s
  else if a = 0xA8 then
    if (s.dieAt d).slotHeld then .next (s.badWrite (dieOff d a) w)
    else .next (s.onDie d fun x => { x with cxbase := bitsOf w 24 16 * 2 ^ 24 })
  else if a = 0xB0 then .next (s.cxWrite d w)
  else if a = 0xB8 then
    .next (s.onDie d fun x =>
      { x with lsres := w.getLsbD 48, save := bitsOf w 32 16, lateLim := bitsOf w 16 16, stallLim := bitsOf w 0 16 })
  else if a = 0xC0 then s.reqWrite d w
  else if a = 0xD8 then .next (s.errorWrite d w)
  else if 0x100 ≤ a ∧ a < 0x120 then .next (s.dmapWrite d a w)
  else if 0xA000 ≤ a ∧ a < 0xA800 then .next (s.flagWrite (1000 + 256 * d + (a - 0xA000) / 8) w)
  else if a = 0x88 ∨ a = 0x98 ∨ a = 0xC8 ∨ a = 0xD0 ∨ (0x1000 ≤ a ∧ a < 0x3000) ∨ (0x4000 ≤ a ∧ a < 0xA000) then .next s
  else .next (s.badWrite (dieOff d a) w)

/-- The BAR0 offset of a register of a station. -/
def stationOff (m a : Nat) : Nat := 0x200000 + 0x1000 * m + a

/-- The health register of a module: the failure count restarts with the write (R436). -/
def State.healthWrite (s : State) (m a : Nat) (w : Word) : Out :=
  let i := (a - 0x100) / 8
  let win := bitsOf w 4 12
  let s := if win = 0 then s.badWrite (stationOff m a) w else s
  let s := s.onModule (linkKey m i) fun x =>
    { x with crcfail := w1c w 48 16 x.crcfail, replays := w1c w 32 16 x.replays, retrains := w1c w 24 8 x.retrains,
             thresh := bitsOf w 16 8, window := if win = 0 then x.window else win, winStart := s.beat
             up := { x.up with fails := 0 }, down := { x.down with fails := 0 } }
  onBit (w.getLsbD 3) (execModuleRetrainRequest m i) s

/-- The package control registers (R466). -/
def State.powerWrite (s : State) (a : Nat) (w : Word) : State :=
  if a = 0x800 then
    let p := bitsOf w 32 16
    let tw := bitsOf w 24 8
    let tc := bitsOf w 16 8
    let okP := decide (400 ≤ p) && decide (p ≤ 16000)
    let okT := decide (tw < tc)
    let s := if okP && okT then s else s.badWrite (stationOff 24 a) w
    let f := s.fleet
    s.setThermal { f with plimit := if okP then p else f.plimit, twarn := if okT then tw else f.twarn
                          tcrit := if okT then tc else f.tcrit }
  else if a = 0x808 then
    { s with frame := { s.frame with holds := w1c w 32 32 s.frame.holds, hbeats := w1c w 0 32 s.frame.hbeats } }
  else if a = 0x810 then s
  else s.badWrite (stationOff 24 a) w

/-- mctl (R473): while busy, only abort is taken. -/
def State.mctlWrite (s : State) (w : Word) : Out :=
  if s.mig.busy then (if w.getLsbD 8 then execMigrationAbort s else .next (s.badWrite (migOff 0x800) w))
  else
    let s := s.onMig fun m => { m with owner := bitsOf w 4 4, recv := w.getLsbD 3, full := w.getLsbD 2 }
    onBit (w.getLsbD 1) (if w.getLsbD 3 then execMigrationReceive else execMigrationPass) s

/-- mxctl (R482). -/
def State.mxctlWrite (s : State) (w : Word) : Out :=
  if bitsOf w 0 49 ≠ 0 ∨ s.mig.go then .next (s.badWrite (migOff 0x870) w)
  else
    let s := s.onMig fun m => { m with imp := w.getLsbD 62, slot := bitsOf w 52 10, die := bitsOf w 49 3 }
    onBit (w.getLsbD 63) (if w.getLsbD 62 then execTaskImport else execTaskExport) s

/-- The registers of the pre-copy engine (R473, R482). -/
def State.migWrite (s : State) (a : Nat) (w : Word) : Out :=
  if !s.feature 5 then .next (s.badWrite (migOff a) w)
  else if a = 0x800 then s.mctlWrite w
  else if s.mig.busy then .next (s.badWrite (migOff a) w)
  else if a = 0x868 then .next s
  else if a = 0x808 then .next (s.onMig fun m => { m with mlist := bitsOf w 6 34 * 64 })
  else if a = 0x810 then .next (s.onMig fun m => { m with mcount := bitsOf w 0 24 })
  else if a = 0x818 then .next (s.onMig fun m => { m with mpeer := bitsOf w 0 32 })
  else if a = 0x820 then execMsessWrite w s
  else if a = 0x858 then execSessionKeyInstall w s
  else if 0x840 ≤ a ∧ a < 0x858 then .next (s.onMig fun m => { m with keyBuf := mset 0 m.keyBuf ((a - 0x840) / 8) w })
  else if a = 0x870 then s.mxctlWrite w
  else if a = 0x878 then .next (s.onMig fun m => { m with mxdesc := bitsOf w 0 40 })
  else .next (s.badWrite (migOff a) w)

/-- The block of a station (R156, R436, R464, R466, R473). -/
def State.stationWrite (s : State) (m a : Nat) (w : Word) : Out :=
  let k := linkKey m (a / 8 % 16)
  if a < 0x80 then
    .next (s.onConv fun c =>
      { c with stale := w1cMap w 48 16 c.stale k, refused := w1cMap w 32 16 c.refused k, claims := w1cMap w 16 16 c.claims k,
               overrun := w1cMap w 8 8 c.overrun k, hdrerr := w1cMap w 0 8 c.hdrerr k })
  else if 0x100 ≤ a ∧ a < 0x180 then s.healthWrite m a w
  else if a = 0x200 then .next (s.onFleet fun f => { f with tmax := w1cMap w 32 16 f.tmax m })
  else if m = 24 ∧ 0x800 ≤ a then .next (s.powerWrite a w)
  else if m = 25 ∧ 0x800 ≤ a then s.migWrite a w
  else .next (s.badWrite (stationOff m a) w)

/-- The four words of an optical port (R437, R470). -/
def State.portWrite (s : State) (p i : Nat) (w : Word) : Out :=
  match i with
  | 0 =>
    onBit (w.getLsbD 3) (execPortReopen p) (s.onPort p fun x =>
      { x with uncorr := w1c w 48 16 x.uncorr, replays := w1c w 32 16 x.replays, thresh := bitsOf w 24 8, window := bitsOf w 12 12 })
  | 1 => .next (s.onPort p fun x => { x with mismatch := w1c w 48 16 x.mismatch, guarddrop := w1c w 32 16 x.guarddrop })
  | 2 =>
    let idle := bitsOf w 32 20
    let ok := idle == 0 || decide (1024 ≤ idle)
    let s := if ok then s else s.badWrite (0x300010 + 64 * p) w
    andThen (onBit (w.getLsbD 7) (execPortWake p) (s.onPort p fun x =>
      Port.wakeFull { x with idle := if ok then idle else x.idle, wdepth := bitsOf w 16 16 } s.beat)) (onBit (w.getLsbD 6) (execPortPark p))
  | 3 =>
    .next (s.onPort p fun x =>
      { x with parks := w1c w 48 16 x.parks, wakes := w1c w 32 16 x.wakes, wfail := w1c w 16 16 x.wfail, wmax := w1c w 0 16 x.wmax })
  | _ => .next (s.badWrite (0x300000 + 64 * p + 8 * i) w)

/-- The block of a home slice (R94, R423, R464). -/
def State.sliceWrite (s : State) (h a : Nat) (w : Word) : Out :=
  if a = 0 then .next (s.flagWrite (10000 + h) w)
  else if a = 8 then execDirtySnapshot h w s
  else if a = 0x18 then .next (s.errorWrite (10000 + h) w)
  else if a = 0x10 ∨ a = 0x20 then .next s
  else .next (s.badWrite (0x400000 + 0x20000 * h + a) w)

/-- A word written to the management window (R405, R411). -/
def State.bar0Write (s : State) (off : Nat) (w : Word) : Out :=
  let upload := decide (0x4800000 ≤ off) && decide (off < 0x5800000)
  if !s.responds off then .next (s.unsupported 1 off 8 false)
  else if off % 8 ≠ 0 then .next (s.badWrite off w)
  else if off < 0x1000 then s.bootWrite off w
  else if off < 0x2000 then s.featureWrite (off - 0x1000) w
  else if off < 0x3000 then s.cmdWrite (off - 0x2000) w
  else if 0x10000 ≤ off ∧ off < 0x20000 then s.tableWrite (off - 0x10000) w
  else if 0x100000 ≤ off ∧ off < 0x200000 then s.dieWrite ((off - 0x100000) / 0x20000) ((off - 0x100000) % 0x20000) w
  else if 0x200000 ≤ off ∧ off < 0x21C000 then s.stationWrite ((off - 0x200000) / 0x1000) (off % 0x1000) w
  else if 0x300000 ≤ off ∧ off < 0x300C00 then s.portWrite ((off - 0x300000) / 64) (off % 64 / 8) w
  else if 0x310000 ≤ off ∧ off < 0x311000 then
    .next { s with node := { s.node with regs := mset 0 s.node.regs ((off - 0x310000) / 8) w } }
  else if 0x320000 ≤ off ∧ off < 0x322000 then .next s
  else if 0x400000 ≤ off ∧ off < 0x4400000 then s.sliceWrite ((off - 0x400000) / 0x20000) ((off - 0x400000) % 0x20000) w
  else if upload then execUploadWindowWrite (off - 0x4800000) (leBytes w.toNat 8) s
  else .next (s.badWrite off w)

/-- A word written to the boot mailboxes (R405, R425). -/
def State.bar2Write (s : State) (off : Nat) (w : Word) : Out :=
  let n := off / 64
  if s.boot.state = 8 then .next (s.unsupported 1 off 8 false)
  else if n < 192 ∧ off % 64 = 0 then execMailboxPush n w s
  else if n < 192 ∧ off % 64 = 8 then .next (s.onCore n fun c => { c with ch := { c.ch with drops := w1c w 48 16 c.ch.drops } })
  else .next (s.badWrite off w)

/-- REGISTER_WRITE (R7, R405, R408, R411) -/
def execRegisterWrite (bar off : Nat) (w : Word) (s : State) : Out :=
  if bar = 0 then s.bar0Write off w
  else if bar = 2 then s.bar2Write off w
  else if bar = 4 then execHostWrite off ⟨leBytes w.toNat 8, []⟩ s
  else .next s

end Sys2Proof.Machine
end

