-- ==== Sys2Proof/Machine/Scalar.lean ====
section
/-!
DEFINITION. The meanings of the scalar, control and channel instructions (11_ins_scalar.md).
-/

namespace Sys2Proof.Machine

/-! ## Results (R236 to R244) -/

/-- Bits [127:64] of the signed product (R236). -/
def mulHigh (a b : Word) : Word := BitVec.ofInt 64 (a.toInt * b.toInt / 2 ^ 64)
/-- Bits [127:64] of the unsigned product (R236). -/
def mulHighN (a b : Word) : Word := w64 (a.toNat * b.toNat / 2 ^ 64)
/-- Signed division (R237). -/
def divS (a b : Word) : Word := if b = 0 then BitVec.allOnes 64 else BitVec.ofInt 64 (a.toInt.tdiv b.toInt)
/-- Unsigned division (R237). -/
def divN (a b : Word) : Word := if b = 0 then BitVec.allOnes 64 else w64 (a.toNat / b.toNat)
/-- Signed remainder, of the sign of a (R237). -/
def remS (a b : Word) : Word := if b = 0 then a else BitVec.ofInt 64 (a.toInt.tmod b.toInt)
/-- Unsigned remainder (R237). -/
def remN (a b : Word) : Word := if b = 0 then a else w64 (a.toNat % b.toNat)
/-- The shift amount: bits [5:0] (R236). -/
def shamt (b : Word) : Nat := b.toNat % 64
/-- Shift left (R236). -/
def shiftL (a b : Word) : Word := a <<< shamt b
/-- Shift right, zeros entering (R236). -/
def shiftR (a b : Word) : Word := a >>> shamt b
/-- Shift right, the sign entering (R236). -/
def shiftA (a b : Word) : Word := a.sshiftRight (shamt b)
/-- Rotate left (R236). -/
def rotL (a b : Word) : Word := a.rotateLeft (shamt b)
/-- Signed minimum (R236). -/
def minS (a b : Word) : Word := if a.toInt ≤ b.toInt then a else b
/-- Signed maximum (R236). -/
def maxS (a b : Word) : Word := if a.toInt ≤ b.toInt then b else a
/-- Unsigned minimum (R236). -/
def minN (a b : Word) : Word := if a.toNat ≤ b.toNat then a else b
/-- Unsigned maximum (R236). -/
def maxN (a b : Word) : Word := if a.toNat ≤ b.toNat then b else a
/-- The zero bits above the highest set bit among the low n bits of a (R238). -/
def clzNat (a : Nat) : Nat → Nat
  | 0 => 0
  | n + 1 => if a.testBit n then 0 else clzNat a n + 1
/-- The zero bits below the lowest set bit of a, counted from bit 64 - n on (R238). -/
def ctzNat (a : Nat) : Nat → Nat
  | 0 => 0
  | n + 1 => if a.testBit (63 - n) then 0 else ctzNat a n + 1
/-- The set bits among the low n bits of a (R238). -/
def popNat (a : Nat) : Nat → Nat
  | 0 => 0
  | n + 1 => popNat a n + (if a.testBit n then 1 else 0)
/-- Leading zeros (R238). -/
def clzW (a : Word) : Word := w64 (clzNat a.toNat 64)
/-- Trailing zeros (R238). -/
def ctzW (a : Word) : Word := w64 (ctzNat a.toNat 64)
/-- Set bits (R238). -/
def popW (a : Word) : Word := w64 (popNat a.toNat 64)

/-- The condition of `cmp` and `cmpi` by code (R214, R240). -/
def cmpHolds (c : BitVec 3) (a b : Word) : Bool :=
  match c.toNat with
  | 0 => a == b
  | 1 => a != b
  | 2 => decide (a.toInt < b.toInt)
  | 3 => decide (b.toInt ≤ a.toInt)
  | 4 => decide (a.toNat < b.toNat)
  | 5 => decide (b.toNat ≤ a.toNat)
  | _ => false

/-- The condition of `br` by code (R214, R245). -/
def brTaken (c : BitVec 4) (a : Word) : Bool :=
  match c.toNat with
  | 0 => a == 0
  | 1 => a != 0
  | 2 => decide (a.toInt < 0)
  | 3 => decide (0 ≤ a.toInt)
  | 4 => decide (0 < a.toInt)
  | 5 => decide (a.toInt ≤ 0)
  | 6 => a.getLsbD 0
  | 7 => !a.getLsbD 0
  | _ => false

/-- The immediate of format I, sign-extended (R242). -/
def immI (i : BitVec 13) : Word := i.signExtend 64
/-- The field of `ext` (R244). -/
def extField (pos len : BitVec 6) (sgn : Bool) (a : Word) : Word :=
  let n := len.toNat + 1
  let f := a.toNat / 2 ^ pos.toNat % 2 ^ n
  if sgn then sextW (w64 f) n else w64 f
/-- `ins`: bits [POS + LEN - 1 : POS] of old replaced by the low bits of a (R244). -/
def insField (pos len : BitVec 6) (old a : Word) : Word :=
  let n := len.toNat + 1
  let p := pos.toNat
  w64 (old.toNat % 2 ^ p + 2 ^ p * (a.toNat % 2 ^ n) + 2 ^ (p + n) * (old.toNat / 2 ^ (p + n)))

/-! ## Meanings: register arithmetic and logic -/

/-- `add` (R236) -/
def execAdd (o : RForm) (s : State) : Out := alu2 1 (· + ·) o s
/-- `sub` (R236) -/
def execSub (o : RForm) (s : State) : Out := alu2 1 (· - ·) o s
/-- `mul` (R236), latency 3 (R181) -/
def execMul (o : RForm) (s : State) : Out := alu2 3 (· * ·) o s
/-- `mulh` (R236), latency 4 (R181) -/
def execMulh (o : RForm) (s : State) : Out := alu2 4 mulHigh o s
/-- `mulhn` (R236), latency 4 (R181) -/
def execMulhn (o : RForm) (s : State) : Out := alu2 4 mulHighN o s
/-- `div` (R237), latency 34 -/
def execDiv (o : RForm) (s : State) : Out := alu2 34 divS o s
/-- `divn` (R237), latency 34 -/
def execDivn (o : RForm) (s : State) : Out := alu2 34 divN o s
/-- `rem` (R237), latency 34 -/
def execRem (o : RForm) (s : State) : Out := alu2 34 remS o s
/-- `remn` (R237), latency 34 -/
def execRemn (o : RForm) (s : State) : Out := alu2 34 remN o s
/-- `and` (R236) -/
def execAnd (o : RForm) (s : State) : Out := alu2 1 (· &&& ·) o s
/-- `or` (R236) -/
def execOr (o : RForm) (s : State) : Out := alu2 1 (· ||| ·) o s
/-- `xor` (R236) -/
def execXor (o : RForm) (s : State) : Out := alu2 1 (· ^^^ ·) o s
/-- `andn` (R236) -/
def execAndn (o : RForm) (s : State) : Out := alu2 1 (fun a b => a &&& ~~~b) o s
/-- `shl` (R236) -/
def execShl (o : RForm) (s : State) : Out := alu2 1 shiftL o s
/-- `shr` (R236) -/
def execShr (o : RForm) (s : State) : Out := alu2 1 shiftR o s
/-- `sra` (R236) -/
def execSra (o : RForm) (s : State) : Out := alu2 1 shiftA o s
/-- `rotl` (R236) -/
def execRotl (o : RForm) (s : State) : Out := alu2 1 rotL o s
/-- `min` (R236) -/
def execMin (o : RForm) (s : State) : Out := alu2 1 minS o s
/-- `max` (R236) -/
def execMax (o : RForm) (s : State) : Out := alu2 1 maxS o s
/-- `minn` (R236) -/
def execMinn (o : RForm) (s : State) : Out := alu2 1 minN o s
/-- `maxn` (R236) -/
def execMaxn (o : RForm) (s : State) : Out := alu2 1 maxN o s
/-- `clz` (R238) -/
def execClz (o : UForm) (s : State) : Out := alu1 1 clzW o.d o.a o.p s
/-- `ctz` (R238) -/
def execCtz (o : UForm) (s : State) : Out := alu1 1 ctzW o.d o.a o.p s
/-- `popc` (R238) -/
def execPopc (o : UForm) (s : State) : Out := alu1 1 popW o.d o.a o.p s
/-- `sel` (R241): d is read as a register, after a and b -/
def execSel (o : RForm) (s : State) : Out :=
  cIssue s [(o.a, o.p), (o.b, o.q)] [o.d] (some o.d) fun s =>
    let a := s.readSrc o.a o.p
    let b := a.2.readSrc o.b o.q
    let d := b.2.readDst o.d
    (d.2.writeDst o.d 1 (if d.1 = 0 then b.1 else a.1)).advance
/-- `adds` (R239) -/
def execAdds (o : RForm) (k : BitVec 3) (s : State) : Out := alu2 1 (fun a b => a + b <<< k.toNat) o s
/-- `cmp` (R240) -/
def execCmp (o : RForm) (c : BitVec 3) (s : State) : Out := alu2 1 (fun a b => wBool (cmpHolds c a b)) o s

/-! ## Meanings: immediates, constants, bit fields -/

/-- `addi` (R242) -/
def execAddi (o : IForm) (s : State) : Out := alu1 1 (fun a => a + immI o.i) o.d o.a o.p s
/-- `andi` (R242) -/
def execAndi (o : IForm) (s : State) : Out := alu1 1 (fun a => a &&& immI o.i) o.d o.a o.p s
/-- `ori` (R242) -/
def execOri (o : IForm) (s : State) : Out := alu1 1 (fun a => a ||| immI o.i) o.d o.a o.p s
/-- `xori` (R242) -/
def execXori (o : IForm) (s : State) : Out := alu1 1 (fun a => a ^^^ immI o.i) o.d o.a o.p s
/-- `shli` (R242) -/
def execShli (o : HForm) (s : State) : Out := alu1 1 (fun a => a <<< o.s.toNat) o.d o.a o.p s
/-- `shri` (R242) -/
def execShri (o : HForm) (s : State) : Out := alu1 1 (fun a => a >>> o.s.toNat) o.d o.a o.p s
/-- `srai` (R242) -/
def execSrai (o : HForm) (s : State) : Out := alu1 1 (fun a => a.sshiftRight o.s.toNat) o.d o.a o.p s
/-- `cmpi` (R240) -/
def execCmpi (o : CForm) (s : State) : Out :=
  alu1 1 (fun a => wBool (cmpHolds o.c a (o.i.signExtend 64))) o.d o.a o.p s
/-- `ext` (R244) -/
def execExt (o : XForm) (s : State) : Out := alu1 1 (extField o.pos o.len o.sgn) o.d o.a o.p s
/-- `ins` (R244): the old value of a register d is read as a source; of a channel it is zero -/
def execIns (o : XForm) (s : State) : Out :=
  cIssue s [(o.a, o.p)] [o.d] (some o.d) fun s =>
    let a := s.readSrc o.a o.p
    let d := a.2.readDst o.d
    (d.2.writeDst o.d 1 (insField o.pos o.len d.1 a.1)).advance
/-- `movh` (R243) -/
def execMovh (d : BitVec 6) (i : BitVec 20) (s : State) : Out :=
  cIssue s [] [] (some d) fun s => (s.writeDst d 1 (i.signExtend 64 <<< 12)).advance

/-! ## Meanings: control transfer (R245 to R248) -/

/-- pc plus a signed displacement in words (R210). -/
def State.target (s : State) (n : Int) : Int := s.here.c.pc.toNat + n

/-- A transfer to a target after effect k; outside 0 to 16,383 the instruction-range fault is taken and nothing else
happens (R18, R210). -/
def State.transfer (s : State) (t : Int) (k : State → State) : Out :=
  if 0 ≤ t ∧ t < 16384 then .next ((k s).goto t.toNat) else .next (s.trapAt 0x22 0)

/-- An instruction that may transfer control: the checks of R234, then what k does; k makes the range checks. -/
def cJump (s : State) (srcs : List Src) (dst : Option (BitVec 6)) (k : State → Out) : Out :=
  match s.cCheck srcs [] dst with
  | .trap c => .next (s.trapAt c 0)
  | .stall => .next (s.stalled true)
  | .ok => k s

/-- The instruction falls through, unless its successor lies outside the memory (R18). -/
def State.fall (s : State) (k : State → State) : Out :=
  if s.hasNext then .next (k s).advance else .next (s.trapAt 0x22 0)

/-- `br` (R245) -/
def execBr (o : BForm) (s : State) : Out :=
  cJump s [(o.a, o.p)] none fun s =>
    let a := s.readSrc o.a o.p
    if brTaken o.c a.1 then s.transfer (s.target o.n.toInt) fun _ => a.2 else s.fall fun _ => a.2
/-- `loop` (R246) -/
def execLoop (a : BitVec 6) (n : BitVec 15) (s : State) : Out :=
  cJump s [(a, false)] (some a) fun s =>
    let x := s.readSrc a false
    let v := x.1 - 1
    if v ≠ 0 then s.transfer (s.target n.toInt) fun _ => x.2.writeDst a 1 v else s.fall fun _ => x.2.writeDst a 1 v
/-- `jmp` (R247) -/
def execJmp (n : BitVec 26) (s : State) : Out := cJump s [] none fun s => s.transfer (s.target n.toInt) id
/-- `jal` (R247): links through x31 -/
def execJal (n : BitVec 26) (s : State) : Out :=
  cJump s [] (some 31) fun s =>
    s.transfer (s.target n.toInt) fun t => t.writeDst 31 1 (w64 (s.here.c.pc.toNat + 1))
/-- `jr` (R247): a target above 16,383 faults with nothing popped -/
def execJr (o : OForm) (s : State) : Out :=
  cJump s [(o.a, o.p)] none fun s =>
    let a := s.readSrc o.a o.p
    s.transfer a.1.toNat fun _ => a.2

/-! ## Meanings: channels (R249 to R252) -/

/-- The queue that KIND and SELECTOR name (R213, R249). -/
def queueNamed (k : BitVec 3) (sel : BitVec 10) : Queue :=
  match k.toNat with
  | 0 => .result sel.toNat
  | 1 => .feed sel.toNat
  | 2 => .copyOut sel.toNat
  | 3 => .mailbox
  | _ => .wakeQ sel.toNat

/-- Pushes into the queue of channel c are still in their shadow (R250). -/
def State.pushesOf (s : State) (f : BitVec 6) : Bool :=
  match s.queueOf s.turn.core f with
  | some (.feed e) => decide (0 < s.here.reserved e)
  | _ => false

/-- A queue is bound to another channel of the core, or a copy output to a channel of another core (R250). -/
def State.boundElsewhere (s : State) (d : BitVec 6) (q : Queue) : Bool :=
  (s.here.ch.table.any fun e => e.2 == some q && e.1 != fieldNo d) || (match q with
    | .copyOut k => match mget none (s.dieAt (dieOf s.turn.core)).binders k with
      | some b => b.1 != s.turn.core
      | none => false
    | _ => false)

/-- Channel d is bound to queue q (R249, R250). -/
def State.bindChan (s : State) (d : BitVec 6) (q : Queue) : State :=
  let n := s.turn.core
  let s := if s.queueOf n d == some q then s else s.unbindChan n (fieldNo d)
  let s := s.onCore n fun k => { k with ch := { k.ch with table := mset none k.ch.table (fieldNo d) (some q) } }
  match q with
  | .copyOut k => s.onDie (dieOf n) fun x => { x with binders := mset none x.binders k (some (n, fieldNo d)) }
  | _ => s

/-- `chbind` (R249, R250) -/
def execChbind (d : BitVec 6) (k : BitVec 3) (sel : BitVec 10) (s : State) : Out :=
  if s.boundElsewhere d (queueNamed k sel) then .next (s.trapAt 0x4B 0)
  else if s.pushesOf d then .next (s.stalled true)
  else cIssue s [] [] none fun s => (s.bindChan d (queueNamed k sel)).advance

/-- The level of channel a's queue (R251). -/
def State.level (s : State) (a : BitVec 6) : Word :=
  match s.queueOf s.turn.core a with
  | some (.feed e) => w64 (s.here.feedRoom e)
  | some q => w64 (s.entries s.turn.core q).length
  | none => 0

/-- `chlvl` (R251) -/
def execChlvl (d a : BitVec 6) (s : State) : Out :=
  if (s.queueOf s.turn.core a).isNone then .next (s.trapAt 0x4B 0)
  else cIssue s [] [] (some d) fun s => (s.writeDst d 1 (s.level a)).advance

/-- `chdrop` (R252) -/
def execChdrop (a : BitVec 6) (s : State) : Out :=
  if s.pushesOf a then .next (s.stalled true)
  else cIssue s [] [] none fun s => (s.unbindChan s.turn.core (fieldNo a)).advance

/-- A word of the hint space (R220, R255) -/
def execNop (_h : BitVec 26) (s : State) : Out := cIssue s [] [] none State.advance

end Sys2Proof.Machine
end

