-- ==== Sys2Proof/Machine/Dispatch.lean ====
section
/-!
DEFINITION. What each instruction and each event does: one arm per constructor of Instr, in the order of the opcode table.
-/

namespace Sys2Proof.Machine

/-- The meaning of instruction or event i in state s. -/
def exec (i : Instr) (s : State) : Host.Outcome State Fault Refusal :=
  match i with
  | .add o => Sys2Proof.Machine.execAdd o s
  | .sub o => Sys2Proof.Machine.execSub o s
  | .mul o => Sys2Proof.Machine.execMul o s
  | .mulh o => Sys2Proof.Machine.execMulh o s
  | .mulhn o => Sys2Proof.Machine.execMulhn o s
  | .div o => Sys2Proof.Machine.execDiv o s
  | .divn o => Sys2Proof.Machine.execDivn o s
  | .rem o => Sys2Proof.Machine.execRem o s
  | .remn o => Sys2Proof.Machine.execRemn o s
  | .and_ o => Sys2Proof.Machine.execAnd o s
  | .or_ o => Sys2Proof.Machine.execOr o s
  | .xor o => Sys2Proof.Machine.execXor o s
  | .andn o => Sys2Proof.Machine.execAndn o s
  | .shl o => Sys2Proof.Machine.execShl o s
  | .shr o => Sys2Proof.Machine.execShr o s
  | .sra o => Sys2Proof.Machine.execSra o s
  | .rotl o => Sys2Proof.Machine.execRotl o s
  | .min_ o => Sys2Proof.Machine.execMin o s
  | .max_ o => Sys2Proof.Machine.execMax o s
  | .minn o => Sys2Proof.Machine.execMinn o s
  | .maxn o => Sys2Proof.Machine.execMaxn o s
  | .clz o => Sys2Proof.Machine.execClz o s
  | .ctz o => Sys2Proof.Machine.execCtz o s
  | .popc o => Sys2Proof.Machine.execPopc o s
  | .sel o => Sys2Proof.Machine.execSel o s
  | .adds o st => Sys2Proof.Machine.execAdds o st s
  | .cmp o c => Sys2Proof.Machine.execCmp o c s
  | .addi o => Sys2Proof.Machine.execAddi o s
  | .andi o => Sys2Proof.Machine.execAndi o s
  | .ori o => Sys2Proof.Machine.execOri o s
  | .xori o => Sys2Proof.Machine.execXori o s
  | .shli o => Sys2Proof.Machine.execShli o s
  | .shri o => Sys2Proof.Machine.execShri o s
  | .srai o => Sys2Proof.Machine.execSrai o s
  | .cmpi o => Sys2Proof.Machine.execCmpi o s
  | .ext_ o => Sys2Proof.Machine.execExt o s
  | .ins o => Sys2Proof.Machine.execIns o s
  | .movh d ix => Sys2Proof.Machine.execMovh d ix s
  | .ldI8 o => Sys2Proof.Machine.execLdI8 o s
  | .ldB16 o => Sys2Proof.Machine.execLdB16 o s
  | .ldI32 o => Sys2Proof.Machine.execLdI32 o s
  | .ldN32 o => Sys2Proof.Machine.execLdN32 o s
  | .ldI64 o => Sys2Proof.Machine.execLdI64 o s
  | .stI8 o => Sys2Proof.Machine.execStI8 o s
  | .stB16 o => Sys2Proof.Machine.execStB16 o s
  | .stI32 o => Sys2Proof.Machine.execStI32 o s
  | .stI64 o => Sys2Proof.Machine.execStI64 o s
  | .br o => Sys2Proof.Machine.execBr o s
  | .loop a n => Sys2Proof.Machine.execLoop a n s
  | .jmp n => Sys2Proof.Machine.execJmp n s
  | .jal n => Sys2Proof.Machine.execJal n s
  | .amoI32 o op sc => Sys2Proof.Machine.execAmoI32 o op sc s
  | .amoFadd o sc => Sys2Proof.Machine.execAmoFadd o sc s
  | .amoN32 o op sc => Sys2Proof.Machine.execAmoN32 o op sc s
  | .amoI64 o op sc => Sys2Proof.Machine.execAmoI64 o op sc s
  | .casI32 o sc => Sys2Proof.Machine.execCasI32 o sc s
  | .casN32 o sc => Sys2Proof.Machine.execCasN32 o sc s
  | .casI64 o sc => Sys2Proof.Machine.execCasI64 o sc s
  | .sqadd o sc => Sys2Proof.Machine.execSqadd o sc s
  | .qalign => Sys2Proof.Machine.execQalign s
  | .mjoin => Sys2Proof.Machine.execMjoin s
  | .spal o => Sys2Proof.Machine.execSpal o s
  | .spfree o => Sys2Proof.Machine.execSpfree o s
  | .waddrI32 o => Sys2Proof.Machine.execWaddrI32 o s
  | .waddrI64 o => Sys2Proof.Machine.execWaddrI64 o s
  | .wake o => Sys2Proof.Machine.execWake o s
  | .sqwait o => Sys2Proof.Machine.execSqwait o s
  | .swinit o => Sys2Proof.Machine.execSwinit o s
  | .swait o => Sys2Proof.Machine.execSwait o s
  | .gjoin o => Sys2Proof.Machine.execGjoin o s
  | .gleave o => Sys2Proof.Machine.execGleave o s
  | .gbar o => Sys2Proof.Machine.execGbar o s
  | .jr o => Sys2Proof.Machine.execJr o s
  | .chlvl d a => Sys2Proof.Machine.execChlvl d a s
  | .chdrop a => Sys2Proof.Machine.execChdrop a s
  | .wait l st c t => Sys2Proof.Machine.execWait l st c t s
  | .chbind d k sel => Sys2Proof.Machine.execChbind d k sel s
  | .nop h => Sys2Proof.Machine.execNop h s
  | .fork o m => Sys2Proof.Machine.execFork o m s
  | .rdv m => Sys2Proof.Machine.execRdv m s
  | .estop m => Sys2Proof.Machine.execEstop m s
  | .ebase o m => Sys2Proof.Machine.execEbase o m s
  | .mfence m => Sys2Proof.Machine.execMfence m s
  | .tbind n r o => Sys2Proof.Machine.execTbind n r o s
  | .tunbind n => Sys2Proof.Machine.execTunbind n s
  | .post o => Sys2Proof.Machine.execPost o s
  | .tail => Sys2Proof.Machine.execTail s
  | .halt => Sys2Proof.Machine.execHalt s
  | .ppoint m => Sys2Proof.Machine.execPpoint m s
  | .tfence => Sys2Proof.Machine.execTfence s
  | .sysc c => Sys2Proof.Machine.execSysc c s
  | .brk c => Sys2Proof.Machine.execBrk c s
  | .eret => Sys2Proof.Machine.execEret s
  | .csrr d n => Sys2Proof.Machine.execCsrr d n s
  | .csrw o => Sys2Proof.Machine.execCsrw o s
  | .csrs o => Sys2Proof.Machine.execCsrs o s
  | .csrc o => Sys2Proof.Machine.execCsrc o s
  | .stset o => Sys2Proof.Machine.execStset o s
  | .stclr o => Sys2Proof.Machine.execStclr o s
  | .sfwait o => Sys2Proof.Machine.execSfwait o s
  | .bemsg o => Sys2Proof.Machine.execBemsg o s
  | .hand o => Sys2Proof.Machine.execHand o s
  | .deal o => Sys2Proof.Machine.execDeal o s
  | .undeal o => Sys2Proof.Machine.execUndeal o s
  | .rcirc o => Sys2Proof.Machine.execRcirc o s
  | .cgen o => Sys2Proof.Machine.execCgen o s
  | .ctab o => Sys2Proof.Machine.execCtab o s
  | .fdown o => Sys2Proof.Machine.execFdown o s
  | .fpeek o => Sys2Proof.Machine.execFpeek o s
  | .fup o => Sys2Proof.Machine.execFup o s
  | .lease o => Sys2Proof.Machine.execLease o s
  | .spill o => Sys2Proof.Machine.execSpill o s
  | .fill o => Sys2Proof.Machine.execFill o s
  | .unlease o => Sys2Proof.Machine.execUnlease o s
  | .tok a b c => Sys2Proof.Machine.execTok a b c s
  | .rloop t l n => Sys2Proof.Machine.execRloop t l n s
  | .tableEnd => Sys2Proof.Machine.execTableEnd s
  | .lport p n c k => Sys2Proof.Machine.execLport p n c k s
  | .lglob o => Sys2Proof.Machine.execLglob o s
  | .lbc o => Sys2Proof.Machine.execLbc o s
  | .lnest n b o k => Sys2Proof.Machine.execLnest n b o k s
  | .sport p n k => Sys2Proof.Machine.execSport p n k s
  | .sglob o => Sys2Proof.Machine.execSglob o s
  | .vaddI8 o => Sys2Proof.Machine.execVaddI8 o s
  | .vaddI32 o => Sys2Proof.Machine.execVaddI32 o s
  | .vaddF32 o => Sys2Proof.Machine.execVaddF32 o s
  | .vaddB16 o => Sys2Proof.Machine.execVaddB16 o s
  | .vsubI8 o => Sys2Proof.Machine.execVsubI8 o s
  | .vsubI32 o => Sys2Proof.Machine.execVsubI32 o s
  | .vsubF32 o => Sys2Proof.Machine.execVsubF32 o s
  | .vsubB16 o => Sys2Proof.Machine.execVsubB16 o s
  | .vmulI32 o => Sys2Proof.Machine.execVmulI32 o s
  | .vmulF32 o => Sys2Proof.Machine.execVmulF32 o s
  | .vmulB16 o => Sys2Proof.Machine.execVmulB16 o s
  | .vfmaF32 o => Sys2Proof.Machine.execVfmaF32 o s
  | .vfmaB16 o => Sys2Proof.Machine.execVfmaB16 o s
  | .vfmsF32 o => Sys2Proof.Machine.execVfmsF32 o s
  | .vfmsB16 o => Sys2Proof.Machine.execVfmsB16 o s
  | .vminI32 o => Sys2Proof.Machine.execVminI32 o s
  | .vminF32 o => Sys2Proof.Machine.execVminF32 o s
  | .vminB16 o => Sys2Proof.Machine.execVminB16 o s
  | .vmaxI32 o => Sys2Proof.Machine.execVmaxI32 o s
  | .vmaxF32 o => Sys2Proof.Machine.execVmaxF32 o s
  | .vmaxB16 o => Sys2Proof.Machine.execVmaxB16 o s
  | .vand o => Sys2Proof.Machine.execVand o s
  | .vor o => Sys2Proof.Machine.execVor o s
  | .vxor o => Sys2Proof.Machine.execVxor o s
  | .vandn o => Sys2Proof.Machine.execVandn o s
  | .vshl o => Sys2Proof.Machine.execVshl o s
  | .vshr o => Sys2Proof.Machine.execVshr o s
  | .vsra o => Sys2Proof.Machine.execVsra o s
  | .vcmpEqI32 o => Sys2Proof.Machine.execVcmpEqI32 o s
  | .vcmpEqF32 o => Sys2Proof.Machine.execVcmpEqF32 o s
  | .vcmpEqB16 o => Sys2Proof.Machine.execVcmpEqB16 o s
  | .vcmpLtI32 o => Sys2Proof.Machine.execVcmpLtI32 o s
  | .vcmpLtF32 o => Sys2Proof.Machine.execVcmpLtF32 o s
  | .vcmpLtB16 o => Sys2Proof.Machine.execVcmpLtB16 o s
  | .vcmpLeI32 o => Sys2Proof.Machine.execVcmpLeI32 o s
  | .vcmpLeF32 o => Sys2Proof.Machine.execVcmpLeF32 o s
  | .vcmpLeB16 o => Sys2Proof.Machine.execVcmpLeB16 o s
  | .vsel o => Sys2Proof.Machine.execVsel o s
  | .vpermI8 o => Sys2Proof.Machine.execVpermI8 o s
  | .vpermI32 o => Sys2Proof.Machine.execVpermI32 o s
  | .vclampI32 o => Sys2Proof.Machine.execVclampI32 o s
  | .vclampF32 o => Sys2Proof.Machine.execVclampF32 o s
  | .vclampB16 o => Sys2Proof.Machine.execVclampB16 o s
  | .vmovI8 o => Sys2Proof.Machine.execVmovI8 o s
  | .vmovI32 o => Sys2Proof.Machine.execVmovI32 o s
  | .vmovF32 o => Sys2Proof.Machine.execVmovF32 o s
  | .vmovB16 o => Sys2Proof.Machine.execVmovB16 o s
  | .vabsI8 o => Sys2Proof.Machine.execVabsI8 o s
  | .vabsI32 o => Sys2Proof.Machine.execVabsI32 o s
  | .vabsF32 o => Sys2Proof.Machine.execVabsF32 o s
  | .vabsB16 o => Sys2Proof.Machine.execVabsB16 o s
  | .vnegI8 o => Sys2Proof.Machine.execVnegI8 o s
  | .vnegI32 o => Sys2Proof.Machine.execVnegI32 o s
  | .vnegF32 o => Sys2Proof.Machine.execVnegF32 o s
  | .vnegB16 o => Sys2Proof.Machine.execVnegB16 o s
  | .vsumI32 o => Sys2Proof.Machine.execVsumI32 o s
  | .vsumF32 o => Sys2Proof.Machine.execVsumF32 o s
  | .vsumB16 o => Sys2Proof.Machine.execVsumB16 o s
  | .vscanI32 o => Sys2Proof.Machine.execVscanI32 o s
  | .vscanF32 o => Sys2Proof.Machine.execVscanF32 o s
  | .vscanB16 o => Sys2Proof.Machine.execVscanB16 o s
  | .vrcpF32 o => Sys2Proof.Machine.execVrcpF32 o s
  | .vrcpB16 o => Sys2Proof.Machine.execVrcpB16 o s
  | .vrsqF32 o => Sys2Proof.Machine.execVrsqF32 o s
  | .vrsqB16 o => Sys2Proof.Machine.execVrsqB16 o s
  | .vex2F32 o => Sys2Proof.Machine.execVex2F32 o s
  | .vex2B16 o => Sys2Proof.Machine.execVex2B16 o s
  | .vlg2F32 o => Sys2Proof.Machine.execVlg2F32 o s
  | .vlg2B16 o => Sys2Proof.Machine.execVlg2B16 o s
  | .vbc o l => Sys2Proof.Machine.execVbc o l s
  | .vcvtI8 o m f => Sys2Proof.Machine.execVcvtI8 o m f s
  | .vcvtI32 o m f => Sys2Proof.Machine.execVcvtI32 o m f s
  | .vcvtF32 o m f => Sys2Proof.Machine.execVcvtF32 o m f s
  | .vcvtB16 o m f => Sys2Proof.Machine.execVcvtB16 o m f s
  | .vcvtE4 o m f => Sys2Proof.Machine.execVcvtE4 o m f s
  | .vcvtE5 o m f => Sys2Proof.Machine.execVcvtE5 o m f s
  | .vcvtF4 o m f => Sys2Proof.Machine.execVcvtF4 o m f s
  | .vcvtDs8 o m f => Sys2Proof.Machine.execVcvtDs8 o m f s
  | .vqmax o t f => Sys2Proof.Machine.execVqmax o t f s
  | .vqcvt o m t f => Sys2Proof.Machine.execVqcvt o m t f s
  | .vdq o t => Sys2Proof.Machine.execVdq o t s
  | .gop op w x y k => Sys2Proof.Machine.execGop op w x y k s
  | .vqcvtI8 o m f => Sys2Proof.Machine.execVqcvtI8 o m f s
  | .mmac e p t r o => Sys2Proof.Machine.execMmac e p t r o s
  | .mclr e t => Sys2Proof.Machine.execMclr e t s
  | .mret e n t f m c => Sys2Proof.Machine.execMret e n t f m c s
  | .mwsel e w => Sys2Proof.Machine.execMwsel e w s
  | .mstampAbs e => Sys2Proof.Machine.execMstampAbs e s
  | .mstampAdd e b => Sys2Proof.Machine.execMstampAdd e b s
  | .mnop e => Sys2Proof.Machine.execMnop e s
  | .xcopy o => Sys2Proof.Machine.execXcopy o s
  | .xgat o => Sys2Proof.Machine.execXgat o s
  | .xsct o => Sys2Proof.Machine.execXsct o s
  | .xwload o => Sys2Proof.Machine.execXwload o s
  | .xred o => Sys2Proof.Machine.execXred o s
  | .xwenq o => Sys2Proof.Machine.execXwenq o s
  | .xsend o => Sys2Proof.Machine.execXsend o s
  | .xcoll o => Sys2Proof.Machine.execXcoll o s
  | .powerOn b => Sys2Proof.Machine.execPowerOn b s
  | .functionLevelReset => Sys2Proof.Machine.execFunctionLevelReset s
  | .linkHbmTrainingDone ok => Sys2Proof.Machine.execLinkHbmTrainingDone ok s
  | .featureGo => Sys2Proof.Machine.execFeatureGo s
  | .registerImage => Sys2Proof.Machine.execRegisterImage s
  | .unregisterImage => Sys2Proof.Machine.execUnregisterImage s
  | .unmap => Sys2Proof.Machine.execUnmap s
  | .unmapPinsDropped => Sys2Proof.Machine.execUnmapPinsDropped s
  | .relocate => Sys2Proof.Machine.execRelocate s
  | .undealCommand => Sys2Proof.Machine.execUndealCommand s
  | .commitSvn => Sys2Proof.Machine.execCommitSvn s
  | .keyInstall owner w => Sys2Proof.Machine.execKeyInstall owner w s
  | .octlWrite owner w => Sys2Proof.Machine.execOctlWrite owner w s
  | .hostRead off len => Sys2Proof.Machine.execHostRead off len s
  | .hostWrite off data => Sys2Proof.Machine.execHostWrite off data s
  | .hostAtomicop off width op b cmp => Sys2Proof.Machine.execHostAtomicop off width op b cmp s
  | .mailboxPush core w => Sys2Proof.Machine.execMailboxPush core w s
  | .postPortPost die w => Sys2Proof.Machine.execPostPortPost die w s
  | .dirtySnapshot slice w => Sys2Proof.Machine.execDirtySnapshot slice w s
  | .tableRewriteCommit => Sys2Proof.Machine.execTableRewriteCommit s
  | .tableRewriteDrained => Sys2Proof.Machine.execTableRewriteDrained s
  | .hvecWrite die w => Sys2Proof.Machine.execHvecWrite die w s
  | .preemptRequest die core => Sys2Proof.Machine.execPreemptRequest die core s
  | .preemptCancel die core => Sys2Proof.Machine.execPreemptCancel die core s
  | .driverInterrupt die core data => Sys2Proof.Machine.execDriverInterrupt die core data s
  | .moduleRetrainRequest mort strand => Sys2Proof.Machine.execModuleRetrainRequest mort strand s
  | .moduleWindowBoundary mort strand => Sys2Proof.Machine.execModuleWindowBoundary mort strand s
  | .portReopen port => Sys2Proof.Machine.execPortReopen port s
  | .portHealthWindow port => Sys2Proof.Machine.execPortHealthWindow port s
  | .portPark port => Sys2Proof.Machine.execPortPark port s
  | .portWake port => Sys2Proof.Machine.execPortWake port s
  | .portIdleTimeout port => Sys2Proof.Machine.execPortIdleTimeout port s
  | .widthChangeBoundary port => Sys2Proof.Machine.execWidthChangeBoundary port s
  | .wavelengthRelockDone port => Sys2Proof.Machine.execWavelengthRelockDone port s
  | .wakeBudgetExpired port => Sys2Proof.Machine.execWakeBudgetExpired port s
  | .migrationPass => Sys2Proof.Machine.execMigrationPass s
  | .migrationReceive => Sys2Proof.Machine.execMigrationReceive s
  | .migrationAbort => Sys2Proof.Machine.execMigrationAbort s
  | .sessionKeyInstall w => Sys2Proof.Machine.execSessionKeyInstall w s
  | .msessWrite w => Sys2Proof.Machine.execMsessWrite w s
  | .granuleRecord g => Sys2Proof.Machine.execGranuleRecord g s
  | .recordAck seq => Sys2Proof.Machine.execRecordAck seq s
  | .taskExport => Sys2Proof.Machine.execTaskExport s
  | .taskImport => Sys2Proof.Machine.execTaskImport s
  | .typedStateRecord g => Sys2Proof.Machine.execTypedStateRecord g s
  | .quote => Sys2Proof.Machine.execQuote s
  | .quoteSigned => Sys2Proof.Machine.execQuoteSigned s
  | .nonceWrite ix w => Sys2Proof.Machine.execNonceWrite ix w s
  | .updateVerify => Sys2Proof.Machine.execUpdateVerify s
  | .updateVerifyDone => Sys2Proof.Machine.execUpdateVerifyDone s
  | .updateInstall => Sys2Proof.Machine.execUpdateInstall s
  | .updateInstallDone ok => Sys2Proof.Machine.execUpdateInstallDone ok s
  | .uploadWindowWrite off bytes => Sys2Proof.Machine.execUploadWindowWrite off bytes s
  | .thermalChange mort temp => Sys2Proof.Machine.execThermalChange mort temp s
  | .registerWrite bar off w => Sys2Proof.Machine.execRegisterWrite bar off w s
  | .launchPacket g => Sys2Proof.Machine.execLaunchPacket g s
  | .sliceSetAside => Sys2Proof.Machine.execSliceSetAside s
  | .collectiveAbort handle seq => Sys2Proof.Machine.execCollectiveAbort handle seq s
  | .domainJoin pkg time => Sys2Proof.Machine.execDomainJoin pkg time s
  | .circuitSlotStart => Sys2Proof.Machine.execCircuitSlotStart s
  | .dataWindowOpen port => Sys2Proof.Machine.execDataWindowOpen port s
  | .circuitCommit => Sys2Proof.Machine.execCircuitCommit s
  | .sendDataFlit f => Sys2Proof.Machine.execSendDataFlit f s
  | .transactionFlit t => Sys2Proof.Machine.execTransactionFlit t s
  | .collectivePacket port g => Sys2Proof.Machine.execCollectivePacket port g s
  | .abortFlit f seq => Sys2Proof.Machine.execAbortFlit f seq s
  | .controlFrame g => Sys2Proof.Machine.execControlFrame g s
  | .fecFrameUncorrectable port seq => Sys2Proof.Machine.execFecFrameUncorrectable port seq s
  | .frameReplayRequest port seq => Sys2Proof.Machine.execFrameReplayRequest port seq s
  | .sendAccepted port id bytes code => Sys2Proof.Machine.execSendAccepted port id bytes code s
  | .sweepAdd die stage chunk => Sys2Proof.Machine.execSweepAdd die stage chunk s
  | .ucieFlitReceived mort strand up crcOk => Sys2Proof.Machine.execUcieFlitReceived mort strand up crcOk s
  | .retryTimeout mort strand up => Sys2Proof.Machine.execRetryTimeout mort strand up s
  | .moduleRetrainEnd mort strand lo hi => Sys2Proof.Machine.execModuleRetrainEnd mort strand lo hi s
  | .stationLoad strand mort => Sys2Proof.Machine.execStationLoad strand mort s
  | .stationAdd strand mort => Sys2Proof.Machine.execStationAdd strand mort s
  | .stationCopy strand mort => Sys2Proof.Machine.execStationCopy strand mort s
  | .stationTake strand mort => Sys2Proof.Machine.execStationTake strand mort s
  | .stationFlagRaise die => Sys2Proof.Machine.execStationFlagRaise die s
  | .handTakesEffect strand mort => Sys2Proof.Machine.execHandTakesEffect strand mort s
  | .handWithhold strand mort => Sys2Proof.Machine.execHandWithhold strand mort s
  | .parcelBoard strand mort => Sys2Proof.Machine.execParcelBoard strand mort s
  | .slotClaim strand mort => Sys2Proof.Machine.execSlotClaim strand mort s
  | .parcelDelivery strand mort => Sys2Proof.Machine.execParcelDelivery strand mort s
  | .fullSlotReturn strand mort => Sys2Proof.Machine.execFullSlotReturn strand mort s
  | .groupQuarantineEnd gid => Sys2Proof.Machine.execGroupQuarantineEnd gid s
  | .homeSliceOperation acc => Sys2Proof.Machine.execHomeSliceOperation acc s
  | .homeSliceLoad acc => Sys2Proof.Machine.execHomeSliceLoad acc s
  | .writeBack slice => Sys2Proof.Machine.execWriteBack slice s
  | .bankOperation die bank => Sys2Proof.Machine.execBankOperation die bank s
  | .accessCompletion acc => Sys2Proof.Machine.execAccessCompletion acc s
  | .timetablePost acc => Sys2Proof.Machine.execTimetablePost acc s
  | .counterReport die => Sys2Proof.Machine.execCounterReport die s
  | .releaseTick die => Sys2Proof.Machine.execReleaseTick die s
  | .placement die => Sys2Proof.Machine.execPlacement die s
  | .overlayLoadDone core => Sys2Proof.Machine.execOverlayLoadDone core s
  | .frameBarrier => Sys2Proof.Machine.execFrameBarrier s
  | .powerHoldEnd => Sys2Proof.Machine.execPowerHoldEnd s
  | .deadlinePassed task => Sys2Proof.Machine.execDeadlinePassed task s
  | .taskRetire task => Sys2Proof.Machine.execTaskRetire task s
  | .preemptAtRetirement core => Sys2Proof.Machine.execPreemptAtRetirement core s
  | .contextSave core => Sys2Proof.Machine.execContextSave core s
  | .saveCommit core => Sys2Proof.Machine.execSaveCommit core s
  | .contextSlotAcquire die => Sys2Proof.Machine.execContextSlotAcquire die s
  | .restoreDone core => Sys2Proof.Machine.execRestoreDone core s
  | .checkpointWriteback core unit_ => Sys2Proof.Machine.execCheckpointWriteback core unit_ s
  | .watchdogStall core => Sys2Proof.Machine.execWatchdogStall core s
  | .watchdogLate core => Sys2Proof.Machine.execWatchdogLate core s
  | .watchdogSave core => Sys2Proof.Machine.execWatchdogSave core s
  | .eventTaken core => Sys2Proof.Machine.execEventTaken core s
  | .portWalkFetch core port => Sys2Proof.Machine.execPortWalkFetch core port s
  | .portDrain core port => Sys2Proof.Machine.execPortDrain core port s
  | .engineCompletion core job => Sys2Proof.Machine.execEngineCompletion core job s
  | .bundleVerified => Sys2Proof.Machine.execBundleVerified s
  | .headerError strand e => Sys2Proof.Machine.execHeaderError strand e s

end Sys2Proof.Machine
end

