-- ==== Sys2Proof/Machine/Fetch.lean ====
section
/-!
DEFINITION. How a stream moves: whether it may issue on a beat, the word that it fetches, and what it does with it
(01_machine.md R17 to R20; 10_encodings.md R222, R232; 20_drv_traps.md R438 to R440; 08_timing.md R186).
-/

namespace Sys2Proof.Machine

/-- The current move is one of stream st of core n. -/
def State.turnTo (s : State) (n : Nat) (st : Stream) : State := { s with turn := { s.turn with core := n, stream := st } }

/-- The word at the place where a stream of core n is: in instruction or order memory, at handler level in the handler memory
of the die, which ends at word 4,095 (R18, R19, R438, R440). -/
def State.fetchWord (s : State) (n : Nat) (st : Stream) : Option W32 :=
  let c := s.coreAt n
  match st with
  | .c =>
    if !c.c.hlevel then some (mget 0 c.pl.imem c.c.pc.toNat)
    else if c.c.pc.toNat < 4096 then some (mget 0 (s.dieAt (dieOf n)).hmem c.c.pc.toNat)
    else none
  | st => some (mget 0 c.pl.omem (c.eng st).step.toNat)

/-- An engine stream is at a step and may issue it on this beat (R19, R20, R52, R364, R365). -/
def Eng.mayIssue (g : Eng) (beat : Nat) : Bool :=
  (g.state == .running || g.state == .stalled) && decide (g.ready ≤ beat) && !g.closing && g.pushing == []

/-- A stream of core n may issue on this beat: its task runs, its time has come, at the entry of a trap nothing of C is in
flight, and M is not kept from issuing before a pre-emption at a retirement (R17, R186, R326, R439). -/
def State.mayIssue (s : State) (n : Nat) (st : Stream) : Bool :=
  let c := s.coreAt n
  c.pl.phase == .running && (match st with
    | .c => decide (c.c.ready ≤ s.beat) && !(c.c.settling && s.cInFlight n)
    | st => (c.eng st).mayIssue s.beat && !(st == .m && c.mx.gate))

/-- C begins a move: at the first of a handler what was in flight at the entry is complete (R186); an event may be taken only
once the instruction has issued, or stalls where it may (R447). -/
def Ctl.settle (c : Ctl) : Ctl :=
  { c with settling := false, evOk := false
           flying := if c.settling then c.flying.map fun f => { f with past := true } else c.flying }

/-- C of core n begins a move: a pending event follows it at once (R447). -/
def State.beginC (s : State) (n : Nat) : State :=
  let s := s.onCore n fun c => { c with c := c.c.settle }
  if (s.coreAt n).tr.events = [] then s
  else { s with turn := { s.turn with agenda := .event (.eventTaken n) :: s.turn.agenda } }

/-- A stream of core n issues what it fetches; a word that is no instruction of its space is a trap or a stop (R19, R222,
R440). -/
def State.issue (s : State) (n : Nat) (st : Stream) : Out :=
  match s.fetchWord n st with
  | none => .next (s.trapAt 0x22 0)
  | some w => match Sys2Proof.decode st w with
    | some i => exec i s
    | none => match st with
      | .c => .next (s.trapAt 0x20 0)
      | _ => .next (s.stopHere (.of 0x21))

/-- A stream of core n moves, if it may. -/
def State.streamMove (s : State) (n : Nat) (st : Stream) : Out :=
  let s := s.turnTo n st
  if !s.mayIssue n st then .next s
  else (match st with
    | .c => s.beginC n
    | _ => s).issue n st

end Sys2Proof.Machine
end

