-- ==== Sys2Proof/Machine/Beat.lean ====
section
/-!
DEFINITION. The end of a beat and the start of the next: what has landed is counted, results leave their shadows, the frame
and the watchdogs count, and the stations read (02_execution.md R44, R45, R54 to R56; 04_memory.md R110; 06_conveyor.md R143;
08_timing.md R180, R182; 11_ins_scalar.md R234; 20_drv_traps.md R459; 21_fleet.md R467); and what a core does on its own within a beat.
-/

namespace Sys2Proof.Machine

/-- Results whose shadow has ended are in their registers, in the order of issue (R180). -/
def Ctl.land (c : Ctl) (beat : Nat) : Ctl :=
  let due := c.pend.filter fun p => decide (p.due ≤ beat)
  { c with regs := due.foldl (fun m p => mset 0 m p.reg p.value) c.regs
           pend := c.pend.filter fun p => !decide (p.due ≤ beat) }

/-- Of pushes in program order, those that enter on a beat and those that wait: a push waits for its time and for every earlier
one to its own feed side (R235); held: the feed sides for which one waits. -/
def duePushes (beat : Nat) : List Nat → List Push → List Push × List Push
  | _, [] => ([], [])
  | held, p :: t =>
    if p.due ≤ beat ∧ !held.contains p.feed then
      let r := duePushes beat held t
      (p :: r.1, r.2)
    else
      let r := duePushes beat (p.feed :: held) t
      (r.1, p :: r.2)

/-- Pushes that are due enter their feed sides (R180, R234, R235). -/
def Core.enterPushes (c : Core) (beat : Nat) : Core :=
  let r := duePushes beat [] c.c.pushes
  { c with c := { c.c with pushes := r.2 }
           ch := { c.ch with feeds := r.1.foldl (fun m p => mset [] m p.feed (mget [] m p.feed ++ [p.value])) c.ch.feeds } }

/-- Something of a core's task issued on this beat. -/
def Core.issuedNow (c : Core) (beat : Nat) : Bool := c.c.issued || c.ve.engs.any fun e => e.2.ready == beat + 1

/-- The watchdog of a core counts a beat: a stall is one on which nothing of its task issues, whatever keeps it from that (R459, log
139). -/
def Core.countDog (c : Core) (late : Bool) (beat : Nat) : Core :=
  let d := c.pl.dog
  let d := if c.pl.task.isNone then d
    else if c.issuedNow beat then { d with stall := 0, warnedStall := false }
    else { d with stall := d.stall + 1 }
  { c with pl := { c.pl with dog := if late then { d with late := d.late + 1 } else d }, c := { c.c with issued := false } }

/-- The task on a core is late. -/
def State.lateOn (s : State) (c : Core) : Bool :=
  match c.pl.task.bind s.taskAt with
  | some t => t.late
  | none => false

/-- Every core changed by f. -/
def State.onCores (s : State) (f : Core → Core) : State :=
  (s.cores.map Prod.fst).foldl (fun t n => t.onCore n f) s

/-- The A micro-orders of core n whose latency has ended leave their results (R182, R287). -/
def State.arithDue (s : State) (n : Nat) : State :=
  ((s.coreAt n).ve.jobs.filter fun j => match j.work with
    | .arith _ => decide (j.due ≤ s.beat)
    | _ => false).foldl (fun t j => t.finishJob n j) s

/-- A hold with some beats left, plus one, as a beat begins (R467). -/
def Frame.holding (f : Frame) (h : Nat) : Frame :=
  { f with hold := h, hbeats := if 1 < h then min (2 ^ 32 - 1) (f.hbeats + 1) else f.hbeats }

/-- The frame as the next beat begins, with the energy of the last one; a new frame opens with the hold that the power of the one before
asks for, in beats of its own length (R44, R54, R466, R467). -/
def State.frameTick (s : State) : Frame :=
  let f := { s.frame with energy := s.frame.energy + Config.beatPower s.beat }
  if f.ending then
    let h := s.holdFor (f.energy - f.start) (f.fofs + 1) f.next
    Frame.holding
      { f with fno := f.fno + 1, fofs := 0, ending := false, len := f.next, start := f.energy
               holds := if h = 0 then f.holds else min (2 ^ 32 - 1) (f.holds + 1)
               past := if f.next = f.len then f.past else (f.fno + 1, f.next) :: if f.past = [] then [(0, f.len)] else f.past }
      (if h = 0 then 0 else h + 1)
  else { f with fofs := f.fofs + 1 }.holding (if 1 < f.hold then f.hold - 1 else f.hold)

/-- A late task that alone keeps the frame from ending holds it for a beat more (R56). -/
def State.countHeld (s : State) : State :=
  match s.lateTasks with
  | [t] => if s.frame.len ≤ s.frame.fofs + 1 then s.onTask t fun x => { x with held := x.held + 1 } else s
  | _ => s

/-- The end of a beat: what landed is counted, and the watchdogs and the frame have counted it (R56, R110, R459). -/
def State.endBeat (s : State) : State :=
  let s := s.forceDeposits.countArrivals.countHeld
  s.onCores fun c => c.countDog (s.lateOn c) s.beat

/-- What befalls storage from outside on a beat: an error of one symbol is corrected by scrub and counted; one beyond correction
stays with its block (R116, R464, log 149). -/
def State.upset (s : State) : State :=
  match Config.upset s.beat with
  | none => s
  | some (b, true) => s.onMem fun m => { m with bad := mset false m.bad b true }
  | some (b, false) => s.countCorr (locOfBlk b)

/-- What the sensors show is taken: the highest reading of each mortise, and the state of the temperatures while it is not normal
(R464, R468). -/
def State.sense (s : State) : State :=
  let f := s.fleet
  let top := f.temps.foldl (fun m e => if mget 0 m e.1 < e.2 then mset 0 m e.1 e.2 else m) f.tmax
  if f.tstate = 0 then { s with fleet := { f with tmax := top } } else s.setThermal { f with tmax := top }

/-- The start of a beat: results and pushes are due, rows enter arrays and leave tiles, and the stations read (R143, R180,
R182, R189, R234, R324). -/
def State.startBeat (s : State) : State :=
  let s := { s with beat := s.beat + 1, frame := s.frameTick, mem := { s.mem with served := [] } }
  let s := s.onCores fun c => ({ c with c := c.c.land s.beat } : Core).enterPushes s.beat
  let s := (s.cores.map Prod.fst).foldl (fun t n => ((t.arithDue n).arrayRows n).retireRows n) s
  let s := (List.range 8).foldl (fun t d => t.onDie d fun x => { x with posts := x.posts - 4 }) s
  let s := (List.range 8).foldl State.servePosts s
  s.upset.sense.stationReads.restretch

/-! ## What a core does on its own (R52, R112, R125, R364, R374, R426) -/

/-- Pushes of link tokens for which there is room are made. -/
def Core.linkPushes (c : Core) : Core :=
  [Stream.l, .a, .s, .m, .x].foldl (fun k e => if (k.eng e).pushing = [] then k else k.makePushes e (k.eng e).pushing) c

/-- What core n does on its own on a beat. -/
def State.settle (s : State) (n : Nat) : State :=
  let s := (s.onCore n fun c => c.linkPushes.popMarkers.shiftPorts).xAbandon n
  ((s.reapBases n).reapLimbo).mailLoop n 9

end Sys2Proof.Machine
end

