-- ==== Sys2Proof/Machine/Agenda.lean ====
section
/-!
DEFINITION. The moves of a beat. The conveyor moves first, station by station; of everything else the spec orders nothing
within a beat, and the order is free (Config.schedule, log 2). A move that finds nothing to do leaves the machine as it is; what
has no time of its own is left for a later beat freely.
-/

namespace Sys2Proof.Machine

/-- A free choice between two. -/
def State.coin (s : State) : Bool × State := (s.draw.1 % 2 == 0, s.draw.2)

/-- A list put into a free order: fuel bounds its length. -/
def shuffle (k : Nat → Nat) : Nat → Nat → List Move → List Move
  | 0, _, l => l
  | fuel + 1, i, l => match l with
    | [] => []
    | m :: t =>
      let j := k i % (t.length + 1)
      ((m :: t).getD j m) :: shuffle k fuel (i + 1) ((m :: t).eraseIdx j)

/-- Of a list, those that a free choice keeps, counted from i. -/
def pickSome (k : Nat → Nat) : Nat → List Move → List Move
  | _, [] => []
  | i, m :: t => if k i % 2 = 0 then m :: pickSome k (i + 1) t else pickSome k (i + 1) t

/-! ## The conveyor (R138 to R155) -/

/-- A station has something to look at in the slot before it on this beat. -/
def State.stirs (s : State) (strand mort : Nat) : Bool :=
  let c := s.conv
  let key := s.keyNow strand mort
  let k := linkKey mort strand
  c.installs != [] || c.slot key != CSlot.rest || mget [] c.own key != [] || (c.queues != [] && c.waitingFor strand mort != []) ||
    mget none c.watch k != none || mget SEntry.rest c.tables (entryKey strand mort (slotNow strand mort s.beat)) != SEntry.rest

/-- What one station does on a beat, in its order. -/
def stationMoves (strand mort : Nat) : List Move :=
  [ .event (.handTakesEffect strand mort), .event (.handWithhold strand mort), .event (.fullSlotReturn strand mort)
  , .event (.parcelDelivery strand mort), .event (.stationLoad strand mort), .event (.stationCopy strand mort)
  , .event (.stationAdd strand mort), .event (.stationTake strand mort), .event (.parcelBoard strand mort)
  , .event (.slotClaim strand mort) ]

/-- The moves of the conveyor. -/
def State.conveyorMoves (s : State) : List Move :=
  (List.range 16).flatMap fun st => (List.range 28).flatMap fun m => if s.stirs st m then stationMoves st m else []

/-! ## Cores and dies -/

/-- A list where a condition holds. -/
def whenL (b : Bool) (l : List Move) : List Move := if b then l else []

/-- The streams of core n that are at work, its copies, and what it does on its own. -/
def coreMoves (n : Nat) (c : Core) : List Move :=
  whenL (c.pl.phase == .running) ((.stream n .c) :: ([Stream.l, .a, .s, .m, .x].filter fun e =>
    (c.eng e).state == .running || (c.eng e).state == .stalled).map fun e => Move.stream n e) ++
    whenL (c.ve.jobs.any fun j => j.eng == .x) [.walk n] ++ [.settle n]

/-- The transitions of core n that may be due. -/
def coreEvents (n : Nat) (c : Core) : List Move :=
  (match c.pl.phase with
    | .loading => [.event (.overlayLoadDone n)]
    | .saving => [.event (.contextSave n), .event (.watchdogSave n)]
    | _ => []) ++
    whenL c.pl.task.isSome [.event (.watchdogStall n), .event (.watchdogLate n)] ++
    whenL c.mx.gate [.event (.preemptAtRetirement n)] ++
    ((List.range 8).filter fun p => (mget InPort.rest c.ve.ins p).bound).map (fun p => .event (.portWalkFetch n p)) ++
    ((List.range 8).filter fun p => (mget OutPort.rest c.ve.outs p).bound).map (fun p => .event (.portDrain n p)) ++
    c.ve.jobs.map fun j => .event (.engineCompletion n j.id)

/-- The transitions of core n that take a time of their own. -/
def coreLater (n unit_ : Nat) (c : Core) : List Move :=
  match c.pl.phase with
  | .saving => [.event (.saveCommit n)]
  | .restoring => [.event (.restoreDone n)]
  | .running => [.event (.checkpointWriteback n unit_)]
  | _ => []

/-- The transitions of tasks. -/
def taskEvents (t : Nat) (x : Task) : List Move :=
  whenL (x.st == .tailed || x.st == .draining) [.event (.taskRetire t)]

/-- The transitions of the dies. -/
def State.dieEvents (s : State) : List Move :=
  (List.range 8).flatMap fun d =>
    whenL (s.tasks != []) [.event (.releaseTick d), .event (.placement d), .event (.contextSlotAcquire d)] ++
      whenL ((s.dieAt d).reports != []) [.event (.counterReport d)]

/-! ## Memory -/

/-- The accesses at one home slice whose turn it is to be performed there. -/
def State.atSlice (s : State) (h : Nat) : List Nat :=
  (s.accs.filter fun e => match e.2 with
    | some a => a.stage == .arrived && s.sliceOf a.loc == some h && !s.outOfTurn e.1 a
    | none => false).map Prod.fst

/-- The home slices at which an access waits. -/
def State.slicesBusy (s : State) : List Nat :=
  (s.accs.filterMap fun e => match e.2 with
    | some a => if a.stage == .arrived then s.sliceOf a.loc else none
    | none => none).eraseDups

/-- Of the accesses that wait at a slice, the deposits of the conveyor where there are any: they have a last beat (R143). -/
def State.urgent (s : State) (l : List Nat) : List Nat :=
  let d := l.filter fun id => match s.accAt id with
    | some a => a.agent == .station
    | none => false
  if d = [] then l else d

/-- One operation for each home slice, freely chosen among those that wait, deposits first (R105, R108, log 75). -/
def State.sliceOps (s : State) (k : Nat → Nat) (i : Nat) : List Move :=
  s.slicesBusy.flatMap fun h =>
    let l := s.urgent (s.atSlice h)
    match l[k (i + h) % l.length]? with
    | some id => [.event (.homeSliceOperation id)]
    | none => []

/-- Accesses that may be performed or completed. -/
def State.accEvents (s : State) : List Move :=
  s.accs.flatMap fun e => match e.2 with
    | some a =>
      whenL (a.stage == .arrived && a.inHbm) [.event (.homeSliceLoad e.1)] ++
        whenL (a.stage == .arrived && a.inHbm && (s.sliceOf a.loc).isNone) [.event (.homeSliceOperation e.1)] ++
        whenL (a.stage == .arrived && (match a.op with
          | .post _ _ => true
          | _ => false)) [.event (.timetablePost e.1)] ++
        whenL (a.stage == .back || a.stage == .performed) [.event (.accessCompletion e.1)]
    | none => []

/-- Accesses that may go on their way: those of a station on this beat, since a deposit has a last beat (R143), and the others when
they will. -/
def State.releases (s : State) (station : Bool) : List Move :=
  s.accs.flatMap fun e => match e.2 with
    | some a => whenL ((a.agent == .station) == station && (a.stage == .queued || a.stage == .arrived || a.stage == .performed)) [.release e.1]
    | none => []

/-- Banks and write queues that have something to do. -/
def State.memEvents (s : State) : List Move :=
  (s.mem.bankq.map fun e => .event (.bankOperation ((e.1 - 1000) / 256) ((e.1 - 1000) % 256))) ++
    s.mem.wq.map fun e => .event (.writeBack e.1)

/-! ## Links, ports and collectives -/

/-- The transitions of a module; whether a flit arrives whole, and which lanes pass a training, is free. -/
def moduleEvents (k : Nat → Nat) (i key : Nat) (m : Module) : List Move :=
  let a := key / 16
  let b := key % 16
  let coin (j : Nat) : Bool := k (i + j) % 2 == 0
  whenL (m.up.wire != []) [.event (.ucieFlitReceived a b true (coin 0))] ++
    whenL (m.down.wire != []) [.event (.ucieFlitReceived a b false (coin 1))] ++
    whenL (m.up.held != []) [.event (.retryTimeout a b true)] ++ whenL (m.down.held != []) [.event (.retryTimeout a b false)] ++
    whenL m.retrainTill.isSome [.event (.moduleRetrainEnd a b (coin 2) (coin 3))] ++ [.event (.moduleWindowBoundary a b)]

/-- The transitions of the modules that have carried something. -/
def linkEvents (k : Nat → Nat) (i : Nat) (l : SMap Module) : List Move := l.flatMap fun e => moduleEvents k (i + 4 * e.1) e.1 e.2

/-- The transitions of the ports. -/
def State.portEvents (s : State) : List Move :=
  (whenL s.circ.joined ((List.range 48).map fun p => Move.event (.dataWindowOpen p))) ++
    s.circ.ports.flatMap fun e =>
      [ .event (.widthChangeBoundary e.1), .event (.portIdleTimeout e.1), .event (.wavelengthRelockDone e.1)
      , .event (.wakeBudgetExpired e.1), .event (.portHealthWindow e.1) ]

/-- Chunks of staging buffers that hold all their operands (R172). -/
def State.sweeps (s : State) : List Move :=
  s.coll.bufs.flatMap fun e => match e.2 with
    | some b => (b.ops.filter fun c => decide (b.n ≤ c.2.length)).map fun c => .event (.sweepAdd (e.1 / 128) (e.1 % 128) c.1)
    | none => []

/-! ## The driver's side -/

/-- What the device does about a command, the boot, an update, a quote or a migration, and the scheduler node about a slice, in a time of
its own. -/
def State.driverLater (s : State) (ok : Bool) : List Move :=
  whenL (s.boot.state == 1) [.event .bundleVerified] ++ whenL (s.boot.state == 2) [.event (.linkHbmTrainingDone ok)] ++
    whenL s.fleet.qgo [.event .quoteSigned] ++
    whenL (s.fleet.upStatus == .busy) [.event .updateVerifyDone, .event (.updateInstallDone ok)] ++
    whenL (s.mig.busy && !s.mig.recv) [.event .migrationPass] ++ s.node.gangs.map .gang

/-- What it does on the beat. -/
def State.driverEvents (s : State) : List Move :=
  whenL s.cmd.busy [.event .unmapPinsDropped] ++ whenL s.placing.draining [.event .tableRewriteDrained] ++
    whenL (s.node.pending.isSome || s.node.inbox != []) [.event .sliceSetAside] ++
    (s.groups.filter fun e => e.2.st == .quarantine).map fun e => .event (.groupQuarantineEnd e.1)

/-! ## The whole -/

/-- The tasks that may become late: a task is late, and the frame stretched, from the beat on which its tick has passed (R55). -/
def State.lateMoves (s : State) : List Move :=
  s.tasks.flatMap fun e => match e.2 with
    | some x => whenL (x.dl && !x.late && x.placed) [.event (.deadlinePassed e.1)]
    | none => []

/-- What comes first on a beat: the end of a power hold, the deadlines, the circuit controller, the conveyor. -/
def State.firstMoves (s : State) : List Move :=
  [.event .powerHoldEnd] ++ s.lateMoves ++ [.event .circuitCommit, .event .circuitSlotStart] ++ s.conveyorMoves

/-- What is due on this beat, whatever its order. -/
def State.dueMoves (s : State) (k : Nat → Nat) (i : Nat) : List Move :=
  (s.cores.flatMap fun e => coreMoves e.1 e.2 ++ coreEvents e.1 e.2) ++ (s.tasks.flatMap fun e => match e.2 with
    | some x => taskEvents e.1 x
    | none => []) ++
    s.dieEvents ++ s.releases true ++ s.accEvents ++ s.sliceOps k i ++ s.memEvents ++ linkEvents k (i + 1000) s.links ++ s.portEvents ++ s.sweeps ++
    s.driverEvents ++ [.event .frameBarrier]

/-- What comes last on a beat: acts that raise station flags, which C sees from the next beat on (R355). -/
def State.lastMoves (s : State) : List Move :=
  (List.range 8).flatMap fun d => whenL ((s.dieAt d).flagsDue != []) [.event (.stationFlagRaise d)]

/-- What may also come later. -/
def State.laterMoves (s : State) (k : Nat → Nat) (i : Nat) : List Move :=
  s.releases false ++ (s.cores.flatMap fun e => coreLater e.1 (k (i + e.1) % 1600) e.2) ++ s.driverLater (k (i + 1000) % 2 == 0)

/-- The agenda of a beat; the free choices of a beat are drawn from one place of the free order on. -/
def State.agenda (s : State) : List Move :=
  let k (i : Nat) : Nat := Config.schedule (s.free + i)
  let l := s.dueMoves k 0 ++ pickSome k 100000 (s.laterMoves k 200000)
  s.firstMoves ++ shuffle k l.length 300000 l ++ s.lastMoves

/-- The next beat: the end of this one, the start of the next, and its agenda (R1, log 2). -/
def State.tick (s : State) : State :=
  let s := s.endBeat.startBeat
  { s with turn := { s.turn with agenda := s.agenda }, free := s.free + 1000000 }

end Sys2Proof.Machine
end

