-- ==== Sys2Proof/Machine/Events.lean ====
section
/-!
DEFINITION. The transitions that the device makes on its own, by the meanings of their rows.
-/

namespace Sys2Proof.Machine

/-- What a transition of the agenda does: the meaning of its row of the opcode table. -/
def Ev.run (e : Ev) (s : State) : Out :=
  match e with
  | .linkHbmTrainingDone ok => execLinkHbmTrainingDone ok s
  | .unmapPinsDropped => execUnmapPinsDropped s
  | .tableRewriteDrained => execTableRewriteDrained s
  | .moduleWindowBoundary mort strand => execModuleWindowBoundary mort strand s
  | .portHealthWindow port => execPortHealthWindow port s
  | .portIdleTimeout port => execPortIdleTimeout port s
  | .widthChangeBoundary port => execWidthChangeBoundary port s
  | .wavelengthRelockDone port => execWavelengthRelockDone port s
  | .wakeBudgetExpired port => execWakeBudgetExpired port s
  | .migrationPass => execMigrationPass s
  | .quoteSigned => execQuoteSigned s
  | .updateVerifyDone => execUpdateVerifyDone s
  | .updateInstallDone ok => execUpdateInstallDone ok s
  | .sliceSetAside => execSliceSetAside s
  | .circuitSlotStart => execCircuitSlotStart s
  | .dataWindowOpen port => execDataWindowOpen port s
  | .circuitCommit => execCircuitCommit s
  | .sweepAdd die stage chunk => execSweepAdd die stage chunk s
  | .ucieFlitReceived mort strand up crcOk => execUcieFlitReceived mort strand up crcOk s
  | .retryTimeout mort strand up => execRetryTimeout mort strand up s
  | .moduleRetrainEnd mort strand lo hi => execModuleRetrainEnd mort strand lo hi s
  | .stationLoad strand mort => execStationLoad strand mort s
  | .stationAdd strand mort => execStationAdd strand mort s
  | .stationCopy strand mort => execStationCopy strand mort s
  | .stationTake strand mort => execStationTake strand mort s
  | .stationFlagRaise die => execStationFlagRaise die s
  | .handTakesEffect strand mort => execHandTakesEffect strand mort s
  | .handWithhold strand mort => execHandWithhold strand mort s
  | .parcelBoard strand mort => execParcelBoard strand mort s
  | .slotClaim strand mort => execSlotClaim strand mort s
  | .parcelDelivery strand mort => execParcelDelivery strand mort s
  | .fullSlotReturn strand mort => execFullSlotReturn strand mort s
  | .groupQuarantineEnd gid => execGroupQuarantineEnd gid s
  | .homeSliceOperation acc => execHomeSliceOperation acc s
  | .homeSliceLoad acc => execHomeSliceLoad acc s
  | .writeBack slice => execWriteBack slice s
  | .bankOperation die bank => execBankOperation die bank s
  | .accessCompletion acc => execAccessCompletion acc s
  | .timetablePost acc => execTimetablePost acc s
  | .counterReport die => execCounterReport die s
  | .releaseTick die => execReleaseTick die s
  | .placement die => execPlacement die s
  | .overlayLoadDone core => execOverlayLoadDone core s
  | .frameBarrier => execFrameBarrier s
  | .powerHoldEnd => execPowerHoldEnd s
  | .deadlinePassed task => execDeadlinePassed task s
  | .taskRetire task => execTaskRetire task s
  | .preemptAtRetirement core => execPreemptAtRetirement core s
  | .contextSave core => execContextSave core s
  | .saveCommit core => execSaveCommit core s
  | .contextSlotAcquire die => execContextSlotAcquire die s
  | .restoreDone core => execRestoreDone core s
  | .checkpointWriteback core unit_ => execCheckpointWriteback core unit_ s
  | .watchdogStall core => execWatchdogStall core s
  | .watchdogLate core => execWatchdogLate core s
  | .watchdogSave core => execWatchdogSave core s
  | .eventTaken core => execEventTaken core s
  | .portWalkFetch core port => execPortWalkFetch core port s
  | .portDrain core port => execPortDrain core port s
  | .engineCompletion core job => execEngineCompletion core job s
  | .bundleVerified => execBundleVerified s

end Sys2Proof.Machine
end

