-- ==== Sys2Proof/Machine/Step.lean ====
section
/-!
DEFINITION. One step of the machine: the next move of the beat's agenda, and with an empty agenda the next beat. And the
placing of one instruction where the next step fetches it.
-/

namespace Sys2Proof.Machine

/-- A move of the agenda. -/
def State.move (s : State) : Move → Host.Outcome State Fault Refusal
  | .stream n st => s.streamMove n st
  | .event e => e.run s
  | .release a => .next (s.release a)
  | .walk n => .next (s.xWalk n)
  | .settle n => .next (s.settle n)
  | .gang k => .next (s.openExchange k)

/-- What a move from s leaves, with the dirty bits of the units of context that it has changed (R457). -/
def State.marked (s : State) (o : Out) : Out :=
  match o with
  | .next t => .next (s.soilUnits t)
  | o => o

/-- One step: a move of this beat, or the next beat; the dirty bits of what it changes are set. -/
def step (s : State) : Host.Outcome State Fault Refusal :=
  s.marked (match s.turn.agenda with
    | [] => .next s.tick
    | m :: l => { s with turn := { s.turn with agenda := l } }.move m)

/-- Core 0 with a task on it that runs, and a word where a stream of it fetches next (log 3). -/
def Core.withWord (c : Core) (st : Stream) (w : W32) : Core :=
  match st with
  | .c => { c with pl := { c.pl with task := some 1, phase := .running, imem := mset 0 c.pl.imem c.c.pc.toNat w } }
  | st =>
    Core.onEng { c with pl := { c.pl with task := some 1, phase := .running, omem := mset 0 c.pl.omem (c.eng st).step.toNat w } }
      st fun g => { g with state := .running }

/-- The task that withFetchWord places: owner 0, on core 0 of die 0 (log 3). -/
def fetchTask : Task :=
  { owner := 0, image := 0, argbase := 0, rframe := 0, roffset := 0, dl := false, dframe := 0, doffset := 0, die := 0,
    conds := [], rdepth := 0, mask := 1, order := 0, st := .running, row := none, lastRow := 0, core := some 0, chain := 0,
    depth := 0, groups := [], arrived := [], slot := none, slotWait := none, eval := none, answered := false, late := false,
    held := 0, due := 0, slice := 0, box := none, bad := none }

/-- The machine with an instruction stored where the next step fetches it: the driver has accepted every feature, a task runs on
core 0, the word is in its memory, and its stream moves next (log 3). -/
def State.withFetchWord (s : State) (_nbits w : Nat) : State :=
  let x : W32 := BitVec.ofNat 32 w
  let st := spaceOf x
  { (s.setTask 1 (some fetchTask)).onCore 0 fun c => c.withWord st x with
    nextId := max s.nextId 2
    boot := { s.boot with accepted := 0x1FF, go := true, state := 4 }
    turn := ⟨[.stream 0 st], 0, st⟩ }

end Sys2Proof.Machine
end

