-- ==== Sys2Proof/Safety.lean ====
section
/-!
DEFINITION. The terms in which statements speak of a run: when an instruction of C or of an engine may issue, what an
instruction leaves alone, the invariants, and, by instruction, what the spec's tables say that it computes.
-/

namespace Sys2Proof.Safety

open Sys2Proof.Machine

/-! ## When C issues (R18, R234) -/

/-- A source that C may read: a register, or a channel bound to a readable queue that holds every entry asked of it (R234,
checks 2 and 3). -/
def SrcReady (s : State) (srcs : List Src) (x : Src) : Prop :=
  chanField x.1 = true →
    ∃ q, s.queueOf s.turn.core x.1 = some q ∧ q.readable = true ∧
      asks (fieldNo x.1) srcs ≤ (s.entries s.turn.core q).length

/-- A destination that C may write: a register, or a channel bound to a feed side with a free entry (R234, checks 2 and 3). -/
def DstReady (s : State) (d : BitVec 6) : Prop :=
  chanField d = true → ∃ e, s.queueOf s.turn.core d = some (.feed e) ∧ 0 < s.here.feedRoom e

/-- An instruction that reads srcs and the registers regs and writes dst passes the checks of R234: its channels are ready, and
in checked mode none of its registers is in a shadow or in flight. -/
structure Ready (s : State) (srcs : List Src) (regs : List (BitVec 6)) (dst : Option (BitVec 6)) : Prop where
  sources : ∀ x ∈ srcs, SrcReady s srcs x
  dest : ∀ d, dst = some d → DstReady s d
  clear : s.here.cr.tcheck = true → ∀ f ∈ srcs.map Prod.fst ++ regs ++ dst.toList, s.here.shadowed f = false

/-- The pc has a successor inside instruction memory (R18). -/
def NotLast (s : State) : Prop := s.here.c.pc.toNat < 16383

/-- An instruction of C issues: it passes R234 and R18. -/
def Issues (s : State) (srcs : List Src) (regs : List (BitVec 6)) (dst : Option (BitVec 6)) : Prop :=
  Ready s srcs regs dst ∧ NotLast s

/-- The values of the sources, read in the order written, and the state that reading them leaves. -/
def reads (s : State) (srcs : List Src) : List Word × State :=
  srcs.foldl (fun acc x => (acc.1 ++ [(acc.2.readSrc x.1 x.2).1], (acc.2.readSrc x.1 x.2).2)) ([], s)

/-! ## What an instruction leaves alone -/

/-- Of a whole package: everything but the cores, the dies' copy-output queues, the moves still due, and the counter of free
values is as before. Storage is compared byte by byte as well. -/
structure SameRest (s t : State) : Prop where
  bytes : ∀ a, t.mem.byte a = s.mem.byte a
  mem : t.mem = s.mem
  dies : ∀ d, { t.dieAt d with copies := (s.dieAt d).copies } = s.dieAt d
  accs : t.accs = s.accs
  tasks : t.tasks = s.tasks
  groups : t.groups = s.groups
  owners : t.owners = s.owners
  frame : t.frame = s.frame
  images : t.images = s.images
  boot : t.boot = s.boot
  cmd : t.cmd = s.cmd
  placing : t.placing = s.placing
  node : t.node = s.node
  ev : t.ev = s.ev
  conv : t.conv = s.conv
  circ : t.circ = s.circ
  coll : t.coll = s.coll
  links : t.links = s.links
  mig : t.mig = s.mig
  fleet : t.fleet = s.fleet
  nextId : t.nextId = s.nextId
  beat : t.beat = s.beat
  turn : t.turn = s.turn

/-- Of the core that moves: every register but the destination, the bindings of its channels, every queue but those that a
source pops, the control registers with the flags, the handler registers, the vector side, the matrix side, and what is
placed; and every other core. -/
structure SameCore (s t : State) (srcs : List Src) (dst : Option (BitVec 6)) : Prop where
  regs : ∀ r, (∀ d, dst = some d → chanField d = true ∨ fieldNo d = 0 ∨ fieldNo d ≠ r) →
    mget 0 t.here.c.regs r = mget 0 s.here.c.regs r
  flags : t.here.cr = s.here.cr
  handler : t.here.tr = s.here.tr
  level : t.here.c.hlevel = s.here.c.hlevel
  vectors : t.here.ve = s.here.ve
  matrices : t.here.mx = s.here.mx
  placed : t.here.pl = s.here.pl
  bindings : t.here.ch.table = s.here.ch.table
  queues : ∀ q, (∀ x ∈ srcs, x.2 = true → s.queueOf s.turn.core x.1 ≠ some q) →
    t.entries s.turn.core q = s.entries s.turn.core q
  others : ∀ n, n ≠ s.turn.core → t.coreAt n = s.coreAt n

/-! ## The tables of the scalar instructions -/

/-- The register operations on two sources: the operands, the latency of R181, and the result of R236, R237, R239 and
R240. -/
def binary : Instr → Option (RForm × Nat × (Word → Word → Word))
  | .add o => some (o, 1, fun a b => a + b)
  | .sub o => some (o, 1, fun a b => a - b)
  | .mul o => some (o, 3, fun a b => a * b)
  | .mulh o => some (o, 4, fun a b => BitVec.ofInt 64 (a.toInt * b.toInt / 2 ^ 64))
  | .mulhn o => some (o, 4, fun a b => BitVec.ofNat 64 (a.toNat * b.toNat / 2 ^ 64))
  | .div o => some (o, 34, fun a b => if b = 0 then BitVec.allOnes 64 else BitVec.ofInt 64 (a.toInt.tdiv b.toInt))
  | .divn o => some (o, 34, fun a b => if b = 0 then BitVec.allOnes 64 else BitVec.ofNat 64 (a.toNat / b.toNat))
  | .rem o => some (o, 34, fun a b => if b = 0 then a else BitVec.ofInt 64 (a.toInt.tmod b.toInt))
  | .remn o => some (o, 34, fun a b => if b = 0 then a else BitVec.ofNat 64 (a.toNat % b.toNat))
  | .and_ o => some (o, 1, fun a b => a &&& b)
  | .or_ o => some (o, 1, fun a b => a ||| b)
  | .xor o => some (o, 1, fun a b => a ^^^ b)
  | .andn o => some (o, 1, fun a b => a &&& ~~~b)
  | .shl o => some (o, 1, fun a b => a <<< (b.toNat % 64))
  | .shr o => some (o, 1, fun a b => a >>> (b.toNat % 64))
  | .sra o => some (o, 1, fun a b => a.sshiftRight (b.toNat % 64))
  | .rotl o => some (o, 1, fun a b => a.rotateLeft (b.toNat % 64))
  | .min_ o => some (o, 1, fun a b => if a.toInt ≤ b.toInt then a else b)
  | .max_ o => some (o, 1, fun a b => if a.toInt ≤ b.toInt then b else a)
  | .minn o => some (o, 1, fun a b => if a.toNat ≤ b.toNat then a else b)
  | .maxn o => some (o, 1, fun a b => if a.toNat ≤ b.toNat then b else a)
  | .adds o k => some (o, 1, fun a b => a + b <<< k.toNat)
  | .cmp o c => some (o, 1, fun a b => if cmpHolds c a b then 1 else 0)
  | _ => none

/-- The register operations on one source: d, a, the pop bit, and the result of R238, R240, R242 and R244; their latency is
1 (R181). -/
def unary : Instr → Option (BitVec 6 × BitVec 6 × Bool × (Word → Word))
  | .clz o => some (o.d, o.a, o.p, clzW)
  | .ctz o => some (o.d, o.a, o.p, ctzW)
  | .popc o => some (o.d, o.a, o.p, popW)
  | .addi o => some (o.d, o.a, o.p, fun a => a + o.i.signExtend 64)
  | .andi o => some (o.d, o.a, o.p, fun a => a &&& o.i.signExtend 64)
  | .ori o => some (o.d, o.a, o.p, fun a => a ||| o.i.signExtend 64)
  | .xori o => some (o.d, o.a, o.p, fun a => a ^^^ o.i.signExtend 64)
  | .shli o => some (o.d, o.a, o.p, fun a => a <<< o.s.toNat)
  | .shri o => some (o.d, o.a, o.p, fun a => a >>> o.s.toNat)
  | .srai o => some (o.d, o.a, o.p, fun a => a.sshiftRight o.s.toNat)
  | .cmpi o => some (o.d, o.a, o.p, fun a => if cmpHolds o.c a (o.i.signExtend 64) then 1 else 0)
  | .ext_ o => some (o.d, o.a, o.p, extField o.pos o.len o.sgn)
  | _ => none

/-- The instructions that change nothing but a register or a feed side and the queues that they pop: their sources, the
registers that they read besides, and their destination. -/
def registerOnly (i : Instr) : Option (List Src × List (BitVec 6) × Option (BitVec 6)) :=
  match binary i, unary i with
  | some (o, _, _), _ => some ([(o.a, o.p), (o.b, o.q)], [], some o.d)
  | _, some (d, a, p, _) => some ([(a, p)], [], some d)
  | _, _ => match i with
    | .sel o => some ([(o.a, o.p), (o.b, o.q)], [o.d], some o.d)
    | .ins o => some ([(o.a, o.p)], [o.d], some o.d)
    | .movh d _ => some ([], [], some d)
    | .csrr d _ => some ([], [], some d)
    | .nop _ => some ([], [], none)
    | .qalign => some ([], [], none)
    | _ => none

/-! ## Scalar accesses (R256, R257, R270, R272, R277, R361) -/

/-- A scalar access as its row of the opcode table gives it: sources, registers read besides, destination, the queues whose
entries it takes, whether it leaves a history entry, its address, alignment and width, what it needs, and what it does. -/
structure AccForm where
  srcs : List Src
  regs : List (BitVec 6)
  dst : Option (BitVec 6)
  lq : Bool
  sq : Bool
  posted : Bool
  ea : List Word → Word
  align : Nat
  width : Nat
  need : Need
  op : List Word → AOp
  scope : Nat

/-- A load (R256). -/
def loadForm (w : Nat) (sx : Bool) (o : IForm) : AccForm :=
  ⟨[(o.a, o.p)], [], some o.d, true, false, false, fun v => v.getD 0 0 + o.i.signExtend 64, w, w, .load,
    fun _ => .load w sx, 9⟩
/-- A store of register d (R256). -/
def storeForm (w : Nat) (o : IForm) : AccForm :=
  ⟨[(o.a, o.p)], [o.d], none, false, true, true, fun v => v.getD 0 0 + o.i.signExtend 64, w, w, .store,
    fun v => .store w (v.getD 1 0), 9⟩
/-- An atomic (R215, R270). -/
def amoForm (w : Nat) (sx : Bool) (o : RForm) (op : Nat) (sc : BitVec 2) : AccForm :=
  ⟨[(o.a, o.p), (o.b, o.q)], [], some o.d, true, true, false, fun v => v.getD 0 0, w, w, .atomic,
    fun v => .amo op w sx (v.getD 1 0), sc.toNat⟩
/-- A compare and swap, which reads d as the compared value (R270). -/
def casForm (w : Nat) (sx : Bool) (o : RForm) (sc : BitVec 2) : AccForm :=
  ⟨[(o.a, o.p), (o.b, o.q)], [o.d], some o.d, true, true, false, fun v => v.getD 0 0, w, w, .atomic,
    fun v => .cas w sx (v.getD 1 0) (v.getD 2 0), sc.toNat⟩

/-- The scalar accesses by instruction. -/
def scalarAccess : Instr → Option AccForm
  | .ldI8 o => some (loadForm 1 true o)
  | .ldB16 o => some (loadForm 2 false o)
  | .ldI32 o => some (loadForm 4 true o)
  | .ldN32 o => some (loadForm 4 false o)
  | .ldI64 o => some (loadForm 8 false o)
  | .stI8 o => some (storeForm 1 o)
  | .stB16 o => some (storeForm 2 o)
  | .stI32 o => some (storeForm 4 o)
  | .stI64 o => some (storeForm 8 o)
  | .amoI32 o op sc => some (amoForm 4 true o op.toNat sc)
  | .amoFadd o sc => some (amoForm 4 true o 8 sc)
  | .amoN32 o op sc => some (amoForm 4 false o op.toNat sc)
  | .amoI64 o op sc => some (amoForm 8 false o op.toNat sc)
  | .casI32 o sc => some (casForm 4 true o sc)
  | .casN32 o sc => some (casForm 4 false o sc)
  | .casI64 o sc => some (casForm 8 false o sc)
  | .sqadd o sc => some ⟨[(o.a, o.p), (o.b, o.q)], [], none, false, true, true, fun v => v.getD 0 0, 8, 8, .atomic,
      fun v => .sqadd (v.getD 1 0), sc.toNat⟩
  | .wake o => some ⟨[(o.a, o.p), (o.b, o.q)], [], none, false, true, true, fun v => v.getD 0 0, 1, 1, .wake,
      fun v => .wake ((v.getD 1 0).toNat % 2 ^ 16), 9⟩
  | .fpeek o => some ⟨[(o.a, o.p)], [], some o.d, true, false, false, fun v => v.getD 0 0, 1, 1, ⟨.read, false, true⟩,
      fun _ => .fpeek, 9⟩
  | _ => none

/-- What an access finds when it issues: the operand values v with the registers read besides, and the state that reading them
left. -/
def AccForm.inputs (f : AccForm) (s : State) : List Word × State := reads s (f.srcs ++ f.regs.map (·, false))

/-! ## When an engine issues (R34, R52, R285) -/

/-- The prefix of a micro-order, its pop bits k and its produced token are met (R34, R52). -/
structure EngineReady (s : State) (k : BitVec 4) (tok : Nat) : Prop where
  prefx : s.here.prefixMet s.eng = true
  pops : s.here.popsMet s.turn.stream k = true
  room : s.here.tokenRoom tok = true

/-- The state in which a micro-order acts: the tokens of its prefix and of its pop bits are taken. -/
def taken (s : State) (k : BitVec 4) : State :=
  s.onHere fun c => (c.takePrefix s.turn.stream).takePops s.turn.stream k

/-- The stream of the current move stands on hold, and nothing else has changed. -/
def held (s : State) : State := s.onEng fun g => { g with state := .stalled }

/-! ## The A micro-orders -/

/-- An A micro-order as its row gives it: operand code of its destination and the bytes written there, guard, sense, link
tokens, latency, sources with the bytes taken, what it reads beside them, the guard it writes, and what it makes. -/
structure VecForm where
  d : Nat
  m : Nat
  g : BitVec 3
  sense : Bool
  k : BitVec 4
  lat : Nat
  srcs : List ASrc
  use : AUse
  gw : Option Nat
  run : List Opnd → Qs → Nat → AMake

/-- The result of a lane-wise operation on two vectors. -/
def zipLanes (f : Sfx) (op : Nat → Nat → Nat × Flags) (a b : Vec) : AMake :=
  laneRes f (List.zipWith op (lanesOf f.w a) (lanesOf f.w b))

/-- A lane-wise operation on a and b. -/
def lanes2 (f : Sfx) (lat : Nat) (op : Nat → Nat → Nat × Flags) (o : AForm) : VecForm :=
  ⟨o.d.toNat, 256, o.g, o.s, o.k, lat, [(o.a.toNat, 256), (o.b.toNat, 256)], .plain, none, fun l _ _ => match l with
    | [a, b] => zipLanes f op a.x b.x
    | _ => .error 0x21⟩
/-- A lane-wise operation on a, b and d (R228). -/
def lanes3 (f : Sfx) (lat : Nat) (op : Nat → Nat → Nat → Nat × Flags) (o : AForm) : VecForm :=
  ⟨o.d.toNat, 256, o.g, o.s, o.k, lat, [(o.a.toNat, 256), (o.b.toNat, 256), (o.d.toNat, 256)], .plain, none,
    fun l _ _ => match l with
      | [a, b, d] => laneRes f (List.zipWith (fun e z => op e.1 e.2 z) ((lanesOf f.w a.x).zip (lanesOf f.w b.x)) (lanesOf f.w d.x))
      | _ => .error 0x21⟩
/-- A function of all the lanes of a. -/
def lanesAll (f : Sfx) (lat : Nat) (op : List Nat → List (Nat × Flags)) (o : AUForm) : VecForm :=
  ⟨o.d.toNat, 256, o.g, o.s, o.k, lat, [(o.a.toNat, 256)], .plain, none, fun l _ _ => match l with
    | [a] => laneRes f (op (lanesOf f.w a.x))
    | _ => .error 0x21⟩
/-- A lane-wise operation on a. -/
def lanes1 (f : Sfx) (lat : Nat) (op : Nat → Nat × Flags) (o : AUForm) : VecForm := lanesAll f lat (fun l => l.map op) o
/-- A comparison, which writes a mask and, in state s, the guard that its destination names (R300). -/
def compareForm (s : State) (f : Sfx) (lat : Nat) (rel : Nat → Nat → Bool × Flags) (o : AForm) : VecForm :=
  ⟨o.d.toNat, 256, o.g, o.s, o.k, lat, [(o.a.toNat, 256), (o.b.toNat, 256)], .plain, s.cmpGuard o.d.toNat, fun l _ _ => match l with
    | [a, b] =>
      let rs := List.zipWith rel (lanesOf f.w a.x) (lanesOf f.w b.x)
      .ok (⟨ofLanes f.w (rs.map fun r => if r.1 then 2 ^ f.w - 1 else 0), tags4 f.tag⟩, rs.foldl (fun a e => a ||| e.2) 0,
        (s.cmpGuard o.d.toNat).toList.map fun g => .g g (rs.any Prod.fst))
    | _ => .error 0x21⟩
/-- A permutation (R302). -/
def permForm (f : Sfx) (o : AForm) : VecForm :=
  ⟨o.d.toNat, 256, o.g, o.s, o.k, 3, [(o.a.toNat, 256), (o.b.toNat, 256)], .plain, none, fun l _ _ => match l with
    | [a, b] => laneRes f ((lanesOf f.w b.x).map fun k => (bitsOf a.x.data (f.w * (k % (2048 / f.w))) f.w, 0))
    | _ => .error 0x21⟩
/-- A conversion of code src into t (R307). -/
def convertForm (t : NFmt) (o : AUForm) (m : BitVec 2) (f : BitVec 4) : VecForm :=
  let src := (NFmt.ofCode f.toNat).getD .i8
  let n := 2048 / max src.bits t.bits
  ⟨o.d.toNat, n * t.bits / 8, o.g, o.s, o.k, 4, [(o.a.toNat, n * src.bits / 8)], .plain, none, fun l _ _ => match l with
    | [a] => cvtRun src t m.toNat a
    | _ => .error 0x21⟩
/-- A quantisation into t (R310). -/
def quantForm (t : NFmt) (o : AUForm) (m : BitVec 2) (src : NFmt) : VecForm :=
  ⟨o.d.toNat, 64 * (if src = .b16 ∧ t ≠ .f4 then 2 else 1), o.g, o.s, o.k, 4, [(o.a.toNat, 256)], .readsQs, none,
    fun l q _ => match l with
      | [a] => qcvtRun src t m.toNat q a
      | _ => .error 0x21⟩

/-- The A micro-orders by instruction, in state s: lanes, latency and operation of their rows (R297 to R311). -/
def vectorForm (s : State) : Instr → Option VecForm
  | .vaddI8 o => some (lanes2 .i8 2 (fun a b => ((BitVec.ofNat 8 a + BitVec.ofNat 8 b).toNat, 0)) o)
  | .vaddI32 o => some (lanes2 .i32 2 (fun a b => ((BitVec.ofNat 32 a + BitVec.ofNat 32 b).toNat, 0)) o)
  | .vaddF32 o => some (lanes2 .f32 4 (fun a b => fpAdd .f32 a b) o)
  | .vaddB16 o => some (lanes2 .b16 4 (fun a b => fpAdd .b16 a b) o)
  | .vsubI8 o => some (lanes2 .i8 2 (fun a b => ((BitVec.ofNat 8 a - BitVec.ofNat 8 b).toNat, 0)) o)
  | .vsubI32 o => some (lanes2 .i32 2 (fun a b => ((BitVec.ofNat 32 a - BitVec.ofNat 32 b).toNat, 0)) o)
  | .vsubF32 o => some (lanes2 .f32 4 (fun a b => sumRound .f32 [Machine.decode .f32 0 a, (Machine.decode .f32 0 b).neg]) o)
  | .vsubB16 o => some (lanes2 .b16 4 (fun a b => sumRound .b16 [Machine.decode .b16 0 a, (Machine.decode .b16 0 b).neg]) o)
  | .vmulI32 o => some (lanes2 .i32 3 (fun a b => ((BitVec.ofNat 32 a * BitVec.ofNat 32 b).toNat, 0)) o)
  | .vmulF32 o => some (lanes2 .f32 4 (fun a b => roundTo .f32 0 ((Machine.decode .f32 0 a).mul (Machine.decode .f32 0 b))) o)
  | .vmulB16 o => some (lanes2 .b16 4 (fun a b => roundTo .b16 0 ((Machine.decode .b16 0 a).mul (Machine.decode .b16 0 b))) o)
  | .vfmaF32 o => some (lanes3 .f32 4 (fun a b d => sumRound .f32 [(Machine.decode .f32 0 a).mul (Machine.decode .f32 0 b), Machine.decode .f32 0 d]) o)
  | .vfmaB16 o => some (lanes3 .b16 4 (fun a b d => sumRound .b16 [(Machine.decode .b16 0 a).mul (Machine.decode .b16 0 b), Machine.decode .b16 0 d]) o)
  | .vfmsF32 o => some (lanes3 .f32 4 (fun a b d => sumRound .f32 [((Machine.decode .f32 0 a).mul (Machine.decode .f32 0 b)).neg, Machine.decode .f32 0 d]) o)
  | .vfmsB16 o => some (lanes3 .b16 4 (fun a b d => sumRound .b16 [((Machine.decode .b16 0 a).mul (Machine.decode .b16 0 b)).neg, Machine.decode .b16 0 d]) o)
  | .vminI32 o => some (lanes2 .i32 2 (fun a b => ((if (BitVec.ofNat 32 a).toInt ≤ (BitVec.ofNat 32 b).toInt then BitVec.ofNat 32 a else BitVec.ofNat 32 b).toNat, 0)) o)
  | .vminF32 o => some (lanes2 .f32 4 (fun a b => fpMinMax .f32 false a b) o)
  | .vminB16 o => some (lanes2 .b16 4 (fun a b => fpMinMax .b16 false a b) o)
  | .vmaxI32 o => some (lanes2 .i32 2 (fun a b => ((if (BitVec.ofNat 32 a).toInt ≤ (BitVec.ofNat 32 b).toInt then BitVec.ofNat 32 b else BitVec.ofNat 32 a).toNat, 0)) o)
  | .vmaxF32 o => some (lanes2 .f32 4 (fun a b => fpMinMax .f32 true a b) o)
  | .vmaxB16 o => some (lanes2 .b16 4 (fun a b => fpMinMax .b16 true a b) o)
  | .vand o => some (lanes2 .n32 2 (fun a b => ((BitVec.ofNat 32 a &&& BitVec.ofNat 32 b).toNat, 0)) o)
  | .vor o => some (lanes2 .n32 2 (fun a b => ((BitVec.ofNat 32 a ||| BitVec.ofNat 32 b).toNat, 0)) o)
  | .vxor o => some (lanes2 .n32 2 (fun a b => ((BitVec.ofNat 32 a ^^^ BitVec.ofNat 32 b).toNat, 0)) o)
  | .vandn o => some (lanes2 .n32 2 (fun a b => ((BitVec.ofNat 32 a &&& ~~~(BitVec.ofNat 32 b)).toNat, 0)) o)
  | .vshl o => some (lanes2 .i32 2 (fun a b => (((BitVec.ofNat 32 a) <<< ((BitVec.ofNat 32 b).toNat % 32)).toNat, 0)) o)
  | .vshr o => some (lanes2 .n32 2 (fun a b => (((BitVec.ofNat 32 a) >>> ((BitVec.ofNat 32 b).toNat % 32)).toNat, 0)) o)
  | .vsra o => some (lanes2 .i32 2 (fun a b => (((BitVec.ofNat 32 a).sshiftRight ((BitVec.ofNat 32 b).toNat % 32)).toNat, 0)) o)
  | .vcmpEqI32 o => some (compareForm s .i32 2 (fun a b => ((fun x y : Int => x == y) (BitVec.ofNat 32 a).toInt (BitVec.ofNat 32 b).toInt, 0)) o)
  | .vcmpEqF32 o => some (compareForm s .f32 4 (fun a b => fpCmp .f32 .eq a b) o)
  | .vcmpEqB16 o => some (compareForm s .b16 4 (fun a b => fpCmp .b16 .eq a b) o)
  | .vcmpLtI32 o => some (compareForm s .i32 2 (fun a b => ((fun x y : Int => decide (x < y)) (BitVec.ofNat 32 a).toInt (BitVec.ofNat 32 b).toInt, 0)) o)
  | .vcmpLtF32 o => some (compareForm s .f32 4 (fun a b => fpCmp .f32 .lt a b) o)
  | .vcmpLtB16 o => some (compareForm s .b16 4 (fun a b => fpCmp .b16 .lt a b) o)
  | .vcmpLeI32 o => some (compareForm s .i32 2 (fun a b => ((fun x y : Int => decide (x ≤ y)) (BitVec.ofNat 32 a).toInt (BitVec.ofNat 32 b).toInt, 0)) o)
  | .vcmpLeF32 o => some (compareForm s .f32 4 (fun a b => fpCmp .f32 .le a b) o)
  | .vcmpLeB16 o => some (compareForm s .b16 4 (fun a b => fpCmp .b16 .le a b) o)
  | .vsel o => some (lanes3 .n32 2 (fun a b d => (((BitVec.ofNat 32 a &&& BitVec.ofNat 32 d) ||| (BitVec.ofNat 32 b &&& ~~~(BitVec.ofNat 32 d))).toNat, 0)) o)
  | .vpermI8 o => some (permForm .i8 o)
  | .vpermI32 o => some (permForm .i32 o)
  | .vclampI32 o => some (lanes3 .i32 2 (fun a b d => ((minI32 (maxI32 (BitVec.ofNat 32 d) (BitVec.ofNat 32 a)) (BitVec.ofNat 32 b)).toNat, 0)) o)
  | .vclampF32 o => some (lanes3 .f32 2 (fClamp .f32) o)
  | .vclampB16 o => some (lanes3 .b16 2 (fClamp .b16) o)
  | .vmovI8 o => some (lanes1 .i8 2 (fun a => (a, 0)) o)
  | .vmovI32 o => some (lanes1 .i32 2 (fun a => (a, 0)) o)
  | .vmovF32 o => some (lanes1 .f32 2 (fun a => (a, 0)) o)
  | .vmovB16 o => some (lanes1 .b16 2 (fun a => (a, 0)) o)
  | .vabsI8 o => some (lanes1 .i8 2 (fun a => ((if (BitVec.ofNat 8 a).msb then -(BitVec.ofNat 8 a) else BitVec.ofNat 8 a).toNat, 0)) o)
  | .vabsI32 o => some (lanes1 .i32 2 (fun a => ((if (BitVec.ofNat 32 a).msb then -(BitVec.ofNat 32 a) else BitVec.ofNat 32 a).toNat, 0)) o)
  | .vabsF32 o => some (lanes1 .f32 2 (signTo .f32 fun _ => 0) o)
  | .vabsB16 o => some (lanes1 .b16 2 (signTo .b16 fun _ => 0) o)
  | .vnegI8 o => some (lanes1 .i8 2 (fun a => ((-(BitVec.ofNat 8 a)).toNat, 0)) o)
  | .vnegI32 o => some (lanes1 .i32 2 (fun a => ((-(BitVec.ofNat 32 a)).toNat, 0)) o)
  | .vnegF32 o => some (lanes1 .f32 2 (signTo .f32 fun x => x + 1) o)
  | .vnegB16 o => some (lanes1 .b16 2 (signTo .b16 fun x => x + 1) o)
  | .vsumI32 o => some (lanesAll .i32 6 (fun l => (l.foldl (· + ·) 0 % 2 ^ 32, 0) :: List.replicate (l.length - 1) (0, 0)) o)
  | .vsumF32 o => some (lanesAll .f32 6 (fun l => exactRound .f32 (l.map (Machine.decode .f32 0)) :: List.replicate (l.length - 1) (0, 0)) o)
  | .vsumB16 o => some (lanesAll .b16 6 (fun l => exactRound .b16 (l.map (Machine.decode .b16 0)) :: List.replicate (l.length - 1) (0, 0)) o)
  | .vscanI32 o => some (lanesAll .i32 8 (fun l => (List.range l.length).map fun m => ((l.take (m + 1)).foldl (· + ·) 0 % 2 ^ 32, 0)) o)
  | .vscanF32 o => some (lanesAll .f32 8 (fun l => (List.range l.length).map fun m => exactRound .f32 ((l.take (m + 1)).map (Machine.decode .f32 0))) o)
  | .vscanB16 o => some (lanesAll .b16 8 (fun l => (List.range l.length).map fun m => exactRound .b16 ((l.take (m + 1)).map (Machine.decode .b16 0))) o)
  | .vrcpF32 o => some (lanes1 .f32 8 (special .f32 rcpVal) o)
  | .vrcpB16 o => some (lanes1 .b16 8 (special .b16 rcpVal) o)
  | .vrsqF32 o => some (lanes1 .f32 8 (special .f32 rsqVal) o)
  | .vrsqB16 o => some (lanes1 .b16 8 (special .b16 rsqVal) o)
  | .vex2F32 o => some (lanes1 .f32 10 (special .f32 ex2Val) o)
  | .vex2B16 o => some (lanes1 .b16 10 (special .b16 ex2Val) o)
  | .vlg2F32 o => some (lanes1 .f32 10 (special .f32 lg2Val) o)
  | .vlg2B16 o => some (lanes1 .b16 10 (special .b16 lg2Val) o)
  | .vbc o l => some (lanesAll .n32 2 (fun xs => List.replicate 64 (xs.getD l.toNat 0, 0)) o)
  | .vcvtI8 o m f => some (convertForm .i8 o m f)
  | .vcvtI32 o m f => some (convertForm .i32 o m f)
  | .vcvtF32 o m f => some (convertForm .f32 o m f)
  | .vcvtB16 o m f => some (convertForm .b16 o m f)
  | .vcvtE4 o m f => some (convertForm .e4 o m f)
  | .vcvtE5 o m f => some (convertForm .e5 o m f)
  | .vcvtF4 o m f => some (convertForm .f4 o m f)
  | .vcvtDs8 o m f => some (convertForm .ds8 o m f)
  | .vqmax o t f => some (⟨o.d.toNat, 256, o.g, o.s, o.k, 3, [(o.a.toNat, 256)], .takesFree, none, fun l _ free => match l with
    | [a] => qmaxRun (qSource f.toNat) ((NFmt.ofCode t.toNat).getD .i8) free a
    | _ => .error 0x21⟩)
  | .vqcvt o m t f => some (quantForm (qTarget t.toNat) o m (qSource f.toNat))
  | .vdq o t => some (
    let f : NFmt := if t = 1 then .f32 else .b16
    let n := 2048 / f.bits
    let c := if tagFmt (s.headTag o.a.toNat) = 7 then n / 2 else n
    ⟨o.d.toNat, 256, o.g, o.s, o.k, 4, [(o.a.toNat, c)], .plain, none, fun l _ _ => match l with
      | [a] => dqRun f n a
      | _ => .error 0x21⟩)
  | .vqcvtI8 o m f => some (quantForm .i8 o m (qSource f.toNat))
  | _ => none

/-- The inputs of an A micro-order that runs, in state s: its operands, the quantiser state, the number of its free value, and
the state that taking them leaves. -/
def VecForm.inputs (f : VecForm) (s : State) : List Opnd × Qs × Nat × State := (s.guardOn f.g f.sense).2.aInputs f.srcs f.use

/-! ## The transitions by row -/

/-- The row of the opcode table that a transition of the agenda is. -/
noncomputable def rowOf : Ev → Instr
  | .linkHbmTrainingDone ok => .linkHbmTrainingDone ok
  | .unmapPinsDropped => .unmapPinsDropped
  | .tableRewriteDrained => .tableRewriteDrained
  | .moduleWindowBoundary mort strand => .moduleWindowBoundary mort strand
  | .portHealthWindow port => .portHealthWindow port
  | .portIdleTimeout port => .portIdleTimeout port
  | .widthChangeBoundary port => .widthChangeBoundary port
  | .wavelengthRelockDone port => .wavelengthRelockDone port
  | .wakeBudgetExpired port => .wakeBudgetExpired port
  | .migrationPass => .migrationPass
  | .quoteSigned => .quoteSigned
  | .updateVerifyDone => .updateVerifyDone
  | .updateInstallDone ok => .updateInstallDone ok
  | .sliceSetAside => .sliceSetAside
  | .circuitSlotStart => .circuitSlotStart
  | .dataWindowOpen port => .dataWindowOpen port
  | .circuitCommit => .circuitCommit
  | .sweepAdd die stage chunk => .sweepAdd die stage chunk
  | .ucieFlitReceived mort strand up crcOk => .ucieFlitReceived mort strand up crcOk
  | .retryTimeout mort strand up => .retryTimeout mort strand up
  | .moduleRetrainEnd mort strand lo hi => .moduleRetrainEnd mort strand lo hi
  | .stationLoad strand mort => .stationLoad strand mort
  | .stationAdd strand mort => .stationAdd strand mort
  | .stationCopy strand mort => .stationCopy strand mort
  | .stationTake strand mort => .stationTake strand mort
  | .stationFlagRaise die => .stationFlagRaise die
  | .handTakesEffect strand mort => .handTakesEffect strand mort
  | .handWithhold strand mort => .handWithhold strand mort
  | .parcelBoard strand mort => .parcelBoard strand mort
  | .slotClaim strand mort => .slotClaim strand mort
  | .parcelDelivery strand mort => .parcelDelivery strand mort
  | .fullSlotReturn strand mort => .fullSlotReturn strand mort
  | .groupQuarantineEnd gid => .groupQuarantineEnd gid
  | .homeSliceOperation acc => .homeSliceOperation acc
  | .homeSliceLoad acc => .homeSliceLoad acc
  | .writeBack slice => .writeBack slice
  | .bankOperation die bank => .bankOperation die bank
  | .accessCompletion acc => .accessCompletion acc
  | .timetablePost acc => .timetablePost acc
  | .counterReport die => .counterReport die
  | .releaseTick die => .releaseTick die
  | .placement die => .placement die
  | .overlayLoadDone core => .overlayLoadDone core
  | .frameBarrier => .frameBarrier
  | .powerHoldEnd => .powerHoldEnd
  | .deadlinePassed task => .deadlinePassed task
  | .taskRetire task => .taskRetire task
  | .preemptAtRetirement core => .preemptAtRetirement core
  | .contextSave core => .contextSave core
  | .saveCommit core => .saveCommit core
  | .contextSlotAcquire die => .contextSlotAcquire die
  | .restoreDone core => .restoreDone core
  | .checkpointWriteback core unit_ => .checkpointWriteback core unit_
  | .watchdogStall core => .watchdogStall core
  | .watchdogLate core => .watchdogLate core
  | .watchdogSave core => .watchdogSave core
  | .eventTaken core => .eventTaken core
  | .portWalkFetch core port => .portWalkFetch core port
  | .portDrain core port => .portDrain core port
  | .engineCompletion core job => .engineCompletion core job
  | .bundleVerified => .bundleVerified

/-! ## The opcode spaces -/

/-- The streams whose opcode space holds an instruction (R208, R223). -/
def spacesOf : Instr → List Stream
  | .add _ => [.c]
  | .sub _ => [.c]
  | .mul _ => [.c]
  | .mulh _ => [.c]
  | .mulhn _ => [.c]
  | .div _ => [.c]
  | .divn _ => [.c]
  | .rem _ => [.c]
  | .remn _ => [.c]
  | .and_ _ => [.c]
  | .or_ _ => [.c]
  | .xor _ => [.c]
  | .andn _ => [.c]
  | .shl _ => [.c]
  | .shr _ => [.c]
  | .sra _ => [.c]
  | .rotl _ => [.c]
  | .min_ _ => [.c]
  | .max_ _ => [.c]
  | .minn _ => [.c]
  | .maxn _ => [.c]
  | .clz _ => [.c]
  | .ctz _ => [.c]
  | .popc _ => [.c]
  | .sel _ => [.c]
  | .adds _ _ => [.c]
  | .cmp _ _ => [.c]
  | .addi _ => [.c]
  | .andi _ => [.c]
  | .ori _ => [.c]
  | .xori _ => [.c]
  | .shli _ => [.c]
  | .shri _ => [.c]
  | .srai _ => [.c]
  | .cmpi _ => [.c]
  | .ext_ _ => [.c]
  | .ins _ => [.c]
  | .movh _ _ => [.c]
  | .ldI8 _ => [.c]
  | .ldB16 _ => [.c]
  | .ldI32 _ => [.c]
  | .ldN32 _ => [.c]
  | .ldI64 _ => [.c]
  | .stI8 _ => [.c]
  | .stB16 _ => [.c]
  | .stI32 _ => [.c]
  | .stI64 _ => [.c]
  | .br _ => [.c]
  | .loop _ _ => [.c]
  | .jmp _ => [.c]
  | .jal _ => [.c]
  | .amoI32 _ _ _ => [.c]
  | .amoFadd _ _ => [.c]
  | .amoN32 _ _ _ => [.c]
  | .amoI64 _ _ _ => [.c]
  | .casI32 _ _ => [.c]
  | .casN32 _ _ => [.c]
  | .casI64 _ _ => [.c]
  | .sqadd _ _ => [.c]
  | .qalign => [.c]
  | .mjoin => [.c]
  | .spal _ => [.c]
  | .spfree _ => [.c]
  | .waddrI32 _ => [.c]
  | .waddrI64 _ => [.c]
  | .wake _ => [.c]
  | .sqwait _ => [.c]
  | .swinit _ => [.c]
  | .swait _ => [.c]
  | .gjoin _ => [.c]
  | .gleave _ => [.c]
  | .gbar _ => [.c]
  | .jr _ => [.c]
  | .chlvl _ _ => [.c]
  | .chdrop _ => [.c]
  | .wait _ _ _ _ => [.c]
  | .chbind _ _ _ => [.c]
  | .nop _ => [.c]
  | .fork _ _ => [.c]
  | .rdv _ => [.c]
  | .estop _ => [.c]
  | .ebase _ _ => [.c]
  | .mfence _ => [.c]
  | .tbind _ _ _ => [.c]
  | .tunbind _ => [.c]
  | .post _ => [.c]
  | .tail => [.c]
  | .halt => [.c]
  | .ppoint _ => [.c]
  | .tfence => [.c]
  | .sysc _ => [.c]
  | .brk _ => [.c]
  | .eret => [.c]
  | .csrr _ _ => [.c]
  | .csrw _ => [.c]
  | .csrs _ => [.c]
  | .csrc _ => [.c]
  | .stset _ => [.c]
  | .stclr _ => [.c]
  | .sfwait _ => [.c]
  | .bemsg _ => [.c]
  | .hand _ => [.c]
  | .deal _ => [.c]
  | .undeal _ => [.c]
  | .rcirc _ => [.c]
  | .cgen _ => [.c]
  | .ctab _ => [.c]
  | .fdown _ => [.c]
  | .fpeek _ => [.c]
  | .fup _ => [.c]
  | .lease _ => [.c]
  | .spill _ => [.c]
  | .fill _ => [.c]
  | .unlease _ => [.c]
  | .tok _ _ _ => [.l, .a, .s, .m, .x]
  | .rloop _ _ _ => [.l, .a, .s, .m, .x]
  | .tableEnd => [.l, .a, .s, .m, .x]
  | .lport _ _ _ _ => [.l]
  | .lglob _ => [.l]
  | .lbc _ => [.l]
  | .lnest _ _ _ _ => [.l]
  | .sport _ _ _ => [.s]
  | .sglob _ => [.s]
  | .vaddI8 _ => [.a]
  | .vaddI32 _ => [.a]
  | .vaddF32 _ => [.a]
  | .vaddB16 _ => [.a]
  | .vsubI8 _ => [.a]
  | .vsubI32 _ => [.a]
  | .vsubF32 _ => [.a]
  | .vsubB16 _ => [.a]
  | .vmulI32 _ => [.a]
  | .vmulF32 _ => [.a]
  | .vmulB16 _ => [.a]
  | .vfmaF32 _ => [.a]
  | .vfmaB16 _ => [.a]
  | .vfmsF32 _ => [.a]
  | .vfmsB16 _ => [.a]
  | .vminI32 _ => [.a]
  | .vminF32 _ => [.a]
  | .vminB16 _ => [.a]
  | .vmaxI32 _ => [.a]
  | .vmaxF32 _ => [.a]
  | .vmaxB16 _ => [.a]
  | .vand _ => [.a]
  | .vor _ => [.a]
  | .vxor _ => [.a]
  | .vandn _ => [.a]
  | .vshl _ => [.a]
  | .vshr _ => [.a]
  | .vsra _ => [.a]
  | .vcmpEqI32 _ => [.a]
  | .vcmpEqF32 _ => [.a]
  | .vcmpEqB16 _ => [.a]
  | .vcmpLtI32 _ => [.a]
  | .vcmpLtF32 _ => [.a]
  | .vcmpLtB16 _ => [.a]
  | .vcmpLeI32 _ => [.a]
  | .vcmpLeF32 _ => [.a]
  | .vcmpLeB16 _ => [.a]
  | .vsel _ => [.a]
  | .vpermI8 _ => [.a]
  | .vpermI32 _ => [.a]
  | .vclampI32 _ => [.a]
  | .vclampF32 _ => [.a]
  | .vclampB16 _ => [.a]
  | .vmovI8 _ => [.a]
  | .vmovI32 _ => [.a]
  | .vmovF32 _ => [.a]
  | .vmovB16 _ => [.a]
  | .vabsI8 _ => [.a]
  | .vabsI32 _ => [.a]
  | .vabsF32 _ => [.a]
  | .vabsB16 _ => [.a]
  | .vnegI8 _ => [.a]
  | .vnegI32 _ => [.a]
  | .vnegF32 _ => [.a]
  | .vnegB16 _ => [.a]
  | .vsumI32 _ => [.a]
  | .vsumF32 _ => [.a]
  | .vsumB16 _ => [.a]
  | .vscanI32 _ => [.a]
  | .vscanF32 _ => [.a]
  | .vscanB16 _ => [.a]
  | .vrcpF32 _ => [.a]
  | .vrcpB16 _ => [.a]
  | .vrsqF32 _ => [.a]
  | .vrsqB16 _ => [.a]
  | .vex2F32 _ => [.a]
  | .vex2B16 _ => [.a]
  | .vlg2F32 _ => [.a]
  | .vlg2B16 _ => [.a]
  | .vbc _ _ => [.a]
  | .vcvtI8 _ _ _ => [.a]
  | .vcvtI32 _ _ _ => [.a]
  | .vcvtF32 _ _ _ => [.a]
  | .vcvtB16 _ _ _ => [.a]
  | .vcvtE4 _ _ _ => [.a]
  | .vcvtE5 _ _ _ => [.a]
  | .vcvtF4 _ _ _ => [.a]
  | .vcvtDs8 _ _ _ => [.a]
  | .vqmax _ _ _ => [.a]
  | .vqcvt _ _ _ _ => [.a]
  | .vdq _ _ => [.a]
  | .gop _ _ _ _ _ => [.a]
  | .vqcvtI8 _ _ _ => [.a]
  | .mmac _ _ _ _ _ => [.m]
  | .mclr _ _ => [.m]
  | .mret _ _ _ _ _ _ => [.m]
  | .mwsel _ _ => [.m]
  | .mstampAbs _ => [.m]
  | .mstampAdd _ _ => [.m]
  | .mnop _ => [.m]
  | .xcopy _ => [.x]
  | .xgat _ => [.x]
  | .xsct _ => [.x]
  | .xwload _ => [.x]
  | .xred _ => [.x]
  | .xwenq _ => [.x]
  | .xsend _ => [.x]
  | .xcoll _ => [.x]
  | .powerOn _ => []
  | .functionLevelReset => []
  | .linkHbmTrainingDone _ => []
  | .featureGo => []
  | .registerImage => []
  | .unregisterImage => []
  | .unmap => []
  | .unmapPinsDropped => []
  | .relocate => []
  | .undealCommand => []
  | .commitSvn => []
  | .keyInstall _ _ => []
  | .octlWrite _ _ => []
  | .hostRead _ _ => []
  | .hostWrite _ _ => []
  | .hostAtomicop _ _ _ _ _ => []
  | .mailboxPush _ _ => []
  | .postPortPost _ _ => []
  | .dirtySnapshot _ _ => []
  | .tableRewriteCommit => []
  | .tableRewriteDrained => []
  | .hvecWrite _ _ => []
  | .preemptRequest _ _ => []
  | .preemptCancel _ _ => []
  | .driverInterrupt _ _ _ => []
  | .moduleRetrainRequest _ _ => []
  | .moduleWindowBoundary _ _ => []
  | .portReopen _ => []
  | .portHealthWindow _ => []
  | .portPark _ => []
  | .portWake _ => []
  | .portIdleTimeout _ => []
  | .widthChangeBoundary _ => []
  | .wavelengthRelockDone _ => []
  | .wakeBudgetExpired _ => []
  | .migrationPass => []
  | .migrationReceive => []
  | .migrationAbort => []
  | .sessionKeyInstall _ => []
  | .msessWrite _ => []
  | .granuleRecord _ => []
  | .recordAck _ => []
  | .taskExport => []
  | .taskImport => []
  | .typedStateRecord _ => []
  | .quote => []
  | .quoteSigned => []
  | .nonceWrite _ _ => []
  | .updateVerify => []
  | .updateVerifyDone => []
  | .updateInstall => []
  | .updateInstallDone _ => []
  | .uploadWindowWrite _ _ => []
  | .thermalChange _ _ => []
  | .registerWrite _ _ _ => []
  | .launchPacket _ => []
  | .sliceSetAside => []
  | .collectiveAbort _ _ => []
  | .domainJoin _ _ => []
  | .circuitSlotStart => []
  | .dataWindowOpen _ => []
  | .circuitCommit => []
  | .sendDataFlit _ => []
  | .transactionFlit _ => []
  | .collectivePacket _ _ => []
  | .abortFlit _ _ => []
  | .controlFrame _ => []
  | .fecFrameUncorrectable _ _ => []
  | .frameReplayRequest _ _ => []
  | .sendAccepted _ _ _ _ => []
  | .sweepAdd _ _ _ => []
  | .ucieFlitReceived _ _ _ _ => []
  | .retryTimeout _ _ _ => []
  | .moduleRetrainEnd _ _ _ _ => []
  | .stationLoad _ _ => []
  | .stationAdd _ _ => []
  | .stationCopy _ _ => []
  | .stationTake _ _ => []
  | .stationFlagRaise _ => []
  | .handTakesEffect _ _ => []
  | .handWithhold _ _ => []
  | .parcelBoard _ _ => []
  | .slotClaim _ _ => []
  | .parcelDelivery _ _ => []
  | .fullSlotReturn _ _ => []
  | .groupQuarantineEnd _ => []
  | .homeSliceOperation _ => []
  | .homeSliceLoad _ => []
  | .writeBack _ => []
  | .bankOperation _ _ => []
  | .accessCompletion _ => []
  | .timetablePost _ => []
  | .counterReport _ => []
  | .releaseTick _ => []
  | .placement _ => []
  | .overlayLoadDone _ => []
  | .frameBarrier => []
  | .powerHoldEnd => []
  | .deadlinePassed _ => []
  | .taskRetire _ => []
  | .preemptAtRetirement _ => []
  | .contextSave _ => []
  | .saveCommit _ => []
  | .contextSlotAcquire _ => []
  | .restoreDone _ => []
  | .checkpointWriteback _ _ => []
  | .watchdogStall _ => []
  | .watchdogLate _ => []
  | .watchdogSave _ => []
  | .eventTaken _ => []
  | .portWalkFetch _ _ => []
  | .portDrain _ _ => []
  | .engineCompletion _ _ => []
  | .bundleVerified => []
  | .headerError _ _ => []

/-! ## Storage in canonical form -/

/-- A table in canonical form whose keys lie below n. -/
def tableIn {α : Type} [DecidableEq α] (d : α) (n : Nat) (m : SMap α) : Bool := mwf d m && m.all fun e => decide (e.1 < n)
/-- The content of a row of a home slice is in canonical form. -/
def rowWf (r : Row) : Bool :=
  tableIn 0 4096 r.bytes && tableIn 0 64 r.tags && tableIn none 64 r.keys && tableIn none 64 r.tweaks && tableIn false 64 r.bad
/-- All storage of the package is in canonical form: the scratchpads, HBM with the context buffers that lie in it, and die shared
memory, placed or in rows that no granule is placed in. -/
def Canonical (s : State) : Prop := Memory.wf s.mem = true

end Sys2Proof.Safety
end

