-- ==== Sys2Proof/Certificates/Slice0/Obligations.lean ====
section
/-!
DEFINITION. The statements about the model, for the provers: encodings, the step, scalar and engine instructions, traps,
the transitions of the device, frames and invariants.
-/

open Sys2Proof Sys2Proof.Machine Sys2Proof.Safety

/-- For every well-formed instruction that has an encoding, and every stream whose opcode space holds it, the decoder of
that stream reads the encoder's word back as the same instruction, with every operand at every value the encoding
admits. (10_encodings.md R208, 10_encodings.md R211, 10_encodings.md R212, 10_encodings.md R218, 10_encodings.md
R226, 10_encodings.md R227, 10_encodings.md R230, 10_encodings.md R231) -/
def Obligations.EveryWellFormedInstructionRoundTrips : Prop :=
  ∀ (i : Instr) (st : Stream) (w : W32),
    i.wf = true → st ∈ spacesOf i → encode i = some w → decode st w = some i

/-- Words given in the spec decode to the instructions they stand for: scalar, branch, fabric, system and call words in
the control space, and words of the L, S, A and M spaces. (10_encodings.md R208, 10_encodings.md R219,
10_encodings.md R220, 10_encodings.md R232, 13_ins_vector.md R315, 11_ins_scalar.md R239) -/
def Obligations.WordsHoldTheSpecsInstructions : Prop :=
  decode .c 0x0448C580 = some (.add ⟨4, 35, 5, true, false⟩) ∧
  decode .c 0x04804923 = some (.adds ⟨8, 1, 9, false, false⟩ 3) ∧
  decode .c 0x58457FFD = some (.br ⟨1, 5, false, 0x7FFD⟩) ∧
  decode .c 0xF8000000 = some (.nop 0) ∧
  decode .c 0xFCF00000 = some .eret ∧
  decode .c 0xFE00C414 = some (.fup ⟨3, 4, 5, false, false⟩) ∧
  decode .l 0x052C0001 = some (.lport 2 5 true 1) ∧
  decode .s 0x04B00008 = some (.sport 1 6 8) ∧
  decode .a 0xF8524000 = some (.tok 5 9 0) ∧
  decode .c 0x00000000 = none ∧ decode .a 0x00000000 = some .tableEnd

/-- Whatever the stream, a word that decodes to an instruction is exactly the encoder's word for it, and the instruction
is well formed; so a word with a bit set that its form marks zero is no instruction. Hence one word has one meaning
in one space, and two instructions of one space never share a word. (10_encodings.md R222, 10_encodings.md R232) -/
def Obligations.DecodedWordsAreWellFormedAndExact : Prop :=
  ∀ (st : Stream) (w : W32) (i : Instr), decode st w = some i →
    i.wf = true ∧ encode i = some w ∧ ∀ j w', decode st w' = some j → encode j = some w → j = i

/-- Where the agenda's next move is a stream of a core, the stream may issue, and the word at its place decodes, the step
is exec of that instruction in the state in which the move is taken off the agenda and the stream made the current
one; for C, the wait of a handler's entry then ends, and where an event is pending its taking is the next move. A word
that is no instruction of its space traps C as an illegal encoding, cause 0x20, and stops an engine at its step with
cause 0x21. A place past the end of handler memory, where there is no word, is one of C's, and traps it with cause
0x22. A stream that may not issue leaves the machine as it is, and behind a retirement that a pre-emption waits for M
may not. Besides, a step sets the dirty bits of the units of context that it has changed, and nothing else (marked).
That the agenda gives a stream its move, and that the taking of a pending event is the move behind an instruction, is
the model's choice (logs 2, 64). (01_machine.md R17, 01_machine.md R18, 01_machine.md R19, 10_encodings.md R222,
10_encodings.md R232, 14_ins_matrix_copy.md R326, 20_drv_traps.md R440, 20_drv_traps.md R443, 20_drv_traps.md R447,
20_drv_traps.md R457) -/
def Obligations.StepRunsTheDecodedInstruction : Prop :=
  ∀ (s : State) (n : Nat) (st : Stream) (l : List Move),
    s.turn.agenda = .stream n st :: l →
    let u : State := { s with turn := ⟨l, n, st⟩ }
    (u.mayIssue n st = false → step s = s.marked (.next u)) ∧
    ((s.coreAt n).mx.gate = true → u.mayIssue n .m = false) ∧
    (∀ w i, u.mayIssue n st = true → u.fetchWord n st = some w → decode st w = some i →
      step s = s.marked (exec i (if st = .c then u.beginC n else u))) ∧
    (∀ w, u.mayIssue n st = true → u.fetchWord n st = some w → decode st w = none →
      step s = s.marked (.next (if st = .c then (u.beginC n).trapAt 0x20 0 else u.stopHere (.of 0x21)))) ∧
    (u.mayIssue n st = true → u.fetchWord n st = none → st = .c ∧ step s = s.marked (.next ((u.beginC n).trapAt 0x22 0))) ∧
    ((u.beginC n).coreAt n).c.settling = false ∧
    ((u.beginC n).turn.agenda = if (s.coreAt n).tr.events = [] then l else .event (.eventTaken n) :: l) ∧
    ∀ t : State, ∃ v, s.marked (.next t) = .next v ∧ v.cores = t.cores ∧ v.mem = t.mem ∧ v.accs = t.accs ∧ v.tasks = t.tasks ∧
      v.turn = t.turn ∧ v.beat = t.beat ∧ ∀ d k, (mget Slot.rest (v.dieAt d).slots k).buf0 = (mget Slot.rest (t.dieAt d).slots k).buf0 ∧
        (mget Slot.rest (v.dieAt d).slots k).buf1 = (mget Slot.rest (t.dieAt d).slots k).buf1

/-- A step whose agenda begins with a transition of the device is exec of that transition's row, with the dirty bits of
what it changes set; a step with an empty agenda ends the beat and begins the next, and the beat counter rises by one
(R37). What the agenda holds, and in what order, is the model's own choice (log 2). (00_scope.md R1, 01_machine.md
R37) -/
def Obligations.StepMakesTheDevicesTransitions : Prop :=
  ∀ (s : State),
    (s.turn.agenda = [] → ∃ t, step s = .next t ∧ t.beat = s.beat + 1) ∧
    ∀ e l, s.turn.agenda = .event e :: l →
      step s = s.marked (exec (rowOf e) { s with turn := { s.turn with agenda := l } })

/-- add, sub, mul, mulh, mulhn, div, divn, rem, remn, and, or, xor, andn, shl, shr, sra, rotl, min, max, minn, maxn, adds
and cmp: where the checks of R234 and R18 pass, the instruction completes, having read a then b, written d with the
result and the latency of its row, and moved on. Operands may be registers or channels, popped or not.
(11_ins_scalar.md R233, 11_ins_scalar.md R236, 11_ins_scalar.md R237, 11_ins_scalar.md R239, 11_ins_scalar.md R240,
08_timing.md R181) -/
def Obligations.RegisterOperationsGiveTheirResults : Prop :=
  ∀ (i : Instr) (o : RForm) (lat : Nat) (f : Word → Word → Word), binary i = some (o, lat, f) →
    ∀ s, Issues s [(o.a, o.p), (o.b, o.q)] [] (some o.d) →
      let a := s.readSrc o.a o.p
      let b := a.2.readSrc o.b o.q
      exec i s = .next (b.2.writeDst o.d lat (f a.1 b.1)).advance

/-- clz, ctz, popc, addi, andi, ori, xori, shli, shri, srai, cmpi and ext: where the checks of R234 and R18 pass, the
instruction completes with d holding the result of its row. movh completes with its 20-bit immediate sign-extended
and shifted left by 12. (11_ins_scalar.md R238, 11_ins_scalar.md R242, 11_ins_scalar.md R243, 11_ins_scalar.md R244) -/
def Obligations.UnaryOperationsGiveTheirResults : Prop :=
  (∀ (i : Instr) (d a : BitVec 6) (p : Bool) (f : Word → Word), unary i = some (d, a, p, f) →
    ∀ s, Issues s [(a, p)] [] (some d) →
      exec i s = .next ((s.readSrc a p).2.writeDst d 1 (f (s.readSrc a p).1)).advance) ∧
  ∀ (d : BitVec 6) (m : BitVec 20) s, Issues s [] [] (some d) →
    exec (.movh d m) s = .next (s.writeDst d 1 (m.signExtend 64 <<< 12)).advance

/-- sel writes a where d is nonzero and b where it is zero, with every pop of both sources made; ins replaces bits [POS +
LEN - 1 : POS] of d by the low bits of a. (11_ins_scalar.md R241, 11_ins_scalar.md R244) -/
def Obligations.SelAndInsReadTheirDestination : Prop :=
  (∀ (o : RForm) s, Issues s [(o.a, o.p), (o.b, o.q)] [o.d] (some o.d) →
    let a := s.readSrc o.a o.p
    let b := a.2.readSrc o.b o.q
    let d := b.2.readDst o.d
    exec (.sel o) s = .next (d.2.writeDst o.d 1 (if d.1 = 0 then b.1 else a.1)).advance) ∧
  ∀ (o : XForm) s, Issues s [(o.a, o.p)] [o.d] (some o.d) →
    let a := s.readSrc o.a o.p
    let d := a.2.readDst o.d
    exec (.ins o) s = .next (d.2.writeDst o.d 1 (insField o.pos o.len d.1 a.1)).advance

/-- For POS + LEN at most 64: bit k of what ext gives is bit POS + k of the source below LEN, and above it zero, or the
field's top bit in the signed form; bit k of what ins gives is the source's bit k - POS inside the field and the old
value's bit k outside it. (11_ins_scalar.md R244) -/
def Obligations.FieldsAreExtractedAndInserted : Prop :=
  ∀ (pos len : BitVec 6) (a old : Word) (k : Nat), pos.toNat + len.toNat + 1 ≤ 64 → k < 64 →
    ((extField pos len false a).getLsbD k = (decide (k ≤ len.toNat) && a.getLsbD (pos.toNat + k))) ∧
    ((extField pos len true a).getLsbD k = a.getLsbD (pos.toNat + min k len.toNat)) ∧
    ((insField pos len old a).getLsbD k =
      if pos.toNat ≤ k ∧ k ≤ pos.toNat + len.toNat then a.getLsbD (k - pos.toNat) else old.getLsbD k)

/-- clz gives the number of zero bits above the highest set bit and ctz the number below the lowest, both 64 for zero;
popc gives the number of set bits. Their minors are 0x15 to 0x17, d := the count where the instruction issues, and a
word of these minors with a nonzero field b is no instruction. (R238) -/
def Obligations.BitCountsMatchTheirTable : Prop :=
  (∀ a : Word, a ≠ 0 →
    ∃ k, k < 64 ∧ a.getLsbD k = true ∧ (∀ j, k < j → a.getLsbD j = false) ∧ clzW a = BitVec.ofNat 64 (63 - k)) ∧
  (∀ a : Word, a ≠ 0 →
    ∃ k, k < 64 ∧ a.getLsbD k = true ∧ (∀ j, j < k → a.getLsbD j = false) ∧ ctzW a = BitVec.ofNat 64 k) ∧
  clzW 0 = 64 ∧ ctzW 0 = 64 ∧
  (∀ a : Word, popW a = BitVec.ofNat 64 ((List.range 64).filter fun k => a.getLsbD k).length) ∧
  (∀ (d a b : BitVec 6) (p q : Bool) (m : BitVec 6), m = 0x15 ∨ m = 0x16 ∨ m = 0x17 →
    decode .c (packR 0x01 ⟨d, a, b, p, q⟩ m) =
      if b = 0 ∧ q = false ∧ srcOk a p = true then
        some (if m = 0x15 then .clz ⟨d, a, p⟩ else if m = 0x16 then .ctz ⟨d, a, p⟩ else .popc ⟨d, a, p⟩) else none) ∧
  ∀ (o : UForm) s, Issues s [(o.a, o.p)] [] (some o.d) →
    exec (.clz o) s = .next ((s.readSrc o.a o.p).2.writeDst o.d 1 (clzW (s.readSrc o.a o.p).1)).advance ∧
    exec (.ctz o) s = .next ((s.readSrc o.a o.p).2.writeDst o.d 1 (ctzW (s.readSrc o.a o.p).1)).advance ∧
    exec (.popc o) s = .next ((s.readSrc o.a o.p).2.writeDst o.d 1 (popW (s.readSrc o.a o.p).1)).advance

/-- x0 reads zero at every level and for every state. A register with no result in a shadow reads as its value and reading
changes nothing. A register in a shadow reads as its old value or as the latest result on its way, and which is a free
value. A channel gives the entry at the head of its queue; a peek leaves the queue as it is, and a pop leaves the rest
of it. That a register with a load in flight reads its old value, and that one in a shadow reads either by a free
pick, is the model's choice (log 6). (01_machine.md R25, 08_timing.md R183, 11_ins_scalar.md R233, 11_ins_scalar.md
R234) -/
def Obligations.SourcesReadRegistersAndChannels : Prop :=
  ∀ (s : State) (f : BitVec 6) (pop : Bool),
    (chanField f = false → fieldNo f = 0 → s.readSrc f pop = (0, s)) ∧
    (chanField f = false → fieldNo f ≠ 0 → (∀ p ∈ s.here.c.pend, p.reg ≠ fieldNo f) →
      s.readSrc f pop = (mget 0 s.here.c.regs (fieldNo f), s)) ∧
    (∀ p, chanField f = false → fieldNo f ≠ 0 → (s.here.c.pend.filter fun p => p.reg == fieldNo f).getLast? = some p →
      ((s.readSrc f pop).1 = mget 0 s.here.c.regs (fieldNo f) ∨ (s.readSrc f pop).1 = p.value) ∧
        (s.readSrc f pop).2 = { s with free := s.free + 1 }) ∧
    ∀ q w t, chanField f = true → s.queueOf s.turn.core f = some q → s.entries s.turn.core q = w :: t →
      (s.readSrc f pop).1 = w ∧ (pop = false → (s.readSrc f pop).2 = s) ∧
      (pop = true → (∀ j, q ≠ .wakeQ j) → (s.readSrc f pop).2.entries s.turn.core q = t)

/-- A write to x0 changes nothing. A result of latency 1 is in its register for the next beat; one of latency n lies in
the shadow, the register keeping its old value, and is in the register when the beat t + n begins. A channel bound to
a feed side takes a reserved push, which enters no earlier than beat t + n and not before any earlier push to that
side has: until then the side holds what it would hold without it, and on a beat by which all of them may enter it
holds what it held, then the earlier words in their order, then this one. (01_machine.md R25, 08_timing.md R180,
11_ins_scalar.md R233, 11_ins_scalar.md R235) -/
def Obligations.DestinationsTakeResultsAfterTheirShadow : Prop :=
  ∀ (s : State) (d : BitVec 6) (lat : Nat) (v : Word),
    (chanField d = false → fieldNo d = 0 → s.writeDst d lat v = s) ∧
    (chanField d = false → fieldNo d ≠ 0 → lat ≤ 1 → mget 0 (s.writeDst d lat v).here.c.regs (fieldNo d) = v) ∧
    (chanField d = false → fieldNo d ≠ 0 → 1 < lat →
      (s.writeDst d lat v).here.c = { s.here.c with pend := s.here.c.pend ++ [⟨fieldNo d, v, s.beat + lat⟩] } ∧
      ((∀ p ∈ s.here.c.pend, p.reg ≠ fieldNo d) →
        (∀ b, b < s.beat + lat → mget 0 ((s.writeDst d lat v).here.c.land b).regs (fieldNo d) = mget 0 s.here.c.regs (fieldNo d)) ∧
        mget 0 ((s.writeDst d lat v).here.c.land (s.beat + lat)).regs (fieldNo d) = v)) ∧
    ∀ e, chanField d = true → s.queueOf s.turn.core d = some (.feed e) →
      (s.writeDst d lat v).here.c = { s.here.c with pushes := s.here.c.pushes ++ [⟨e, v, s.beat + lat⟩] } ∧
      ∀ b, let before := s.here.c.pushes.filter fun p => p.feed == e
        let side (c : Core) : List Word := mget [] (c.enterPushes b).ch.feeds e
        (b < s.beat + lat ∨ (∃ p ∈ before, b < p.due) → side (s.writeDst d lat v).here = side s.here) ∧
        (s.beat + lat ≤ b → (∀ p ∈ before, p.due ≤ b) →
          side (s.writeDst d lat v).here = mget [] s.here.ch.feeds e ++ before.map Push.value ++ [v])

/-- For the two-source and one-source register operations: a source channel that is not bound to a readable queue, or a
destination channel not bound to a feed side, takes the trap 0x4B; failing that, a queue short of an entry or a full
feed side stalls the instruction at its pc; failing that, in checked mode a register in a shadow takes the trap 0x24;
failing that, a successor outside instruction memory takes the trap 0x22. Nothing is read or popped. That the trap
0x22 comes after the checks of R234 is the model's choice (log 70). (11_ins_scalar.md R234, 01_machine.md R18,
08_timing.md R184) -/
def Obligations.ChecksOfR234ComeInOrder : Prop :=
  ∀ (i : Instr) (srcs : List Src) (regs : List (BitVec 6)) (dst : Option (BitVec 6)),
    registerOnly i = some (srcs, regs, dst) → ∀ s,
    let unbound := (∃ x ∈ srcs, s.srcBound x.1 = false) ∨ ∃ d, dst = some d ∧ s.dstBound d = false
    let short := (∃ x ∈ srcs, s.srcFull srcs x.1 = false) ∨ ∃ d, dst = some d ∧ s.dstRoom d = false
    let shadow := s.here.cr.tcheck = true ∧ ∃ f ∈ srcs.map Prod.fst ++ regs ++ dst.toList, s.here.shadowed f = true
    (unbound → exec i s = .next (s.trapAt 0x4B 0)) ∧
    (¬unbound → short → exec i s = .next (s.stalled true)) ∧
    (¬unbound → ¬short → shadow → exec i s = .next (s.trapAt 0x24 0)) ∧
    (¬unbound → ¬short → ¬shadow → s.here.c.pc = 16383 → exec i s = .next (s.trapAt 0x22 0))

/-- The scalar register operations, movh, sel, ins, csrr, nop and qalign, where they issue, complete; every register but
the destination is unchanged, every queue but those a source pops, every flag and control register, the handler
registers, the vector and matrix sides, what is placed, every other core, every access, task, table and log, and
every byte of memory. (11_ins_scalar.md R236, 11_ins_scalar.md R242, 11_ins_scalar.md R233, 10_encodings.md R220) -/
def Obligations.RegisterInstructionsLeaveTheRestAlone : Prop :=
  ∀ (i : Instr) (srcs : List Src) (regs : List (BitVec 6)) (dst : Option (BitVec 6)),
    registerOnly i = some (srcs, regs, dst) → ∀ s, Issues s srcs regs dst →
    ∃ t, exec i s = .next t ∧ SameCore s t srcs dst ∧ SameRest s t

/-- Every word with major 0x3E decodes in the control space to a hint, 0xF800_0000 among them; a hint reads no operand,
pops nothing, writes nothing and raises no fault, takes one issue beat, and only moves pc on, inside instruction
memory. (R220) -/
def Obligations.HintsOnlyTakeABeat : Prop :=
  (∀ h : BitVec 26, decode .c (0x3E#6 ++ h) = some (.nop h)) ∧ (0x3E#6 ++ 0#26 : W32) = 0xF8000000 ∧
  ∀ (h : BitVec 26) s, NotLast s →
    exec (.nop h) s = .next s.advance ∧ s.advance.here.c.ready = s.beat + 1 ∧
      SameCore s s.advance [] none ∧ SameRest s s.advance

/-- Where its source passes R234: br goes to pc + displacement where the condition of R214 holds and on otherwise; loop
decrements its register and goes to its target while the result is nonzero; jmp and jal go to pc + displacement, jal
writing pc + 1 to x31; jr goes to its operand. A register written is written in either case. A transfer makes the
target ready two beats on and any other issue the next pc one beat on. A target outside 0 to 16,383 takes the trap
0x22 at the instruction's own pc, in the state before it read anything. (11_ins_scalar.md R245, 11_ins_scalar.md R246,
11_ins_scalar.md R247, 11_ins_scalar.md R248, 10_encodings.md R210) -/
def Obligations.BranchesTransferOrFallThrough : Prop :=
  (∀ (o : BForm) s, Ready s [(o.a, o.p)] [] none →
    let a := s.readSrc o.a o.p
    let t : Int := s.here.c.pc.toNat + o.n.toInt
    (brTaken o.c a.1 = true → 0 ≤ t → t < 16384 → exec (.br o) s = .next (a.2.goto t.toNat)) ∧
    (brTaken o.c a.1 = true → (t < 0 ∨ 16384 ≤ t) → exec (.br o) s = .next (s.trapAt 0x22 0)) ∧
    (brTaken o.c a.1 = false → NotLast s → exec (.br o) s = .next a.2.advance)) ∧
  (∀ (r : BitVec 6) (n : BitVec 15) s, Ready s [(r, false)] [] (some r) →
    let x := s.readSrc r false
    let t : Int := s.here.c.pc.toNat + n.toInt
    (x.1 ≠ 1 → 0 ≤ t → t < 16384 → exec (.loop r n) s = .next ((x.2.writeDst r 1 (x.1 - 1)).goto t.toNat)) ∧
    (x.1 ≠ 1 → (t < 0 ∨ 16384 ≤ t) → exec (.loop r n) s = .next (s.trapAt 0x22 0)) ∧
    (x.1 = 1 → NotLast s → exec (.loop r n) s = .next (x.2.writeDst r 1 0).advance)) ∧
  (∀ (n : BitVec 26) s,
    let t : Int := s.here.c.pc.toNat + n.toInt
    (Ready s [] [] none →
      (0 ≤ t → t < 16384 → exec (.jmp n) s = .next (s.goto t.toNat)) ∧
      ((t < 0 ∨ 16384 ≤ t) → exec (.jmp n) s = .next (s.trapAt 0x22 0))) ∧
    (Ready s [] [] (some 31) →
      (0 ≤ t → t < 16384 →
        exec (.jal n) s = .next ((s.writeDst 31 1 (BitVec.ofNat 64 (s.here.c.pc.toNat + 1))).goto t.toNat)) ∧
      ((t < 0 ∨ 16384 ≤ t) → exec (.jal n) s = .next (s.trapAt 0x22 0)))) ∧
  (∀ (o : OForm) s, Ready s [(o.a, o.p)] [] none →
    let a := s.readSrc o.a o.p
    (a.1.toNat < 16384 → exec (.jr o) s = .next (a.2.goto a.1.toNat)) ∧
    (16384 ≤ a.1.toNat → exec (.jr o) s = .next (s.trapAt 0x22 0))) ∧
  ∀ (s : State) (t : Nat), t < 16384 →
    s.advance.here.c.pc = s.here.c.pc + 1 ∧ s.advance.here.c.ready = s.beat + 1 ∧
    (s.goto t).here.c.pc.toNat = t ∧ (s.goto t).here.c.ready = s.beat + 2 ∧
    s.advance.here.c.regs = s.here.c.regs ∧ (s.goto t).here.c.regs = s.here.c.regs ∧
    s.advance.mem = s.mem ∧ (s.goto t).mem = s.mem ∧ s.advance.here.cr = s.here.cr ∧ (s.goto t).here.cr = s.here.cr

/-- chbind completes where the queue is bound to no other channel and no push to the channel's queue is in its shadow,
and the channel is then bound to that queue; chdrop completes likewise and the channel is then unbound; chlvl writes
the entries of the channel's queue, or the free entries of a feed side. (11_ins_scalar.md R249, 11_ins_scalar.md
R250, 11_ins_scalar.md R251, 11_ins_scalar.md R252) -/
def Obligations.ChannelInstructionsActOnTheTable : Prop :=
  (∀ (d : BitVec 6) (k : BitVec 3) (sel : BitVec 10) s, NotLast s →
    s.boundElsewhere d (queueNamed k sel) = false → s.pushesOf d = false →
      exec (.chbind d k sel) s = .next (s.bindChan d (queueNamed k sel)).advance ∧
      (s.bindChan d (queueNamed k sel)).queueOf s.turn.core d = some (queueNamed k sel)) ∧
  (∀ (a : BitVec 6) s, NotLast s → s.pushesOf a = false →
      exec (.chdrop a) s = .next (s.unbindChan s.turn.core (fieldNo a)).advance ∧
      (s.unbindChan s.turn.core (fieldNo a)).queueOf s.turn.core a = none) ∧
  ∀ (d a : BitVec 6) q s, Issues s [] [] (some d) → s.queueOf s.turn.core a = some q →
      exec (.chlvl d a) s = .next (s.writeDst d 1 (match q with
        | .feed e => BitVec.ofNat 64 (16 - (mget [] s.here.ch.feeds e).length - s.here.reserved e)
        | q => BitVec.ofNat 64 (s.entries s.turn.core q).length)).advance

/-- Where the checks of R234, R18 and R257 pass, the destination is a register, a peer location is reached by some port,
and the queues have a free entry each: ld, st, amo, cas, sqadd, wake and fpeek complete. The access that their row
gives, at the address that their operands give, is then in flight under a new number, with the destination in flight,
and in warn mode a read of invalid words has counted its warning. (12_ins_memory_sync.md R256, 12_ins_memory_sync.md
R257, 12_ins_memory_sync.md R260, 12_ins_memory_sync.md R270, 12_ins_memory_sync.md R272, 12_ins_memory_sync.md R277,
15_ins_fabric_system.md R361) -/
def Obligations.ScalarAccessesEnterTheirQueues : Prop :=
  ∀ (i : Instr) (f : AccForm), scalarAccess i = some f →
    ∀ s l rd, Issues s f.srcs f.regs f.dst → (∀ d, f.dst = some d → chanField d = false) →
      let v := f.inputs s
      s.chk (f.ea v.1) f.align f.width f.need = .ok (l, f.width, rd) → s.queueRoom f.lq f.sq = true →
      let u := if f.need.reads then v.2.warn l f.width else v.2
      let a := s.cAccess l (f.ea v.1).toNat (f.op v.1) (f.dst.getD 0) f.lq f.sq f.scope
      exec i s = .next (u.commitC a f.posted).2.advance

/-- An address at or above 2^52 takes the trap of a non-canonical address and a misaligned one that of a misaligned
access, both with the address reported, and any other failed check the trap of its cause; a load or atomic whose
destination is a channel takes 0x4B. Nothing has been popped, and no access is added. Where every check passes but a
queue that the access takes an entry of holds 32 incomplete accesses, the instruction stalls, an event may be taken,
and nothing else changes. That the checks come before the stall for a full queue, on every beat of it, is the model's
choice (log 60). (12_ins_memory_sync.md R256, 12_ins_memory_sync.md R257, 12_ins_memory_sync.md R260) -/
def Obligations.FaultyAccessesTrapAndFullQueuesStall : Prop :=
  ∀ (i : Instr) (f : AccForm), scalarAccess i = some f → ∀ s,
    ((∃ d, f.dst = some d ∧ chanField d = true) → exec i s = .next (s.trapAt 0x4B 0)) ∧
    ((∀ d, f.dst = some d → chanField d = false) → Issues s f.srcs f.regs f.dst →
      let ea := f.ea (f.inputs s).1
      (2 ^ 52 ≤ ea.toNat → exec i s = .next (s.trapAt causeNonCanonical ea.toNat)) ∧
      (ea.toNat < 2 ^ 52 → ea.toNat % f.align ≠ 0 → exec i s = .next (s.trapAt causeMisaligned ea.toNat)) ∧
      (∀ e, s.chk ea f.align f.width f.need = .error e → exec i s = .next (s.memTrap e)) ∧
      ∀ r, s.chk ea f.align f.width f.need = .ok r →
        ((f.lq = true ∧ 32 ≤ s.loadsOut s.turn.core) ∨ (f.sq = true ∧ 32 ≤ s.storesOut s.turn.core)) →
        exec i s = .next (s.stalled true))

/-- qalign raises the epoch that later accesses carry. mfence places a marker behind the issued micro-orders of every
named stream that holds fewer than four. mjoin completes when no stream holds a marker. wait completes when its counts
are met and it covers no pending fault, and its destinations are no longer in flight. tfence completes when everything
before it is quiet, nothing is pending and no enabled arithmetic flag is up. What a marker covers on its own beat, and
that the counts alone decide when wait passes and which marks it clears, is the model's choice (logs 13, 171).
(05_ordering.md R123, 05_ordering.md R124, 05_ordering.md R125, 08_timing.md R193, 12_ins_memory_sync.md R261,
12_ins_memory_sync.md R262, 12_ins_memory_sync.md R263, 12_ins_memory_sync.md R264) -/
def Obligations.MarkersAndCountedWaitsComplete : Prop :=
  ∀ s, NotLast s →
  (exec .qalign s = .next (s.onCtl fun c => { c with epoch := c.epoch + 1 }).advance) ∧
  (∀ m : BitVec 5, (∀ e ∈ maskStreams m, (s.here.eng e).markers.length < 4) →
    exec (.mfence m) s = .next (s.onHere fun c => ((maskStreams m).foldl
      (fun k e => k.onEng e fun g => { g with markers := g.markers ++ [s.nextId] }) c).popMarkers).advance) ∧
  ((∀ e ∈ [Stream.l, .a, .s, .m, .x], (s.here.eng e).markers = []) → exec .mjoin s = .next s.advance) ∧
  (∀ l st c t : BitVec 5, s.countsMet l.toNat st.toNat c.toNat t.toNat = true →
    s.takePending ⟨l.toNat, st.toNat, c.toNat, false⟩ = none →
    exec (.wait l st c t) s =
      .next (s.onCtl fun k => { k with flying := k.flying.filter fun f => decide (k.ldIx ≤ f.ix + l.toNat) }).advance) ∧
  (s.quietBefore ((s.inWait.map CWait.acc).getD s.nextId) ((s.inWait.map CWait.since).getD s.beat) = true → s.takePending ⟨0, 0, 0, true⟩ = none →
    s.here.cr.fflags &&& s.here.cr.fenable = 0 → exec .tfence s = .next s.advance)

/-- A wait whose counts are met and a quiet tfence take the fault that is pending and covered, in the order of R447; a
tfence with none takes the arithmetic cause of the flags that are up and enabled, kind 6 with those flags in tinfo; a
wait whose counts are not met stalls; mjoin with a marker on a stopped stream takes that stream's fault, and with one
on a stream that is not stopped stalls. (08_timing.md R193, 12_ins_memory_sync.md R262, 12_ins_memory_sync.md R264,
20_drv_traps.md R447, 01_machine.md R22) -/
def Obligations.PendingFaultsAreTakenAtWaitsAndFences : Prop :=
  ∀ s : State,
  (∀ l st c t : BitVec 5, s.countsMet l.toNat st.toNat c.toNat t.toNat = false → exec (.wait l st c t) s = .next (s.stalled true)) ∧
  (∀ (l st c t : BitVec 5) r s', s.countsMet l.toNat st.toNat c.toNat t.toNat = true →
    s.takePending ⟨l.toNat, st.toNat, c.toNat, false⟩ = some (r, s') → exec (.wait l st c t) s = .next (s'.enterTrap s.turn.core r)) ∧
  (s.quietBefore ((s.inWait.map CWait.acc).getD s.nextId) ((s.inWait.map CWait.since).getD s.beat) = true →
    (∀ r s', s.takePending ⟨0, 0, 0, true⟩ = some (r, s') → exec .tfence s = .next (s'.enterTrap s.turn.core r)) ∧
    (s.takePending ⟨0, 0, 0, true⟩ = none → ∀ f, f = s.here.cr.fflags &&& s.here.cr.fenable → f ≠ 0 →
      exec .tfence s = .next (s.enterTrap s.turn.core ⟨6, 0, arithCause f, s.here.c.pc, 0, 0, 0, f.setWidth 64, 0, none⟩))) ∧
  (∀ ws, ws = [Stream.l, .a, .s, .m, .x].filter (fun e => (s.here.eng e).markers != []) → ws ≠ [] →
    (∀ r, s.engineReport ws = some r → exec .mjoin s = .next (s.enterTrap s.turn.core r)) ∧
    (s.engineReport ws = none → exec .mjoin s = .next (s.stalled true)))

/-- spal completes with its result in flight: minus 2 for a size that is zero, no multiple of 4,096 or above 4 MiB, minus
3 with 32 regions live, minus 1 where no run is free, else the lowest offset at which a run of that size meets no
live region; the region is then live. spfree completes where the offset begins a region that no binding or lease uses
and no access is under way in, and the region is then gone. (04_memory.md R99, 12_ins_memory_sync.md R265,
12_ins_memory_sync.md R266) -/
def Obligations.RegionsAreAllocatedFirstFit : Prop :=
  (∀ (o : UForm) s, Issues s [(o.a, o.p)] [] (some o.d) → chanField o.d = false → s.queueRoom true false = true →
    let a := s.readSrc o.a o.p
    let r := a.2.spalResult a.1.toNat
    exec (.spal o) s = .next (r.2.commitC (s.cAccess (.scr s.turn.core 0) 0 (.value r.1) o.d true false 9) false).2.advance) ∧
  (∀ (s : State) n,
    ((n = 0 ∨ n % 4096 ≠ 0 ∨ 2 ^ 22 < n) → s.spalResult n = (BitVec.ofNat 64 (2 ^ 64 - 2), s)) ∧
    (0 < n → n % 4096 = 0 → n ≤ 2 ^ 22 →
      (32 ≤ s.here.pl.regions.length → s.spalResult n = (BitVec.ofNat 64 (2 ^ 64 - 3), s)) ∧
      (s.here.pl.regions.length < 32 →
        ((∀ k, freeRun s.here.pl.regions k n = false) → s.spalResult n = (BitVec.ofNat 64 (2 ^ 64 - 1), s)) ∧
        ∀ k, freeRun s.here.pl.regions k n = true → (∀ j, j < k → freeRun s.here.pl.regions j n = false) →
          s.spalResult n = (BitVec.ofNat 64 k, s.openRegion s.turn.core k n) ∧
          (k, n) ∈ (s.openRegion s.turn.core k n).here.pl.regions))) ∧
  ∀ (o : OForm) s r, Issues s [(o.a, o.p)] [] none →
    let a := s.readSrc o.a o.p
    s.here.pl.regions.find? (fun r => r.1 == a.1.toNat) = some r → s.here.regionInUse s.turn.core r.1 r.2 = false →
    s.regionBusy s.turn.core r.1 r.2 = false →
    exec (.spfree o) s = .next (a.2.onHere fun c => { c with pl := { c.pl with regions := c.pl.regions.erase r } }).advance

/-- waddr of a register, not yet waiting and with room in the load queue, enters its wait with an access at the word; the
channel operands stay where they are. Performed at a place that can be read, such an access answers at once with the
word where it is not b, extended as its row says; where it is b and the waiters have room it parks there. sqwait
enters its wait likewise, without a queue entry, and its access answers once the counter is at least b. A wait whose
value has come completes: waddr writes it to d, and both pop their channel operands then. waddr with a channel bound
to a wake queue and fewer than 16 watches armed completes by arming a watch. swinit completes by entering the store
queue, with a history entry. swait completes where the sync word's failed flag is clear and its generation has reached
b; before that it waits, and with the flag set it takes the trap 0x46. In warn mode its read of invalid words is
counted once, when it issues, whichever of the three it does. (12_ins_memory_sync.md R258, 12_ins_memory_sync.md R273,
12_ins_memory_sync.md R274, 12_ins_memory_sync.md R275, 12_ins_memory_sync.md R278, 12_ins_memory_sync.md R279,
12_ins_memory_sync.md R280, 04_memory.md R110) -/
def Obligations.WaitsOnWordsAndSyncWordsComplete : Prop :=
  (∀ (o : RForm) (l : Loc) s, chanField o.d = false → s.inWait = none → s.queueRoom true false = true →
    Issues s [(o.a, o.p), (o.b, o.q)] [] (some o.d) →
    let a := s.readSrc o.a o.p
    let b := a.2.readSrc o.b o.q
    let t (w : Nat) : Nat × State := (({ s with free := b.2.free } : State).warn l w).commitC
      (s.cAccess l a.1.toNat (.waddr w (w == 4) b.1 none) 0 true false 9) false
    (s.waitCheck a.1 4 = .ok (l, 4, 1) → exec (.waddrI32 o) s = .next ((t 4).2.enterWait (t 4).1)) ∧
    (s.waitCheck a.1 8 = .ok (l, 8, 1) → exec (.waddrI64 o) s = .next ((t 8).2.enterWait (t 8).1))) ∧
  (∀ (o : SForm) (l : Loc) s, s.inWait = none → Issues s [(o.a, o.p), (o.b, o.q)] [] none →
    let a := s.readSrc o.a o.p
    let b := a.2.readSrc o.b o.q
    let t := (({ s with free := b.2.free } : State).warn l 8).commitC (s.cAccess l a.1.toNat (.sqwait b.1) 0 false false 9) false
    s.waitCheck a.1 8 = .ok (l, 8, 1) → exec (.sqwait o) s = .next (t.2.enterWait t.1)) ∧
  (∀ (s : State) id a, s.accAt id = some a → a.agent = .c → a.orig = none → pocOf s.placing a.loc ≠ 20000 →
    s.pocFault a.loc = none →
    let x (w : Nat) : Nat := (s.blkSeen a).nat (inBlk a.loc) w
    (∀ w sx b, a.op = .waddr w sx b none →
      (x w ≠ b.toNat % 2 ^ (8 * w) → s.perform id = s.finish id (.val (extW sx w (x w)))) ∧
      (x w = b.toNat % 2 ^ (8 * w) → (mget [] s.mem.waiters (pocOf s.placing a.loc)).length < waiterRoom (pocOf s.placing a.loc) →
        ((s.perform id).accAt id).map Access.stage = some .parked ∧
        mget [] (s.perform id).mem.waiters (pocOf s.placing a.loc) = mget [] s.mem.waiters (pocOf s.placing a.loc) ++ [id])) ∧
    ∀ b, a.op = .sqwait b → b.toNat ≤ x 8 → s.perform id = s.finish id .none) ∧
  (∀ (o : RForm) (w : CWait) (v : Word) s, chanField o.d = false → s.inWait = some w → w.fault = none → w.value = some v →
    let t := s.popSrcs [(o.a, o.p), (o.b, o.q)]
    exec (.waddrI32 o) s = .next (t.writeDst o.d 1 v).advance ∧ exec (.waddrI64 o) s = .next (t.writeDst o.d 1 v).advance) ∧
  (∀ (o : SForm) (w : CWait) (v : Word) s, s.inWait = some w → w.fault = none → w.value = some v →
    exec (.sqwait o) s = .next (s.popSrcs [(o.a, o.p), (o.b, o.q)]).advance) ∧
  (∀ (o : RForm) (q : Nat) (l : Loc) s, chanField o.d = true → s.queueOf s.turn.core o.d = some (.wakeQ q) →
    s.watchesOf s.turn.core < 16 → Issues s [(o.a, o.p), (o.b, o.q)] [] none →
    let v := reads s [(o.a, o.p), (o.b, o.q)]
    (s.waitCheck (v.1.getD 0 0) 4 = .ok (l, 4, 1) → exec (.waddrI32 o) s = .next ((v.2.warn l 4).commitC
      (s.cAccess l (v.1.getD 0 0).toNat (.waddr 4 true (v.1.getD 1 0) (some q)) 0 false false 9) false).2.advance) ∧
    (s.waitCheck (v.1.getD 0 0) 8 = .ok (l, 8, 1) → exec (.waddrI64 o) s = .next ((v.2.warn l 8).commitC
      (s.cAccess l (v.1.getD 0 0).toNat (.waddr 8 false (v.1.getD 1 0) (some q)) 0 false false 9) false).2.advance)) ∧
  (∀ (o : SForm) (l : Loc) s, Issues s [(o.a, o.p), (o.b, o.q)] [] none → s.queueRoom false true = true →
    let v := reads s [(o.a, o.p), (o.b, o.q)]
    s.syncCheck (v.1.getD 0 0) false = .ok (l, 16, 0) →
    exec (.swinit o) s = .next (v.2.commitC
      (s.cAccess l (v.1.getD 0 0).toNat (.swinit ((v.1.getD 1 0).setWidth 32)) 0 false true 9) true).2.advance) ∧
  ∀ (o : SForm) (l : Loc) s, Issues s [(o.a, o.p), (o.b, o.q)] [] none →
    let a := s.readSrc o.a o.p
    let b := a.2.readSrc o.b o.q
    s.syncCheck a.1 true = .ok (l, 16, 1) →
    let read (t : State) : State := if s.inWait = none then t.warn l 16 else t
    let u := read s
    (s.syncWord s.turn.core a.1.toNat 3 / 4 % 2 = 0 →
      (s.genReached s.turn.core a.1.toNat b.1 = true → exec (.swait o) s = .next (read b.2).advance) ∧
      (s.genReached s.turn.core a.1.toNat b.1 = false → exec (.swait o) s = .next ((u.onCtl fun c =>
        { c with cwait := some (u.inWait.getD ⟨c.pc.toNat, u.beat, 0, none, none, none⟩) }).stalled true))) ∧
    (s.syncWord s.turn.core a.1.toNat 3 / 4 % 2 = 1 → exec (.swait o) s = .next (u.trapAt 0x46 a.1.toNat))

/-- gjoin completes with the number of members after it, or with a refusal: minus 6 above 20 bits, minus 5 for a member,
minus 3 for a fifth group, minus 2 in quarantine, minus 1 for a stale incarnation, minus 4 for another owner. gleave
completes, for a member by leaving the group. gbar of a member that has not arrived, with no load, store or covered
fault outstanding, arrives at the open generation and waits; the arrival that every member has then made ends the
generation, and all that wait for it pass. gbar whose generation has ended passes; one whose generation is open waits;
one of no member takes the trap 0x47. A core that passes goes on one place and one beat on, in a new epoch.
(02_execution.md R59, 02_execution.md R60, 02_execution.md R61, 12_ins_memory_sync.md R281, 12_ins_memory_sync.md
R282, 12_ins_memory_sync.md R283, 05_ordering.md R130) -/
def Obligations.GroupsAreJoinedLeftAndMet : Prop :=
  (∀ (o : UForm) s, Issues s [(o.a, o.p)] [] (some o.d) →
    let a := s.readSrc o.a o.p
    let r := a.2.join (s.taskNo s.turn.core) a.1
    exec (.gjoin o) s = .next (r.2.writeDst o.d 1 r.1).advance) ∧
  (∀ (s : State) t y (a : Word), s.taskAt t = some y →
    let g := s.groupAt (handleId a.toNat)
    let code (n : Nat) : Word := BitVec.ofNat 64 (2 ^ 64 - n)
    (2 ^ 20 ≤ a.toNat → s.join t a = (code 6, s)) ∧
    (a.toNat < 2 ^ 20 → (t ∈ g.members → s.join t a = (code 5, s)) ∧
      (t ∉ g.members → (4 ≤ y.groups.length → s.join t a = (code 3, s)) ∧
        (y.groups.length < 4 → (g.st = .quarantine → s.join t a = (code 2, s)) ∧
          (g.st ≠ .quarantine → (g.inc.toNat ≠ a.toNat % 256 → s.join t a = (code 1, s)) ∧
            (g.inc.toNat = a.toNat % 256 → (g.st = .live → g.owner ≠ y.owner → s.join t a = (code 4, s)) ∧
              ((g.st = .live → g.owner = y.owner) → (s.join t a).1 = BitVec.ofNat 64 (g.members.length + 1) ∧
                ((s.join t a).2.groupAt (handleId a.toNat)).members = g.members ++ [t] ∧
                ((s.join t a).2.groupAt (handleId a.toNat)).st = .live))))))) ∧
  (∀ (s : State) g, (s.groupAt g).members ≠ [] → (s.arrivals g).length = (s.groupAt g).members.length →
    s.tryBarrier g = (s.setGroup g { s.groupAt g with gen := (s.groupAt g).gen + 1 }).passAll g) ∧
  (∀ (s : State) n g f pop, let c := (s.coreAt n).c
    let d := ((s.passBarrier n g f pop).coreAt n).c
    d.pc = c.pc + 1 ∧ d.ready = s.beat + 1 ∧ d.epoch = c.epoch + 1 ∧ d.cwait = none) ∧
  (∀ (o : OForm) s, Issues s [(o.a, o.p)] [] none →
    let a := s.readSrc o.a o.p
    let t := s.taskNo s.turn.core
    (s.isMember t a.1.toNat = true → exec (.gleave o) s = .next (a.2.leaveGroup t (handleId a.1.toNat)).advance) ∧
    (s.isMember t a.1.toNat = false → exec (.gleave o) s = .next a.2.advance) ∧
    (s.isMember t a.1.toNat = false → exec (.gbar o) s = .next (s.trapAt 0x47 0)) ∧
    let g := handleId a.1.toNat
    (s.isMember t a.1.toNat = true → s.arrival t g = none → s.loadsOut s.turn.core = 0 → s.storesOut s.turn.core = 0 →
      s.takePending ⟨0, 0, s.here.c.cpIx, false⟩ = none → exec (.gbar o) s = .next
        (((s.onTask t fun x => { x with arrived := x.arrived ++ [(g, (s.groupAt g).gen)] }).atBarrier g o).tryBarrier g)) ∧
    ∀ n, s.isMember t a.1.toNat = true → s.arrival t g = some n →
      ((s.groupAt g).gen = n → exec (.gbar o) s = .next (s.atBarrier g o)) ∧
      ((s.groupAt g).gen ≠ n → exec (.gbar o) s = .next (s.passBarrier s.turn.core g o.a o.p)))

/-- fork completes where every named stream is idle and the operands' fields are good: each named stream runs from its
table base with its rotating base and loops cleared, and the token FIFOs of the pairs it starts are empty at the
depths given. rdv completes where every named stream is done or idle, and they are then idle. estop completes once
the named streams have no micro-order out, and they are then idle without markers or fault. ebase starts one stream
that is not stopped at a new base once its micro-orders are complete. (01_machine.md R27, 02_execution.md R51,
02_execution.md R53, 15_ins_fabric_system.md R363, 15_ins_fabric_system.md R364, 15_ins_fabric_system.md R365) -/
def Obligations.EngineControlStartsAndStopsStreams : Prop :=
  ∀ s : State,
  (∀ (o : SForm) (m : BitVec 5), Issues s [(o.a, o.p), (o.b, o.q)] [] none →
    (∀ e ∈ maskStreams m, (s.here.eng e).state = .idle) →
    let a := s.readSrc o.a o.p
    let b := a.2.readSrc o.b o.q
    forkOk m a.1 b.1 = true → s.engineReport (maskStreams m) = none →
    exec (.fork o m) s = .next (b.2.onHere fun c =>
      (maskStreams m).foldl (fun k e => k.startEng e (forkBase a.1 b.1 e) s.beat) { c with ve := c.ve.setPairs m b.1 }).advance) ∧
  (∀ m : BitVec 5, NotLast s → (∀ e ∈ maskStreams m, (s.here.eng e).state = .idle ∨ (s.here.eng e).state = .done) →
    exec (.rdv m) s = .next (s.onHere fun c => ((maskStreams m).foldl
      (fun k e => k.onEng e fun g => { g with state := .idle }) c).dropPairs).advance) ∧
  (∀ m : BitVec 5, NotLast s → (∀ e ∈ maskStreams m, s.here.ordersOut e = false) →
    ∃ t : State, exec (.estop m) s = .next t.advance ∧ (∀ e ∈ maskStreams m,
      (t.here.eng e).state = .idle ∧ (t.here.eng e).fault = none ∧ (t.here.eng e).markers = []) ∧ t.mem = s.mem) ∧
  (∀ (o : OForm) (m : BitVec 5) e, maskStreams m = [e] → Issues s [(o.a, o.p)] [] none →
    let a := s.readSrc o.a o.p
    bitsOf a.1 13 51 = 0 → (s.here.eng e).state ≠ .stopped → s.here.ordersOut e = false →
    exec (.ebase o m) s = .next (a.2.onHere fun c => c.startEng e (a.1.extractLsb' 0 13) s.beat).advance)

/-- tbind, after its stall of 8 beats and one for each covering entry, completes where its operands make a binding: the
base then holds it, and the entries it covers are pinned. tunbind completes, and the base is then unbound. post
completes by sending the descriptor it read, for the owner of the task, to the timetable of the die that the
descriptor names; in warn mode the first invalid word of a block that it read is counted. That tbind binds what the
tables hold on the last beat of its stall, and which checks a counter address gets, is the model's choice (logs 83,
170). (04_memory.md R100, 04_memory.md R111, 04_memory.md R112, 12_ins_memory_sync.md R267, 12_ins_memory_sync.md
R268, 12_ins_memory_sync.md R269, 02_execution.md R41, 02_execution.md R42, 15_ins_fabric_system.md R366) -/
def Obligations.BindingsAndPostsComplete : Prop :=
  (∀ (n : BitVec 4) (r : BitVec 2) (o : SForm) (w : CWait) x pins s, Issues s [(o.a, o.p), (o.b, o.q)] [] none →
    let a := s.readSrc o.a o.p
    let b := a.2.readSrc o.b o.q
    s.inWait = some w → s.binding r a.1 b.1 = .ok (x, pins) → w.since + 7 + pins.length ≤ s.beat →
    exec (.tbind n r o) s = .next (b.2.bindBase s.turn.core n.toNat { x with uid := b.2.nextId } pins).advance ∧
    mget Base.rest (b.2.bindBase s.turn.core n.toNat { x with uid := b.2.nextId } pins).here.ve.bases n.toNat =
      { x with uid := b.2.nextId }) ∧
  (∀ (n : BitVec 4) s, NotLast s → exec (.tunbind n) s = .next (s.unbindBase s.turn.core n.toNat).advance ∧
    (mget Base.rest (s.unbindBase s.turn.core n.toNat).here.ve.bases n.toNat).extent = 0) ∧
  ∀ (o : UForm) ls s, Issues s [(o.a, o.p)] [] (some o.d) → chanField o.d = false → s.queueRoom true false = true →
    let a := s.readSrc o.a o.p
    (s.blockCheck .load a.1.toNat 2).bind (noPeer a.1.toNat) = .ok ls →
    let ws := s.descWords ls
    s.condCheck ws (min 4 (descConds ws)) = none → ls.findSome? s.pocFault = none →
    exec (.post o) s = .next ((a.2.warnPieces s.turn.core (ls.map fun l => (l, 64))).commitC
      { s.cAccess (.dsm (descDie ws) 0) a.1.toNat (.post (descDie ws) ws) o.d true false 9 with
        owner := s.ownerOn s.turn.core } false).2.advance

/-- halt completes where every engine is at rest and not stopped, everything before it is quiet, nothing is pending and no
event is: the task drains on its core. tail completes where besides no load of C or L is outstanding, the tracker has
room and no tail is tracked: the core is free at once, its ports unbound, and tracks the task. ppoint completes
whatever the engines do; where a request can be taken, the core begins to drain for it, keeping the tiles named, and
otherwise it goes on. (02_execution.md R57, 02_execution.md R58, 15_ins_fabric_system.md R367, 15_ins_fabric_system.md
R368, 20_drv_traps.md R452) -/
def Obligations.TasksEndByHaltAndTail : Prop :=
  ∀ s : State,
  (s.here.enginesRest = true → s.engineReport [.l, .a, .s, .m, .x] = none →
    s.takePending ⟨0, 0, 0, true⟩ = none → s.here.cr.fflags &&& s.here.cr.fenable = 0 → s.here.tr.events = [] →
    (s.quietBefore ((s.inWait.map CWait.acc).getD s.nextId) ((s.inWait.map CWait.since).getD s.beat) = true →
      exec .halt s = .next s.drainTask ∧ s.drainTask.here.pl.phase = .draining) ∧
    (s.loadsLeft = false → s.trackerNeed ≤ 8 → s.here.pl.tailed = none →
      exec .tail s = .next s.tailTask ∧ s.tailTask.here.pl.task = none ∧ s.tailTask.here.pl.phase = .free ∧
        s.tailTask.here.ve.ins = [] ∧ s.tailTask.here.ve.outs = [] ∧
        s.tailTask.here.pl.tailed = some (s.taskNo s.turn.core))) ∧
  ∀ m : BitVec 8, NotLast s →
    (s.canPreempt s.turn.core = false → exec (.ppoint m) s = .next s.advance) ∧
    (s.canPreempt s.turn.core = true → exec (.ppoint m) s = .next (s.advance.beginSave s.turn.core m) ∧
      (s.advance.beginSave s.turn.core m).here.pl.phase = .saving ∧
      (s.advance.beginSave s.turn.core m).here.pl.saveMask = m)

/-- Below handler level on a die with a handler image, a trap writes tcause, tpc, tstep, taddr, tinfo and twalk from its
report and tbeat from the beat, keeps the pc of the report for the trap log, clears tctl but for the restart bit of a
stopped engine that the report names, keeps thsel unless the report names a history entry, sets hlevel and pc 0, and C
issues no earlier than 4 beats on and after every write in flight. No scalar register, flag, engine, queue or byte of
memory changes, and no other core. (20_drv_traps.md R439, 20_drv_traps.md R441, 20_drv_traps.md R443, 08_timing.md
R186) -/
def Obligations.TrapEntrySavesAndEntersTheHandler : Prop :=
  ∀ (s : State) (n : Nat) (r : Report), (s.coreAt n).c.hlevel = false → (s.dieAt (dieOf n)).hvec ≠ 0 →
    (r.kind = 1 → 1 ≤ r.stream) →
    let t := s.enterTrap n r
    let c := t.coreAt n
    c.tr.tcause = r.tcause ∧ c.tr.tpc = r.pc ∧ c.tr.rpc = r.pc ∧ c.tr.tstep = r.tstep ∧ c.tr.taddr = r.addr ∧ c.tr.tinfo = r.info ∧
    c.tr.twalk = r.walk ∧ c.tr.tbeat = BitVec.ofNat 64 s.beat ∧ c.tr.own = false ∧ c.tr.fail = false ∧
    (∀ k, k < 5 → c.tr.restart.getLsbD k = (decide (r.kind = 1) && decide (r.stream = k + 1))) ∧
    c.tr.thsel = (match r.hist with
      | some h => BitVec.ofNat 6 h
      | none => (s.coreAt n).tr.thsel) ∧
    c.c.hlevel = true ∧ c.c.pc = 0 ∧ c.c.ready = s.beat + 4 ∧ c.c.settling = true ∧
    c.c.regs = (s.coreAt n).c.regs ∧ c.cr = (s.coreAt n).cr ∧ c.ch = (s.coreAt n).ch ∧ c.ve = (s.coreAt n).ve ∧
    c.mx = (s.coreAt n).mx ∧ c.pl = (s.coreAt n).pl ∧ c.tr.hist = (s.coreAt n).tr.hist ∧ c.tr.hs = (s.coreAt n).tr.hs ∧
    c.tr.mbase = (s.coreAt n).tr.mbase ∧ (∀ m, m ≠ n → t.coreAt m = s.coreAt m) ∧ SameRest s t

/-- tcause of a report whose stream is at most 5 and kind at most 6 holds the stream in [15:13], the kind in [12:10], the
cause in [7:0] and zero elsewhere. sstate, register 0x02, holds the state codes of L, A, S, M and X in three bits
each from bit 0 up, with 0 for idle, 1 running, 2 stalled, 3 done and 4 stopped, and zero above. (20_drv_traps.md
R442, 01_machine.md R20, 01_machine.md R21) -/
def Obligations.TcauseAndSstateHoldTheirFields : Prop :=
  (∀ r : Report, r.stream ≤ 5 → r.kind ≤ 6 →
    r.tcause.extractLsb' 13 3 = BitVec.ofNat 3 r.stream ∧ r.tcause.extractLsb' 10 3 = BitVec.ofNat 3 r.kind ∧
    r.tcause.extractLsb' 8 2 = 0 ∧ r.tcause.extractLsb' 0 8 = r.cause ∧ r.tcause.extractLsb' 16 48 = 0) ∧
  ∀ s : State,
    let v := s.csrValue 0x02
    let code (e : Stream) : BitVec 3 := match (s.here.eng e).state with
      | .idle => 0
      | .running => 1
      | .stalled => 2
      | .done => 3
      | .stopped => 4
    v.extractLsb' 0 3 = code .l ∧ v.extractLsb' 3 3 = code .a ∧ v.extractLsb' 6 3 = code .s ∧ v.extractLsb' 9 3 = code .m ∧
    v.extractLsb' 12 3 = code .x ∧ v.extractLsb' 15 49 = 0

/-- At handler level any trap writes a trap-log record with reason 1 that carries the original report and the new cause,
and the task fails; on a die without a handler image a trap fails the task as well. In either case the core is free.
(20_drv_traps.md R438, 20_drv_traps.md R440, 20_drv_traps.md R450) -/
def Obligations.HandlerLevelFaultsFailTheTask : Prop :=
  ∀ (s : State) (n : Nat) (r : Report),
    ((s.coreAt n).c.hlevel = true →
      s.enterTrap n r = (s.logTrap n 1 r.cause (s.coreAt n).tr.tcause (s.coreAt n).tr.words).failTask n) ∧
    ((s.coreAt n).c.hlevel = false → (s.dieAt (dieOf n)).hvec = 0 →
      s.enterTrap n r = (s.logTrap n 1 0x58 r.tcause r.words).failTask n) ∧
    ((s.failTask n).coreAt n).pl.task = none ∧ ((s.failTask n).coreAt n).pl.phase = .free ∧
    (s.failTask n).taskAt (s.taskNo n) = none

/-- sysc enters the handler with kind 5, cause 0x54, tpc the next instruction and tinfo the instruction word; brk with
cause 0x55 and tpc the brk itself. eret at handler level with nothing in flight and tctl.fail clear completes: the
level falls, pc is tpc, each stopped stream that tctl.restart names runs from its resume step without its fault, and
no other register of the control stream, no flag, no other core and no byte of memory changes. With tctl.fail set the
task fails with reason 0. (15_ins_fabric_system.md R372, 20_drv_traps.md R443, 20_drv_traps.md R444, 20_drv_traps.md
R445) -/
def Obligations.CallsTrapAndEretReturns : Prop :=
  (∀ (c : BitVec 20) s, NotLast s →
    exec (.sysc c) s = .next (s.enterTrap s.turn.core
      ⟨5, 0, 0x54, s.here.c.pc + 1, 0, 0, 0, (0x3F#6 ++ 0x0D#6 ++ c : W32).setWidth 64, 0, none⟩)) ∧
  (∀ (c : BitVec 20) s, exec (.brk c) s = .next (s.enterTrap s.turn.core
      ⟨5, 0, 0x55, s.here.c.pc, 0, 0, 0, (0x3F#6 ++ 0x0E#6 ++ c : W32).setWidth 64, 0, none⟩)) ∧
  ∀ s : State, s.here.c.hlevel = true → s.cInFlight s.turn.core = false →
    (s.here.tr.fail = true → exec .eret s = .next
      ((s.logTrap s.turn.core 0 0 s.here.tr.tcause s.here.tr.words).failTask s.turn.core)) ∧
    (s.here.tr.fail = false → ∃ t, exec .eret s = .next t ∧
      t.here.c.hlevel = false ∧ t.here.c.pc = s.here.tr.tpc ∧ t.here.c.ready = s.beat + 1 ∧
      t.here.c.regs = s.here.c.regs ∧ t.here.cr = s.here.cr ∧ t.here.tr = s.here.tr ∧ t.here.ch = s.here.ch ∧
      t.here.mx = s.here.mx ∧ t.here.pl = s.here.pl ∧ t.here.ve.v = s.here.ve.v ∧ t.here.ve.jobs = s.here.ve.jobs ∧
      (∀ e ∈ [Stream.l, .a, .s, .m, .x],
        (s.here.tr.restart.getLsbD e.idx = false → t.here.eng e = s.here.eng e) ∧
        (s.here.tr.restart.getLsbD e.idx = true → (s.here.eng e).state ≠ .stopped → t.here.eng e = s.here.eng e) ∧
        ∀ f, s.here.tr.restart.getLsbD e.idx = true → (s.here.eng e).state = .stopped → (s.here.eng e).fault = some f →
          t.here.eng e = { s.here.eng e with state := .running, step := f.resume, fault := none, closing := false }) ∧
      (∀ m, m ≠ s.turn.core → t.coreAt m = s.coreAt m) ∧ SameRest s t)

/-- eret, and a write of a register that only the handler writes, take the trap 0x50 below handler level; a write of a
read-only register takes 0x51. stset, stclr, deal and undeal without the conveyor grant take 0x50; ctab and rcirc
without feature 2 take 0x53, and with it but without the circuit grant 0x50; fdown and fup without feature 1, cgen
without feature 2, and lease, spill, fill and unlease without feature 3 take 0x53. That privilege, grant and feature
are tested before the operands, whatever these are, is the model's choice (log 61). (15_ins_fabric_system.md R346,
15_ins_fabric_system.md R347, 15_ins_fabric_system.md R349, 19_drv_launch.md R412, 19_drv_launch.md R413) -/
def Obligations.PrivilegeIsCheckedByLevelGrantAndFeature : Prop :=
  ∀ s : State,
  (s.here.c.hlevel = false → exec .eret s = .next (s.trapAt 0x50 0)) ∧
  (∀ o : KForm, (s.here.c.hlevel = false → (o.n = 0x05 ∨ 0x40 ≤ o.n.toNat) →
      exec (.csrw o) s = .next (s.trapAt 0x50 0) ∧ exec (.csrs o) s = .next (s.trapAt 0x50 0) ∧
        exec (.csrc o) s = .next (s.trapAt 0x50 0)) ∧
    ((o.n.toNat ≤ 0x04 ∨ o.n = 0x0C ∨ (s.here.c.hlevel = true ∧ (o.n = 0x40 ∨ (0x42 ≤ o.n.toNat ∧ o.n.toNat ≤ 0x45) ∨ o.n = 0x47 ∨
        o.n = 0x48 ∨ o.n = 0x4C))) →
      exec (.csrw o) s = .next (s.trapAt 0x51 0) ∧ exec (.csrs o) s = .next (s.trapAt 0x51 0) ∧
        exec (.csrc o) s = .next (s.trapAt 0x51 0))) ∧
  (s.convGrant = false → ∀ (o : RForm) (u : UForm), exec (.stset o) s = .next (s.trapAt 0x50 0) ∧
    exec (.stclr u) s = .next (s.trapAt 0x50 0) ∧ exec (.deal u) s = .next (s.trapAt 0x50 0) ∧
    exec (.undeal o) s = .next (s.trapAt 0x50 0)) ∧
  (∀ u : UForm, (s.feature 2 = false → exec (.ctab u) s = .next (s.trapAt 0x53 0) ∧ exec (.rcirc u) s = .next (s.trapAt 0x53 0) ∧
      exec (.cgen u) s = .next (s.trapAt 0x53 0)) ∧
    (s.feature 2 = true → s.circGrant = false → exec (.ctab u) s = .next (s.trapAt 0x50 0) ∧
      exec (.rcirc u) s = .next (s.trapAt 0x50 0))) ∧
  (∀ o : RForm, s.feature 1 = false → exec (.fdown o) s = .next (s.trapAt 0x53 0) ∧ exec (.fup o) s = .next (s.trapAt 0x53 0)) ∧
  ∀ (o : RForm) (v : VForm) (u : OForm), s.feature 3 = false → exec (.lease o) s = .next (s.trapAt 0x53 0) ∧
    exec (.spill v) s = .next (s.trapAt 0x53 0) ∧ exec (.fill v) s = .next (s.trapAt 0x53 0) ∧
    exec (.unlease u) s = .next (s.trapAt 0x53 0)

/-- csrr completes with the register's value after two beats. csrw, csrs and csrc of a register that may be written
complete with the old value in d and the register replaced, with bits set, or with bits cleared. fenable, mlive, tpc,
thsel, mbase and the eight scratch registers read back what is written; fflags loses exactly the bits written as
ones; a write of one of them leaves the other registers named here, the scalar registers and storage as they are.
(15_ins_fabric_system.md R348, 15_ins_fabric_system.md R349, 03_numbers.md R81, 20_drv_traps.md R441) -/
def Obligations.ControlRegistersAreReadAndWritten : Prop :=
  (∀ (d : BitVec 6) (n : BitVec 7) s, Issues s [] [] (some d) →
    exec (.csrr d n) s = .next (s.writeDst d 2 (s.csrValue n.toNat)).advance) ∧
  (∀ (o : KForm) s, Issues s [(o.a, o.p)] [] (some o.d) → csrReadOnly o.n.toNat = false →
    (csrHandlerOnly o.n.toNat = true → s.here.c.hlevel = true) →
    let a := s.readSrc o.a o.p
    let n := o.n.toNat
    let old := a.2.csrValue n
    exec (.csrw o) s = .next ((a.2.csrPut n a.1 a.1 a.1).writeDst o.d 2 old).advance ∧
    exec (.csrs o) s = .next ((a.2.csrPut n (old ||| a.1) a.1 0).writeDst o.d 2 old).advance ∧
    exec (.csrc o) s = .next ((a.2.csrPut n (old &&& ~~~a.1) 0 a.1).writeDst o.d 2 old).advance) ∧
  ∀ (s : State) (v x y : Word),
    (s.csrPut 0x08 v x y).csrValue 0x08 = v &&& 0x1F ∧ (s.csrPut 0x0B v x y).csrValue 0x0B = v &&& 0xFF ∧
    (s.csrPut 0x41 v x y).csrValue 0x41 = v &&& 0x3FFF ∧ (s.csrPut 0x46 v x y).csrValue 0x46 = v &&& 0x3F ∧
    (s.csrPut 0x4B v x y).csrValue 0x4B = v ∧
    (s.csrPut 0x07 v x y).csrValue 0x07 = s.csrValue 0x07 &&& ~~~y ∧
    (∀ k, k < 8 → (s.csrPut (0x50 + k) v x y).csrValue (0x50 + k) = v) ∧
    ∀ n ∈ [0x07, 0x08, 0x0B, 0x41, 0x46, 0x4B, 0x50, 0x51, 0x52, 0x53, 0x54, 0x55, 0x56, 0x57],
      (∀ k ∈ [0x07, 0x08, 0x0B, 0x41, 0x46, 0x4B, 0x50, 0x51, 0x52, 0x53, 0x54, 0x55, 0x56, 0x57], k ≠ n →
        (s.csrPut n v x y).csrValue k = s.csrValue k) ∧
      (s.csrPut n v x y).here.c = s.here.c ∧ (s.csrPut n v x y).mem = s.mem

/-- With the conveyor grant, and records that pass their checks, stset, stclr, deal and undeal complete with the code of
the dealer's verdict in d, and with code 0 the dealer has taken the request; in warn mode the first invalid word of a
record read is counted. hand completes with the slots of a live group's hand, or zero. sfwait completes where its
flag's count has reached b and the station has not failed, with the flag word in d and its flags joined into fflags,
clearing the word in the taking form. bemsg completes by sending to a core below 192. That the verdict is given on the
beat of issue is the model's choice (log 21). (04_memory.md R100, 15_ins_fabric_system.md R350,
15_ins_fabric_system.md R351, 15_ins_fabric_system.md R352, 15_ins_fabric_system.md R353, 15_ins_fabric_system.md
R354, 15_ins_fabric_system.md R355, 15_ins_fabric_system.md R356, 06_conveyor.md R146) -/
def Obligations.ConveyorInstructionsAnswerTheirCodes : Prop :=
  ∀ s : State,
  (s.convGrant = true →
    (∀ (o : RForm) r, Issues s [(o.a, o.p), (o.b, o.q)] [] (some o.d) →
      let a := s.readSrc o.a o.p
      let b := a.2.readSrc o.b o.q
      s.stRec a.1.toNat = .ok r →
      let h := bitsOf b.1 0 20
      let v := s.stVerdict h r (bitsOf b.1 20 44 == 0 && s.recOk r h (s.groupAt (handleId h)).owner) (s.taskNo s.turn.core)
      let u := b.2.warnRec a.1.toNat 1
      exec (.stset o) s = .next ((if v = 0 then u.onConv fun c => c.install r r.entry s.beat else u).writeDst o.d 1 v).advance) ∧
    (∀ (o : UForm) r, Issues s [(o.a, o.p)] [] (some o.d) →
      let a := s.readSrc o.a o.p
      s.stRec a.1.toNat = .ok r →
      let v := s.stVerdict (entHandle r.entry) r (bitsOf r.entry 0 108 == 0 && bitsOf r.place 0 48 == 0 && (match mortAt r.pos with
        | some m => decide (m < 24)
        | none => false)) (s.taskNo s.turn.core)
      let u := a.2.warnRec a.1.toNat 1
      exec (.stclr o) s = .next ((if v = 0 then u.onConv fun c => c.install r 0 s.beat else u).writeDst o.d 1 v).advance) ∧
    (∀ (o : UForm), Issues s [(o.a, o.p)] [] (some o.d) →
      let a := s.readSrc o.a o.p
      let r := s.dealRec a.1.toNat
      a.1.toNat % 64 = 0 → s.localPieces a.1.toNat 6 = .ok () → s.localPieces (a.1.toNat + 0xC0) r.recs.length = .ok () →
      let v := s.dealVerdict r (s.taskNo s.turn.core)
      let u := a.2.warnRec a.1.toNat (6 + r.recs.length)
      exec (.deal o) s = .next ((if v = 0 then u.onConv fun c => c.accept r s.beat else u).writeDst o.d 1 v).advance) ∧
    ∀ (o : RForm), Issues s [(o.a, o.p), (o.b, o.q)] [] (some o.d) →
      let a := s.readSrc o.a o.p
      let b := a.2.readSrc o.b o.q
      let v := s.undealVerdict a.1 b.1 (s.taskNo s.turn.core)
      exec (.undeal o) s = .next ((if v = 0 then b.2.onConv fun c => c.endHand (bitsOf a.1 0 20) b.1.toNat s.beat else b.2).writeDst
        o.d 1 v).advance) ∧
  (∀ (o : UForm), Issues s [(o.a, o.p)] [] (some o.d) →
    let a := s.readSrc o.a o.p
    let g := s.groupAt (handleId (bitsOf a.1 0 20))
    bitsOf a.1 24 40 = 0 →
    exec (.hand o) s = .next (a.2.writeDst o.d 1
      (if g.st = .live ∧ g.inc.toNat = bitsOf a.1 0 20 % 256 ∧ g.owner = s.ownerOn s.turn.core then
        s.conv.handMask (bitsOf a.1 0 20) (bitsOf a.1 20 4) (s.beat / 64) else 0)).advance) ∧
  (∀ (o : RForm), Issues s [(o.a, o.p), (o.b, o.q)] [] (some o.d) →
    let a := s.readSrc o.a o.p
    let b := a.2.readSrc o.b o.q
    let f := bitsOf a.1 0 4
    let w := s.stationFlag (dieOf s.turn.core) f
    bitsOf a.1 5 59 = 0 → 0 ≤ (w.extractLsb' 32 32 - b.1.setWidth 32).toInt → w.getLsbD 7 = false →
    let t := b.2.onHere fun k => { k with cr := { k.cr with fflags := k.cr.fflags ||| w.setWidth 5 } }
    exec (.sfwait o) s = .next ((if a.1.getLsbD 4 then
      t.onDie (dieOf s.turn.core) fun d => { d with sflags := mset 0 d.sflags f (w &&& ~~~0xDF) } else t).writeDst o.d 1 w).advance) ∧
  ∀ (o : RForm), Issues s [(o.a, o.p), (o.b, o.q)] [] (some o.d) → chanField o.d = false → s.queueRoom true true = true →
    let a := s.readSrc o.a o.p
    let b := a.2.readSrc o.b o.q
    a.1.toNat < 192 →
    exec (.bemsg o) s = .next (b.2.commitC { s.cAccess (.scr a.1.toNat 0x400000) 0 (.bemsg b.1) o.d true true 9 with
      owner := s.ownerOn s.turn.core } false).2.advance

/-- With feature 2 and the circuit grant, ctab completes with minus 2 for bad fields, minus 1 while a commit is pending,
and else 0 with the table staged, and in warn mode the first invalid word of the record is counted; rcirc with minus 3
while a commit is pending, minus 2 with nothing staged, minus 1 for a rotation closer than two ahead, and else 0 with
the commit set; cgen with the port's generation, and bit 16 set where the pending commit advances it. (04_memory.md
R100, 15_ins_fabric_system.md R357, 15_ins_fabric_system.md R358, 15_ins_fabric_system.md R359, 07_circuits_cells.md
R162) -/
def Obligations.CircuitInstructionsAnswerTheirCodes : Prop :=
  ∀ s : State, s.feature 2 = true →
  (s.circGrant = true →
    (∀ (o : UForm) ls, Issues s [(o.a, o.p)] [] (some o.d) →
      let a := s.readSrc o.a o.p
      (s.blockCheck .load a.1.toNat 50).bind (noPeer a.1.toNat) = .ok ls → ls.findSome? s.pocFault = none →
      let t := s.tableOf ls
      let v : Word := if t.2 = false then BitVec.ofNat 64 (2 ^ 64 - 2) else if s.circ.commit.isSome then BitVec.ofNat 64 (2 ^ 64 - 1) else 0
      let r := a.2.warnPieces s.turn.core (ls.map fun l => (l, 64))
      exec (.ctab o) s = .next ((if v = 0 then r.onCirc fun c => { c with staged := some t.1 } else r).writeDst o.d 1 v).advance) ∧
    ∀ (o : UForm), Issues s [(o.a, o.p)] [] (some o.d) →
      let a := s.readSrc o.a o.p
      let k := a.1.toNat
      let v : Word := if s.circ.commit.isSome then BitVec.ofNat 64 (2 ^ 64 - 3) else if s.circ.staged = none then BitVec.ofNat 64 (2 ^ 64 - 2)
        else if k < s.circ.active.rotation s.beat + 2 then BitVec.ofNat 64 (2 ^ 64 - 1) else 0
      exec (.rcirc o) s = .next ((if v = 0 then a.2.onCirc fun c => c.setCommit k else a.2).writeDst o.d 1 v).advance) ∧
  ∀ (o : UForm), Issues s [(o.a, o.p)] [] (some o.d) →
    let a := s.readSrc o.a o.p
    a.1.toNat < 48 →
    exec (.cgen o) s = .next (a.2.writeDst o.d 1 (BitVec.ofNat 64 ((s.portAt a.1.toNat).gen + (match s.circ.commit with
      | some (t, _) => if advances s.circ.active t a.1.toNat then 2 ^ 16 else 0
      | none => 0)))).advance

/-- With feature 1, fdown completes by sending the descriptor block it read, tagged face-down, and fup by sending its
value block in a new epoch. With feature 3, lease completes with the number of registers lent, or a refusal; spill
completes by sending a register that is not lent to its slot, fill by fetching a slot of the spill area, with the
value of the lease's last spill to it where there is one, and unlease, once its spills have landed, by ending the
lease with the named lessor. (15_ins_fabric_system.md R360, 15_ins_fabric_system.md R362, 15_ins_fabric_system.md
R369, 15_ins_fabric_system.md R370, 15_ins_fabric_system.md R371, 02_execution.md R62, 02_execution.md R63) -/
def Obligations.CellAndLeaseInstructionsComplete : Prop :=
  ∀ s : State,
  (s.feature 1 = true → ∀ (o : RForm) l m, Issues s [(o.a, o.p), (o.b, o.q)] [] (some o.d) → chanField o.d = false →
    s.queueRoom true true = true →
    let a := s.readSrc o.a o.p
    let b := a.2.readSrc o.b o.q
    s.cellCheck a.1 = .ok l →
    (s.localBlock b.1.toNat = .ok m → cellDescOk (s.readBlk m) = true →
      exec (.fdown o) s = .next ((b.2.warn m 64).commitC
        (s.cAccess l a.1.toNat (.fdown ⟨(s.readBlk m).data, 0xF000⟩) o.d true true 9) false).2.advance) ∧
    (s.valueBlock b.1.toNat = .ok m →
      exec (.fup o) s = .next ((b.2.onCtl fun c => { c with epoch := c.epoch + 1 }).commitC
        { s.cAccess l a.1.toNat (.fup b.1.toNat (s.readBlk m)) o.d true true 9 with epoch := s.here.c.epoch + 1 } false).2.advance)) ∧
  (s.feature 3 = true →
    (∀ (o : RForm), Issues s [(o.a, o.p), (o.b, o.q)] [] (some o.d) →
      let a := s.readSrc o.a o.p
      let b := a.2.readSrc o.b o.q
      let r := b.2.leaseResult a.1 b.1
      exec (.lease o) s = .next (r.2.writeDst o.d 1 r.1).advance) ∧
    (∀ (o : VForm) k, Issues s [(o.a, o.p)] [] none →
      let a := s.readSrc o.a o.p
      let r := physV (s.here.eng .a).rb o.v.toNat
      s.here.leaseSlot a.1 o.s = some k → (s.here.cr.tcheck = true → s.here.vBusyC r = false) →
      s.here.pl.lent.contains r = false →
      (s.queueRoom false true = true → exec (.spill o) s = .next (a.2.commitC (s.cAccess (.scr s.turn.core 0) 0
        (.spill k (mget Vec.zero s.here.ve.v r)) 0 false true 9) false).2.advance) ∧
      let area := ((s.here.pl.lease.map Lease.area).getD 0) + 256 * k
      (s.queueRoom true false = true → exec (.fill o) s = .next (a.2.commitC
        { s.cAccess (.scr s.turn.core area) area (.fill k) 0 true false 9 with
          dst := 64 + r
          res := match s.slotValue s.turn.core k with
            | some v => .vec v
            | none => .none } false).2.advance)) ∧
    ∀ (o : OForm) l, Issues s [(o.a, o.p)] [] none →
      let a := s.readSrc o.a o.p
      s.here.pl.lease = some l → bitsOf a.1 2 62 = 0 → l.lessor % 4 = bitsOf a.1 0 2 → s.spillsOf s.turn.core = [] →
      exec (.unlease o) s = .next (a.2.endLease s.turn.core).advance ∧ (a.2.endLease s.turn.core).here.pl.lease = none)

/-- tok, not at the last step nor before another prefix, a loop or the mark, completes: its tokens wait for the
micro-order after it, whose turn is next on the same beat. rloop counts its level down, loading the count where the
level is not armed; while the count before was not zero the stream goes to its target and the level stays armed, else
it goes on disarmed; the rotating base of L, A and S falls by one modulo 40. The mark makes the stream done once its
micro-orders are complete and its pushes made. (01_machine.md R19, 01_machine.md R20, 01_machine.md R27,
10_encodings.md R232, 13_ins_vector.md R313, 13_ins_vector.md R314) -/
def Obligations.EngineControlWordsComplete : Prop :=
  (∀ (a b c : BitVec 6) s, s.eng.step ≠ 8191 → s.nextBars = false →
    let t := s.onEng fun g => { g with prefx := some (a, b, c), step := g.step + 1 }
    exec (.tok a b c) s = .next { t with turn := { t.turn with agenda := .stream t.turn.core t.turn.stream :: t.turn.agenda } }) ∧
  (∀ (t : BitVec 13) (lev : Bool) (n : BitVec 12) s,
    let g := s.eng
    let armed := if lev then g.arm1 else g.arm0
    let lc := if armed then (if lev then g.lc1 else g.lc0) else n.toNat
    let rb := if s.turn.stream = .m ∨ s.turn.stream = .x then g.rb else (g.rb + 39) % 40
    let g1 : Eng := if lev then { g with lc1 := lc - 1, arm1 := decide (0 < lc), rb := rb }
      else { g with lc0 := lc - 1, arm0 := decide (0 < lc), rb := rb }
    let u := s.onEng fun _ => g1
    exec (.rloop t lev n) s =
      if 0 < lc then .next (u.onEng fun g => { g with state := .running, step := t, ready := s.beat + 1 }) else .next u.stepOn) ∧
  ∀ s : State, s.here.ordersOut s.turn.stream = false → s.eng.pushing = [] →
    exec .tableEnd s = .next (s.onEng fun g => { g with state := .done })

/-- With their tokens met and their own conditions good, lglob and lbc issue a job that fills their vector register from
256 or 64 bytes of their base, lnest one that fills a nest set from 32 bytes, sglob one that writes its register to
256 bytes of its base; lport and sport bind their port to a walk of the nest set from its first vector. The stream
goes on to its next step. (13_ins_vector.md R287, 13_ins_vector.md R289, 13_ins_vector.md R291, 13_ins_vector.md R292,
13_ins_vector.md R295, 13_ins_vector.md R296, 01_machine.md R31) -/
def Obligations.LoadAndStoreMicroOrdersComplete : Prop :=
  ∀ s : State,
  (∀ o : GForm, EngineReady s o.k 0 → (s.popped o.k).lentAsk ((s.popped o.k).physHere o.v) = .ok →
    (s.readAsk o.b.toNat (64 * o.o.toNat) 256 = .ok →
      exec (.lglob o) s = .next ((taken s o.k).readIssue o.k o.b.toNat (64 * o.o.toNat) 4
        (.vload ((taken s o.k).physHere o.v) false [])).stepOn) ∧
    (s.readAsk o.b.toNat (64 * o.o.toNat) 64 = .ok →
      exec (.lbc o) s = .next ((taken s o.k).readIssue o.k o.b.toNat (64 * o.o.toNat) 1
        (.vload ((taken s o.k).physHere o.v) true [])).stepOn) ∧
    ∀ va l, s.engReach s.turn.core .s (s.baseHere o.b.toNat) true (64 * o.o.toNat) 256 0x2C = .ok (va, l) →
      ∃ b, (taken s o.k).baseHere o.b.toNat = b ∧
        let r := (taken s o.k).aReg ((taken s o.k).physHere o.v)
        exec (.sglob o) s = .next (r.2.writeVec s.turn.core (fun h s => s.job o.k 0 (s.beat + 1) [b.uid] h .plain) va b
          (taken s o.k).eng.step r.1).stepOn) ∧
  (∀ (n b : BitVec 4) (o : BitVec 14) (k : BitVec 4), EngineReady s k 0 → s.readAsk b.toNat (32 * o.toNat) 32 = .ok →
    exec (.lnest n b o k) s = .next ((taken s k).readIssue k b.toNat (32 * o.toNat / 64 * 64) 1
      (.nload n.toNat (32 * (o.toNat % 2)) none)).stepOn) ∧
  (∀ (p : BitVec 3) (n : BitVec 4) (c : Bool) (k : BitVec 4), EngineReady s k 0 →
    let q := s.here.inPort p.toNat
    s.bindAsk (q.done && q.fifo == [] && q.pos == q.asked && q.cursor == 0) n.toNat false = .ok →
    ∃ t : State, exec (.lport p n c k) s = .next t.stepOn ∧
      t.here.inPort p.toNat = ⟨true, c, mget 0 s.here.ve.nests n.toNat, 0, 0, [], s.eng.step, 0, [],
        (s.baseHere (nestBase (mget 0 s.here.ve.nests n.toNat))).uid, []⟩ ∧ t.mem = s.mem) ∧
  ∀ (p : BitVec 3) (n : BitVec 4) (k : BitVec 4), EngineReady s k 0 →
    let q := s.here.outPort p.toNat
    s.bindAsk (!q.bound || (decide (nestCount q.nest ≤ q.pos) && !(s.here.ve.jobs.any fun j => match j.work with
      | .drain i _ => i == p.toNat
      | _ => false))) n.toNat true = .ok →
    ∃ t : State, exec (.sport p n k) s = .next t.stepOn ∧
      t.here.outPort p.toNat = { q with
        bound := true, nest := mget 0 s.here.ve.nests n.toNat, pushed := q.fifo.length, pos := 0, step := s.eng.step
        base := (s.baseHere (nestBase (mget 0 s.here.ve.nests n.toNat))).uid } ∧ t.mem = s.mem

/-- Every vadd, vsub, vmul, vfma, vfms, vmin, vmax, vclamp, vand, vor, vxor, vandn, vshl, vshr, vsra, vcmp, vsel, vperm,
vbc, vmov, vabs, vneg, vsum, vscan, vrcp, vrsq, vex2, vlg2, vcvt, vqmax, vqcvt and vdq: with its tokens met, its own
pops made, its operands and destination ready and its guard holding, it takes its operands, and a job is issued that
writes its result to d, or pushes it there, with its other writes and its flags, after its latency. With a guard that
does not hold its ports are popped and nothing is to be written. (13_ins_vector.md R285, 13_ins_vector.md R286,
13_ins_vector.md R287, 13_ins_vector.md R297, 13_ins_vector.md R298, 13_ins_vector.md R300, 13_ins_vector.md R302,
13_ins_vector.md R304, 13_ins_vector.md R305, 13_ins_vector.md R307, 13_ins_vector.md R310, 13_ins_vector.md R311) -/
def Obligations.VectorMicroOrdersComplete : Prop :=
  ∀ (i : Instr) (f : VecForm) s, vectorForm s i = some f → EngineReady s f.k 0 →
    (s.popped f.k).aAsk f.d f.m f.g f.sense f.srcs f.use f.gw f.run = .ok →
    let u := taken s f.k
    ((u.guardOn f.g f.sense).1 = true →
      let v := f.inputs u
      let t := v.2.2.2
      ∀ x fl ws, f.run v.1 v.2.1 v.2.2.1 = .ok (x, fl, ws) →
      exec i s = .next (t.addJob { t.job f.k 0 (s.beat + f.lat) [] 0 (.arith (t.dstWrite f.d f.m x :: ws)) with
        flags := fl }).stepOn) ∧
    ((u.guardOn f.g f.sense).1 = false →
      let t := ((u.guardOn f.g f.sense).2.takeSrcs (f.srcs.filter fun c => 56 ≤ c.1)).2
      exec i s = .next (t.addJob (t.job f.k 0 (s.beat + f.lat) [] 0 (.arith []))).stepOn)

/-- For the suffixes i8, i32, n32, f32 and b16 and any operation on two lanes: where the result of a lane-wise
micro-order is made, its lane m is the operation on lane m of a and lane m of b, modulo the lane, the flags are those
of all lanes together, and all four quarters carry the tag of the suffix. (01_machine.md R26, 03_numbers.md R71,
13_ins_vector.md R297) -/
def Obligations.LanesAreComputedOneByOne : Prop :=
  ∀ (f : Sfx), f ∈ [Sfx.i8, Sfx.i32, Sfx.n32, Sfx.f32, Sfx.b16] → ∀ (op : Nat → Nat → Nat × Flags) (a b : Vec),
    ∃ x fl, zipLanes f op a b = .ok (x, fl, []) ∧
    (∀ m, m < 2048 / f.w →
      bitsOf x.data (f.w * m) f.w = (op (bitsOf a.data (f.w * m) f.w) (bitsOf b.data (f.w * m) f.w)).1 % 2 ^ f.w) ∧
    (∀ m, m < 2048 / f.w → (op (bitsOf a.data (f.w * m) f.w) (bitsOf b.data (f.w * m) f.w)).2 &&& ~~~fl = 0) ∧
    ∀ q, q < 4 → (x.quarter q).tag = f.tag

/-- vsel gives (a and d) or (b and not d) of each lane. vbc gives its lane of a in all 64 lanes; a permutation gives in
lane m the lane of a that lane m of b names modulo the lane count. gop, in checked mode with none of its guards in a
shadow, completes with a job of latency 1 that writes and, or, and-not, or the first of the guards it names through
the rotating base, g15 reading true; a write of g15 is discarded. (13_ins_vector.md R301, 13_ins_vector.md R302,
13_ins_vector.md R312, 01_machine.md R28) -/
def Obligations.SelectionPermutationAndGuards : Prop :=
  (∀ (o : AForm) (a b d : Vec) s f, vectorForm s (.vsel o) = some f →
    ∃ x, f.run [⟨a, 0, 0⟩, ⟨b, 0, 0⟩, ⟨d, 0, 0⟩] Qs.rest 0 = .ok (x, 0, []) ∧ x.data = (a.data &&& d.data) ||| (b.data &&& ~~~d.data)) ∧
  (∀ (o : AUForm) (l : BitVec 6) (a : Vec) s f, vectorForm s (.vbc o l) = some f →
    ∃ x, f.run [⟨a, 0, 0⟩] Qs.rest 0 = .ok (x, 0, []) ∧
      ∀ m, m < 64 → bitsOf x.data (32 * m) 32 = bitsOf a.data (32 * l.toNat) 32) ∧
  (∀ (o : AForm) (a b : Vec) s, 
    (∀ f, vectorForm s (.vpermI8 o) = some f → ∃ x, f.run [⟨a, 0, 0⟩, ⟨b, 0, 0⟩] Qs.rest 0 = .ok (x, 0, []) ∧
      ∀ m, m < 256 → bitsOf x.data (8 * m) 8 = bitsOf a.data (8 * (bitsOf b.data (8 * m) 8)) 8) ∧
    (∀ f, vectorForm s (.vpermI32 o) = some f → ∃ x, f.run [⟨a, 0, 0⟩, ⟨b, 0, 0⟩] Qs.rest 0 = .ok (x, 0, []) ∧
      ∀ m, m < 64 → bitsOf x.data (32 * m) 32 = bitsOf a.data (32 * (bitsOf b.data (32 * m) 32 % 64)) 32)) ∧
  (∀ (op : BitVec 2) (w x y k : BitVec 4) s, EngineReady s k 0 →
    let u := taken s k
    let g (v : BitVec 4) : Nat := physG s.eng.rb v.toNat
    (s.here.cr.tcheck = true → s.here.gBusy (g w) = false ∧ s.here.gBusy (g x) = false ∧ (op ≠ 3 → s.here.gBusy (g y) = false)) →
    let a := u.aGuard (g x)
    let b := if op = 3 then (false, a.2) else a.2.aGuard (g y)
    let r := match op.toNat with
      | 0 => a.1 && b.1
      | 1 => a.1 || b.1
      | 2 => a.1 && !b.1
      | _ => a.1
    exec (.gop op w x y k) s = .next (b.2.addJob (b.2.job k 0 (s.beat + 1) [] 0 (.arith [.g (g w) r]))).stepOn) ∧
  ∀ (c : Core) (b : Bool) (s : State), c.aWrite (.g 15 b) = c ∧ s.aGuard 15 = (true, s)

/-- mmac whose stamp has come and whose checks pass issues a job of its rows, due 24 beats after its last row enters,
occupies the array, takes the rows of this beat, and M goes on unless a row that is missing stops it; before its stamp
it waits, M running. With its tokens met besides: mclr of a tile that nothing uses issues a clear due two beats on;
mret of a tile whose writers are done, with the converter free and a good walk, issues a retirement due after 256
beats and keeps the converter as long; mwsel selects a tile, mstamp.abs takes the base from M's feed side, mstamp.add
raises it, and mnop issues a job without effect. (01_machine.md R20, 08_timing.md R189, 08_timing.md R190,
14_ins_matrix_copy.md R316, 14_ins_matrix_copy.md R317, 14_ins_matrix_copy.md R319, 14_ins_matrix_copy.md R320,
14_ins_matrix_copy.md R321, 14_ins_matrix_copy.md R322, 14_ins_matrix_copy.md R324) -/
def Obligations.MatrixMicroOrdersComplete : Prop :=
  ∀ s : State,
  (∀ (e : BitVec 6) (p t : BitVec 3) (r : BitVec 8) (o : BitVec 6) (j : MacJob),
    (s.beat < s.macStamp o → exec (.mmac e p t r o) s = .next ((s.onEng fun g => { g with state := .running }).onHere fun c =>
      c.onMat fun m => { m with reached := some (s.here.mx.reached.getD s.beat) })) ∧
    (s.macStamp o ≤ s.beat →
    let u := s.onHere fun c => c.onMat fun m => { m with reached := none }
    u.macStart e p t r (s.macStamp o) (s.here.mx.reached.getD s.beat) = .ok j →
    let v := (u.onHere fun c => c.takePrefix .m).addJob
      { (u.onHere fun c => c.takePrefix .m).job 0 e.toNat (s.macStamp o + rowBeat j.mode (j.rows - 1) + 24) [] 0 (.mmac j) with
        ix := s.here.c.tlIx }
    ∃ w, w = (v.onHere fun c => { c.onMat fun m => { m with occEnd := s.macStamp o + occupancy j.mode j.rows } with
        c := { c.c with tlIx := c.c.tlIx + 1 } }) ∧
      let y := w.enterRows s.turn.core s.nextId 2
      exec (.mmac e p t r o) s = .next (if y.eng.state = .stopped then y else y.stepOn))) ∧
  (∀ (e : BitVec 6) (t : BitVec 3), EngineReady s 0 e.toNat → s.here.tileBusy t.toNat true = false →
    exec (.mclr e t) s = .next ((taken s 0).addJob ((taken s 0).job 0 e.toNat (s.beat + 2) [] 0 (.mclr t.toNat))).stepOn) ∧
  (∀ (e : BitVec 6) (n : BitVec 4) (t f : BitVec 3) (m : BitVec 2) (c : Bool), EngineReady s 0 e.toNat →
    s.here.tileBusy t.toNat false = false → s.here.mx.convBusy ≤ s.beat →
    let j := mget 0 s.here.ve.nests n.toNat
    s.retCheck j f.toNat = none →
    let u := taken s 0
    let b := u.baseHere (nestBase j)
    let w := u.job 0 e.toNat (s.beat + 256) [b.uid] 0 (.mret t.toNat j f.toNat m.toNat c b)
    let v := (u.addJob w).retRow s.turn.core w t.toNat j f.toNat m.toNat b 0
    exec (.mret e n t f m c) s = .next (v.onHere fun k => k.onMat fun x =>
      { x with convBusy := v.beat + 256, gate := x.gate || (v.canPreempt v.turn.core && v.rdepth v.turn.core != 0) }).stepOn) ∧
  (∀ (e : BitVec 6) (w : BitVec 4), EngineReady s 0 e.toNat →
    exec (.mwsel e w) s = .next (((taken s 0).onHere fun c =>
      c.onMat fun m => { m with sel := some (w.toNat, s.beat) }).tokenUp e.toNat).stepOn) ∧
  (∀ (e : BitVec 6) v l, EngineReady s 0 e.toNat → mget [] s.here.ch.feeds 3 = v :: l →
    exec (.mstampAbs e) s = .next (((taken s 0).onHere fun c =>
      { c with ch := { c.ch with feeds := mset [] c.ch.feeds 3 l }, tr := { c.tr with mbase := v } }).tokenUp e.toNat).stepOn) ∧
  (∀ (e : BitVec 6) (b : BitVec 19), EngineReady s 0 e.toNat →
    exec (.mstampAdd e b) s = .next (((taken s 0).onHere fun c =>
      { c with tr := { c.tr with mbase := c.tr.mbase + b.setWidth 64 } }).tokenUp e.toNat).stepOn) ∧
  ∀ e : BitVec 6, EngineReady s 0 e.toNat →
    exec (.mnop e) s = .next ((taken s 0).addJob ((taken s 0).job 0 e.toNat s.beat [] 0 .plain)).stepOn

/-- With its tokens met and its descriptor, bases, rights, extents, port and buffers good, each X micro-order issues: X
has counted the copy, and holds a job of its kind with the copied descriptor and the source and destination of its
fields, at the first block of its walk. xcopy, xgat, xsct and xred change no port, buffer or tile at issue. xwload
marks its tile loading with the range of its fields; xwenq and xsend stand, unsent, in the queue of their port for its
peer, with the bytes of their payload; an xcoll that keeps installs its buffer, with its handle, sequence number and
chunks and no operand yet. (14_ins_matrix_copy.md R328, 14_ins_matrix_copy.md R329, 14_ins_matrix_copy.md R330,
14_ins_matrix_copy.md R334, 14_ins_matrix_copy.md R335, 14_ins_matrix_copy.md R336, 14_ins_matrix_copy.md R340,
14_ins_matrix_copy.md R341, 14_ins_matrix_copy.md R342, 14_ins_matrix_copy.md R343, 14_ins_matrix_copy.md R344) -/
def Obligations.CopyMicroOrdersComplete : Prop :=
  ∀ (i : Instr) (kind : Nat) (o : XOForm), (i, kind) ∈ [(Instr.xcopy o, 1), (.xgat o, 2), (.xsct o, 3), (.xwload o, 4), (.xred o, 5),
      (.xwenq o, 6), (.xsend o, 7), (.xcoll o, 8)] →
    ∀ s d, EngineReady s 0 o.e.toNat → (s.popped 0).xAsk kind o = .ok → (taken s 0).xDesc o.i.toNat = .ok d →
    let t := (taken s 0).xStart kind o
    let q := s.baseHere o.q.toNat
    exec i s = .next t.stepOn ∧ t.here.c.cpIx = s.here.c.cpIx + 1 ∧
    (∃ j x, j ∈ t.here.ve.jobs ∧ j.work = .copy x ∧ j.id = s.nextId ∧ j.tok = o.e.toNat ∧ x.kind = kind ∧ x.desc = d ∧ x.pos = 0 ∧
      x.total = dTotal d ∧ x.src = s.baseHere o.p.toNat ∧ x.dst = q) ∧
    (kind ∈ [1, 2, 3, 5] → t.circ = s.circ ∧ t.coll = s.coll ∧ t.here.mx = s.here.mx) ∧
    (kind = 4 → ∃ w, mget WTile.rest t.here.mx.wtiles o.q.toNat = w ∧ w.state = .loading ∧ w.start = dStart d ∧ w.len = dRun d) ∧
    (kind = 6 ∨ kind = 7 → ∀ g w, q.peer = some (g, w) → ∃ z ∈ mget [] (t.portAt q.port).queues g,
      z.job = s.nextId ∧ z.core = s.turn.core ∧ z.sent = 0 ∧ z.bytes = if kind = 6 then dLen d else 64 * dTotal d) ∧
    (kind = 8 → dKeep d = true → ∃ b, mget none t.coll.bufs (dStage d) = some b ∧ b.handle = bitsOf (dW d 4) 12 20 ∧
      b.seq = bitsOf (dW d 4) 32 32 ∧ b.count = dChunks d ∧ b.ops = [])

/-- For every A micro-order: where its prefix, its pop bits or its token are not met, or its own conditions, its own pops
made, say to wait, the stream stands stalled and nothing else has changed; where its conditions find a fault, the
stream stops at that step, keeps the fault, its cause and the micro-order's word for C, and no register, flag or byte
of memory changes. That prefix, pops and token room come before the micro-order's own checks, so that a fault is found
only then, is the model's choice (log 92). (01_machine.md R20, 01_machine.md R22, 13_ins_vector.md R285,
20_drv_traps.md R443) -/
def Obligations.MicroOrdersWaitOrStopTheirStream : Prop :=
  ∀ (i : Instr) (f : VecForm) s, vectorForm s i = some f →
    ((s.here.prefixMet s.eng = false ∨ s.here.popsMet s.turn.stream f.k = false) → exec i s = .next (held s)) ∧
    (EngineReady s f.k 0 →
      ((s.popped f.k).aAsk f.d f.m f.g f.sense f.srcs f.use f.gw f.run = .stall → exec i s = .next (held s)) ∧
      ∀ x, (s.popped f.k).aAsk f.d f.m f.g f.sense f.srcs f.use f.gw f.run = .fault x → s.eng.state ≠ .stopped →
        ∃ t, exec i s = .next t ∧ t.eng = { s.eng with
            state := .stopped, fault := some ⟨x.cause, s.eng.step, s.eng.step, BitVec.ofNat 64 x.addr, s.engWord.setWidth 64, BitVec.ofNat 64 x.walk, s.beat⟩ } ∧
          t.here.ve.v = s.here.ve.v ∧ t.here.ve.g = s.here.ve.g ∧ t.here.c = s.here.c ∧ t.here.cr = s.here.cr ∧
          SameRest s t)

/-- Where an A micro-order issues, no vector register, guard, scalar register, flag, control or handler register, tile,
other core or byte of memory has changed; the jobs of the core are those of before and one more, of stream A.
(13_ins_vector.md R287, 08_timing.md R180, 08_timing.md R182) -/
def Obligations.ArithmeticMicroOrdersTouchOnlyTheirJob : Prop :=
  ∀ (i : Instr) (f : VecForm) s, vectorForm s i = some f → s.turn.stream = .a → s.eng.step ≠ 8191 → EngineReady s f.k 0 →
    (s.popped f.k).aAsk f.d f.m f.g f.sense f.srcs f.use f.gw f.run = .ok →
    ∃ t j, exec i s = .next t ∧ t.here.ve.jobs = s.here.ve.jobs ++ [j] ∧ j.eng = .a ∧ j.due = s.beat + f.lat ∧
      t.here.ve.v = s.here.ve.v ∧ t.here.ve.g = s.here.ve.g ∧ t.here.ve.qs = s.here.ve.qs ∧ t.here.ve.nests = s.here.ve.nests ∧
      t.here.ve.bases = s.here.ve.bases ∧ t.here.c = s.here.c ∧ t.here.cr = s.here.cr ∧ t.here.tr = s.here.tr ∧ t.here.ch = s.here.ch ∧
      t.here.mx = s.here.mx ∧ t.here.pl = s.here.pl ∧ (∀ m, m ≠ s.turn.core → t.coreAt m = s.coreAt m) ∧
      (∀ a, t.mem.byte a = s.mem.byte a) ∧ t.mem = s.mem ∧ t.dies = s.dies ∧ t.accs = s.accs ∧ t.tasks = s.tasks

/-- Power-on leaves no core, task, owner or stored byte, beat 0, boot state 1 without error, go clear, the bundle in
flash, the committed version as it was, and M0 extended from zero by the ROM digest, the two fused key hashes and the
fused version. A function-level reset leaves the same, but keeps the beat and the flash. In state 1 a bundle that
passes the checks gives state 2 and its version, and extends M1 by its header; one that fails them gives state 8 with
the code of its first failure, the measurements unchanged. In state 2 training that succeeds makes the bytes, tags and
keys of HBM zero, zero and none, and gives state 3; one that fails gives state 8, error 7, memory unchanged. In state
3, go with an accepted word of known features gives state 4, sets go and extends M2 by that word; another word is
cleared and refused, in state 3. The bytes and widths by which M0 to M3 are extended, what a function-level reset
keeps, and the zero storage after power-on are the model's choice (logs 31, 32, 1, 8). (19_drv_launch.md R403,
19_drv_launch.md R404, 19_drv_launch.md R405, 19_drv_launch.md R406, 19_drv_launch.md R412, 01_machine.md R37) -/
def Obligations.BootRunsToOperation : Prop :=
  let ext (m : BitVec 384) (d : List Byte) : BitVec 384 := Config.sha384 (bytesOf m ++ d)
  ∀ s : State,
  let started (t : State) : Prop := t.cores = [] ∧ t.tasks = [] ∧ t.owners = [] ∧ (∀ a, t.mem.byte a = 0) ∧ t.boot.state = 1 ∧
    t.boot.error = 0 ∧ t.boot.go = false ∧ t.boot.committed = s.boot.committed ∧
    mget 0 t.boot.meas 0 = ext (ext (ext (ext 0 (bytesOf Config.romDigest)) (bytesOf (Config.fusedKeyHash 0)))
      (bytesOf (Config.fusedKeyHash 1))) (leBytes (max Config.fusedVersion.toNat s.boot.committed) 4)
  (∀ b : Bundle, ∃ t : State, exec (.powerOn b) s = .next t ∧ started t ∧ t.beat = 0 ∧ t.boot.flash = some b) ∧
  (∃ t : State, exec .functionLevelReset s = .next t ∧ started t ∧ t.beat = s.beat ∧ t.boot.flash = s.boot.flash) ∧
  (∀ b, s.boot.state = 1 → s.boot.flash = some b → ∃ t : State, exec .bundleVerified s = .next t ∧
    (bundleCode s.fused b = 0 → t.boot.state = 2 ∧ t.boot.error = 0 ∧ t.boot.svn = b.svn.toNat ∧
      mget 0 t.boot.meas 1 = ext (mget 0 s.boot.meas 1) b.head) ∧
    (bundleCode s.fused b ≠ 0 → t.boot.state = 8 ∧ t.boot.error = bundleCode s.fused b ∧ t.boot.meas = s.boot.meas)) ∧
  (s.boot.state = 2 → (∃ t : State, exec (.linkHbmTrainingDone true) s = .next t ∧ t.boot.state = 3 ∧ t.boot.error = 0 ∧
      (∀ a, a < 2 ^ 40 → t.mem.byte a = 0) ∧ (∀ a, 2 ^ 40 ≤ a → a < 2 ^ 43 → t.mem.byte a = s.mem.byte a) ∧
      ∀ b, b < 2 ^ 34 → mget 0 t.mem.tags b = 0 ∧ t.mem.keyAt b = none) ∧
    ∃ t : State, exec (.linkHbmTrainingDone false) s = .next t ∧ t.boot.state = 8 ∧ t.boot.error = 7 ∧ t.mem = s.mem) ∧
  (s.boot.state = 3 → ∃ t : State, exec .featureGo s = .next t ∧
    (s.boot.accepted &&& ~~~0x1FF#64 = 0 → t.boot.state = 4 ∧ t.boot.go = true ∧ t.boot.refused = false ∧
      mget 0 t.boot.meas 2 = ext (mget 0 s.boot.meas 2) (bytesOf s.boot.accepted)) ∧
    (s.boot.accepted &&& ~~~0x1FF#64 ≠ 0 → t.boot.state = 3 ∧ t.boot.go = s.boot.go ∧
      t.boot.refused = true ∧ t.boot.accepted = 0))

/-- Outside recovery, with no command running: command 1 ends with the code of its image's checks; with code 0 the image
is registered and M3 extended by its digest, handle and mask, with another nothing is. Command 2 ends with 5 for a
handle that an entry or a cell names, else removes it. Command 3 clears the valid bit of a range entry, or of a page
entry that can be read, and runs on until no pin is left. Command 4 copies rows, one row as it is, and ends with 6 at
a row that cannot be read. Command 5 ends the hand of a live handle at a rotation at least two ahead. Command 6 fuses
a running version above the fused one and at most 64, and ends with 1 or 2 otherwise. Of an owner that is not live the
last key word makes the key valid, word by word; octl sets the grants and live where its rule allows. A handler image
that is allowed fills the handler memory of a die without tasks. Good staged tables become active with a new
generation; bad ones give 2, and a commit while the last one drains 1. They are drained once every access from before
is done. A write of dsel gives the dirty bits of the 64 rows it names and clears them. In recovery none of these
writes is served. The order of the image codes and the result for an unknown handle, what an unmap out of range does,
which cells name an image, the width of an undeal's code, the bytes of M3, and what a table commit moves are the
model's choice (logs 86, 85, 87, 88, 31, 74). (19_drv_launch.md R405, 19_drv_launch.md R411, 19_drv_launch.md R415,
19_drv_launch.md R422, 19_drv_launch.md R423, 19_drv_launch.md R424, 19_drv_launch.md R428, 19_drv_launch.md R431,
19_drv_launch.md R432, 20_drv_traps.md R438, 21_fleet.md R486) -/
def Obligations.DriverCommandsComplete : Prop :=
  let ext (m : BitVec 384) (d : List Byte) : BitVec 384 := Config.sha384 (bytesOf m ++ d)
  ∀ s : State,
  (s.boot.state = 8 →
    (∀ i ∈ [Instr.registerImage, .unregisterImage, .unmap, .relocate, .undealCommand, .commitSvn],
      exec i s = .next (s.noService 0x2000)) ∧
    ∀ o d h w, exec (.keyInstall o w) s = .next (s.noService (ownerOff o 0x78)) ∧
      exec (.octlWrite o w) s = .next (s.noService (ownerOff o 0)) ∧
      exec (.hvecWrite d w) s = .next (s.noService (0x100000 + 0x20000 * d + 0xA0)) ∧
      exec .tableRewriteCommit s = .next (s.noService 0x10000) ∧
      exec (.dirtySnapshot h w) s = .next (s.noService (0x400000 + 0x20000 * h + 8))) ∧
  (s.boot.state ≠ 8 → s.cmd.busy = false →
    (let h := (s.arg 0).toNat
     let p := (s.arg 2).toNat
     let n := (s.arg 3).toNat
     ∃ t : State, exec .registerImage s = .next t ∧ t.cmd.busy = false ∧ t.cmd.result = s.imageCode h p n ∧
      (t.cmd.result = 0 → mget none t.images h = some ⟨(s.arg 1).setWidth 16, p, n⟩ ∧
        mget 0 t.boot.meas 3 = ext (ext (ext (mget 0 s.boot.meas 3) (bytesOf (Config.sha384 (s.hbmBytes p n)))) (leBytes h 4))
          (bytesOf ((s.arg 1).setWidth 16 : BitVec 16))) ∧
      (t.cmd.result ≠ 0 → t.images = s.images ∧ t.boot.meas = s.boot.meas)) ∧
    (∃ t : State, exec .unregisterImage s = .next t ∧
      (s.entryNames (s.arg 0).toNat = true ∨ s.cellNames (s.arg 0).toNat = true → t.cmd.result = 5 ∧ t.images = s.images) ∧
      (s.entryNames (s.arg 0).toNat = false → s.cellNames (s.arg 0).toNat = false →
        mget none t.images (s.arg 0).toNat = none ∧ t.cmd.result = 0)) ∧
    ((s.arg 0).toNat < 16 →
      (s.arg 1 = 1 → (s.arg 2).toNat < 64 → ∃ t : State, exec .unmap s = .next t ∧
        t.cmd.busy = true ∧ t.cmd.run = 3 ∧ (mget RangeE.rest (t.ownerAt (s.arg 0).toNat).ranges (s.arg 2).toNat).ctl =
          (mget RangeE.rest (s.ownerAt (s.arg 0).toNat).ranges (s.arg 2).toNat).ctl &&& ~~~1#64) ∧
      ∀ c, let e := (s.arg 2).toNat
        s.arg 1 = 0 → e + 16 ≤ 2 ^ 40 → s.hbmWord (e + 8) = some c →
        let u := (s.onMem fun m => m.patchBlk (s.keyOf 0) ((e + 8) / 64) ((e + 8) % 64) 8 (c &&& ~~~1#64).toNat).touch (e / 64)
        exec .unmap s = .next { u with cmd := { u.cmd with busy := true, run := 3 } }) ∧
    (let a := rowArg (s.arg 0)
     let b := rowArg (s.arg 1)
     (∀ u, s.copyRows a.1 a.2 b.1 b.2 (min 512 (s.arg 2).toNat) = (u, none) → exec .relocate s = .next (u.cmdDone 0)) ∧
     (∀ u r, s.copyRows a.1 a.2 b.1 b.2 (min 512 (s.arg 2).toNat) = (u, some r) →
       ∃ t : State, exec .relocate s = .next t ∧ t.cmd.result = 6 ∧ t.mem = u.mem) ∧
     (s.arg 2 = 1 → (s.rowAt a.1 a.2).bad = [] →
       exec .relocate s = .next ((s.setRow b.1 b.2 (s.rowAt a.1 a.2)).cmdDone 0))) ∧
    (let h := bitsOf (s.arg 0) 0 20
     let n := (s.arg 1).toNat
     bitsOf (s.arg 0) 20 44 = 0 → s.handleLive h = true → s.conv.holdsHand h n = true → s.beat / 64 + 2 ≤ n →
      exec .undealCommand s = .next ((s.onConv fun c => c.endHand h n s.beat).cmdDone 0)) ∧
    (∃ t : State, exec .commitSvn s = .next t ∧ (s.boot.svn ≤ s.fused → t.cmd.result = 1 ∧ t.boot = s.boot) ∧
      (s.fused < s.boot.svn → (64 < s.boot.svn → t.cmd.result = 2 ∧ t.boot = s.boot) ∧
        (s.boot.svn ≤ 64 → t.cmd.result = 0 ∧ t.fused = s.boot.svn)))) ∧
  (s.cmd.busy = true → s.cmd.run = 3 → s.unmapPins (s.arg 0).toNat (s.arg 1).toNat (s.arg 2).toNat = 0 →
    ∃ t : State, exec .unmapPinsDropped s = .next t ∧ t.cmd.busy = false ∧ t.cmd.result = 0) ∧
  (∀ o w, s.boot.state ≠ 8 → o < 16 → (s.ownerAt o).live = false → ∃ t : State, exec (.keyInstall o w) s = .next t ∧
    (t.ownerAt o).keyvalid = true ∧ ∀ i, i < 8 →
      (t.ownerAt o).key.extractLsb' (64 * i) 64 = if i = 7 then w else mget 0 (s.ownerAt o).keyBuf i) ∧
  (∀ o w, s.boot.state ≠ 8 → o < 16 → (w.getLsbD 1 = true → (s.ownerAt o).keyvalid = true) →
    (w.getLsbD 1 = false → (s.ownerAt o).live = true → s.ownerBusy o = false) → ∃ t : State, exec (.octlWrite o w) s = .next t ∧
      (t.ownerAt o).circ = w.getLsbD 3 ∧ (t.ownerAt o).conv = w.getLsbD 2 ∧ (t.ownerAt o).live = w.getLsbD 1) ∧
  (∀ d w i, s.boot.state ≠ 8 → (∀ k, k < 24 → (s.coreAt (24 * d + k)).pl.task = none) → s.handlerOk (bitsOf w 0 32) = true →
    mget none s.images (bitsOf w 0 32) = some i → ∃ t : State, exec (.hvecWrite d w) s = .next t ∧
      (t.dieAt d).hvec.toNat = bitsOf w 0 32 ∧ (t.dieAt d).hmem = s.imgWords (i.addr + 64) (s.imgHead i.addr).nwords) ∧
  (s.boot.state ≠ 8 → ∃ t : State, exec .tableRewriteCommit s = .next t ∧
    (s.placing.draining = true → t.placing = { s.placing with result := 1 }) ∧
    (s.placing.draining = false →
      (s.placing.stagedOk = false → t.placing = { s.placing with result := 2 }) ∧
      (s.placing.stagedOk = true → t.placing.regions = s.placing.stagedRegions ∧
        t.placing.modes = s.placing.stagedModes.map (fun e => (e.1, e.2.toNat)) ∧
        t.placing.active = (s.placing.active + 1) % 65536 ∧ t.placing.result = 0 ∧ t.placing.draining = true))) ∧
  (s.placing.draining = true → (∀ id ∈ s.placing.before, ∀ a, s.accAt id = some a → a.done = true) →
    ∃ t : State, exec .tableRewriteDrained s = .next t ∧ t.placing.drained = s.placing.active ∧ t.placing.draining = false) ∧
  ∀ h w, s.boot.state ≠ 8 → bitsOf w 13 51 = 0 → ∃ t : State, exec (.dirtySnapshot h w) s = .next t ∧ (∀ a, t.mem.byte a = s.mem.byte a) ∧
    ∀ b, b < 64 → let g := rowGran s.placing h (64 * bitsOf w 0 13 + b)
      (mget 0 t.mem.dsnap h).getLsbD b = mget false s.mem.dirty g ∧ mget false t.mem.dirty g = false

/-- Outside recovery, with requests numbered as they come: a read of an owner register is answered with its 8 bytes. A
read of memory whose parts have places sets out as a read of each part's block under the owner, and its request waits
for them; an AtomicOp likewise for its one operation. Once the last part of a request is back, its answer is what the
parts brought, or no bytes where one failed. A write of memory sets out as a posted write of each part. A push that
waits for no earlier write joins a mailbox in use; a ninth word is dropped and counted; in launch mode the second word
of a record takes both away and gives the code of the record's outcome; a push behind an earlier write waits. A post
port offers its buffer for the owner that is written and gives the outcome; on a full beat the post waits. A register
write sets the argument, the accepted word, the reserve or the word of the post buffer that it names, and a word of an
owner context is written as by a host write. That window posts beyond four on a beat wait, the numbers of requests and
replies, that a host request is performed where it arrives, and the tags of host writes are the model's choice (logs
4, 164, 80, 30, 160). (04_memory.md R114, 05_ordering.md R132, 19_drv_launch.md R408, 19_drv_launch.md R409,
19_drv_launch.md R410, 19_drv_launch.md R411, 19_drv_launch.md R414, 19_drv_launch.md R425, 19_drv_launch.md R426,
19_drv_launch.md R427) -/
def Obligations.HostRequestsComplete : Prop :=
  ∀ s : State, s.boot.state ≠ 8 →
  let u := s.numbered
  let no := s.ev.asked + 1
  (∀ o a w, o < 16 → a < 2 ^ 16 → (s.ownerAt o).reg a = some w →
    ∃ t : State, exec (.hostRead (o * 2 ^ 36 + a) 8) s = .next t ∧ t.ev.replies = s.ev.replies ++ [(no, leBytes w.toNat 8)]) ∧
  (∀ off n ps, 2 ^ 16 ≤ off % 2 ^ 36 → u.hostPlaces off n .read = some ps → ps ≠ [] →
    ∃ t : State, exec (.hostRead off n) s = .next t ∧ t.ev.reqs = s.ev.reqs ++ [⟨no, off, n, ps.length, [], false⟩] ∧
      t.mem = s.mem ∧ ∀ i, i < ps.length →
        t.accAt (s.nextId + i) = some (hostAccess (off / 2 ^ 36) ((ps.map Prod.fst).getD i (.hbm 0)) .rblk no i)) ∧
  (∀ off w op b c x l, hostAtomicOp op w b c = some x → u.hostLoc off .atomic true = some l → s.feature 7 = true → off % w = 0 →
    ∃ t : State, exec (.hostAtomicop off w op b c) s = .next t ∧ t.ev.reqs = s.ev.reqs ++ [⟨no, off, w, 1, [], false⟩] ∧
      t.mem = s.mem ∧ t.accAt s.nextId = some (hostAccess (off / 2 ^ 36) l x no 0)) ∧
  (∀ a r, a.sq = false → s.ev.reqs.find? (fun r => r.no == a.job) = some r → r.left = 1 →
    (s.hostDone a).ev.replies = s.ev.replies ++ [(r.no, (r.take a).bytes)]) ∧
  (∀ off bs ts ps, 2 ^ 16 ≤ off % 2 ^ 36 → u.hostPlaces off bs.length .write = some ps →
    ∃ t : State, exec (.hostWrite off ⟨bs, ts⟩) s = .next t ∧ t.mem = s.mem ∧ ∀ i, i < ps.length →
      t.accAt (s.nextId + i) = some (hostAccess (off / 2 ^ 36) ((ps.map Prod.fst).getD i (.hbm 0))
        (s.hostBlock bs ts (ps.map Prod.snd) i) no i)) ∧
  (∀ n w, n < 192 → (s.ev.pushes = [] → s.hostWriteBefore s.nextId = false →
      (s.launchMode n = false → ∃ t : State, exec (.mailboxPush n w) s = .next t ∧
        ((s.coreAt n).ch.mail.length < 8 → (t.coreAt n).ch.mail = (s.coreAt n).ch.mail ++ [w]) ∧
        (8 ≤ (s.coreAt n).ch.mail.length → (t.coreAt n).ch.mail = (s.coreAt n).ch.mail ∧
          (t.coreAt n).ch.drops = min 65535 ((s.coreAt n).ch.drops + 1))) ∧
      ∀ w0, (s.coreAt n).ch.mail = [w0] → w0.getLsbD 63 = true → s.launchMode n = true → (s.dieAt (dieOf n)).posts < 4 →
        ∃ t : State, exec (.mailboxPush n w) s = .next t ∧ (t.coreAt n).ch.mail = [] ∧ (t.coreAt n).ch.lres =
          ((s.onCore n fun c => { c with ch := { c.ch with mail := [w0, w] } }).launch n w0 w).1) ∧
    (s.ev.pushes ≠ [] ∨ s.hostWriteBefore s.nextId = true → ∃ t : State, exec (.mailboxPush n w) s = .next t ∧
      t.ev.pushes = s.ev.pushes ++ [(n, w, s.nextId)] ∧ t.cores = s.cores)) ∧
  (∀ d w, d < 8 → w.getLsbD 8 = true →
    let ws := (s.dieAt d).postWords
    let e := s.dieAt (descDie ws)
    (e.posts < 4 → e.posting = [] → ∃ t : State, exec (.postPortPost d w) s = .next t ∧
      (t.dieAt d).postRes = (s.postDesc (descDie ws) ws (bitsOf w 0 4) none 0 none).1) ∧
    (4 ≤ e.posts ∨ e.posting ≠ [] → ∃ t : State, exec (.postPortPost d w) s = .next t ∧
      (t.dieAt (descDie ws)).posting = e.posting ++ [(d, bitsOf w 0 4, ws)])) ∧
  ∀ w : Word, (∀ i, i < 4 → ∃ t : State, exec (.registerWrite 0 (0x2008 + 8 * i) w) s = .next t ∧ t.arg i = w) ∧
    (s.boot.go = false → ∃ t : State, exec (.registerWrite 0 0x1008 w) s = .next t ∧ t.boot.accepted = w) ∧
    (∀ d, d < 8 → bitsOf w 0 3 ≤ 4 → ∃ t : State, exec (.registerWrite 0 (0x100090 + 0x20000 * d) w) s = .next t ∧
      (t.dieAt d).reserve = bitsOf w 0 3) ∧
    (∀ d i, d < 8 → i < 16 → ∃ t : State, exec (.registerWrite 0 (0x100000 + 0x20000 * d + 8 * i) w) s = .next t ∧
      (t.dieAt d).postWords.getD i 0 = w) ∧
    ∀ off, exec (.registerWrite 4 off w) s = exec (.hostWrite off ⟨leBytes w.toNat 8, []⟩) s

/-- A descriptor whose conditions, fields and image are good gets the lowest free row and makes an entry there; with no
row free the answer is minus 1 and nothing is entered. A post that has arrived with fewer than four on the beat is
answered so, and is one post more. A due report makes a waiting task whose conditions hold ready. A passed release
tick makes an entry without conditions wait for a report one beat later. Placement puts the first ready entry, where
no context of it is saved, on its core, loading, at pc 0 with the argument base in x1 and the image in x2. The loader,
when due, fills instruction and order memory and the checked bit, and the core runs. At the last beat of a frame
without late tasks the frame ends: the next beat is offset 0 of the next, with the length set for it, and the hold
that the energy of the frame before asks for. A hold that has run out is over. A task past its deadline is late and
stretches the frame. When nothing of a draining or tailed task is left to do, the task is gone, and its core or its
tracker entry free. The order of a post's refusals, that a fifth post of a beat waits, when the loader reads the
image, and lateness only while placed are the model's choice (logs 37, 4, 47, 44). (01_machine.md R39, 02_execution.md
R42, 02_execution.md R43, 02_execution.md R44, 02_execution.md R46, 02_execution.md R47, 02_execution.md R48,
02_execution.md R50, 02_execution.md R54, 02_execution.md R55, 02_execution.md R57, 21_fleet.md R467) -/
def Obligations.TimetablesPlaceAndRetireTasks : Prop :=
  ∀ s : State,
  (∀ d ws o c sl b,
    (s.freeRow d = none → s.offerDesc d ws o c sl b = (BitVec.ofNat 64 (2 ^ 64 - 1), s)) ∧
    ∀ k cs, s.freeRow d = some k → s.descCondsOf o c ws (min 4 (descConds ws)) = some cs → descFieldsOk ws = true →
      s.imageFor (bitsOf (ws.getD 4 0) 0 32) o = true → (s.offerDesc d ws o c sl b).1 = BitVec.ofNat 64 k ∧
      (s.offerDesc d ws o c sl b).2.taskAt s.nextId = some (s.entryOf d ws o (c.getD (b.getD 192)) k cs sl b)) ∧
  (∀ id a d ws, s.accAt id = some a → a.op = .post d ws → a.stage = .arrived → (s.dieAt d).posts < 4 →
    ∃ t : State, exec (.timetablePost id) s = .next t ∧ (t.accAt id).map Access.stage = some .performed ∧
      (t.accAt id).map Access.res = some (.val (s.offerDesc d ws a.owner (some a.core) 0 none).1) ∧
      (t.dieAt d).posts = (s.dieAt d).posts + 1) ∧
  (∀ d r x, (s.dieAt d).reports = [r] → r.2 ≤ s.beat → s.taskAt r.1 = some x → x.st = .waiting → s.condsMet x = true →
    ∃ t : State, exec (.counterReport d) s = .next t ∧ (t.dieAt d).reports = [] ∧
      t.taskAt r.1 = some { x with st := .ready }) ∧
  (∀ n x, s.releasable x.die = [n] → s.taskAt n = some x → x.conds = [] → ∃ t : State, exec (.releaseTick x.die) s = .next t ∧
    t.taskAt n = some { x with st := .waiting } ∧ (t.dieAt x.die).reports = (s.dieAt x.die).reports ++ [(n, s.beat + 1)]) ∧
  (∀ d k n x, (s.dieAt d).evalq = [] → s.frame.stretch = false → s.firstEntry d = some (k, n, x) → s.taskAt k = some x →
    s.committed x = none → ∃ t : State, exec (.placement d) s = .next t ∧ (t.coreAt n).pl.task = some k ∧
      (t.coreAt n).pl.phase = .loading ∧ mget 0 (t.coreAt n).c.regs 1 = x.argbase ∧
      mget 0 (t.coreAt n).c.regs 2 = BitVec.ofNat 64 x.image ∧ (t.coreAt n).c.pc = 0 ∧
      ((t.taskAt k).map fun y => (y.st, y.core)) = some (.running, some n)) ∧
  (∀ n k x i, (s.coreAt n).pl.task = some k → s.taskAt k = some x → (s.coreAt n).pl.phase = .loading →
    (s.coreAt n).pl.due ≤ s.beat + 1 → mget none s.images x.image = some i → s.hbmBad i.addr (s.imgHead i.addr).dataAt = false →
    let h := s.imgHead i.addr
    ∃ t : State, exec (.overlayLoadDone n) s = .next t ∧ (t.coreAt n).pl.phase = .running ∧
      (t.coreAt n).pl.imem = s.imgWords (i.addr + 64) h.nwords ∧
      (t.coreAt n).pl.omem = s.imgWords (i.addr + h.ordersAt) h.norders ∧ (t.coreAt n).cr.tcheck = h.checked) ∧
  (s.frame.len ≤ s.frame.fofs + 1 → s.lateTasks = [] → s.frame.ending = false →
    let e := s.frame.energy + Config.beatPower s.beat
    ∃ t : State, exec .frameBarrier s = .next t ∧ t.frame.ending = true ∧ t.frameTick.fno = s.frame.fno + 1 ∧
      t.frameTick.fofs = 0 ∧ t.frameTick.len = s.frame.next ∧ t.frameTick.energy = e ∧ t.frameTick.start = e ∧
      ∀ h, h = s.holdFor (e - s.frame.start) (s.frame.fofs + 1) s.frame.next → t.frameTick.hold = if h = 0 then 0 else h + 1) ∧
  (s.frame.hold = 1 → ∃ t : State, exec .powerHoldEnd s = .next t ∧ t.frame.hold = 0) ∧
  (∀ n x, s.taskAt n = some x → x.dl = true → x.late = false → x.placed = true →
    s.frame.passed x.dframe (min x.doffset (s.frame.len - 1)) = true → ∃ t : State, exec (.deadlinePassed n) s = .next t ∧
      t.taskAt n = some { x with late := true } ∧ t.frame.stretch = true) ∧
  ∀ k x n, s.taskAt k = some x → x.core = some n → s.taskBusy n k = false →
    (x.st = .draining → ∃ t : State, exec (.taskRetire k) s = .next t ∧ t.taskAt k = none ∧
      (t.coreAt n).pl.task = none ∧ (t.coreAt n).pl.phase = .free) ∧
    (x.st = .tailed → (s.coreAt n).pl.tailed = some k → ∃ t : State, exec (.taskRetire k) s = .next t ∧ t.taskAt k = none ∧
      (t.coreAt n).pl.tailed = none)

/-- Outside recovery, a request for a core with a live task stands, with the core's control state as it was, and a
cancelled one does not stand. An interrupt leaves event 0x57 with its data, one of its cause, where a task is placed;
where none is, no core changes. An event is taken between instructions, or in a wait that C is in, as a trap of kind 4
that returns to the pc. A gated request that can be taken, once no work of M is left, begins the save with the live
tiles. Once the drain is over, the save beat is set and, the registers' unit being dirty, a buffer of the slot holds
the registers and the pc. Once the beats of a save are over, the commit frees the core, and its task is pending. The
task that has waited longest takes the lowest free slot. A restore whose beats are over and none of whose blocks is
bad gives the saved registers, pc and handler level back, and the scratchpad as the buffer holds it, running, C ready
on the next beat. A checkpoint of a dirty unit writes it into the open buffer, a granule of the scratchpad at its
place there, changes no byte outside the buffer, and clears its dirty bit. A watchdog past its limit raises event 0x56
with its count once, and at twice the limit it ends the task; the save limit frees the core, and the task is gone, or
with lsres set it may be pending. The newest data of event 0x57, the content of the sections of the device's own
order, the times of a save, and what the watchdogs count are the model's choice (logs 65, 15, 17, 139). (08_timing.md
R185, 08_timing.md R187, 08_timing.md R188, 14_ins_matrix_copy.md R326, 20_drv_traps.md R446, 20_drv_traps.md R451,
20_drv_traps.md R452, 20_drv_traps.md R453, 20_drv_traps.md R456, 20_drv_traps.md R457, 20_drv_traps.md R458,
20_drv_traps.md R459) -/
def Obligations.ContextsAreSavedAndRestored : Prop :=
  ∀ s : State,
  (∀ d k, s.boot.state ≠ 8 → k < 24 → (s.coreAt (24 * d + k)).pl.live = true → ∃ t : State, exec (.preemptRequest d k) s = .next t ∧
    (t.coreAt (24 * d + k)).pl.preempt = true ∧ (t.coreAt (24 * d + k)).c = (s.coreAt (24 * d + k)).c) ∧
  (∀ d k, s.boot.state ≠ 8 → k < 24 → (s.coreAt (24 * d + k)).pl.preempt = true → ∃ t : State, exec (.preemptCancel d k) s = .next t ∧
    (t.coreAt (24 * d + k)).pl.preempt = false ∧ (t.coreAt (24 * d + k)).mx.gate = false) ∧
  (∀ d k v, s.boot.state ≠ 8 → k < 24 → ∃ t : State, exec (.driverInterrupt d k v) s = .next t ∧
    ((s.coreAt (24 * d + k)).pl.task ≠ none →
      (t.coreAt (24 * d + k)).tr.events.filter (fun e => e.1 == 0x57) = [(0x57, v.setWidth 64)]) ∧
    ((s.coreAt (24 * d + k)).pl.task = none → t.cores = s.cores)) ∧
  (∀ n e l, (s.coreAt n).tr.events = e :: l → (s.coreAt n).pl.phase = .running → (s.coreAt n).c.evOk = true →
    (s.coreAt n).c.hlevel = false → (s.dieAt (dieOf n)).hvec ≠ 0 →
    ∃ t : State, exec (.eventTaken n) s = .next t ∧ (t.coreAt n).c.hlevel = true ∧ (t.coreAt n).c.pc = 0 ∧
      (t.coreAt n).c.ready = s.beat + 4 ∧ (t.coreAt n).c.cwait = none ∧ (t.coreAt n).tr.tpc = (s.coreAt n).c.pc ∧
      (t.coreAt n).tr.tinfo = e.2 ∧ (t.coreAt n).tr.tcause = BitVec.ofNat 64 (4 * 2 ^ 10 + e.1.toNat) ∧
      (t.coreAt n).tr.events = l ∧ ((s.coreAt n).c.cwait = none → t.mem = s.mem ∧ t.accs = s.accs)) ∧
  (∀ n, (s.coreAt n).mx.gate = true → s.canPreempt n = true → (s.coreAt n).pl.phase = .running → (s.coreAt n).c.evOk = true →
    (s.coreAt n).jobsOf .m = [] → ∃ t : State, exec (.preemptAtRetirement n) s = .next t ∧ (t.coreAt n).pl.phase = .saving ∧
      (t.coreAt n).pl.saveMask = (s.coreAt n).cr.mlive ∧ (t.coreAt n).pl.preempt = false) ∧
  (∀ n x k a, (s.coreAt n).pl.phase = .saving → (s.coreAt n).pl.saveBeat = none → (s.withdrawLoads n).drained n = true →
    s.slotOf n = some (x, k, a) → (∀ b, (mget Slot.rest (s.dieAt x.die).slots k).dirtyUnit b 1592 = true) →
    ∃ t : State, exec (.contextSave n) s = .next t ∧ (t.coreAt n).pl.saveBeat = some s.beat ∧
      ∃ b c, (mget Slot.rest (t.dieAt x.die).slots k).buf b = some c ∧ c.c.regs = (s.coreAt n).c.regs ∧
        c.c.pc = (s.coreAt n).c.pc) ∧
  (∀ n b x, (s.coreAt n).pl.phase = .saving → (s.coreAt n).pl.saveBeat = some b → s.slotOf n = some x →
    (s.coreAt n).pl.due ≤ s.beat → ∃ t : State, exec (.saveCommit n) s = .next t ∧ (t.coreAt n).pl.task = none ∧
      (t.coreAt n).pl.phase = .free ∧ ((t.taskAt (s.taskNo n)).map fun y => (y.st, y.core)) = some (.pending, none)) ∧
  (∀ d k n x w, s.freeCtxSlot d = some k → s.taskAt n = some x → x.die = d → x.slotWait = some w →
    (∀ e ∈ s.tasks, ∀ y v, e.2 = some y → y.die = d → y.slotWait = some v → e.1 = n ∨ w < v) →
    ∃ t : State, exec (.contextSlotAcquire d) s = .next t ∧ t.taskAt n = some { x with slot := some k, slotWait := none } ∧
      (mget Slot.rest (t.dieAt d).slots k).holder = some n) ∧
  (∀ n x k a c, (s.coreAt n).pl.phase = .restoring → s.slotOf n = some (x, k, a) →
    let b := (s.committed x).getD 0
    (mget Slot.rest (s.dieAt x.die).slots k).buf b = some c →
    (∀ e ∈ restoreParts b c.pl.saveMask, s.hbmBad (a + e.1) e.2 = false) →
    (s.coreAt n).pl.due ≤ s.beat → ∃ t : State, exec (.restoreDone n) s = .next t ∧ (t.coreAt n).pl.phase = .running ∧
      (t.coreAt n).c.regs = c.c.regs ∧ (t.coreAt n).c.pc = c.c.pc ∧ (t.coreAt n).c.hlevel = c.c.hlevel ∧
      (t.coreAt n).c.ready = s.beat + 1 ∧
      ∀ i, i < 2 ^ 22 → t.mem.byte (scrBase n + i) = mget 0 (s.bufCtx x.owner a b c).bytes i) ∧
  (∀ n u x k a, (s.coreAt n).pl.phase = .running → (s.dieAt (dieOf n)).incr = true → s.slotOf n = some (x, k, a) → u < 1600 →
    let y := mget Slot.rest (s.dieAt x.die).slots k
    let b := s.openBuf a
    let p := bufStart a b
    y.dirtyUnit b u = true → (1536 ≤ u → s.settledRegs n = true) →
    ∃ t : State, exec (.checkpointWriteback n u) s = .next t ∧
      (s.watched = [] → t.cores = s.cores ∧ t.accs = s.accs) ∧
      (a % 64 = 0 → (∀ i, i < p ∨ p + 0x700000 ≤ i → t.mem.byte i = s.mem.byte i) ∧
        (u < 1024 → s.mem.bad = [] → ∀ i, i < 4096 →
          t.mem.byte (p + 0x300000 + 4096 * u + i) = s.mem.byte (scrBase n + 4096 * u + i))) ∧
      (mget Slot.rest (t.dieAt x.die).slots k).buf b = some (((y.buf b).getD Core.rest).putUnit (s.coreAt n) u).slim ∧
      (mget Slot.rest (t.dieAt x.die).slots k).dirtyUnit b u = false) ∧
  (∀ n j l, (s.coreAt n).pl.task = some j →
    (l = 1024 * (s.dieAt (dieOf n)).stallLim → l ≠ 0 → l ≤ (s.coreAt n).pl.dog.stall → ∃ t : State, exec (.watchdogStall n) s = .next t ∧
      ((s.coreAt n).pl.dog.stall < 2 * l → (s.coreAt n).pl.dog.warnedStall = false → t = s.onCore n fun c =>
        { c.raiseEvent 0x56 (BitVec.ofNat 64 (c.pl.dog.stall / 1024)) with
          pl := { c.pl with dog := { c.pl.dog with warnedStall := true } } }) ∧
      (2 * l ≤ (s.coreAt n).pl.dog.stall → (t.coreAt n).pl.task = none ∧ t.taskAt j = none)) ∧
    (l = 1024 * (s.dieAt (dieOf n)).lateLim → l ≠ 0 → l ≤ (s.coreAt n).pl.dog.late → ∃ t : State, exec (.watchdogLate n) s = .next t ∧
      ((s.coreAt n).pl.dog.late < 2 * l → (s.coreAt n).pl.dog.warnedLate = false → t = s.onCore n fun c =>
        { c.raiseEvent 0x56 (BitVec.ofNat 64 (c.pl.dog.late / 1024)) with
          pl := { c.pl with dog := { c.pl.dog with warnedLate := true } } }) ∧
      (2 * l ≤ (s.coreAt n).pl.dog.late → (t.coreAt n).pl.task = none ∧ t.taskAt j = none))) ∧
  ∀ n j b x k a, (s.coreAt n).pl.task = some j → (s.coreAt n).pl.phase = .saving → (s.coreAt n).pl.saveBeat = some b →
    s.slotOf n = some (x, k, a) → (s.dieAt (dieOf n)).save ≠ 0 → b + 1024 * (s.dieAt (dieOf n)).save ≤ s.beat →
    ∃ t : State, exec (.watchdogSave n) s = .next t ∧ (t.coreAt n).pl.task = none ∧ (t.coreAt n).pl.phase = .free ∧
      (t.taskAt j = none ∨ (s.dieAt (dieOf n)).lsres = true ∧ (t.taskAt j).map Task.st = some .pending)

/-- At a home slice that has made no operation on this beat, a write that has arrived, in its turn, and has room in the
write queue for all its blocks takes its places there, is performed, and is counted for the sync word it names; at an
unplaced granule it is performed, and fails. A read that has arrived there in its turn is performed. While an earlier
access of its queue is still to be performed there, neither is. The write-back takes the oldest pending operation of
the oldest entry, and with its last one the entry. A bank that has made no operation on this beat performs the access
at the head of its queue, a chunk merge that is at the head of the queues of its eight banks, and counts it. The
completion of a load puts its value into its register, and the access is gone. A finished A micro-order leaves its
vector and its flags. A port walk with room, or with a vector to fetch again, asks for the four blocks of that vector,
each at its own place. A drain takes the head vector of its FIFO and writes its four blocks at its next address, each
at its own place. Which operation a slice is offered on a beat, with loads apart, and that a write-back is a move of
its own on what is performed already, are the model's choice (logs 75, 76). (04_memory.md R103, 04_memory.md R105,
04_memory.md R106, 05_ordering.md R119, 05_ordering.md R122, 12_ins_memory_sync.md R256, 12_ins_memory_sync.md R258,
13_ins_vector.md R287, 13_ins_vector.md R289, 13_ins_vector.md R291, 19_drv_launch.md R430, 01_machine.md R30) -/
def Obligations.AccessesArePerformedAndCompleted : Prop :=
  ∀ s : State,
  (∀ id a p, s.accAt id = some a → a.stage = .arrived → a.op.writes = true → a.loc = .hbm p → s.outOfTurn id a = false →
    s.sliceOf a.loc = none → exec (.homeSliceOperation id) s = .next (s.perform id)) ∧
  (∀ id a, s.accAt id = some a → s.outOfTurn id a = true →
    exec (.homeSliceOperation id) s = .next s ∧ exec (.homeSliceLoad id) s = .next s) ∧
  (∀ id a p h q, s.accAt id = some a → a.stage = .arrived → a.op.writes = true → a.loc = .hbm p → s.outOfTurn id a = false →
    s.sliceOf a.loc = some h → (∀ f, a.op ≠ .enq f) →
    s.mem.served.contains (10000 + h) = false → wqEnterAll (mget [] s.mem.wq h) a.op.mergeClass a.wqBlks = some q →
    exec (.homeSliceOperation id) s =
      .next ((((s.serve (10000 + h)).onMem fun m => { m with wq := mset [] m.wq h q }).perform id).countLanding id)) ∧
  (∀ id a p, s.accAt id = some a → a.stage = .arrived → a.op.writes = false → a.loc = .hbm p → s.outOfTurn id a = false →
    exec (.homeSliceLoad id) s = .next (s.perform id)) ∧
  (∀ h e o l q, mget [] s.mem.wq h = e :: q → e.ops = o :: l → ∃ t : State, exec (.writeBack h) s = .next t ∧
    mget [] t.mem.wq h = (if l = [] then q else ⟨e.blk, l⟩ :: q) ∧ t.mem.bytes = s.mem.bytes ∧ t.accs = s.accs) ∧
  (∀ d b id l ks, let key := 1000 + 256 * d + b
    mget [] s.mem.bankq key = id :: l →
    (∀ a, s.accAt id = some a → ks = if a.banks.contains key then a.banks else [key]) → (s.accAt id = none → ks = [key]) →
    (∀ k ∈ ks, s.mem.served.contains k = false ∧ (mget [] s.mem.bankq k).head? = some id) →
    exec (.bankOperation d b) s = .next (((ks.foldl (fun t k => (t.serve k).onMem fun m =>
      { m with bankq := mset [] m.bankq k ((mget [] m.bankq k).drop 1) }) s).perform id).countLanding id)) ∧
  (∀ id a w sx v, s.accAt id = some a → a.agent = .c → a.stage = .back → (s.coreAt a.core).pl.task = some a.task →
    a.op = .load w sx → a.res = .val v → a.lq = true → 0 < a.dst → ∃ t : State, exec (.accessCompletion id) s = .next t ∧
      t.accAt id = none ∧ mget 0 (t.coreAt a.core).c.regs a.dst = v ∧ t.mem = s.mem ∧
      ∀ r, r ≠ a.dst → mget 0 (t.coreAt a.core).c.regs r = mget 0 (s.coreAt a.core).c.regs r) ∧
  (∀ n id j r x, s.jobAt n id = some j → j.eng = .a → j.work = .arith [.v r x] → j.due ≤ s.beat →
    (s.coreAt n).pl.task = some j.task → ∃ t : State, exec (.engineCompletion n id) s = .next t ∧
      mget Vec.zero (t.coreAt n).ve.v r = x ∧ (t.coreAt n).cr.fflags = (s.coreAt n).cr.fflags ||| j.flags ∧
      t.jobAt n id = none ∧ t.mem = s.mem) ∧
  (∀ n p va l, let q := (s.coreAt n).inPort p
    let b := (s.coreAt n).baseOf q.base
    let pos := q.redo.headD q.asked
    q.bound = true → q.done = false → (q.redo = [] → q.fifo.length + (q.asked - q.pos) < 16) →
    ((s.coreAt n).eng .l).state ≠ .stopped → (s.coreAt n).pl.saveBeat = none →
    s.engReach n .l b false (nestOff q.nest pos) 256 0x28 = .ok (va, l) → s.engReadOk n va l 256 = none →
    (∀ i, i < 4 → (b.locAt (va + 64 * i)).isSome = true) → ∃ t : State, exec (.portWalkFetch n p) s = .next t ∧
      (t.coreAt n).inPort p = (if q.redo = [] then { q with asked := q.asked + 1 } else { q with redo := q.redo.drop 1 }) ∧
      t.mem = s.mem ∧
      ∀ i, i < 4 → (t.accAt (s.nextId + 1 + i)).map (fun a => (a.loc, a.op)) = (b.locAt (va + 64 * i)).map fun l => (l, .rblk)) ∧
  ∀ n p x f va l, let q := (s.coreAt n).outPort p
    let b := (s.coreAt n).baseOf q.base
    q.fifo = x :: f → q.bound = true → q.pos < nestCount q.nest → ((s.coreAt n).eng .s).state ≠ .stopped →
    (s.coreAt n).pl.saveBeat = none → s.engReach n .s b true (nestOff q.nest q.pos) 256 0x28 = .ok (va, l) →
    (∀ i, i < 4 → (b.locAt (va + 64 * i)).isSome = true) → ∃ t : State, exec (.portDrain n p) s = .next t ∧
      (t.coreAt n).outPort p = { q with fifo := f, pos := q.pos + 1 } ∧ t.mem = s.mem ∧
      ∀ i, i < 4 → (t.accAt (s.nextId + 1 + i)).map (fun a => (a.loc, a.op)) =
        (b.locAt (va + 64 * i)).map fun l => (l, .wblk 0 64 (x.quarter i))

/-- With x the slot now at a station of a compute die and e the entry for it: a load fills an empty slot from its read as
a hand of its handle, with the error bit where the read has failed or has not come, and one that finds a hand of it
sets the error bit; an add combines the payload with its read, and where that has failed or has not come only sets the
error bit; a copy to a bound copy output pushes the payload's first word and leaves the slot; a copy or take to memory
sends one write of each block that it makes to its place; a take leaves the slot empty; each moves the entry's act
index on, and a hand of another handle is emptied as stale. The due flag of a die is raised with its count. At every
station: a due installation is in force; a withheld slot loses its claim; the queue that is first boards an open empty
slot with what fits in 8 rows; a first arrival is watched, a later one claims; a destination with room empties a
parcel slot, one without room or in a retrain sets full, and the sender clears it. A header that comes with bits
inverted loses the slot's load and is counted where its check fails, and does nothing where it passes. A group whose
quarantine is over, with no hand of its handle, is free with no members. The model's choices: the bit order of the
check (log 150), the order of the acts of a beat (log 19), what a load on a hand of its handle leaves (log 109), which
queue boards when others are refused (log 112), and what a lost slot gives up (log 113). (02_execution.md R59,
06_conveyor.md R139, 06_conveyor.md R140, 06_conveyor.md R142, 06_conveyor.md R143, 06_conveyor.md R144,
06_conveyor.md R146, 06_conveyor.md R148, 06_conveyor.md R152, 06_conveyor.md R153, 06_conveyor.md R154,
06_conveyor.md R156) -/
def Obligations.StationsActOnSlots : Prop :=
  ∀ (s : State) (st m : Nat), st < 16 → m < 28 →
  let key := s.keyNow st m
  let ek := entryKey st m (key % 64)
  let e := mget SEntry.rest s.conv.tables ek
  let x := s.conv.slot key
  (m < 24 →
    (entOp e.word = 1 →
      (∀ l, x.cls = .empty → s.readFor ek e.act = (true, l) → ∃ t : State, exec (.stationLoad st m) s = .next t ∧
        (t.conv.slot key).cls = .hand ∧ (t.conv.slot key).handle = entHandle e.word ∧ (t.conv.slot key).error = true) ∧
      (∀ l p, x.cls = .empty → s.readFor ek e.act = (false, l) →
        loadPay e.word l = some p → ∃ t : State, exec (.stationLoad st m) s = .next t ∧ mget SEntry.rest t.conv.tables ek = e.advance ∧
          t.conv.slot key = { x with
            cls := .hand, handle := entHandle e.word, mode := entMode e.word, src := posOf m, error := false, pay := p }) ∧
      (x.cls = .hand → x.handle = entHandle e.word → ∃ t : State, exec (.stationLoad st m) s = .next t ∧
        mget SEntry.rest t.conv.tables ek = e.advance ∧ t.conv.slot key = { x with error := true })) ∧
    (∀ l p sat fl, entOp e.word = 3 → x.cls = .hand → x.handle = entHandle e.word → x.mode = entMode e.word →
      s.readFor ek e.act = (false, l) → addPay e.word x.pay l = some (p, sat, fl) →
      ∃ t : State, exec (.stationAdd st m) s = .next t ∧ mget SEntry.rest t.conv.tables ek = e.advance ∧
        t.conv.slot key = { x with pay := p, sat := x.sat || sat, fp := x.fp ||| fl }) ∧
    (∀ l, entOp e.word = 3 → x.cls = .hand → x.handle = entHandle e.word → s.readFor ek e.act = (true, l) →
      ∃ t : State, exec (.stationAdd st m) s = .next t ∧ t.conv.slot key = { x with error := true }) ∧
    (entOp e.word = 2 → x.cls = .hand → x.handle = entHandle e.word → x.error = false → entKind e.word = 3 →
      notChunk e.word x.pay = false → (mget none (s.dieAt m).binders st).isSome = true → (mget [] (s.dieAt m).copies st).length < 16 →
      ∃ t : State, exec (.stationCopy st m) s = .next t ∧ t.conv.slot key = x ∧ mget SEntry.rest t.conv.tables ek = e.advance ∧
        mget [] (t.dieAt m).copies st = mget [] (s.dieAt m).copies st ++ [(x.pay.headD Blk.zero).word 0]) ∧
    (entOp e.word = 4 → x.cls = .hand → x.handle = entHandle e.word → ∃ t : State, exec (.stationTake st m) s = .next t ∧
      t.conv.slot key = { CSlot.rest with claimer := x.claimer } ∧ mget SEntry.rest t.conv.tables ek = e.advance) ∧
    (∀ op i, (op, i) ∈ [(2, Instr.stationCopy st m), (4, .stationTake st m)] → entOp e.word = op → x.cls = .hand →
      x.handle = entHandle e.word → x.mode = entMode e.word → x.error = false → entKind e.word ≠ 3 → s.behindDown st m = false →
      notChunk e.word x.pay = false → ∃ t : State, exec i s = .next t ∧ t.mem = s.mem ∧
        ∀ k b, (takePay e.word x.pay).1[k]? = some b → (t.accAt (s.nextId + 1 + k)).map (fun a => (a.loc, a.op, a.stage)) =
          some (entLoc e.word m (entAddr e.word e.act + 64 * k), .wblk 0 64 b, .queued)) ∧
    (∀ op i, (op, i) ∈ [(1, Instr.stationLoad st m), (2, .stationCopy st m), (3, .stationAdd st m), (4, .stationTake st m)] →
      entOp e.word = op → x.cls = .hand → x.handle ≠ entHandle e.word →
      exec i s = .next (s.onConv fun c => c.emptyStale key (linkKey m st))) ∧
    (∀ f, (s.dieAt m).flagsDue = [f] → f.due ≤ s.beat → ∃ t : State, exec (.stationFlagRaise m) s = .next t ∧
      mget 0 (t.dieAt m).sflags f.flag = (mget 0 (s.dieAt m).sflags f.flag + 0x100000000) ||| f.bits ∧ (t.dieAt m).flagsDue = [])) ∧
  (∀ i, s.conv.installs = [i] → i.key = ek → 64 * i.rot ≤ s.beat → ∃ t : State, exec (.handTakesEffect st m) s = .next t ∧
    mget SEntry.rest t.conv.tables ek = ⟨i.entry, 0⟩ ∧ t.conv.installs = []) ∧
  (s.conv.withheld key (s.beat / 64) = true → ∃ t : State, exec (.handWithhold st m) s = .next t ∧
    t.conv.slot key = { x with claimer := none }) ∧
  (∀ d, s.conv.boardable st m = some d → x.cls = .empty → s.conv.open_ key (s.beat / 64) = true →
    (x.claimer = none ∨ x.claimer = some m) → ∃ t : State, exec (.parcelBoard st m) s = .next t ∧
      mget [] t.conv.queues (28 * m + d) = (takeRows 8 (mget [] s.conv.queues (28 * m + d))).2 ∧
      t.conv.slot key = { CSlot.rest with
        cls := .parcels, src := posOf m, dst := posOf d, parcels := (takeRows 8 (mget [] s.conv.queues (28 * m + d))).1 }) ∧
  (s.conv.waitingFor st m ≠ [] → s.conv.open_ key (s.beat / 64) = true → x.claimer = none →
    (mget none s.conv.watch (linkKey m st) = none → ∃ t : State, exec (.slotClaim st m) s = .next t ∧
      mget none t.conv.watch (linkKey m st) = some ⟨key, s.beat, false⟩ ∧ t.conv.slots = s.conv.slots) ∧
    ∀ b, mget none s.conv.watch (linkKey m st) = some ⟨key, b, false⟩ → b < s.beat → ∃ t : State, exec (.slotClaim st m) s = .next t ∧
      t.conv.slot key = { x with claimer := some m } ∧ mget none t.conv.watch (linkKey m st) = some ⟨key, b, true⟩) ∧
  (x.cls = .parcels → x.dst = posOf m → mget [] s.conv.blocked (blockKey st x.src x.dst) = [] →
    (mget [] s.conv.rows (linkKey m st) = [] → (x.parcels.map Parcel.rows).sum ≤ 64 →
      (s.moduleAt (linkKey m st)).retrainTill = none → ∃ t : State, exec (.parcelDelivery st m) s = .next t ∧
        t.conv.slot key = { CSlot.rest with claimer := x.claimer }) ∧
    (64 < (x.parcels.map Parcel.rows).sum ∨ (s.moduleAt (linkKey m st)).retrainTill ≠ none →
      ∃ t : State, exec (.parcelDelivery st m) s = .next t ∧ t.conv.slot key = { x with full := true } ∧
        mget [] t.conv.blocked (blockKey st x.src x.dst) = [key])) ∧
  (x.cls = .parcels → x.src = posOf m → x.full = true → ∃ t : State, exec (.fullSlotReturn st m) s = .next t ∧
    t.conv.slot key = { x with full := false }) ∧
  (∀ n, (headerOk (x.header ^^^ n) = true → exec (.headerError st ⟨m, n⟩) s = .next s) ∧
    (headerOk (x.header ^^^ n) = false → ∃ t : State, exec (.headerError st ⟨m, n⟩) s = .next t ∧
      t.conv.slot key = { CSlot.rest with claimer := x.claimer } ∧
      mget 0 t.conv.hdrerr (linkKey m st) = min 255 (mget 0 s.conv.hdrerr (linkKey m st) + 1))) ∧
  ∀ g, (s.groupAt g).st = .quarantine → (s.groupAt g).left + s.quarantine ≤ s.beat →
    mget [] s.conv.hands (g * 256 + ((s.groupAt g).inc - 1).toNat) = [] → ∃ t : State, exec (.groupQuarantineEnd g) s = .next t ∧
      (t.groupAt g).st = .free ∧ (t.groupAt g).members = [] ∧ (t.groupAt g).inc = (s.groupAt g).inc

/-- The next flit of a module's direction, once it has all come: in sequence, it is accepted, the next number is expected,
an ack of it stands in the other direction, and its units are handed on: a whole parcel joins the queue of its
destination on its way up, and on its way down the last of an access delivers it; out of sequence, or failing its
check, nothing is handed on, and a failed check is counted. Held flits of which the oldest has waited 256 beats are
all sent again. A retrain requested outside recovery stops an open module for 1,600 beats from the end of the flits in
progress; its end gives a width, or a dead module where neither half passed, and is counted; a window's end restarts
both counts. From peers, outside a guard: a block of a send, a write-with-enqueue or a transaction that leads to a
place becomes an access there under the peer's owner; a misaligned transaction is answered as refused; a flit of no
type is counted. A packet of a live run becomes operands of its buffer, or is deposited, or goes on, by its route
entry; one of an aborted or stale run is dropped. In a guard each is dropped and counted at its port. A chunk with all
its operands is summed in its mode and put. An abort raises the bar below which packets of its handle are dropped. The
model's choices: failures are counted for each direction (log 119), the flit that carries an ack (log 162), what a
peer is answered (log 163), an abort reaches the runs up to its number (log 129), which package a port's flit comes
from (log 155), and a transaction to a scratchpad is refused (log 127). (05_ordering.md R134, 07_circuits_cells.md
R158, 07_circuits_cells.md R161, 07_circuits_cells.md R168, 07_circuits_cells.md R171, 07_circuits_cells.md R172,
07_circuits_cells.md R173, 07_circuits_cells.md R174, 17_prog_sync.md R387, 17_prog_sync.md R388, 17_prog_sync.md
R389, 19_drv_launch.md R436) -/
def Obligations.ModulesAndPeersDeliver : Prop :=
  ∀ s : State,
  (∀ m k up f r, let x := s.moduleAt (linkKey m k)
    (x.lane up).wire = f :: r → x.dead = false → f.start / 4 + x.flight ≤ s.beat →
    (f.ack = none → f.idle = false → f.seq = (x.lane up).expected → ∃ t : State, exec (.ucieFlitReceived m k up true) s = .next t ∧
      ((t.moduleAt (linkKey m k)).lane up).expected = f.seq + 1 ∧ ((t.moduleAt (linkKey m k)).lane up).wire = r ∧
      (∃ g ∈ ((t.moduleAt (linkKey m k)).lane (!up)).wire, g.ack = some f.seq) ∧
      ∀ p b, f.units = [.parcel p true b] →
        (up = true → mget [] t.conv.queues (28 * m + p.dest) =
          mget [] s.conv.queues (28 * m + p.dest) ++ [{ p with seq := s.nextId }]) ∧
        (up = false → p.last = true → ∀ a, s.accAt p.acc = some a →
          t.accAt p.acc = some { a with stage := if p.reply then .back else .arrived })) ∧
    (f.ack = none → f.idle = false → f.seq ≠ (x.lane up).expected → ∃ t : State, exec (.ucieFlitReceived m k up true) s = .next t ∧
      t.accs = s.accs ∧ t.conv = s.conv) ∧
    ∃ t : State, exec (.ucieFlitReceived m k up false) s = .next t ∧ t.accs = s.accs ∧ t.conv = s.conv ∧
      (t.moduleAt (linkKey m k)).crcfail = min 65535 (x.crcfail + 1)) ∧
  (∀ m k up, let x := s.moduleAt (linkKey m k)
    x.open_ = true → (x.lane up).overdue s.beat = true → ∃ t : State, exec (.retryTimeout m k up) s = .next t ∧
      (∀ f ∈ (x.lane up).held, ∃ g ∈ ((t.moduleAt (linkKey m k)).lane up).wire, g.seq = f.seq ∧ g.units = f.units) ∧
      (t.moduleAt (linkKey m k)).replays = min 65535 (x.replays + (x.lane up).sentBefore s.beat)) ∧
  (∀ m k, let x := s.moduleAt (linkKey m k)
    (x.open_ = true → s.boot.state ≠ 8 → ∃ t : State, exec (.moduleRetrainRequest m k) s = .next t ∧
      (t.moduleAt (linkKey m k)).retrainTill = some (x.quietFrom s.beat + 1600) ∧ (t.moduleAt (linkKey m k)).open_ = false) ∧
    (∀ b lo hi, x.retrainTill = some b → b ≤ s.beat → ∃ t : State, exec (.moduleRetrainEnd m k lo hi) s = .next t ∧
      (t.moduleAt (linkKey m k)).retrainTill = none ∧ (t.moduleAt (linkKey m k)).retrains = min 255 (x.retrains + 1) ∧
      (lo = false → hi = false → (t.moduleAt (linkKey m k)).dead = true) ∧
      (lo = true ∨ hi = true → (t.moduleAt (linkKey m k)).width = if lo ∧ hi then 0 else if lo then 1 else 2)) ∧
    (x.winStart + 1024 * x.window ≤ s.beat → ∃ t : State, exec (.moduleWindowBoundary m k) s = .next t ∧
      t.moduleAt (linkKey m k) =
        { x with up := { x.up with fails := 0 }, down := { x.down with fails := 0 }, winStart := s.beat })) ∧
  (∀ p, p < 48 → s.inGuard = true → ∀ i, ((∃ f, i = Instr.sendDataFlit f ∧ sendPort f = p) ∨ (∃ g, i = .transactionFlit g ∧ g.port = p) ∨
      (∃ g, i = .collectivePacket p g) ∨ ∃ h q, i = .abortFlit ⟨p, h⟩ q) → exec i s = .next (s.guardDrop p)) ∧
  (∀ p, p < 48 → s.inGuard = false →
    (∀ f l, f.port = p → s.sendLoc f.pown f.va.toNat (min 64 f.bytes) f.syncen = .ok l → ∃ t : State,
      exec (.sendDataFlit (.block f)) s = .next t ∧ t.mem = s.mem ∧
      (t.accAt s.nextId).map (fun a => (a.loc, a.op, a.owner, a.sync)) =
        some (l, .wblk 0 (min 64 f.bytes) f.blk, f.pown, if f.syncen then some f.sync else none)) ∧
    (∀ f l k, f.port = p → f.ring.toNat % 64 = 0 → s.peerLoc f.pown f.ring.toNat .read = .ok l →
      s.peerLoc f.pown f.ring.toNat .write = .ok k → ∃ t : State, exec (.sendDataFlit (.enqueue f)) s = .next t ∧ t.mem = s.mem ∧
        (t.accAt s.nextId).map (fun a => (a.loc, a.op, a.owner)) = some (l, .enq f, f.pown)) ∧
    (∀ y, exec (.sendDataFlit (.unknown p y)) s = .next (s.onPort p fun x => { x with unknown := x.unknown + 1 })) ∧
    (∀ (g : Transaction) o w r l, g.port = p → peerOp g.op = (o, w, r) →
      (g.va.toNat % w = 0 → s.peerLoc g.pown g.va.toNat r = .ok l → (∀ c b, l ≠ .scr c b) → ∃ t : State,
        exec (.transactionFlit g) s = .next t ∧ t.mem = s.mem ∧
          t.accAt s.nextId = some (peerAccess g.src g.core g.pown l g.va.toNat o g.issue g.chain g.depth 0)) ∧
      (g.va.toNat % w ≠ 0 → ∃ t : State, exec (.transactionFlit g) s = .next t ∧
        (t.accAt s.nextId).map (fun a => (a.stage, a.res)) = some (.performed, .err causeMisaligned))) ∧
    ∀ g : CollPacket, let e := g.route.headD 0
      let k := 128 * (p / 24) + bitsOf e 0 7
      let rest := { g with left := g.left - 1, route := g.route.drop 1 ++ [0] }
      (g.seq < mget 0 s.coll.aborted g.handle ∨ s.staleHandle g.handle = true → exec (.collectivePacket p g) s = .next s.dropPacket) ∧
      (mget 0 s.coll.aborted g.handle ≤ g.seq → s.staleHandle g.handle = false → 0 < g.left → g.left ≤ 8 →
        (g.mode = 0 ∨ g.mode = 3) → 0 < g.chunks.length → g.chunks.length ≤ 16 →
        (bitsOf e 13 3 = 0 → exec (.collectivePacket p g) s = .next (s.forward (bitsOf e 7 6) rest)) ∧
        ∀ b, s.liveBuf k = some b → b.takes g = true →
          (bitsOf e 13 3 = 1 → exec (.collectivePacket p g) s = .next (s.addOperands k g)) ∧
          (bitsOf e 13 3 = 2 → exec (.collectivePacket p g) s = .next (s.depositPacket k g)) ∧
          (bitsOf e 13 3 = 3 → exec (.collectivePacket p g) s = .next ((s.depositPacket k g).forward (bitsOf e 7 6) rest)))) ∧
  (∀ d k c b, d < 2 → k < 128 → s.liveBuf (128 * d + k) = some b → (mget [] b.ops c).length = b.n →
    let u := s.setBuf (128 * d + k) (some { b with ops := mset [] b.ops c [] })
    (b.mode ≠ 0 → exec (.sweepAdd d k c) s = .next (u.putChunk (128 * d + k) c ((mget [] b.ops c).foldl chunkMerge 0))) ∧
    (b.mode = 0 → exec (.sweepAdd d k c) s = .next (u.putChunk (128 * d + k) c ((mget [] b.ops c).foldl
      (fun a x => BitVec.ofNat 4096 (laneZip 32 (fun u v => (u + v, 0)) a.toNat x.toNat 128).1) 0)))) ∧
  ∀ h q, exec (.collectiveAbort h q) s = .next ((s.runSlices h q).foldl State.preemptSlice (s.abortRun h q)) ∧
    (∀ p, p < 48 → s.inGuard = false → exec (.abortFlit ⟨p, h⟩ q) s = .next (s.abortRun h q)) ∧
    mget 0 (s.abortRun h q).coll.aborted h = max (mget 0 s.coll.aborted h) (q + 1)

/-- For each of the 48 ports: a down port asked to reopen outside recovery waits for that, a window's end restarts its
count of failed frames. An awake port that is up with nothing to send begins to park, at once or after its idle beats,
announced for the next frame boundary, or in a frame with room for its announcement and for that frame's end; there it
is parked. A parked port that is woken, relocked after 1,800 beats, and announced is awake at that boundary; a wake
out of budget, no change of width on that beat, is counted and tried again. A bad frame is counted and asked for
again, a frame asked for again is marked, and a request after four replays takes the port down. An accepted send or an
answered transaction leaves its queue, and the transaction completes, with its cause where it is refused. A control
frame in a guard shows its circuit set up, and in slot 0 gives the flight time. A package that has not joined and has
no task placed takes fabric time and the default table; a slot start darkens the port; in the data window a dark open
port is counted once, and a lit one in time and up, at a frame boundary, sends a marked frame of the slot's peer again
where it fits before the window ends, and with none the frame that its quota and the end of the window leave room for;
at its beat a commit puts its table in force and raises the generations of the ports it changes. The model's choices:
joining once (log 122), degraded health until a reopen and the fifth request (log 124), parking with empty queues (log
140), what SEND_ACCEPTED brings (logs 126, 163), each control frame a measurement (log 175), and the frame that
carries a notice (log 193). (07_circuits_cells.md R158, 07_circuits_cells.md R159, 07_circuits_cells.md R160,
07_circuits_cells.md R161, 07_circuits_cells.md R162, 07_circuits_cells.md R163, 07_circuits_cells.md R165,
07_circuits_cells.md R168, 19_drv_launch.md R437, 21_fleet.md R470, 21_fleet.md R471, 21_fleet.md R472) -/
def Obligations.PortsAndCircuitsFollowTheTable : Prop :=
  ∀ (s : State) (p : Nat), p < 48 →
  let x := s.portAt p
  (x.health = .down → s.boot.state ≠ 8 → ∃ t : State, exec (.portReopen p) s = .next t ∧ t.portAt p = { x with reopen := true }) ∧
  (x.winStart + 65536 * x.window ≤ s.beat → ∃ t : State, exec (.portHealthWindow p) s = .next t ∧
    t.portAt p = { x with fails := 0, winStart := s.beat }) ∧
  (x.width = .awake → x.waiting = 0 → x.health ≠ .down → let y : Port := { x with width := .parking }
    let parks (z : Port) : Prop :=
      (y.noticeFrame (4 * s.beat) = none → z = { y with announced := true, change := y.boundary (4 * s.beat + 1) }) ∧
      ∀ q, y.noticeFrame (4 * s.beat) = some q → z = { y with announced := true, change := q + y.frameTime, notice := some q }
    (s.boot.state ≠ 8 → ∃ t : State, exec (.portPark p) s = .next t ∧ parks (t.portAt p)) ∧
    (x.idle ≠ 0 → x.busyAt + x.idle ≤ s.beat → ∃ t : State, exec (.portIdleTimeout p) s = .next t ∧ parks (t.portAt p))) ∧
  (x.width = .parked → s.boot.state ≠ 8 → ∃ t : State, exec (.portWake p) s = .next t ∧ t.portAt p = { x with
    width := .waking, trigger := s.beat, attempt := s.beat, missed := false, relocked := false, announced := false
    notice := x.noticeFrame (4 * s.beat) }) ∧
  (x.announced = true → x.change ≤ 4 * s.beat →
    (x.width = .parking → ∃ t : State, exec (.widthChangeBoundary p) s = .next t ∧
      t.portAt p = { x with width := .parked, announced := false, frameEnd := x.change, parks := min 65535 (x.parks + 1) }) ∧
    (x.width = .waking → ∃ t : State, exec (.widthChangeBoundary p) s = .next t ∧
      (t.portAt p).width = .awake ∧ (t.portAt p).frameEnd = x.change ∧ (t.portAt p).wakes = min 65535 (x.wakes + 1))) ∧
  (x.width = .waking →
    (x.attempt + 1800 ≤ s.beat → ∃ t : State, exec (.wavelengthRelockDone p) s = .next t ∧ t.portAt p = { x with relocked := true }) ∧
    (x.missed = false → 2500 ≤ s.dataBeats x.trigger s.beat → (x.announced = false ∨ 4 * (s.beat + 1) ≤ x.change) → ∃ t : State, exec (.wakeBudgetExpired p) s = .next t ∧
      t.portAt p = { x with
        missed := true, wfail := min 65535 (x.wfail + 1), relocked := false, announced := false, attempt := s.beat })) ∧
  (∀ q, ∃ t : State, exec (.fecFrameUncorrectable p q) s = .next t ∧ t.portAt p = { x with
    uncorr := min 65535 (x.uncorr + 1), fails := x.fails + 1, asked := x.asked ++ [q]
    health := if x.health = .up ∧ x.thresh ≤ x.fails + 1 then .degraded else x.health }) ∧
  (∀ q f, x.retry.find? (fun f => f.seq == q) = some f →
    (f.replays < 4 → ∃ t : State, exec (.frameReplayRequest p q) s = .next t ∧ t.portAt p = { x with
      retry := x.retry.map fun y => if y.seq = q then { y with again := true } else y }) ∧
    (4 ≤ f.replays → ∃ t : State, exec (.frameReplayRequest p q) s = .next t ∧ (t.portAt p).health = .down)) ∧
  (∀ i n c o, (x.queues.flatMap Prod.snd).find? (fun o => o.id == i && o.sent == o.bytes) = some o →
    ∃ t : State, exec (.sendAccepted p i n c) s = .next t ∧ (∀ q ∈ (t.portAt p).queues, ∀ z ∈ q.2, z.id ≠ i) ∧
      ∀ a y, o.kind = .trans a → s.accAt a = some y → y.agent ≠ .peer → (t.accAt a).map Access.stage = some .back ∧
        (c ≠ 0 → t.accAt a = some { y with stage := .back, res := .err (BitVec.ofNat 8 c) })) ∧
  (∀ (g : ControlInfo) i off, g.port = p → s.circ.joined = true → s.circ.active.slotAt s.beat = (i, off) → off < 1250 →
    g.flight ≤ 1000 → wordOpen (s.circ.active.word i p) = true → ∃ t : State, exec (.controlFrame g) s = .next t ∧
      (t.portAt p).lit = true ∧ (t.portAt p).peerNarrow = g.narrow ∧ (i = 0 → (t.portAt p).flight = g.flight)) ∧
  (∀ k b, s.circ.joined = false → s.anyPlaced = false → k < 4096 → ∃ t : State, exec (.domainJoin k b) s = .next t ∧ t.beat = b ∧ t.circ.pkg = k ∧
    t.circ.joined = true ∧ t.circ.active = CTable.default ∧ (t.portAt p).gen = 0) ∧
  (∀ i, s.circ.joined = true → s.circ.active.slotAt s.beat = (i, 0) → ∃ t : State, exec .circuitSlotStart s = .next t ∧
    (t.portAt p).lit = false ∧ (t.portAt p).used = 0 ∧ (t.portAt p).counted = false) ∧
  (∀ i off, s.circ.joined = true → s.circ.active.slotAt s.beat = (i, off) → wordOpen (s.circ.active.word i p) = true → 1258 ≤ off →
    (x.lit = false → x.counted = false → ∃ t : State, exec (.dataWindowOpen p) s = .next t ∧
      t.portAt p = { x with counted := true, mismatch := min 65535 (x.mismatch + 1) }) ∧
    (x.lit = true → s.circ.outOfTime = false → x.health ≠ .down → x.boundary (4 * s.beat) < 4 * s.beat + 4 →
      let w := s.circ.active.word i p
      let q := x.boundary (4 * s.beat)
      let last := 4 * (s.beat - off + s.circ.active.lens.getD i 0 - x.flight - 8)
      let k := min 16 ((last - q) / x.flitTime)
      let marked := x.retry.find? fun f => f.again && f.peer == wordPeer w
      (∀ f, marked = some f → f.shares.length ≤ k → exec (.dataWindowOpen p) s = .next (s.onPort p fun x => x.replay f.seq q)) ∧
      (marked = none → exec (.dataWindowOpen p) s = .next (s.onPort p fun x => x.sendFrame s.circ.pkg p (wordPeer w) q k
        (if wordQuota w = 0 then 2 ^ 64 else wordQuota w - x.used) s.beat)))) ∧
  ∀ c k, s.circ.commit = some (c, k) → s.circ.active.epoch + k * s.circ.active.period ≤ s.beat →
    ∃ t : State, exec .circuitCommit s = .next t ∧ t.circ.active = c ∧ t.circ.commit = none ∧
      (t.portAt p).gen = if advances s.circ.active c p then (x.gen + 1) % 65536 else x.gen

/-- With feature 5, and commands outside recovery: a pass begins at its first entry with its counts at zero. It goes on by
reading further blocks of the granule of its entry, and once all 64 are read it sends their record with the next
number, waiting for its acknowledgement, and is at the next entry. A reception begins; an abort ends it, an import
with code 7, and a pass that has nothing unacknowledged and no granule begun; another pass is told to end. An
acknowledged record is no longer pending. The last key word gives the key and restarts the numbers; another session
number clears the key. The 64 deciphered blocks of a genuine new granule record set out to be written, and it is
counted, one seen before is refused and counted, and one that is not genuine ends the session. With feature 6 an
export of a committed task without lease, group or cell sends its records and takes the task away, and an import is
busy and gathers the deciphered records of its sequence, which the end record ends. The model's choices: a granule is
read in parts (log 157), what a pass without a key and the same session number do (log 134), which tasks are exported
(log 135), and the codes of an import (log 136). (21_fleet.md R473, 21_fleet.md R474, 21_fleet.md R475, 21_fleet.md
R476, 21_fleet.md R477, 21_fleet.md R480, 21_fleet.md R482, 21_fleet.md R483) -/
def Obligations.MigrationMovesGranulesAndTasks : Prop :=
  ∀ s : State, s.feature 5 = true →
  (s.mig.busy = false →
    (s.boot.state ≠ 8 → s.mig.recv = false → s.mig.go = false → ∃ t : State, exec .migrationPass s = .next t ∧ t.mig.busy = true ∧ t.mig.pos = 0 ∧ t.mig.sent = 0 ∧
      t.mig.refused = 0) ∧
    (s.boot.state ≠ 8 → s.mig.recv = true → s.mig.aborted = false → ∃ t : State, exec .migrationReceive s = .next t ∧ t.mig.busy = true) ∧
    (∀ w, s.boot.state ≠ 8 → ∃ t : State, exec (.sessionKeyInstall w) s = .next t ∧ t.mig.seq = 0 ∧ t.mig.seen = [] ∧ ∃ k, t.mig.key = some k ∧
      ∀ i, i < 4 → k.extractLsb' (64 * i) 64 = if i = 3 then w else mget 0 s.mig.keyBuf i) ∧
    (∀ w, s.boot.state ≠ 8 → bitsOf w 32 32 = 0 → w.setWidth 32 ≠ s.mig.msess → ∃ t : State, exec (.msessWrite w) s = .next t ∧
      t.mig.msess = w.setWidth 32 ∧ t.mig.key = none ∧ t.mig.aborted = false) ∧
    (s.feature 6 = true → s.boot.state ≠ 8 →
      (∀ n x c k, s.exportable = some (n, x, c) → c.core.pl.lease = none → x.groups = [] → x.eval = none → s.mig.aborted = false →
        s.mig.key = some k → ∃ t : State, exec .taskExport s = .next t ∧ t.taskAt n = none ∧ t.mig.result = 0 ∧ t.mig.go = false ∧
          s.mig.outbox.length < t.mig.outbox.length) ∧
      (s.mig.aborted = false → ∃ t : State, exec .taskImport s = .next t ∧ t.mig.busy = true ∧
        t.mig.go = true ∧ t.mig.imp = true ∧ t.mig.got = []))) ∧
  (∀ key va l, s.mig.recv = false → s.mig.go = false → s.mig.busy = true → s.mig.over = false → s.mig.key = some key →
    s.listEntry s.mig.pos = some (va, l) → (s.mig.full = true ∨ s.mig.taken.getD (s.mem.takeDirty l).1 = true) →
    s.mig.part.length < 64 → (s.mig.part = [] → ∀ e ∈ s.mig.pending, e.2 ≠ storeAddr l / 4096) →
    ∃ t : State, exec .migrationPass s = .next t ∧ (∀ a, t.mem.byte a = s.mem.byte a) ∧
      ∃ k, 0 < k ∧ s.mig.part.length + k ≤ 64 ∧
        let bs := s.mig.part ++ (List.range k).map fun i => s.sentBlk s.mig.owner (blkOf (l.plus (64 * (s.mig.part.length + i))))
        (bs.length < 64 → t.mig.pos = s.mig.pos ∧ t.mig.part = bs ∧ t.mig.granules = s.mig.granules) ∧
        (bs.length = 64 → t.mig.pos = s.mig.pos + 1 ∧ t.mig.part = [] ∧
          t.mig.granules = s.mig.granules ++ [s.mig.granuleRecord key va bs] ∧
          t.mig.pending = s.mig.pending ++ [(s.mig.seq + 1, storeAddr l / 4096)])) ∧
  (s.mig.busy = true → s.boot.state ≠ 8 → ∃ t : State, exec .migrationAbort s = .next t ∧
    (s.mig.go = true → t.mig.busy = false ∧ t.mig.go = false ∧ t.mig.result = 7) ∧ (s.mig.recv = true → t.mig.busy = false) ∧
    (s.mig.recv = false → s.mig.pending = [] → s.mig.taken = none → t.mig.busy = false) ∧
    (s.mig.recv = false → s.mig.go = false → (s.mig.pending ≠ [] ∨ s.mig.taken ≠ none ∧ s.mig.pos ≤ s.mig.mcount) →
      t.mig.busy = true ∧ t.mig.abort = true)) ∧
  (∀ q, ∃ t : State, exec (.recordAck q) s = .next t ∧ t.mig.pending = s.mig.pending.filter fun e => e.1 != q) ∧
  (∀ g : GranuleRec, s.mig.busy = true → s.mig.recv = true → s.mig.aborted = false → s.mig.go = false →
    (s.mig.genuine g.session g.seq g.words g.gcm = false → ∃ t : State, exec (.granuleRecord g) s = .next t ∧
      t.mig.aborted = true ∧ t.mig.busy = false ∧ t.mem = s.mem) ∧
    (s.mig.genuine g.session g.seq g.words g.gcm = true → g.tags.length = 64 → g.data.length = 4096 → s.mig.stale g.seq = true →
      exec (.granuleRecord g) s = .next (s.onMig fun m => m.refuse 1)) ∧
    ∀ ls, let u : State := s.onMig fun m => m.accept g.seq
      s.mig.genuine g.session g.seq g.words g.gcm = true → g.tags.length = 64 → g.data.length = 4096 → s.mig.stale g.seq = false →
      let key := s.mig.key.getD 0
      let data := cryptData key g.session g.seq g.data
      let tags := cryptTags key g.session g.seq g.tags
      u.granulePlaces g.va.toNat = some ls → ∃ t : State, exec (.granuleRecord g) s = .next t ∧ t.mem = s.mem ∧ t.mig = u.mig.took ∧
        ∀ i l, i < 64 → ls[i]? = some l → (t.accAt (s.nextId + i)).map (fun a => (a.loc, a.op, a.owner)) =
          some (l, .wblk 0 64 (blkOfBytes ((data.drop (64 * i)).take 64) (tags.getD i 0)), s.mig.owner)) ∧
  ∀ g : StateRec, s.mig.go = true → s.mig.imp = true → s.mig.genuine g.session g.seq g.sealed g.gcm = true → s.mig.stale g.seq = false →
    let r := typedOf (cryptWords (s.mig.key.getD 0) g.session g.seq g.words)
    (r.kind ≠ 0xFFFF → ∃ t : State, exec (.typedStateRecord g) s = .next t ∧ t.mig.got = s.mig.got ++ [r]) ∧
    (r.kind = 0xFFFF → exec (.typedStateRecord g) s = .next ((s.onMig fun m => (m.accept g.seq).took).importEnd r))

/-- A quote snapshots nonce, measurements, versions and accepted word, and its signature sets done; a nonce write clears
done. A verify makes an update that is not busy busy, and its end says verified with result 0 or idle with the code;
an install of a verified bundle is busy, and its end writes the flash or says 9; in operation or recovery an upload
write puts its bytes and makes the status idle. A temperature is kept with its maximum, and one at the critical
threshold makes the state critical and stretches the frame. A launch packet whose words are good, from the registered
node, with a new number, where none is under way, is accepted and sets its prior slice aside; of other words, from
another source, or with an old number it is dropped and counted; while one is under way it waits. Once the prior slice
has left, a packet of at most four tasks at dies without posts on this beat is answered with its report, and one whose
tasks are posted when the beat has room for all that it posted at their dies; before that it waits. The model's
choices: the signature is a free value (log 9), the words of the registration (log 35), which words and numbers of a
packet are good and that a packet waits (log 153), and the order of the codes of an upload (log 138).
(19_drv_launch.md R433, 19_drv_launch.md R434, 19_drv_launch.md R435, 21_fleet.md R464, 21_fleet.md R468, 21_fleet.md
R484, 21_fleet.md R485) -/
def Obligations.FleetOperationsComplete : Prop :=
  ∀ s : State,
  (∃ t : State, exec .quote s = .next t ∧ t.fleet.quote = s.quoteWords ∧ t.fleet.qgo = true ∧ t.fleet.qdone = false) ∧
  (s.fleet.qgo = true → ∃ t : State, exec .quoteSigned s = .next t ∧ t.fleet.qsig = Config.quoteSign s.fleet.quote ∧
    t.fleet.qdone = true) ∧
  (∀ i w, i < 6 → ∃ t : State, exec (.nonceWrite i w) s = .next t ∧ mget 0 t.fleet.nonce i = w ∧ t.fleet.qdone = false) ∧
  (s.fleet.upStatus ≠ .busy → ∃ t : State, exec .updateVerify s = .next t ∧ t.fleet.upStatus = .busy ∧ t.fleet.upResult = 0) ∧
  ((s.boot.state = 4 ∨ s.boot.state = 8) →
    ∀ off (bs : List Byte), off + bs.length ≤ 2 ^ 24 → ∃ t : State, exec (.uploadWindowWrite off bs) s = .next t ∧
      t.fleet.upStatus = .idle ∧ ∀ i, i < bs.length → mget 0 t.fleet.window (off + i) = bs.getD i 0) ∧
  (s.fleet.upStatus = .busy → s.fleet.installing = false → ∃ t : State, exec .updateVerifyDone s = .next t ∧
    t.fleet.upResult = s.uploadCode ∧ t.fleet.upStatus = if s.uploadCode = 0 then .verified else .idle) ∧
  (s.fleet.upStatus = .verified → ∃ t : State, exec .updateInstall s = .next t ∧ t.fleet.upStatus = .busy ∧
    t.fleet.installing = true) ∧
  (s.fleet.upStatus = .busy → s.fleet.installing = true →
    (∃ t : State, exec (.updateInstallDone true) s = .next t ∧ t.boot.flash = some s.fleet.uploaded ∧ t.fleet.upStatus = .installed) ∧
    ∃ t : State, exec (.updateInstallDone false) s = .next t ∧ t.boot = s.boot ∧ t.fleet.upStatus = .idle ∧ t.fleet.upResult = 9) ∧
  (∀ m v, m < 28 → v < 65536 → ∃ t : State, exec (.thermalChange m v) s = .next t ∧ mget 0 t.fleet.temps m = v ∧
    mget 0 t.fleet.tmax m = max (mget 0 s.fleet.tmax m) v ∧
    (4 * s.fleet.tcrit ≤ v → t.fleet.tstate = 2 ∧ t.frame.stretch = true)) ∧
  (∀ src ws,
    (s.node.pending = none → s.node.inbox = [] →
      (∀ g, launchOf ws = some g → s.node.from_ src = true → s.node.lastSeq ≤ g.seq →
        ∃ t : State, exec (.launchPacket ⟨src, ws⟩) s = .next t ∧ t.node.pending = some g ∧ t.node.lastSeq = g.seq + 1 ∧
          t.node.inbox = [] ∧ (g.prior ≠ 0 → g.prior ∈ t.node.aside)) ∧
      (launchOf ws = none ∨ s.node.from_ src = false ∨ (∃ g, launchOf ws = some g ∧ g.seq < s.node.lastSeq) →
        ∃ t : State, exec (.launchPacket ⟨src, ws⟩) s = .next t ∧ t.node.dropped = s.node.dropped + 1 ∧
          t.node.pending = none ∧ t.tasks = s.tasks)) ∧
    (s.node.pending ≠ none → ∃ t : State, exec (.launchPacket ⟨src, ws⟩) s = .next t ∧
      t.node.inbox = s.node.inbox ++ [(src, ws)] ∧ t.node.pending = s.node.pending ∧ t.tasks = s.tasks)) ∧
  ∀ g : Launch, s.node.pending = some g → s.node.inbox = [] →
    (s.node.rows = none → s.sliceOn g.prior = false → g.descs.length ≤ 4 → (∀ d, (s.dieAt d).posts = 0) →
      ∃ t : State, exec .sliceSetAside s = .next t ∧ t.node.pending = none ∧ g.slice ∉ t.node.aside ∧
        ∃ u n rows, t.node.reports = s.node.reports ++ [State.residency u g n rows]) ∧
    (s.node.rows = none → s.sliceOn g.prior = true → exec .sliceSetAside s = .next s) ∧
    ∀ rows, s.node.rows = some rows →
      ((∀ d ∈ g.descs, (s.dieAt (descDie d)).posts ≤ 4) → ∃ t : State, exec .sliceSetAside s = .next t ∧ t.node.pending = none ∧
        t.node.reports = s.node.reports ++ [State.residency s g (s.launchStatus g) rows]) ∧
      ((∃ d ∈ g.descs, 4 < (s.dieAt (descDie d)).posts) → exec .sliceSetAside s = .next s)

/-- Performed at its point of coherence under the tables that it was routed by, at a place that is no cell, not
uncorrectable and well tagged, where its bytes lie in one block that the owner's key opens under its own tweak and, in
a scratchpad, are valid and open to it: a store of w bytes leaves the w bytes at its place with the low bytes of its
value, an atomic and a sqadd with the new word of their operation, a cas with its value where the word equals the
comparand and as before elsewhere; every other byte of storage is as before. A load, an fpeek and a block read leave
every byte as before. (03_numbers.md R70, 04_memory.md R107, 12_ins_memory_sync.md R256, 12_ins_memory_sync.md R270,
12_ins_memory_sync.md R271, 12_ins_memory_sync.md R272) -/
def Obligations.StoresWriteExactlyTheirBytes : Prop :=
  ∀ (s : State) (id : Nat) (a : Access), s.accAt id = some a → a.agent = .c → a.orig = none →
    s.isCell (blkOf a.loc) = false → mget false s.mem.bad (blkOf a.loc) = false → pocOf s.placing a.loc ≠ 20000 →
    tagOk (s.feature 1) (mget 0 s.mem.tags (blkOf a.loc)) = true →
    (isScrBlk (blkOf a.loc) = false →
      mget none s.mem.keys (blkOf a.loc) = some (s.keyOf a.owner) ∧ mget none s.mem.tweaks (blkOf a.loc) = none) →
    let stored (w v : Nat) : Prop := ∀ p, (s.perform id).mem.byte p =
      if storeAddr a.loc ≤ p ∧ p < storeAddr a.loc + w then BitVec.ofNat 8 (v / 2 ^ (8 * (p - storeAddr a.loc))) else s.mem.byte p
    let fits (w : Nat) : Prop := inBlk a.loc + w ≤ 64 ∧ (∀ n o, a.loc = .scr n o → s.scrAccepts a o w n = none) ∧
      (isScrBlk (blkOf a.loc) = true → s.mem.allValid (blkOf a.loc) (inBlk a.loc) w = true)
    (∀ w v, a.op = .store w v → fits w → stored w v.toNat) ∧
    (∀ o w x b, a.op = .amo o w x b → fits w → stored w (amoNew o w (s.oldWord a w) b.toNat).1) ∧
    (∀ b, a.op = .sqadd b → fits 8 → stored 8 (s.oldWord a 8 + b.toNat)) ∧
    (∀ w x b c, a.op = .cas w x b c → fits w → stored w (if s.oldWord a w = c.toNat % 2 ^ (8 * w) then b.toNat else s.oldWord a w)) ∧
    ∀ w x, (a.op = .load w x ∨ a.op = .fpeek ∨ a.op = .rblk) → ∀ p, (s.perform id).mem.byte p = s.mem.byte p

/-- The state at reset: beat 0, no task, no core at work, every x register zero, no feature accepted and go clear, no
owner live and no key valid, boot state and error 0 and M0 to M3 zero, frames of 1,048,576 beats at frame 0, offset
0; the registers of modules, ports, power and parking at the reset values of their tables; every identifier free. The
zeros of storage and of registers without a stated value are the model's choice (log 1); no clause here rests on them
but the x registers'. (02_execution.md R45, 02_execution.md R59, 07_circuits_cells.md R160, 19_drv_launch.md R405,
19_drv_launch.md R406, 19_drv_launch.md R412, 19_drv_launch.md R436, 19_drv_launch.md R437, 21_fleet.md R466,
21_fleet.md R470, log 1) -/
def Obligations.ResetLeavesTheSpecsValues : Prop :=
  let s := State.reset
  s.beat = 0 ∧ s.tasks = [] ∧ (∀ n r, (s.coreAt n).pl.task = none ∧ (s.coreAt n).c.hlevel = false ∧ mget 0 (s.coreAt n).c.regs r = 0 ∧
    (s.coreAt n).cr.mlive = 0xFF) ∧
  s.bar0 0x1000 = 0x1FF ∧ s.bar0 0x1008 = 0 ∧ s.bar0 0x1010 = 0 ∧ s.bar0 0 = 0 ∧
  (∀ i, i < 4 → mget 0 s.boot.meas i = 0) ∧ (∀ o, (s.ownerAt o).octl = 0) ∧
  s.frame.fno = 0 ∧ s.frame.fofs = 0 ∧ s.frame.stretch = false ∧ s.frame.len = 1048576 ∧ (∀ g, (s.groupAt g).st = .free) ∧
  (∀ k, (s.moduleAt k).health = 0x0000000000084000) ∧
  (∀ p, (s.portAt p).word 0 = 0x0000000010080000 ∧ (s.portAt p).word 2 = 0x0000000001000000) ∧
  s.powerRead 0x800 = 0x00003E805F690000 ∧ s.circ.active.lens = [12500]

/-- The memory, with its rows that no granule is placed in, and the context buffers hold their tables in canonical form in
the state at reset. The form is the model's own; it makes equal memories equal data. (03_numbers.md R66) -/
def Obligations.StorageIsCanonicalAtReset : Prop :=
  Canonical State.reset

/-- From every state whose memory, with its rows that no granule is placed in, and whose context buffers are in canonical
form, a step that answers a next state, whatever instruction or transition of the device it runs, leaves them in
canonical form: keys strictly rising, and no entry equal to what an unlisted address reads as. (03_numbers.md R66,
03_numbers.md R70, 04_memory.md R100) -/
def Obligations.EveryStepKeepsStorageCanonical : Prop :=
  ∀ s t : State, Canonical s → step s = .next t → Canonical t
end

