-- ==== Sys2Proof/Laws/Dispatch.lean ====
section
/-!
SUPPORT. One equation for every instruction: exec of it is its meaning.
-/

set_option Elab.async false

namespace Sys2Proof.Machine

variable (s : State)

@[simp] theorem exec_add o : exec (.add o) s = execAdd o s := rfl
@[simp] theorem exec_sub o : exec (.sub o) s = execSub o s := rfl
@[simp] theorem exec_mul o : exec (.mul o) s = execMul o s := rfl
@[simp] theorem exec_mulh o : exec (.mulh o) s = execMulh o s := rfl
@[simp] theorem exec_mulhn o : exec (.mulhn o) s = execMulhn o s := rfl
@[simp] theorem exec_div o : exec (.div o) s = execDiv o s := rfl
@[simp] theorem exec_divn o : exec (.divn o) s = execDivn o s := rfl
@[simp] theorem exec_rem o : exec (.rem o) s = execRem o s := rfl
@[simp] theorem exec_remn o : exec (.remn o) s = execRemn o s := rfl
@[simp] theorem exec_and_ o : exec (.and_ o) s = execAnd o s := rfl
@[simp] theorem exec_or_ o : exec (.or_ o) s = execOr o s := rfl
@[simp] theorem exec_xor o : exec (.xor o) s = execXor o s := rfl
@[simp] theorem exec_andn o : exec (.andn o) s = execAndn o s := rfl
@[simp] theorem exec_shl o : exec (.shl o) s = execShl o s := rfl
@[simp] theorem exec_shr o : exec (.shr o) s = execShr o s := rfl
@[simp] theorem exec_sra o : exec (.sra o) s = execSra o s := rfl
@[simp] theorem exec_rotl o : exec (.rotl o) s = execRotl o s := rfl
@[simp] theorem exec_min_ o : exec (.min_ o) s = execMin o s := rfl
@[simp] theorem exec_max_ o : exec (.max_ o) s = execMax o s := rfl
@[simp] theorem exec_minn o : exec (.minn o) s = execMinn o s := rfl
@[simp] theorem exec_maxn o : exec (.maxn o) s = execMaxn o s := rfl
@[simp] theorem exec_clz o : exec (.clz o) s = execClz o s := rfl
@[simp] theorem exec_ctz o : exec (.ctz o) s = execCtz o s := rfl
@[simp] theorem exec_popc o : exec (.popc o) s = execPopc o s := rfl
@[simp] theorem exec_sel o : exec (.sel o) s = execSel o s := rfl
@[simp] theorem exec_adds o st : exec (.adds o st) s = execAdds o st s := rfl
@[simp] theorem exec_cmp o c : exec (.cmp o c) s = execCmp o c s := rfl
@[simp] theorem exec_addi o : exec (.addi o) s = execAddi o s := rfl
@[simp] theorem exec_andi o : exec (.andi o) s = execAndi o s := rfl
@[simp] theorem exec_ori o : exec (.ori o) s = execOri o s := rfl
@[simp] theorem exec_xori o : exec (.xori o) s = execXori o s := rfl
@[simp] theorem exec_shli o : exec (.shli o) s = execShli o s := rfl
@[simp] theorem exec_shri o : exec (.shri o) s = execShri o s := rfl
@[simp] theorem exec_srai o : exec (.srai o) s = execSrai o s := rfl
@[simp] theorem exec_cmpi o : exec (.cmpi o) s = execCmpi o s := rfl
@[simp] theorem exec_ext_ o : exec (.ext_ o) s = execExt o s := rfl
@[simp] theorem exec_ins o : exec (.ins o) s = execIns o s := rfl
@[simp] theorem exec_movh d ix : exec (.movh d ix) s = execMovh d ix s := rfl
@[simp] theorem exec_ldI8 o : exec (.ldI8 o) s = execLdI8 o s := rfl
@[simp] theorem exec_ldB16 o : exec (.ldB16 o) s = execLdB16 o s := rfl
@[simp] theorem exec_ldI32 o : exec (.ldI32 o) s = execLdI32 o s := rfl
@[simp] theorem exec_ldN32 o : exec (.ldN32 o) s = execLdN32 o s := rfl
@[simp] theorem exec_ldI64 o : exec (.ldI64 o) s = execLdI64 o s := rfl
@[simp] theorem exec_stI8 o : exec (.stI8 o) s = execStI8 o s := rfl
@[simp] theorem exec_stB16 o : exec (.stB16 o) s = execStB16 o s := rfl
@[simp] theorem exec_stI32 o : exec (.stI32 o) s = execStI32 o s := rfl
@[simp] theorem exec_stI64 o : exec (.stI64 o) s = execStI64 o s := rfl
@[simp] theorem exec_br o : exec (.br o) s = execBr o s := rfl
@[simp] theorem exec_loop a n : exec (.loop a n) s = execLoop a n s := rfl
@[simp] theorem exec_jmp n : exec (.jmp n) s = execJmp n s := rfl
@[simp] theorem exec_jal n : exec (.jal n) s = execJal n s := rfl
@[simp] theorem exec_amoI32 o op sc : exec (.amoI32 o op sc) s = execAmoI32 o op sc s := rfl
@[simp] theorem exec_amoFadd o sc : exec (.amoFadd o sc) s = execAmoFadd o sc s := rfl
@[simp] theorem exec_amoN32 o op sc : exec (.amoN32 o op sc) s = execAmoN32 o op sc s := rfl
@[simp] theorem exec_amoI64 o op sc : exec (.amoI64 o op sc) s = execAmoI64 o op sc s := rfl
@[simp] theorem exec_casI32 o sc : exec (.casI32 o sc) s = execCasI32 o sc s := rfl
@[simp] theorem exec_casN32 o sc : exec (.casN32 o sc) s = execCasN32 o sc s := rfl
@[simp] theorem exec_casI64 o sc : exec (.casI64 o sc) s = execCasI64 o sc s := rfl
@[simp] theorem exec_sqadd o sc : exec (.sqadd o sc) s = execSqadd o sc s := rfl
@[simp] theorem exec_qalign : exec .qalign s = execQalign s := rfl
@[simp] theorem exec_mjoin : exec .mjoin s = execMjoin s := rfl
@[simp] theorem exec_spal o : exec (.spal o) s = execSpal o s := rfl
@[simp] theorem exec_spfree o : exec (.spfree o) s = execSpfree o s := rfl
@[simp] theorem exec_waddrI32 o : exec (.waddrI32 o) s = execWaddrI32 o s := rfl
@[simp] theorem exec_waddrI64 o : exec (.waddrI64 o) s = execWaddrI64 o s := rfl
@[simp] theorem exec_wake o : exec (.wake o) s = execWake o s := rfl
@[simp] theorem exec_sqwait o : exec (.sqwait o) s = execSqwait o s := rfl
@[simp] theorem exec_swinit o : exec (.swinit o) s = execSwinit o s := rfl
@[simp] theorem exec_swait o : exec (.swait o) s = execSwait o s := rfl
@[simp] theorem exec_gjoin o : exec (.gjoin o) s = execGjoin o s := rfl
@[simp] theorem exec_gleave o : exec (.gleave o) s = execGleave o s := rfl
@[simp] theorem exec_gbar o : exec (.gbar o) s = execGbar o s := rfl
@[simp] theorem exec_jr o : exec (.jr o) s = execJr o s := rfl
@[simp] theorem exec_chlvl d a : exec (.chlvl d a) s = execChlvl d a s := rfl
@[simp] theorem exec_chdrop a : exec (.chdrop a) s = execChdrop a s := rfl
@[simp] theorem exec_wait l st c t : exec (.wait l st c t) s = execWait l st c t s := rfl
@[simp] theorem exec_chbind d k sel : exec (.chbind d k sel) s = execChbind d k sel s := rfl
@[simp] theorem exec_nop h : exec (.nop h) s = execNop h s := rfl
@[simp] theorem exec_fork o m : exec (.fork o m) s = execFork o m s := rfl
@[simp] theorem exec_rdv m : exec (.rdv m) s = execRdv m s := rfl
@[simp] theorem exec_estop m : exec (.estop m) s = execEstop m s := rfl
@[simp] theorem exec_ebase o m : exec (.ebase o m) s = execEbase o m s := rfl
@[simp] theorem exec_mfence m : exec (.mfence m) s = execMfence m s := rfl
@[simp] theorem exec_tbind n r o : exec (.tbind n r o) s = execTbind n r o s := rfl
@[simp] theorem exec_tunbind n : exec (.tunbind n) s = execTunbind n s := rfl
@[simp] theorem exec_post o : exec (.post o) s = execPost o s := rfl
@[simp] theorem exec_tail : exec .tail s = execTail s := rfl
@[simp] theorem exec_halt : exec .halt s = execHalt s := rfl
@[simp] theorem exec_ppoint m : exec (.ppoint m) s = execPpoint m s := rfl
@[simp] theorem exec_tfence : exec .tfence s = execTfence s := rfl
@[simp] theorem exec_sysc c : exec (.sysc c) s = execSysc c s := rfl
@[simp] theorem exec_brk c : exec (.brk c) s = execBrk c s := rfl
@[simp] theorem exec_eret : exec .eret s = execEret s := rfl
@[simp] theorem exec_csrr d n : exec (.csrr d n) s = execCsrr d n s := rfl
@[simp] theorem exec_csrw o : exec (.csrw o) s = execCsrw o s := rfl
@[simp] theorem exec_csrs o : exec (.csrs o) s = execCsrs o s := rfl
@[simp] theorem exec_csrc o : exec (.csrc o) s = execCsrc o s := rfl
@[simp] theorem exec_stset o : exec (.stset o) s = execStset o s := rfl
@[simp] theorem exec_stclr o : exec (.stclr o) s = execStclr o s := rfl
@[simp] theorem exec_sfwait o : exec (.sfwait o) s = execSfwait o s := rfl
@[simp] theorem exec_bemsg o : exec (.bemsg o) s = execBemsg o s := rfl
@[simp] theorem exec_hand o : exec (.hand o) s = execHand o s := rfl
@[simp] theorem exec_deal o : exec (.deal o) s = execDeal o s := rfl
@[simp] theorem exec_undeal o : exec (.undeal o) s = execUndeal o s := rfl
@[simp] theorem exec_rcirc o : exec (.rcirc o) s = execRcirc o s := rfl
@[simp] theorem exec_cgen o : exec (.cgen o) s = execCgen o s := rfl
@[simp] theorem exec_ctab o : exec (.ctab o) s = execCtab o s := rfl
@[simp] theorem exec_fdown o : exec (.fdown o) s = execFdown o s := rfl
@[simp] theorem exec_fpeek o : exec (.fpeek o) s = execFpeek o s := rfl
@[simp] theorem exec_fup o : exec (.fup o) s = execFup o s := rfl
@[simp] theorem exec_lease o : exec (.lease o) s = execLease o s := rfl
@[simp] theorem exec_spill o : exec (.spill o) s = execSpill o s := rfl
@[simp] theorem exec_fill o : exec (.fill o) s = execFill o s := rfl
@[simp] theorem exec_unlease o : exec (.unlease o) s = execUnlease o s := rfl
@[simp] theorem exec_tok a b c : exec (.tok a b c) s = execTok a b c s := rfl
@[simp] theorem exec_rloop t l n : exec (.rloop t l n) s = execRloop t l n s := rfl
@[simp] theorem exec_tableEnd : exec .tableEnd s = execTableEnd s := rfl
@[simp] theorem exec_lport p n c k : exec (.lport p n c k) s = execLport p n c k s := rfl
@[simp] theorem exec_lglob o : exec (.lglob o) s = execLglob o s := rfl
@[simp] theorem exec_lbc o : exec (.lbc o) s = execLbc o s := rfl
@[simp] theorem exec_lnest n b o k : exec (.lnest n b o k) s = execLnest n b o k s := rfl
@[simp] theorem exec_sport p n k : exec (.sport p n k) s = execSport p n k s := rfl
@[simp] theorem exec_sglob o : exec (.sglob o) s = execSglob o s := rfl
@[simp] theorem exec_vaddI8 o : exec (.vaddI8 o) s = execVaddI8 o s := rfl
@[simp] theorem exec_vaddI32 o : exec (.vaddI32 o) s = execVaddI32 o s := rfl
@[simp] theorem exec_vaddF32 o : exec (.vaddF32 o) s = execVaddF32 o s := rfl
@[simp] theorem exec_vaddB16 o : exec (.vaddB16 o) s = execVaddB16 o s := rfl
@[simp] theorem exec_vsubI8 o : exec (.vsubI8 o) s = execVsubI8 o s := rfl
@[simp] theorem exec_vsubI32 o : exec (.vsubI32 o) s = execVsubI32 o s := rfl
@[simp] theorem exec_vsubF32 o : exec (.vsubF32 o) s = execVsubF32 o s := rfl
@[simp] theorem exec_vsubB16 o : exec (.vsubB16 o) s = execVsubB16 o s := rfl
@[simp] theorem exec_vmulI32 o : exec (.vmulI32 o) s = execVmulI32 o s := rfl
@[simp] theorem exec_vmulF32 o : exec (.vmulF32 o) s = execVmulF32 o s := rfl
@[simp] theorem exec_vmulB16 o : exec (.vmulB16 o) s = execVmulB16 o s := rfl
@[simp] theorem exec_vfmaF32 o : exec (.vfmaF32 o) s = execVfmaF32 o s := rfl
@[simp] theorem exec_vfmaB16 o : exec (.vfmaB16 o) s = execVfmaB16 o s := rfl
@[simp] theorem exec_vfmsF32 o : exec (.vfmsF32 o) s = execVfmsF32 o s := rfl
@[simp] theorem exec_vfmsB16 o : exec (.vfmsB16 o) s = execVfmsB16 o s := rfl
@[simp] theorem exec_vminI32 o : exec (.vminI32 o) s = execVminI32 o s := rfl
@[simp] theorem exec_vminF32 o : exec (.vminF32 o) s = execVminF32 o s := rfl
@[simp] theorem exec_vminB16 o : exec (.vminB16 o) s = execVminB16 o s := rfl
@[simp] theorem exec_vmaxI32 o : exec (.vmaxI32 o) s = execVmaxI32 o s := rfl
@[simp] theorem exec_vmaxF32 o : exec (.vmaxF32 o) s = execVmaxF32 o s := rfl
@[simp] theorem exec_vmaxB16 o : exec (.vmaxB16 o) s = execVmaxB16 o s := rfl
@[simp] theorem exec_vand o : exec (.vand o) s = execVand o s := rfl
@[simp] theorem exec_vor o : exec (.vor o) s = execVor o s := rfl
@[simp] theorem exec_vxor o : exec (.vxor o) s = execVxor o s := rfl
@[simp] theorem exec_vandn o : exec (.vandn o) s = execVandn o s := rfl
@[simp] theorem exec_vshl o : exec (.vshl o) s = execVshl o s := rfl
@[simp] theorem exec_vshr o : exec (.vshr o) s = execVshr o s := rfl
@[simp] theorem exec_vsra o : exec (.vsra o) s = execVsra o s := rfl
@[simp] theorem exec_vcmpEqI32 o : exec (.vcmpEqI32 o) s = execVcmpEqI32 o s := rfl
@[simp] theorem exec_vcmpEqF32 o : exec (.vcmpEqF32 o) s = execVcmpEqF32 o s := rfl
@[simp] theorem exec_vcmpEqB16 o : exec (.vcmpEqB16 o) s = execVcmpEqB16 o s := rfl
@[simp] theorem exec_vcmpLtI32 o : exec (.vcmpLtI32 o) s = execVcmpLtI32 o s := rfl
@[simp] theorem exec_vcmpLtF32 o : exec (.vcmpLtF32 o) s = execVcmpLtF32 o s := rfl
@[simp] theorem exec_vcmpLtB16 o : exec (.vcmpLtB16 o) s = execVcmpLtB16 o s := rfl
@[simp] theorem exec_vcmpLeI32 o : exec (.vcmpLeI32 o) s = execVcmpLeI32 o s := rfl
@[simp] theorem exec_vcmpLeF32 o : exec (.vcmpLeF32 o) s = execVcmpLeF32 o s := rfl
@[simp] theorem exec_vcmpLeB16 o : exec (.vcmpLeB16 o) s = execVcmpLeB16 o s := rfl
@[simp] theorem exec_vsel o : exec (.vsel o) s = execVsel o s := rfl
@[simp] theorem exec_vpermI8 o : exec (.vpermI8 o) s = execVpermI8 o s := rfl
@[simp] theorem exec_vpermI32 o : exec (.vpermI32 o) s = execVpermI32 o s := rfl
@[simp] theorem exec_vclampI32 o : exec (.vclampI32 o) s = execVclampI32 o s := rfl
@[simp] theorem exec_vclampF32 o : exec (.vclampF32 o) s = execVclampF32 o s := rfl
@[simp] theorem exec_vclampB16 o : exec (.vclampB16 o) s = execVclampB16 o s := rfl
@[simp] theorem exec_vmovI8 o : exec (.vmovI8 o) s = execVmovI8 o s := rfl
@[simp] theorem exec_vmovI32 o : exec (.vmovI32 o) s = execVmovI32 o s := rfl
@[simp] theorem exec_vmovF32 o : exec (.vmovF32 o) s = execVmovF32 o s := rfl
@[simp] theorem exec_vmovB16 o : exec (.vmovB16 o) s = execVmovB16 o s := rfl
@[simp] theorem exec_vabsI8 o : exec (.vabsI8 o) s = execVabsI8 o s := rfl
@[simp] theorem exec_vabsI32 o : exec (.vabsI32 o) s = execVabsI32 o s := rfl
@[simp] theorem exec_vabsF32 o : exec (.vabsF32 o) s = execVabsF32 o s := rfl
@[simp] theorem exec_vabsB16 o : exec (.vabsB16 o) s = execVabsB16 o s := rfl
@[simp] theorem exec_vnegI8 o : exec (.vnegI8 o) s = execVnegI8 o s := rfl
@[simp] theorem exec_vnegI32 o : exec (.vnegI32 o) s = execVnegI32 o s := rfl
@[simp] theorem exec_vnegF32 o : exec (.vnegF32 o) s = execVnegF32 o s := rfl
@[simp] theorem exec_vnegB16 o : exec (.vnegB16 o) s = execVnegB16 o s := rfl
@[simp] theorem exec_vsumI32 o : exec (.vsumI32 o) s = execVsumI32 o s := rfl
@[simp] theorem exec_vsumF32 o : exec (.vsumF32 o) s = execVsumF32 o s := rfl
@[simp] theorem exec_vsumB16 o : exec (.vsumB16 o) s = execVsumB16 o s := rfl
@[simp] theorem exec_vscanI32 o : exec (.vscanI32 o) s = execVscanI32 o s := rfl
@[simp] theorem exec_vscanF32 o : exec (.vscanF32 o) s = execVscanF32 o s := rfl
@[simp] theorem exec_vscanB16 o : exec (.vscanB16 o) s = execVscanB16 o s := rfl
@[simp] theorem exec_vrcpF32 o : exec (.vrcpF32 o) s = execVrcpF32 o s := rfl
@[simp] theorem exec_vrcpB16 o : exec (.vrcpB16 o) s = execVrcpB16 o s := rfl
@[simp] theorem exec_vrsqF32 o : exec (.vrsqF32 o) s = execVrsqF32 o s := rfl
@[simp] theorem exec_vrsqB16 o : exec (.vrsqB16 o) s = execVrsqB16 o s := rfl
@[simp] theorem exec_vex2F32 o : exec (.vex2F32 o) s = execVex2F32 o s := rfl
@[simp] theorem exec_vex2B16 o : exec (.vex2B16 o) s = execVex2B16 o s := rfl
@[simp] theorem exec_vlg2F32 o : exec (.vlg2F32 o) s = execVlg2F32 o s := rfl
@[simp] theorem exec_vlg2B16 o : exec (.vlg2B16 o) s = execVlg2B16 o s := rfl
@[simp] theorem exec_vbc o l : exec (.vbc o l) s = execVbc o l s := rfl
@[simp] theorem exec_vcvtI8 o m f : exec (.vcvtI8 o m f) s = execVcvtI8 o m f s := rfl
@[simp] theorem exec_vcvtI32 o m f : exec (.vcvtI32 o m f) s = execVcvtI32 o m f s := rfl
@[simp] theorem exec_vcvtF32 o m f : exec (.vcvtF32 o m f) s = execVcvtF32 o m f s := rfl
@[simp] theorem exec_vcvtB16 o m f : exec (.vcvtB16 o m f) s = execVcvtB16 o m f s := rfl
@[simp] theorem exec_vcvtE4 o m f : exec (.vcvtE4 o m f) s = execVcvtE4 o m f s := rfl
@[simp] theorem exec_vcvtE5 o m f : exec (.vcvtE5 o m f) s = execVcvtE5 o m f s := rfl
@[simp] theorem exec_vcvtF4 o m f : exec (.vcvtF4 o m f) s = execVcvtF4 o m f s := rfl
@[simp] theorem exec_vcvtDs8 o m f : exec (.vcvtDs8 o m f) s = execVcvtDs8 o m f s := rfl
@[simp] theorem exec_vqmax o t f : exec (.vqmax o t f) s = execVqmax o t f s := rfl
@[simp] theorem exec_vqcvt o m t f : exec (.vqcvt o m t f) s = execVqcvt o m t f s := rfl
@[simp] theorem exec_vdq o t : exec (.vdq o t) s = execVdq o t s := rfl
@[simp] theorem exec_gop op w x y k : exec (.gop op w x y k) s = execGop op w x y k s := rfl
@[simp] theorem exec_vqcvtI8 o m f : exec (.vqcvtI8 o m f) s = execVqcvtI8 o m f s := rfl
@[simp] theorem exec_mmac e p t r o : exec (.mmac e p t r o) s = execMmac e p t r o s := rfl
@[simp] theorem exec_mclr e t : exec (.mclr e t) s = execMclr e t s := rfl
@[simp] theorem exec_mret e n t f m c : exec (.mret e n t f m c) s = execMret e n t f m c s := rfl
@[simp] theorem exec_mwsel e w : exec (.mwsel e w) s = execMwsel e w s := rfl
@[simp] theorem exec_mstampAbs e : exec (.mstampAbs e) s = execMstampAbs e s := rfl
@[simp] theorem exec_mstampAdd e b : exec (.mstampAdd e b) s = execMstampAdd e b s := rfl
@[simp] theorem exec_mnop e : exec (.mnop e) s = execMnop e s := rfl
@[simp] theorem exec_xcopy o : exec (.xcopy o) s = execXcopy o s := rfl
@[simp] theorem exec_xgat o : exec (.xgat o) s = execXgat o s := rfl
@[simp] theorem exec_xsct o : exec (.xsct o) s = execXsct o s := rfl
@[simp] theorem exec_xwload o : exec (.xwload o) s = execXwload o s := rfl
@[simp] theorem exec_xred o : exec (.xred o) s = execXred o s := rfl
@[simp] theorem exec_xwenq o : exec (.xwenq o) s = execXwenq o s := rfl
@[simp] theorem exec_xsend o : exec (.xsend o) s = execXsend o s := rfl
@[simp] theorem exec_xcoll o : exec (.xcoll o) s = execXcoll o s := rfl
@[simp] theorem exec_powerOn b : exec (.powerOn b) s = execPowerOn b s := rfl
@[simp] theorem exec_functionLevelReset : exec .functionLevelReset s = execFunctionLevelReset s := rfl
@[simp] theorem exec_linkHbmTrainingDone ok : exec (.linkHbmTrainingDone ok) s = execLinkHbmTrainingDone ok s := rfl
@[simp] theorem exec_featureGo : exec .featureGo s = execFeatureGo s := rfl
@[simp] theorem exec_registerImage : exec .registerImage s = execRegisterImage s := rfl
@[simp] theorem exec_unregisterImage : exec .unregisterImage s = execUnregisterImage s := rfl
@[simp] theorem exec_unmap : exec .unmap s = execUnmap s := rfl
@[simp] theorem exec_unmapPinsDropped : exec .unmapPinsDropped s = execUnmapPinsDropped s := rfl
@[simp] theorem exec_relocate : exec .relocate s = execRelocate s := rfl
@[simp] theorem exec_undealCommand : exec .undealCommand s = execUndealCommand s := rfl
@[simp] theorem exec_commitSvn : exec .commitSvn s = execCommitSvn s := rfl
@[simp] theorem exec_keyInstall owner w : exec (.keyInstall owner w) s = execKeyInstall owner w s := rfl
@[simp] theorem exec_octlWrite owner w : exec (.octlWrite owner w) s = execOctlWrite owner w s := rfl
@[simp] theorem exec_hostRead off len : exec (.hostRead off len) s = execHostRead off len s := rfl
@[simp] theorem exec_hostWrite off data : exec (.hostWrite off data) s = execHostWrite off data s := rfl
@[simp] theorem exec_hostAtomicop off width op b cmp :
    exec (.hostAtomicop off width op b cmp) s = execHostAtomicop off width op b cmp s := rfl
@[simp] theorem exec_mailboxPush core w : exec (.mailboxPush core w) s = execMailboxPush core w s := rfl
@[simp] theorem exec_postPortPost die w : exec (.postPortPost die w) s = execPostPortPost die w s := rfl
@[simp] theorem exec_dirtySnapshot slice w : exec (.dirtySnapshot slice w) s = execDirtySnapshot slice w s := rfl
@[simp] theorem exec_tableRewriteCommit : exec .tableRewriteCommit s = execTableRewriteCommit s := rfl
@[simp] theorem exec_tableRewriteDrained : exec .tableRewriteDrained s = execTableRewriteDrained s := rfl
@[simp] theorem exec_hvecWrite die w : exec (.hvecWrite die w) s = execHvecWrite die w s := rfl
@[simp] theorem exec_preemptRequest die core : exec (.preemptRequest die core) s = execPreemptRequest die core s := rfl
@[simp] theorem exec_preemptCancel die core : exec (.preemptCancel die core) s = execPreemptCancel die core s := rfl
@[simp] theorem exec_driverInterrupt die core data : exec (.driverInterrupt die core data) s = execDriverInterrupt die core data s :=
  rfl
@[simp] theorem exec_moduleRetrainRequest mort strand :
    exec (.moduleRetrainRequest mort strand) s = execModuleRetrainRequest mort strand s := rfl
@[simp] theorem exec_moduleWindowBoundary mort strand :
    exec (.moduleWindowBoundary mort strand) s = execModuleWindowBoundary mort strand s := rfl
@[simp] theorem exec_portReopen port : exec (.portReopen port) s = execPortReopen port s := rfl
@[simp] theorem exec_portHealthWindow port : exec (.portHealthWindow port) s = execPortHealthWindow port s := rfl
@[simp] theorem exec_portPark port : exec (.portPark port) s = execPortPark port s := rfl
@[simp] theorem exec_portWake port : exec (.portWake port) s = execPortWake port s := rfl
@[simp] theorem exec_portIdleTimeout port : exec (.portIdleTimeout port) s = execPortIdleTimeout port s := rfl
@[simp] theorem exec_widthChangeBoundary port : exec (.widthChangeBoundary port) s = execWidthChangeBoundary port s := rfl
@[simp] theorem exec_wavelengthRelockDone port : exec (.wavelengthRelockDone port) s = execWavelengthRelockDone port s := rfl
@[simp] theorem exec_wakeBudgetExpired port : exec (.wakeBudgetExpired port) s = execWakeBudgetExpired port s := rfl
@[simp] theorem exec_migrationPass : exec .migrationPass s = execMigrationPass s := rfl
@[simp] theorem exec_migrationReceive : exec .migrationReceive s = execMigrationReceive s := rfl
@[simp] theorem exec_migrationAbort : exec .migrationAbort s = execMigrationAbort s := rfl
@[simp] theorem exec_sessionKeyInstall w : exec (.sessionKeyInstall w) s = execSessionKeyInstall w s := rfl
@[simp] theorem exec_msessWrite w : exec (.msessWrite w) s = execMsessWrite w s := rfl
@[simp] theorem exec_granuleRecord g : exec (.granuleRecord g) s = execGranuleRecord g s := rfl
@[simp] theorem exec_recordAck seq : exec (.recordAck seq) s = execRecordAck seq s := rfl
@[simp] theorem exec_taskExport : exec .taskExport s = execTaskExport s := rfl
@[simp] theorem exec_taskImport : exec .taskImport s = execTaskImport s := rfl
@[simp] theorem exec_typedStateRecord g : exec (.typedStateRecord g) s = execTypedStateRecord g s := rfl
@[simp] theorem exec_quote : exec .quote s = execQuote s := rfl
@[simp] theorem exec_quoteSigned : exec .quoteSigned s = execQuoteSigned s := rfl
@[simp] theorem exec_nonceWrite ix w : exec (.nonceWrite ix w) s = execNonceWrite ix w s := rfl
@[simp] theorem exec_updateVerify : exec .updateVerify s = execUpdateVerify s := rfl
@[simp] theorem exec_updateVerifyDone : exec .updateVerifyDone s = execUpdateVerifyDone s := rfl
@[simp] theorem exec_updateInstall : exec .updateInstall s = execUpdateInstall s := rfl
@[simp] theorem exec_updateInstallDone ok : exec (.updateInstallDone ok) s = execUpdateInstallDone ok s := rfl
@[simp] theorem exec_uploadWindowWrite off bytes : exec (.uploadWindowWrite off bytes) s = execUploadWindowWrite off bytes s :=
  rfl
@[simp] theorem exec_thermalChange mort temp : exec (.thermalChange mort temp) s = execThermalChange mort temp s := rfl
@[simp] theorem exec_registerWrite bar off w : exec (.registerWrite bar off w) s = execRegisterWrite bar off w s := rfl
@[simp] theorem exec_launchPacket g : exec (.launchPacket g) s = execLaunchPacket g s := rfl
@[simp] theorem exec_sliceSetAside : exec .sliceSetAside s = execSliceSetAside s := rfl
@[simp] theorem exec_collectiveAbort handle seq : exec (.collectiveAbort handle seq) s = execCollectiveAbort handle seq s := rfl
@[simp] theorem exec_domainJoin pkg time : exec (.domainJoin pkg time) s = execDomainJoin pkg time s := rfl
@[simp] theorem exec_circuitSlotStart : exec .circuitSlotStart s = execCircuitSlotStart s := rfl
@[simp] theorem exec_dataWindowOpen port : exec (.dataWindowOpen port) s = execDataWindowOpen port s := rfl
@[simp] theorem exec_circuitCommit : exec .circuitCommit s = execCircuitCommit s := rfl
@[simp] theorem exec_sendDataFlit f : exec (.sendDataFlit f) s = execSendDataFlit f s := rfl
@[simp] theorem exec_transactionFlit t : exec (.transactionFlit t) s = execTransactionFlit t s := rfl
@[simp] theorem exec_collectivePacket port g : exec (.collectivePacket port g) s = execCollectivePacket port g s := rfl
@[simp] theorem exec_abortFlit f seq : exec (.abortFlit f seq) s = execAbortFlit f seq s := rfl
@[simp] theorem exec_controlFrame g : exec (.controlFrame g) s = execControlFrame g s := rfl
@[simp] theorem exec_fecFrameUncorrectable port seq :
    exec (.fecFrameUncorrectable port seq) s = execFecFrameUncorrectable port seq s := rfl
@[simp] theorem exec_frameReplayRequest port seq : exec (.frameReplayRequest port seq) s = execFrameReplayRequest port seq s :=
  rfl
@[simp] theorem exec_sendAccepted port id bytes code :
    exec (.sendAccepted port id bytes code) s = execSendAccepted port id bytes code s := rfl
@[simp] theorem exec_sweepAdd die stage chunk : exec (.sweepAdd die stage chunk) s = execSweepAdd die stage chunk s := rfl
@[simp] theorem exec_ucieFlitReceived mort strand up crcOk :
    exec (.ucieFlitReceived mort strand up crcOk) s = execUcieFlitReceived mort strand up crcOk s := rfl
@[simp] theorem exec_retryTimeout mort strand up : exec (.retryTimeout mort strand up) s = execRetryTimeout mort strand up s :=
  rfl
@[simp] theorem exec_moduleRetrainEnd mort strand lo hi :
    exec (.moduleRetrainEnd mort strand lo hi) s = execModuleRetrainEnd mort strand lo hi s := rfl
@[simp] theorem exec_stationLoad strand mort : exec (.stationLoad strand mort) s = execStationLoad strand mort s := rfl
@[simp] theorem exec_stationAdd strand mort : exec (.stationAdd strand mort) s = execStationAdd strand mort s := rfl
@[simp] theorem exec_stationCopy strand mort : exec (.stationCopy strand mort) s = execStationCopy strand mort s := rfl
@[simp] theorem exec_stationTake strand mort : exec (.stationTake strand mort) s = execStationTake strand mort s := rfl
@[simp] theorem exec_stationFlagRaise die : exec (.stationFlagRaise die) s = execStationFlagRaise die s := rfl
@[simp] theorem exec_handTakesEffect strand mort : exec (.handTakesEffect strand mort) s = execHandTakesEffect strand mort s :=
  rfl
@[simp] theorem exec_handWithhold strand mort : exec (.handWithhold strand mort) s = execHandWithhold strand mort s := rfl
@[simp] theorem exec_parcelBoard strand mort : exec (.parcelBoard strand mort) s = execParcelBoard strand mort s := rfl
@[simp] theorem exec_slotClaim strand mort : exec (.slotClaim strand mort) s = execSlotClaim strand mort s := rfl
@[simp] theorem exec_parcelDelivery strand mort : exec (.parcelDelivery strand mort) s = execParcelDelivery strand mort s := rfl
@[simp] theorem exec_fullSlotReturn strand mort : exec (.fullSlotReturn strand mort) s = execFullSlotReturn strand mort s := rfl
@[simp] theorem exec_groupQuarantineEnd gid : exec (.groupQuarantineEnd gid) s = execGroupQuarantineEnd gid s := rfl
@[simp] theorem exec_homeSliceOperation acc : exec (.homeSliceOperation acc) s = execHomeSliceOperation acc s := rfl
@[simp] theorem exec_homeSliceLoad acc : exec (.homeSliceLoad acc) s = execHomeSliceLoad acc s := rfl
@[simp] theorem exec_writeBack slice : exec (.writeBack slice) s = execWriteBack slice s := rfl
@[simp] theorem exec_bankOperation die bank : exec (.bankOperation die bank) s = execBankOperation die bank s := rfl
@[simp] theorem exec_accessCompletion acc : exec (.accessCompletion acc) s = execAccessCompletion acc s := rfl
@[simp] theorem exec_timetablePost acc : exec (.timetablePost acc) s = execTimetablePost acc s := rfl
@[simp] theorem exec_counterReport die : exec (.counterReport die) s = execCounterReport die s := rfl
@[simp] theorem exec_releaseTick die : exec (.releaseTick die) s = execReleaseTick die s := rfl
@[simp] theorem exec_placement die : exec (.placement die) s = execPlacement die s := rfl
@[simp] theorem exec_overlayLoadDone core : exec (.overlayLoadDone core) s = execOverlayLoadDone core s := rfl
@[simp] theorem exec_frameBarrier : exec .frameBarrier s = execFrameBarrier s := rfl
@[simp] theorem exec_powerHoldEnd : exec .powerHoldEnd s = execPowerHoldEnd s := rfl
@[simp] theorem exec_deadlinePassed task : exec (.deadlinePassed task) s = execDeadlinePassed task s := rfl
@[simp] theorem exec_taskRetire task : exec (.taskRetire task) s = execTaskRetire task s := rfl
@[simp] theorem exec_preemptAtRetirement core : exec (.preemptAtRetirement core) s = execPreemptAtRetirement core s := rfl
@[simp] theorem exec_contextSave core : exec (.contextSave core) s = execContextSave core s := rfl
@[simp] theorem exec_saveCommit core : exec (.saveCommit core) s = execSaveCommit core s := rfl
@[simp] theorem exec_contextSlotAcquire die : exec (.contextSlotAcquire die) s = execContextSlotAcquire die s := rfl
@[simp] theorem exec_restoreDone core : exec (.restoreDone core) s = execRestoreDone core s := rfl
@[simp] theorem exec_checkpointWriteback core unit_ :
    exec (.checkpointWriteback core unit_) s = execCheckpointWriteback core unit_ s := rfl
@[simp] theorem exec_watchdogStall core : exec (.watchdogStall core) s = execWatchdogStall core s := rfl
@[simp] theorem exec_watchdogLate core : exec (.watchdogLate core) s = execWatchdogLate core s := rfl
@[simp] theorem exec_watchdogSave core : exec (.watchdogSave core) s = execWatchdogSave core s := rfl
@[simp] theorem exec_eventTaken core : exec (.eventTaken core) s = execEventTaken core s := rfl
@[simp] theorem exec_portWalkFetch core port : exec (.portWalkFetch core port) s = execPortWalkFetch core port s := rfl
@[simp] theorem exec_portDrain core port : exec (.portDrain core port) s = execPortDrain core port s := rfl
@[simp] theorem exec_engineCompletion core job : exec (.engineCompletion core job) s = execEngineCompletion core job s := rfl
@[simp] theorem exec_bundleVerified : exec .bundleVerified s = execBundleVerified s := rfl
@[simp] theorem exec_headerError strand e :
    exec (.headerError strand e) s = execHeaderError strand e s := rfl

end Sys2Proof.Machine
end

