-- ==== Sys2Proof/Laws/Map.lean ====
section
/-!
SUPPORT. Laws of sparse tables: a read after a write, writes to different keys, and the canonical form, which every
operation on tables keeps.
-/

set_option Elab.async false

namespace Sys2Proof.Machine

variable {α : Type}

@[simp] theorem mget_nil (d : α) (k : Nat) : mget d [] k = d := rfl

/-- A deleted key reads as the default. -/
@[simp] theorem mget_mdel_same (d : α) (m : SMap α) (k : Nat) : mget d (mdel k m) k = d := by
  induction m with
  | nil => rfl
  | cons e t ih =>
    obtain ⟨j, w⟩ := e
    by_cases h : j = k <;> simp [mdel, mget, h, ih]

/-- Deleting a key leaves every other key alone. -/
theorem mget_mdel_other (d : α) (m : SMap α) {k j : Nat} (h : j ≠ k) : mget d (mdel k m) j = mget d m j := by
  induction m with
  | nil => rfl
  | cons e t ih =>
    obtain ⟨i, w⟩ := e
    by_cases hi : i = k
    · subst hi; simpa [mdel, mget, Ne.symm h] using ih
    · simp only [mdel, hi, if_false, mget]
      split
      · rfl
      · exact ih

/-- A key that was put reads as what was put. -/
theorem mget_mput_same (d : α) (m : SMap α) (k : Nat) (v : α) (h : ∀ e ∈ m, e.1 ≠ k) : mget d (mput k v m) k = v := by
  induction m with
  | nil => simp [mput, mget]
  | cons e t ih =>
    obtain ⟨j, w⟩ := e
    have hj : j ≠ k := h _ (List.mem_cons_self ..)
    by_cases hk : k < j
    · simp [mput, hk, mget]
    · simp [mput, hk, mget, hj, ih fun e he => h e (List.mem_cons_of_mem _ he)]

/-- Putting a key leaves every other key alone. -/
theorem mget_mput_other (d : α) (m : SMap α) {k j : Nat} (v : α) (h : j ≠ k) : mget d (mput k v m) j = mget d m j := by
  induction m with
  | nil => simp [mput, mget, Ne.symm h]
  | cons e t ih =>
    obtain ⟨i, w⟩ := e
    by_cases hk : k < i
    · simp [mput, hk, mget, Ne.symm h]
    · simp only [mput, hk, if_false, mget]
      split
      · rfl
      · exact ih

/-- A deleted key is no longer listed. -/
theorem mdel_not_mem (m : SMap α) (k : Nat) : ∀ e ∈ mdel k m, e.1 ≠ k := by
  induction m with
  | nil => simp [mdel]
  | cons e t ih =>
    obtain ⟨j, w⟩ := e
    by_cases h : j = k
    · simpa [mdel, h] using ih
    · intro x hx
      simp only [mdel, h, if_false, List.mem_cons] at hx
      rcases hx with rfl | hx
      · exact h
      · exact ih x hx

/-- What is left of a table was in it. -/
theorem mdel_sub (m : SMap α) (k : Nat) : ∀ e ∈ mdel k m, e ∈ m := by
  induction m with
  | nil => simp [mdel]
  | cons e t ih =>
    obtain ⟨j, w⟩ := e
    intro x hx
    by_cases h : j = k
    · exact List.mem_cons_of_mem _ (ih x (by simpa [mdel, h] using hx))
    · simp only [mdel, h, if_false, List.mem_cons] at hx
      rcases hx with rfl | hx
      · exact List.mem_cons_self ..
      · exact List.mem_cons_of_mem _ (ih x hx)

variable [DecidableEq α]

/-- A read after a write to the same key gives the value written. -/
@[simp] theorem mget_mset_same (d : α) (m : SMap α) (k : Nat) (v : α) : mget d (mset d m k v) k = v := by
  by_cases h : v = d
  · simp [mset, h]
  · simp [mset, h, mget_mput_same d _ k v (mdel_not_mem m k)]

/-- A write leaves every other key alone. -/
theorem mget_mset_other (d : α) (m : SMap α) {k j : Nat} (v : α) (h : j ≠ k) : mget d (mset d m k v) j = mget d m j := by
  by_cases hv : v = d
  · simp [mset, hv, mget_mdel_other d m h]
  · simp [mset, hv, mget_mput_other d _ v h, mget_mdel_other d m h]

/-- A read after a write, by cases on the key. -/
theorem mget_mset (d : α) (m : SMap α) (k j : Nat) (v : α) :
    mget d (mset d m k v) j = if j = k then v else mget d m j := by
  by_cases h : j = k
  · subst h; simp
  · simp [h, mget_mset_other d m v h]

@[simp] theorem mget_mmod_same (d : α) (m : SMap α) (k : Nat) (f : α → α) : mget d (mmod d m k f) k = f (mget d m k) := by
  simp [mmod]

theorem mget_mmod_other (d : α) (m : SMap α) {k j : Nat} (f : α → α) (h : j ≠ k) :
    mget d (mmod d m k f) j = mget d m j := mget_mset_other d m _ h

/-! ## The canonical form -/

theorem mwf_cons (d : α) (k : Nat) (v : α) (t : SMap α) :
    mwf d ((k, v) :: t) = true ↔ v ≠ d ∧ (∀ e ∈ t, k < e.1) ∧ mwf d t = true := by
  simp [mwf, and_assoc]

/-- Deleting a key keeps the canonical form. -/
theorem mwf_mdel (d : α) (m : SMap α) (k : Nat) (h : mwf d m = true) : mwf d (mdel k m) = true := by
  induction m with
  | nil => exact h
  | cons e t ih =>
    obtain ⟨j, w⟩ := e
    rw [mwf_cons] at h
    by_cases hj : j = k
    · simpa [mdel, hj] using ih h.2.2
    · simp only [mdel, hj, if_false, mwf_cons]
      exact ⟨h.1, fun e he => h.2.1 e (mdel_sub t k e he), ih h.2.2⟩

omit [DecidableEq α] in
theorem mem_mput (m : SMap α) (k : Nat) (v : α) (e : Nat × α) (h : e ∈ mput k v m) : e = (k, v) ∨ e ∈ m := by
  induction m with
  | nil => simpa [mput] using h
  | cons x t ih =>
    obtain ⟨j, w⟩ := x
    by_cases hk : k < j
    · simpa [mput, hk] using h
    · simp only [mput, hk, if_false, List.mem_cons] at h
      rcases h with rfl | h
      · exact .inr (List.mem_cons_self ..)
      · exact (ih h).imp id (List.mem_cons_of_mem _)

/-- Putting a new key keeps the canonical form. -/
theorem mwf_mput (d : α) (m : SMap α) (k : Nat) (v : α) (h : mwf d m = true) (hv : v ≠ d) (hk : ∀ e ∈ m, e.1 ≠ k) :
    mwf d (mput k v m) = true := by
  induction m with
  | nil => simp [mput, mwf, hv]
  | cons e t ih =>
    obtain ⟨j, w⟩ := e
    rw [mwf_cons] at h
    have hj : j ≠ k := hk _ (List.mem_cons_self ..)
    by_cases hl : k < j
    · simp only [mput, hl, if_true, mwf_cons]
      refine ⟨hv, fun e he => ?_, h.1, h.2.1, h.2.2⟩
      rcases List.mem_cons.1 he with rfl | he
      · exact hl
      · exact Nat.lt_trans hl (h.2.1 e he)
    · simp only [mput, hl, if_false, mwf_cons]
      refine ⟨h.1, fun e he => ?_, ih h.2.2 fun e he => hk e (List.mem_cons_of_mem _ he)⟩
      rcases mem_mput t k v e he with rfl | he
      · show j < k; omega
      · exact h.2.1 e he

/-- A write keeps the canonical form. -/
theorem mwf_mset (d : α) (m : SMap α) (k : Nat) (v : α) (h : mwf d m = true) : mwf d (mset d m k v) = true := by
  by_cases hv : v = d
  · simpa [mset, hv] using mwf_mdel d m k h
  · simpa [mset, hv] using mwf_mput d _ k v (mwf_mdel d m k h) hv (mdel_not_mem m k)

theorem mwf_mmod (d : α) (m : SMap α) (k : Nat) (f : α → α) (h : mwf d m = true) : mwf d (mmod d m k f) = true :=
  mwf_mset d m k _ h

/-- Writing a run of keys keeps the canonical form. -/
theorem mwf_msetList (d : α) (vs : List α) (m : SMap α) (k : Nat) (h : mwf d m = true) :
    mwf d (msetList d m k vs) = true := by
  induction vs generalizing m k with
  | nil => exact h
  | cons v t ih => exact ih _ _ (mwf_mset d m k v h)

/-- Clearing a run of keys keeps the canonical form. -/
theorem mwf_filter (d : α) (m : SMap α) (p : Nat × α → Bool) (h : mwf d m = true) : mwf d (m.filter p) = true := by
  induction m with
  | nil => exact h
  | cons e t ih =>
    obtain ⟨j, w⟩ := e
    rw [mwf_cons] at h
    by_cases hp : p (j, w) = true
    · rw [List.filter_cons_of_pos hp, mwf_cons]
      exact ⟨h.1, fun e he => h.2.1 e (List.mem_filter.1 he).1, ih h.2.2⟩
    · rw [List.filter_cons_of_neg hp]; exact ih h.2.2

theorem mwf_mclear (d : α) (m : SMap α) (k n : Nat) (h : mwf d m = true) : mwf d (mclear m k n) = true :=
  mwf_filter d m _ h

/-- A run of writes leaves a key outside it alone. -/
theorem mget_msetList_out (d : α) (vs : List α) (m : SMap α) (k j : Nat) (h : j < k ∨ k + vs.length ≤ j) :
    mget d (msetList d m k vs) j = mget d m j := by
  induction vs generalizing m k with
  | nil => rfl
  | cons v t ih =>
    simp only [List.length_cons] at h
    rw [msetList, ih _ _ (by omega), mget_mset_other d m v (by omega)]

/-- A key inside a run of writes reads as its value. -/
theorem mget_msetList_in (d : α) (vs : List α) (m : SMap α) (k j : Nat) (h : j < vs.length) :
    mget d (msetList d m k vs) (k + j) = vs.getD j d := by
  induction vs generalizing m k j with
  | nil => simp at h
  | cons v t ih =>
    cases j with
    | zero =>
      simp only [Nat.add_zero, msetList]
      rw [mget_msetList_out d t _ (k + 1) k (by omega)]; simp
    | succ j =>
      rw [msetList, show k + (j + 1) = (k + 1) + j by omega, ih _ _ _ (by simpa using h)]; simp

end Sys2Proof.Machine
end

