-- ==== Sys2Proof/Laws/State.lean ====
section
/-!
SUPPORT. What each update of the state leaves alone and what it writes: one lemma for each field and each update, and the
reading laws of the tables.
-/

set_option Elab.async false

namespace Sys2Proof.Machine

variable (s : State)

/-! ## setCore -/

@[simp] theorem setCore_beat (n : Nat) (k : Core) : (s.setCore n k).beat = s.beat := rfl
@[simp] theorem setCore_turn (n : Nat) (k : Core) : (s.setCore n k).turn = s.turn := rfl
@[simp] theorem setCore_free (n : Nat) (k : Core) : (s.setCore n k).free = s.free := rfl
@[simp] theorem setCore_nextId (n : Nat) (k : Core) : (s.setCore n k).nextId = s.nextId := rfl
@[simp] theorem setCore_dies (n : Nat) (k : Core) : (s.setCore n k).dies = s.dies := rfl
@[simp] theorem setCore_mem (n : Nat) (k : Core) : (s.setCore n k).mem = s.mem := rfl
@[simp] theorem setCore_accs (n : Nat) (k : Core) : (s.setCore n k).accs = s.accs := rfl
@[simp] theorem setCore_tasks (n : Nat) (k : Core) : (s.setCore n k).tasks = s.tasks := rfl
@[simp] theorem setCore_limbo (n : Nat) (k : Core) : (s.setCore n k).limbo = s.limbo := rfl
@[simp] theorem setCore_frame (n : Nat) (k : Core) : (s.setCore n k).frame = s.frame := rfl
@[simp] theorem setCore_groups (n : Nat) (k : Core) : (s.setCore n k).groups = s.groups := rfl
@[simp] theorem setCore_owners (n : Nat) (k : Core) : (s.setCore n k).owners = s.owners := rfl
@[simp] theorem setCore_images (n : Nat) (k : Core) : (s.setCore n k).images = s.images := rfl
@[simp] theorem setCore_boot (n : Nat) (k : Core) : (s.setCore n k).boot = s.boot := rfl
@[simp] theorem setCore_cmd (n : Nat) (k : Core) : (s.setCore n k).cmd = s.cmd := rfl
@[simp] theorem setCore_placing (n : Nat) (k : Core) : (s.setCore n k).placing = s.placing := rfl
@[simp] theorem setCore_node (n : Nat) (k : Core) : (s.setCore n k).node = s.node := rfl
@[simp] theorem setCore_ev (n : Nat) (k : Core) : (s.setCore n k).ev = s.ev := rfl
@[simp] theorem setCore_conv (n : Nat) (k : Core) : (s.setCore n k).conv = s.conv := rfl
@[simp] theorem setCore_circ (n : Nat) (k : Core) : (s.setCore n k).circ = s.circ := rfl
@[simp] theorem setCore_coll (n : Nat) (k : Core) : (s.setCore n k).coll = s.coll := rfl
@[simp] theorem setCore_links (n : Nat) (k : Core) : (s.setCore n k).links = s.links := rfl
@[simp] theorem setCore_mig (n : Nat) (k : Core) : (s.setCore n k).mig = s.mig := rfl
@[simp] theorem setCore_fleet (n : Nat) (k : Core) : (s.setCore n k).fleet = s.fleet := rfl
@[simp] theorem setCore_dieAt (n : Nat) (k : Core) (m : Nat) : (s.setCore n k).dieAt m = s.dieAt m := rfl
@[simp] theorem setCore_ownerAt (n : Nat) (k : Core) (m : Nat) : (s.setCore n k).ownerAt m = s.ownerAt m := rfl
@[simp] theorem setCore_taskAt (n : Nat) (k : Core) (m : Nat) : (s.setCore n k).taskAt m = s.taskAt m := rfl
@[simp] theorem setCore_accAt (n : Nat) (k : Core) (m : Nat) : (s.setCore n k).accAt m = s.accAt m := rfl
@[simp] theorem setCore_groupAt (n : Nat) (k : Core) (m : Nat) : (s.setCore n k).groupAt m = s.groupAt m := rfl
@[simp] theorem setCore_portAt (n : Nat) (k : Core) (m : Nat) : (s.setCore n k).portAt m = s.portAt m := rfl
@[simp] theorem setCore_moduleAt (n : Nat) (k : Core) (m : Nat) : (s.setCore n k).moduleAt m = s.moduleAt m := rfl
@[simp] theorem setCore_bufAt (n : Nat) (k : Core) (m : Nat) : (s.setCore n k).bufAt m = s.bufAt m := rfl
@[simp] theorem setCore_feature (n : Nat) (k : Core) (m : Nat) : (s.setCore n k).feature m = s.feature m := rfl
@[simp] theorem setCore_keyOf (n : Nat) (k : Core) (m : Nat) : (s.setCore n k).keyOf m = s.keyOf m := rfl

/-! ## onCore -/

@[simp] theorem onCore_beat (n : Nat) (f : Core → Core) : (s.onCore n f).beat = s.beat := rfl
@[simp] theorem onCore_turn (n : Nat) (f : Core → Core) : (s.onCore n f).turn = s.turn := rfl
@[simp] theorem onCore_free (n : Nat) (f : Core → Core) : (s.onCore n f).free = s.free := rfl
@[simp] theorem onCore_nextId (n : Nat) (f : Core → Core) : (s.onCore n f).nextId = s.nextId := rfl
@[simp] theorem onCore_dies (n : Nat) (f : Core → Core) : (s.onCore n f).dies = s.dies := rfl
@[simp] theorem onCore_mem (n : Nat) (f : Core → Core) : (s.onCore n f).mem = s.mem := rfl
@[simp] theorem onCore_accs (n : Nat) (f : Core → Core) : (s.onCore n f).accs = s.accs := rfl
@[simp] theorem onCore_tasks (n : Nat) (f : Core → Core) : (s.onCore n f).tasks = s.tasks := rfl
@[simp] theorem onCore_limbo (n : Nat) (f : Core → Core) : (s.onCore n f).limbo = s.limbo := rfl
@[simp] theorem onCore_frame (n : Nat) (f : Core → Core) : (s.onCore n f).frame = s.frame := rfl
@[simp] theorem onCore_groups (n : Nat) (f : Core → Core) : (s.onCore n f).groups = s.groups := rfl
@[simp] theorem onCore_owners (n : Nat) (f : Core → Core) : (s.onCore n f).owners = s.owners := rfl
@[simp] theorem onCore_images (n : Nat) (f : Core → Core) : (s.onCore n f).images = s.images := rfl
@[simp] theorem onCore_boot (n : Nat) (f : Core → Core) : (s.onCore n f).boot = s.boot := rfl
@[simp] theorem onCore_cmd (n : Nat) (f : Core → Core) : (s.onCore n f).cmd = s.cmd := rfl
@[simp] theorem onCore_placing (n : Nat) (f : Core → Core) : (s.onCore n f).placing = s.placing := rfl
@[simp] theorem onCore_node (n : Nat) (f : Core → Core) : (s.onCore n f).node = s.node := rfl
@[simp] theorem onCore_ev (n : Nat) (f : Core → Core) : (s.onCore n f).ev = s.ev := rfl
@[simp] theorem onCore_conv (n : Nat) (f : Core → Core) : (s.onCore n f).conv = s.conv := rfl
@[simp] theorem onCore_circ (n : Nat) (f : Core → Core) : (s.onCore n f).circ = s.circ := rfl
@[simp] theorem onCore_coll (n : Nat) (f : Core → Core) : (s.onCore n f).coll = s.coll := rfl
@[simp] theorem onCore_links (n : Nat) (f : Core → Core) : (s.onCore n f).links = s.links := rfl
@[simp] theorem onCore_mig (n : Nat) (f : Core → Core) : (s.onCore n f).mig = s.mig := rfl
@[simp] theorem onCore_fleet (n : Nat) (f : Core → Core) : (s.onCore n f).fleet = s.fleet := rfl
@[simp] theorem onCore_dieAt (n : Nat) (f : Core → Core) (m : Nat) : (s.onCore n f).dieAt m = s.dieAt m := rfl
@[simp] theorem onCore_ownerAt (n : Nat) (f : Core → Core) (m : Nat) : (s.onCore n f).ownerAt m = s.ownerAt m := rfl
@[simp] theorem onCore_taskAt (n : Nat) (f : Core → Core) (m : Nat) : (s.onCore n f).taskAt m = s.taskAt m := rfl
@[simp] theorem onCore_accAt (n : Nat) (f : Core → Core) (m : Nat) : (s.onCore n f).accAt m = s.accAt m := rfl
@[simp] theorem onCore_groupAt (n : Nat) (f : Core → Core) (m : Nat) : (s.onCore n f).groupAt m = s.groupAt m := rfl
@[simp] theorem onCore_portAt (n : Nat) (f : Core → Core) (m : Nat) : (s.onCore n f).portAt m = s.portAt m := rfl
@[simp] theorem onCore_moduleAt (n : Nat) (f : Core → Core) (m : Nat) : (s.onCore n f).moduleAt m = s.moduleAt m := rfl
@[simp] theorem onCore_bufAt (n : Nat) (f : Core → Core) (m : Nat) : (s.onCore n f).bufAt m = s.bufAt m := rfl
@[simp] theorem onCore_feature (n : Nat) (f : Core → Core) (m : Nat) : (s.onCore n f).feature m = s.feature m := rfl
@[simp] theorem onCore_keyOf (n : Nat) (f : Core → Core) (m : Nat) : (s.onCore n f).keyOf m = s.keyOf m := rfl

/-! ## onHere -/

@[simp] theorem onHere_beat (f : Core → Core) : (s.onHere f).beat = s.beat := rfl
@[simp] theorem onHere_turn (f : Core → Core) : (s.onHere f).turn = s.turn := rfl
@[simp] theorem onHere_free (f : Core → Core) : (s.onHere f).free = s.free := rfl
@[simp] theorem onHere_nextId (f : Core → Core) : (s.onHere f).nextId = s.nextId := rfl
@[simp] theorem onHere_dies (f : Core → Core) : (s.onHere f).dies = s.dies := rfl
@[simp] theorem onHere_mem (f : Core → Core) : (s.onHere f).mem = s.mem := rfl
@[simp] theorem onHere_accs (f : Core → Core) : (s.onHere f).accs = s.accs := rfl
@[simp] theorem onHere_tasks (f : Core → Core) : (s.onHere f).tasks = s.tasks := rfl
@[simp] theorem onHere_limbo (f : Core → Core) : (s.onHere f).limbo = s.limbo := rfl
@[simp] theorem onHere_frame (f : Core → Core) : (s.onHere f).frame = s.frame := rfl
@[simp] theorem onHere_groups (f : Core → Core) : (s.onHere f).groups = s.groups := rfl
@[simp] theorem onHere_owners (f : Core → Core) : (s.onHere f).owners = s.owners := rfl
@[simp] theorem onHere_images (f : Core → Core) : (s.onHere f).images = s.images := rfl
@[simp] theorem onHere_boot (f : Core → Core) : (s.onHere f).boot = s.boot := rfl
@[simp] theorem onHere_cmd (f : Core → Core) : (s.onHere f).cmd = s.cmd := rfl
@[simp] theorem onHere_placing (f : Core → Core) : (s.onHere f).placing = s.placing := rfl
@[simp] theorem onHere_node (f : Core → Core) : (s.onHere f).node = s.node := rfl
@[simp] theorem onHere_ev (f : Core → Core) : (s.onHere f).ev = s.ev := rfl
@[simp] theorem onHere_conv (f : Core → Core) : (s.onHere f).conv = s.conv := rfl
@[simp] theorem onHere_circ (f : Core → Core) : (s.onHere f).circ = s.circ := rfl
@[simp] theorem onHere_coll (f : Core → Core) : (s.onHere f).coll = s.coll := rfl
@[simp] theorem onHere_links (f : Core → Core) : (s.onHere f).links = s.links := rfl
@[simp] theorem onHere_mig (f : Core → Core) : (s.onHere f).mig = s.mig := rfl
@[simp] theorem onHere_fleet (f : Core → Core) : (s.onHere f).fleet = s.fleet := rfl
@[simp] theorem onHere_dieAt (f : Core → Core) (m : Nat) : (s.onHere f).dieAt m = s.dieAt m := rfl
@[simp] theorem onHere_ownerAt (f : Core → Core) (m : Nat) : (s.onHere f).ownerAt m = s.ownerAt m := rfl
@[simp] theorem onHere_taskAt (f : Core → Core) (m : Nat) : (s.onHere f).taskAt m = s.taskAt m := rfl
@[simp] theorem onHere_accAt (f : Core → Core) (m : Nat) : (s.onHere f).accAt m = s.accAt m := rfl
@[simp] theorem onHere_groupAt (f : Core → Core) (m : Nat) : (s.onHere f).groupAt m = s.groupAt m := rfl
@[simp] theorem onHere_portAt (f : Core → Core) (m : Nat) : (s.onHere f).portAt m = s.portAt m := rfl
@[simp] theorem onHere_moduleAt (f : Core → Core) (m : Nat) : (s.onHere f).moduleAt m = s.moduleAt m := rfl
@[simp] theorem onHere_bufAt (f : Core → Core) (m : Nat) : (s.onHere f).bufAt m = s.bufAt m := rfl
@[simp] theorem onHere_feature (f : Core → Core) (m : Nat) : (s.onHere f).feature m = s.feature m := rfl
@[simp] theorem onHere_keyOf (f : Core → Core) (m : Nat) : (s.onHere f).keyOf m = s.keyOf m := rfl

/-! ## onCtl -/

@[simp] theorem onCtl_beat (f : Ctl → Ctl) : (s.onCtl f).beat = s.beat := rfl
@[simp] theorem onCtl_turn (f : Ctl → Ctl) : (s.onCtl f).turn = s.turn := rfl
@[simp] theorem onCtl_free (f : Ctl → Ctl) : (s.onCtl f).free = s.free := rfl
@[simp] theorem onCtl_nextId (f : Ctl → Ctl) : (s.onCtl f).nextId = s.nextId := rfl
@[simp] theorem onCtl_dies (f : Ctl → Ctl) : (s.onCtl f).dies = s.dies := rfl
@[simp] theorem onCtl_mem (f : Ctl → Ctl) : (s.onCtl f).mem = s.mem := rfl
@[simp] theorem onCtl_accs (f : Ctl → Ctl) : (s.onCtl f).accs = s.accs := rfl
@[simp] theorem onCtl_tasks (f : Ctl → Ctl) : (s.onCtl f).tasks = s.tasks := rfl
@[simp] theorem onCtl_limbo (f : Ctl → Ctl) : (s.onCtl f).limbo = s.limbo := rfl
@[simp] theorem onCtl_frame (f : Ctl → Ctl) : (s.onCtl f).frame = s.frame := rfl
@[simp] theorem onCtl_groups (f : Ctl → Ctl) : (s.onCtl f).groups = s.groups := rfl
@[simp] theorem onCtl_owners (f : Ctl → Ctl) : (s.onCtl f).owners = s.owners := rfl
@[simp] theorem onCtl_images (f : Ctl → Ctl) : (s.onCtl f).images = s.images := rfl
@[simp] theorem onCtl_boot (f : Ctl → Ctl) : (s.onCtl f).boot = s.boot := rfl
@[simp] theorem onCtl_cmd (f : Ctl → Ctl) : (s.onCtl f).cmd = s.cmd := rfl
@[simp] theorem onCtl_placing (f : Ctl → Ctl) : (s.onCtl f).placing = s.placing := rfl
@[simp] theorem onCtl_node (f : Ctl → Ctl) : (s.onCtl f).node = s.node := rfl
@[simp] theorem onCtl_ev (f : Ctl → Ctl) : (s.onCtl f).ev = s.ev := rfl
@[simp] theorem onCtl_conv (f : Ctl → Ctl) : (s.onCtl f).conv = s.conv := rfl
@[simp] theorem onCtl_circ (f : Ctl → Ctl) : (s.onCtl f).circ = s.circ := rfl
@[simp] theorem onCtl_coll (f : Ctl → Ctl) : (s.onCtl f).coll = s.coll := rfl
@[simp] theorem onCtl_links (f : Ctl → Ctl) : (s.onCtl f).links = s.links := rfl
@[simp] theorem onCtl_mig (f : Ctl → Ctl) : (s.onCtl f).mig = s.mig := rfl
@[simp] theorem onCtl_fleet (f : Ctl → Ctl) : (s.onCtl f).fleet = s.fleet := rfl
@[simp] theorem onCtl_dieAt (f : Ctl → Ctl) (m : Nat) : (s.onCtl f).dieAt m = s.dieAt m := rfl
@[simp] theorem onCtl_ownerAt (f : Ctl → Ctl) (m : Nat) : (s.onCtl f).ownerAt m = s.ownerAt m := rfl
@[simp] theorem onCtl_taskAt (f : Ctl → Ctl) (m : Nat) : (s.onCtl f).taskAt m = s.taskAt m := rfl
@[simp] theorem onCtl_accAt (f : Ctl → Ctl) (m : Nat) : (s.onCtl f).accAt m = s.accAt m := rfl
@[simp] theorem onCtl_groupAt (f : Ctl → Ctl) (m : Nat) : (s.onCtl f).groupAt m = s.groupAt m := rfl
@[simp] theorem onCtl_portAt (f : Ctl → Ctl) (m : Nat) : (s.onCtl f).portAt m = s.portAt m := rfl
@[simp] theorem onCtl_moduleAt (f : Ctl → Ctl) (m : Nat) : (s.onCtl f).moduleAt m = s.moduleAt m := rfl
@[simp] theorem onCtl_bufAt (f : Ctl → Ctl) (m : Nat) : (s.onCtl f).bufAt m = s.bufAt m := rfl
@[simp] theorem onCtl_feature (f : Ctl → Ctl) (m : Nat) : (s.onCtl f).feature m = s.feature m := rfl
@[simp] theorem onCtl_keyOf (f : Ctl → Ctl) (m : Nat) : (s.onCtl f).keyOf m = s.keyOf m := rfl

/-! ## setDie -/

@[simp] theorem setDie_beat (d : Nat) (x : Die) : (s.setDie d x).beat = s.beat := rfl
@[simp] theorem setDie_turn (d : Nat) (x : Die) : (s.setDie d x).turn = s.turn := rfl
@[simp] theorem setDie_free (d : Nat) (x : Die) : (s.setDie d x).free = s.free := rfl
@[simp] theorem setDie_nextId (d : Nat) (x : Die) : (s.setDie d x).nextId = s.nextId := rfl
@[simp] theorem setDie_cores (d : Nat) (x : Die) : (s.setDie d x).cores = s.cores := rfl
@[simp] theorem setDie_mem (d : Nat) (x : Die) : (s.setDie d x).mem = s.mem := rfl
@[simp] theorem setDie_accs (d : Nat) (x : Die) : (s.setDie d x).accs = s.accs := rfl
@[simp] theorem setDie_tasks (d : Nat) (x : Die) : (s.setDie d x).tasks = s.tasks := rfl
@[simp] theorem setDie_limbo (d : Nat) (x : Die) : (s.setDie d x).limbo = s.limbo := rfl
@[simp] theorem setDie_frame (d : Nat) (x : Die) : (s.setDie d x).frame = s.frame := rfl
@[simp] theorem setDie_groups (d : Nat) (x : Die) : (s.setDie d x).groups = s.groups := rfl
@[simp] theorem setDie_owners (d : Nat) (x : Die) : (s.setDie d x).owners = s.owners := rfl
@[simp] theorem setDie_images (d : Nat) (x : Die) : (s.setDie d x).images = s.images := rfl
@[simp] theorem setDie_boot (d : Nat) (x : Die) : (s.setDie d x).boot = s.boot := rfl
@[simp] theorem setDie_cmd (d : Nat) (x : Die) : (s.setDie d x).cmd = s.cmd := rfl
@[simp] theorem setDie_placing (d : Nat) (x : Die) : (s.setDie d x).placing = s.placing := rfl
@[simp] theorem setDie_node (d : Nat) (x : Die) : (s.setDie d x).node = s.node := rfl
@[simp] theorem setDie_ev (d : Nat) (x : Die) : (s.setDie d x).ev = s.ev := rfl
@[simp] theorem setDie_conv (d : Nat) (x : Die) : (s.setDie d x).conv = s.conv := rfl
@[simp] theorem setDie_circ (d : Nat) (x : Die) : (s.setDie d x).circ = s.circ := rfl
@[simp] theorem setDie_coll (d : Nat) (x : Die) : (s.setDie d x).coll = s.coll := rfl
@[simp] theorem setDie_links (d : Nat) (x : Die) : (s.setDie d x).links = s.links := rfl
@[simp] theorem setDie_mig (d : Nat) (x : Die) : (s.setDie d x).mig = s.mig := rfl
@[simp] theorem setDie_fleet (d : Nat) (x : Die) : (s.setDie d x).fleet = s.fleet := rfl
@[simp] theorem setDie_coreAt (d : Nat) (x : Die) (m : Nat) : (s.setDie d x).coreAt m = s.coreAt m := rfl
@[simp] theorem setDie_ownerAt (d : Nat) (x : Die) (m : Nat) : (s.setDie d x).ownerAt m = s.ownerAt m := rfl
@[simp] theorem setDie_taskAt (d : Nat) (x : Die) (m : Nat) : (s.setDie d x).taskAt m = s.taskAt m := rfl
@[simp] theorem setDie_accAt (d : Nat) (x : Die) (m : Nat) : (s.setDie d x).accAt m = s.accAt m := rfl
@[simp] theorem setDie_groupAt (d : Nat) (x : Die) (m : Nat) : (s.setDie d x).groupAt m = s.groupAt m := rfl
@[simp] theorem setDie_portAt (d : Nat) (x : Die) (m : Nat) : (s.setDie d x).portAt m = s.portAt m := rfl
@[simp] theorem setDie_moduleAt (d : Nat) (x : Die) (m : Nat) : (s.setDie d x).moduleAt m = s.moduleAt m := rfl
@[simp] theorem setDie_bufAt (d : Nat) (x : Die) (m : Nat) : (s.setDie d x).bufAt m = s.bufAt m := rfl
@[simp] theorem setDie_here (d : Nat) (x : Die) : (s.setDie d x).here = s.here := rfl
@[simp] theorem setDie_feature (d : Nat) (x : Die) (m : Nat) : (s.setDie d x).feature m = s.feature m := rfl
@[simp] theorem setDie_keyOf (d : Nat) (x : Die) (m : Nat) : (s.setDie d x).keyOf m = s.keyOf m := rfl

/-! ## onDie -/

@[simp] theorem onDie_beat (d : Nat) (f : Die → Die) : (s.onDie d f).beat = s.beat := rfl
@[simp] theorem onDie_turn (d : Nat) (f : Die → Die) : (s.onDie d f).turn = s.turn := rfl
@[simp] theorem onDie_free (d : Nat) (f : Die → Die) : (s.onDie d f).free = s.free := rfl
@[simp] theorem onDie_nextId (d : Nat) (f : Die → Die) : (s.onDie d f).nextId = s.nextId := rfl
@[simp] theorem onDie_cores (d : Nat) (f : Die → Die) : (s.onDie d f).cores = s.cores := rfl
@[simp] theorem onDie_mem (d : Nat) (f : Die → Die) : (s.onDie d f).mem = s.mem := rfl
@[simp] theorem onDie_accs (d : Nat) (f : Die → Die) : (s.onDie d f).accs = s.accs := rfl
@[simp] theorem onDie_tasks (d : Nat) (f : Die → Die) : (s.onDie d f).tasks = s.tasks := rfl
@[simp] theorem onDie_limbo (d : Nat) (f : Die → Die) : (s.onDie d f).limbo = s.limbo := rfl
@[simp] theorem onDie_frame (d : Nat) (f : Die → Die) : (s.onDie d f).frame = s.frame := rfl
@[simp] theorem onDie_groups (d : Nat) (f : Die → Die) : (s.onDie d f).groups = s.groups := rfl
@[simp] theorem onDie_owners (d : Nat) (f : Die → Die) : (s.onDie d f).owners = s.owners := rfl
@[simp] theorem onDie_images (d : Nat) (f : Die → Die) : (s.onDie d f).images = s.images := rfl
@[simp] theorem onDie_boot (d : Nat) (f : Die → Die) : (s.onDie d f).boot = s.boot := rfl
@[simp] theorem onDie_cmd (d : Nat) (f : Die → Die) : (s.onDie d f).cmd = s.cmd := rfl
@[simp] theorem onDie_placing (d : Nat) (f : Die → Die) : (s.onDie d f).placing = s.placing := rfl
@[simp] theorem onDie_node (d : Nat) (f : Die → Die) : (s.onDie d f).node = s.node := rfl
@[simp] theorem onDie_ev (d : Nat) (f : Die → Die) : (s.onDie d f).ev = s.ev := rfl
@[simp] theorem onDie_conv (d : Nat) (f : Die → Die) : (s.onDie d f).conv = s.conv := rfl
@[simp] theorem onDie_circ (d : Nat) (f : Die → Die) : (s.onDie d f).circ = s.circ := rfl
@[simp] theorem onDie_coll (d : Nat) (f : Die → Die) : (s.onDie d f).coll = s.coll := rfl
@[simp] theorem onDie_links (d : Nat) (f : Die → Die) : (s.onDie d f).links = s.links := rfl
@[simp] theorem onDie_mig (d : Nat) (f : Die → Die) : (s.onDie d f).mig = s.mig := rfl
@[simp] theorem onDie_fleet (d : Nat) (f : Die → Die) : (s.onDie d f).fleet = s.fleet := rfl
@[simp] theorem onDie_coreAt (d : Nat) (f : Die → Die) (m : Nat) : (s.onDie d f).coreAt m = s.coreAt m := rfl
@[simp] theorem onDie_ownerAt (d : Nat) (f : Die → Die) (m : Nat) : (s.onDie d f).ownerAt m = s.ownerAt m := rfl
@[simp] theorem onDie_taskAt (d : Nat) (f : Die → Die) (m : Nat) : (s.onDie d f).taskAt m = s.taskAt m := rfl
@[simp] theorem onDie_accAt (d : Nat) (f : Die → Die) (m : Nat) : (s.onDie d f).accAt m = s.accAt m := rfl
@[simp] theorem onDie_groupAt (d : Nat) (f : Die → Die) (m : Nat) : (s.onDie d f).groupAt m = s.groupAt m := rfl
@[simp] theorem onDie_portAt (d : Nat) (f : Die → Die) (m : Nat) : (s.onDie d f).portAt m = s.portAt m := rfl
@[simp] theorem onDie_moduleAt (d : Nat) (f : Die → Die) (m : Nat) : (s.onDie d f).moduleAt m = s.moduleAt m := rfl
@[simp] theorem onDie_bufAt (d : Nat) (f : Die → Die) (m : Nat) : (s.onDie d f).bufAt m = s.bufAt m := rfl
@[simp] theorem onDie_here (d : Nat) (f : Die → Die) : (s.onDie d f).here = s.here := rfl
@[simp] theorem onDie_feature (d : Nat) (f : Die → Die) (m : Nat) : (s.onDie d f).feature m = s.feature m := rfl
@[simp] theorem onDie_keyOf (d : Nat) (f : Die → Die) (m : Nat) : (s.onDie d f).keyOf m = s.keyOf m := rfl

/-! ## onOwner -/

@[simp] theorem onOwner_beat (o : Nat) (f : Owner → Owner) : (s.onOwner o f).beat = s.beat := rfl
@[simp] theorem onOwner_turn (o : Nat) (f : Owner → Owner) : (s.onOwner o f).turn = s.turn := rfl
@[simp] theorem onOwner_free (o : Nat) (f : Owner → Owner) : (s.onOwner o f).free = s.free := rfl
@[simp] theorem onOwner_nextId (o : Nat) (f : Owner → Owner) : (s.onOwner o f).nextId = s.nextId := rfl
@[simp] theorem onOwner_cores (o : Nat) (f : Owner → Owner) : (s.onOwner o f).cores = s.cores := rfl
@[simp] theorem onOwner_dies (o : Nat) (f : Owner → Owner) : (s.onOwner o f).dies = s.dies := rfl
@[simp] theorem onOwner_mem (o : Nat) (f : Owner → Owner) : (s.onOwner o f).mem = s.mem := rfl
@[simp] theorem onOwner_accs (o : Nat) (f : Owner → Owner) : (s.onOwner o f).accs = s.accs := rfl
@[simp] theorem onOwner_tasks (o : Nat) (f : Owner → Owner) : (s.onOwner o f).tasks = s.tasks := rfl
@[simp] theorem onOwner_limbo (o : Nat) (f : Owner → Owner) : (s.onOwner o f).limbo = s.limbo := rfl
@[simp] theorem onOwner_frame (o : Nat) (f : Owner → Owner) : (s.onOwner o f).frame = s.frame := rfl
@[simp] theorem onOwner_groups (o : Nat) (f : Owner → Owner) : (s.onOwner o f).groups = s.groups := rfl
@[simp] theorem onOwner_images (o : Nat) (f : Owner → Owner) : (s.onOwner o f).images = s.images := rfl
@[simp] theorem onOwner_boot (o : Nat) (f : Owner → Owner) : (s.onOwner o f).boot = s.boot := rfl
@[simp] theorem onOwner_cmd (o : Nat) (f : Owner → Owner) : (s.onOwner o f).cmd = s.cmd := rfl
@[simp] theorem onOwner_placing (o : Nat) (f : Owner → Owner) : (s.onOwner o f).placing = s.placing := rfl
@[simp] theorem onOwner_node (o : Nat) (f : Owner → Owner) : (s.onOwner o f).node = s.node := rfl
@[simp] theorem onOwner_ev (o : Nat) (f : Owner → Owner) : (s.onOwner o f).ev = s.ev := rfl
@[simp] theorem onOwner_conv (o : Nat) (f : Owner → Owner) : (s.onOwner o f).conv = s.conv := rfl
@[simp] theorem onOwner_circ (o : Nat) (f : Owner → Owner) : (s.onOwner o f).circ = s.circ := rfl
@[simp] theorem onOwner_coll (o : Nat) (f : Owner → Owner) : (s.onOwner o f).coll = s.coll := rfl
@[simp] theorem onOwner_links (o : Nat) (f : Owner → Owner) : (s.onOwner o f).links = s.links := rfl
@[simp] theorem onOwner_mig (o : Nat) (f : Owner → Owner) : (s.onOwner o f).mig = s.mig := rfl
@[simp] theorem onOwner_fleet (o : Nat) (f : Owner → Owner) : (s.onOwner o f).fleet = s.fleet := rfl
@[simp] theorem onOwner_coreAt (o : Nat) (f : Owner → Owner) (m : Nat) : (s.onOwner o f).coreAt m = s.coreAt m := rfl
@[simp] theorem onOwner_dieAt (o : Nat) (f : Owner → Owner) (m : Nat) : (s.onOwner o f).dieAt m = s.dieAt m := rfl
@[simp] theorem onOwner_taskAt (o : Nat) (f : Owner → Owner) (m : Nat) : (s.onOwner o f).taskAt m = s.taskAt m := rfl
@[simp] theorem onOwner_accAt (o : Nat) (f : Owner → Owner) (m : Nat) : (s.onOwner o f).accAt m = s.accAt m := rfl
@[simp] theorem onOwner_groupAt (o : Nat) (f : Owner → Owner) (m : Nat) : (s.onOwner o f).groupAt m = s.groupAt m := rfl
@[simp] theorem onOwner_portAt (o : Nat) (f : Owner → Owner) (m : Nat) : (s.onOwner o f).portAt m = s.portAt m := rfl
@[simp] theorem onOwner_moduleAt (o : Nat) (f : Owner → Owner) (m : Nat) : (s.onOwner o f).moduleAt m = s.moduleAt m := rfl
@[simp] theorem onOwner_bufAt (o : Nat) (f : Owner → Owner) (m : Nat) : (s.onOwner o f).bufAt m = s.bufAt m := rfl
@[simp] theorem onOwner_here (o : Nat) (f : Owner → Owner) : (s.onOwner o f).here = s.here := rfl
@[simp] theorem onOwner_feature (o : Nat) (f : Owner → Owner) (m : Nat) : (s.onOwner o f).feature m = s.feature m := rfl

/-! ## setTask -/

@[simp] theorem setTask_beat (t : Nat) (x : Option Task) : (s.setTask t x).beat = s.beat := rfl
@[simp] theorem setTask_turn (t : Nat) (x : Option Task) : (s.setTask t x).turn = s.turn := rfl
@[simp] theorem setTask_free (t : Nat) (x : Option Task) : (s.setTask t x).free = s.free := rfl
@[simp] theorem setTask_nextId (t : Nat) (x : Option Task) : (s.setTask t x).nextId = s.nextId := rfl
@[simp] theorem setTask_cores (t : Nat) (x : Option Task) : (s.setTask t x).cores = s.cores := rfl
@[simp] theorem setTask_dies (t : Nat) (x : Option Task) : (s.setTask t x).dies = s.dies := rfl
@[simp] theorem setTask_mem (t : Nat) (x : Option Task) : (s.setTask t x).mem = s.mem := rfl
@[simp] theorem setTask_accs (t : Nat) (x : Option Task) : (s.setTask t x).accs = s.accs := rfl
@[simp] theorem setTask_limbo (t : Nat) (x : Option Task) : (s.setTask t x).limbo = s.limbo := rfl
@[simp] theorem setTask_frame (t : Nat) (x : Option Task) : (s.setTask t x).frame = s.frame := rfl
@[simp] theorem setTask_groups (t : Nat) (x : Option Task) : (s.setTask t x).groups = s.groups := rfl
@[simp] theorem setTask_owners (t : Nat) (x : Option Task) : (s.setTask t x).owners = s.owners := rfl
@[simp] theorem setTask_images (t : Nat) (x : Option Task) : (s.setTask t x).images = s.images := rfl
@[simp] theorem setTask_boot (t : Nat) (x : Option Task) : (s.setTask t x).boot = s.boot := rfl
@[simp] theorem setTask_cmd (t : Nat) (x : Option Task) : (s.setTask t x).cmd = s.cmd := rfl
@[simp] theorem setTask_placing (t : Nat) (x : Option Task) : (s.setTask t x).placing = s.placing := rfl
@[simp] theorem setTask_node (t : Nat) (x : Option Task) : (s.setTask t x).node = s.node := rfl
@[simp] theorem setTask_ev (t : Nat) (x : Option Task) : (s.setTask t x).ev = s.ev := rfl
@[simp] theorem setTask_conv (t : Nat) (x : Option Task) : (s.setTask t x).conv = s.conv := rfl
@[simp] theorem setTask_circ (t : Nat) (x : Option Task) : (s.setTask t x).circ = s.circ := rfl
@[simp] theorem setTask_coll (t : Nat) (x : Option Task) : (s.setTask t x).coll = s.coll := rfl
@[simp] theorem setTask_links (t : Nat) (x : Option Task) : (s.setTask t x).links = s.links := rfl
@[simp] theorem setTask_mig (t : Nat) (x : Option Task) : (s.setTask t x).mig = s.mig := rfl
@[simp] theorem setTask_fleet (t : Nat) (x : Option Task) : (s.setTask t x).fleet = s.fleet := rfl
@[simp] theorem setTask_coreAt (t : Nat) (x : Option Task) (m : Nat) : (s.setTask t x).coreAt m = s.coreAt m := rfl
@[simp] theorem setTask_dieAt (t : Nat) (x : Option Task) (m : Nat) : (s.setTask t x).dieAt m = s.dieAt m := rfl
@[simp] theorem setTask_ownerAt (t : Nat) (x : Option Task) (m : Nat) : (s.setTask t x).ownerAt m = s.ownerAt m := rfl
@[simp] theorem setTask_accAt (t : Nat) (x : Option Task) (m : Nat) : (s.setTask t x).accAt m = s.accAt m := rfl
@[simp] theorem setTask_groupAt (t : Nat) (x : Option Task) (m : Nat) : (s.setTask t x).groupAt m = s.groupAt m := rfl
@[simp] theorem setTask_portAt (t : Nat) (x : Option Task) (m : Nat) : (s.setTask t x).portAt m = s.portAt m := rfl
@[simp] theorem setTask_moduleAt (t : Nat) (x : Option Task) (m : Nat) : (s.setTask t x).moduleAt m = s.moduleAt m := rfl
@[simp] theorem setTask_bufAt (t : Nat) (x : Option Task) (m : Nat) : (s.setTask t x).bufAt m = s.bufAt m := rfl
@[simp] theorem setTask_here (t : Nat) (x : Option Task) : (s.setTask t x).here = s.here := rfl
@[simp] theorem setTask_feature (t : Nat) (x : Option Task) (m : Nat) : (s.setTask t x).feature m = s.feature m := rfl
@[simp] theorem setTask_keyOf (t : Nat) (x : Option Task) (m : Nat) : (s.setTask t x).keyOf m = s.keyOf m := rfl

/-! ## onTask -/

@[simp] theorem onTask_beat (t : Nat) (f : Task → Task) : (s.onTask t f).beat = s.beat := rfl
@[simp] theorem onTask_turn (t : Nat) (f : Task → Task) : (s.onTask t f).turn = s.turn := rfl
@[simp] theorem onTask_free (t : Nat) (f : Task → Task) : (s.onTask t f).free = s.free := rfl
@[simp] theorem onTask_nextId (t : Nat) (f : Task → Task) : (s.onTask t f).nextId = s.nextId := rfl
@[simp] theorem onTask_cores (t : Nat) (f : Task → Task) : (s.onTask t f).cores = s.cores := rfl
@[simp] theorem onTask_dies (t : Nat) (f : Task → Task) : (s.onTask t f).dies = s.dies := rfl
@[simp] theorem onTask_mem (t : Nat) (f : Task → Task) : (s.onTask t f).mem = s.mem := rfl
@[simp] theorem onTask_accs (t : Nat) (f : Task → Task) : (s.onTask t f).accs = s.accs := rfl
@[simp] theorem onTask_limbo (t : Nat) (f : Task → Task) : (s.onTask t f).limbo = s.limbo := rfl
@[simp] theorem onTask_frame (t : Nat) (f : Task → Task) : (s.onTask t f).frame = s.frame := rfl
@[simp] theorem onTask_groups (t : Nat) (f : Task → Task) : (s.onTask t f).groups = s.groups := rfl
@[simp] theorem onTask_owners (t : Nat) (f : Task → Task) : (s.onTask t f).owners = s.owners := rfl
@[simp] theorem onTask_images (t : Nat) (f : Task → Task) : (s.onTask t f).images = s.images := rfl
@[simp] theorem onTask_boot (t : Nat) (f : Task → Task) : (s.onTask t f).boot = s.boot := rfl
@[simp] theorem onTask_cmd (t : Nat) (f : Task → Task) : (s.onTask t f).cmd = s.cmd := rfl
@[simp] theorem onTask_placing (t : Nat) (f : Task → Task) : (s.onTask t f).placing = s.placing := rfl
@[simp] theorem onTask_node (t : Nat) (f : Task → Task) : (s.onTask t f).node = s.node := rfl
@[simp] theorem onTask_ev (t : Nat) (f : Task → Task) : (s.onTask t f).ev = s.ev := rfl
@[simp] theorem onTask_conv (t : Nat) (f : Task → Task) : (s.onTask t f).conv = s.conv := rfl
@[simp] theorem onTask_circ (t : Nat) (f : Task → Task) : (s.onTask t f).circ = s.circ := rfl
@[simp] theorem onTask_coll (t : Nat) (f : Task → Task) : (s.onTask t f).coll = s.coll := rfl
@[simp] theorem onTask_links (t : Nat) (f : Task → Task) : (s.onTask t f).links = s.links := rfl
@[simp] theorem onTask_mig (t : Nat) (f : Task → Task) : (s.onTask t f).mig = s.mig := rfl
@[simp] theorem onTask_fleet (t : Nat) (f : Task → Task) : (s.onTask t f).fleet = s.fleet := rfl
@[simp] theorem onTask_coreAt (t : Nat) (f : Task → Task) (m : Nat) : (s.onTask t f).coreAt m = s.coreAt m := rfl
@[simp] theorem onTask_dieAt (t : Nat) (f : Task → Task) (m : Nat) : (s.onTask t f).dieAt m = s.dieAt m := rfl
@[simp] theorem onTask_ownerAt (t : Nat) (f : Task → Task) (m : Nat) : (s.onTask t f).ownerAt m = s.ownerAt m := rfl
@[simp] theorem onTask_accAt (t : Nat) (f : Task → Task) (m : Nat) : (s.onTask t f).accAt m = s.accAt m := rfl
@[simp] theorem onTask_groupAt (t : Nat) (f : Task → Task) (m : Nat) : (s.onTask t f).groupAt m = s.groupAt m := rfl
@[simp] theorem onTask_portAt (t : Nat) (f : Task → Task) (m : Nat) : (s.onTask t f).portAt m = s.portAt m := rfl
@[simp] theorem onTask_moduleAt (t : Nat) (f : Task → Task) (m : Nat) : (s.onTask t f).moduleAt m = s.moduleAt m := rfl
@[simp] theorem onTask_bufAt (t : Nat) (f : Task → Task) (m : Nat) : (s.onTask t f).bufAt m = s.bufAt m := rfl
@[simp] theorem onTask_here (t : Nat) (f : Task → Task) : (s.onTask t f).here = s.here := rfl
@[simp] theorem onTask_feature (t : Nat) (f : Task → Task) (m : Nat) : (s.onTask t f).feature m = s.feature m := rfl
@[simp] theorem onTask_keyOf (t : Nat) (f : Task → Task) (m : Nat) : (s.onTask t f).keyOf m = s.keyOf m := rfl

/-! ## setAcc -/

@[simp] theorem setAcc_beat (a : Nat) (x : Option Access) : (s.setAcc a x).beat = s.beat := rfl
@[simp] theorem setAcc_turn (a : Nat) (x : Option Access) : (s.setAcc a x).turn = s.turn := rfl
@[simp] theorem setAcc_free (a : Nat) (x : Option Access) : (s.setAcc a x).free = s.free := rfl
@[simp] theorem setAcc_nextId (a : Nat) (x : Option Access) : (s.setAcc a x).nextId = s.nextId := rfl
@[simp] theorem setAcc_cores (a : Nat) (x : Option Access) : (s.setAcc a x).cores = s.cores := rfl
@[simp] theorem setAcc_dies (a : Nat) (x : Option Access) : (s.setAcc a x).dies = s.dies := rfl
@[simp] theorem setAcc_mem (a : Nat) (x : Option Access) : (s.setAcc a x).mem = s.mem := rfl
@[simp] theorem setAcc_tasks (a : Nat) (x : Option Access) : (s.setAcc a x).tasks = s.tasks := rfl
@[simp] theorem setAcc_limbo (a : Nat) (x : Option Access) : (s.setAcc a x).limbo = s.limbo := rfl
@[simp] theorem setAcc_frame (a : Nat) (x : Option Access) : (s.setAcc a x).frame = s.frame := rfl
@[simp] theorem setAcc_groups (a : Nat) (x : Option Access) : (s.setAcc a x).groups = s.groups := rfl
@[simp] theorem setAcc_owners (a : Nat) (x : Option Access) : (s.setAcc a x).owners = s.owners := rfl
@[simp] theorem setAcc_images (a : Nat) (x : Option Access) : (s.setAcc a x).images = s.images := rfl
@[simp] theorem setAcc_boot (a : Nat) (x : Option Access) : (s.setAcc a x).boot = s.boot := rfl
@[simp] theorem setAcc_cmd (a : Nat) (x : Option Access) : (s.setAcc a x).cmd = s.cmd := rfl
@[simp] theorem setAcc_placing (a : Nat) (x : Option Access) : (s.setAcc a x).placing = s.placing := rfl
@[simp] theorem setAcc_node (a : Nat) (x : Option Access) : (s.setAcc a x).node = s.node := rfl
@[simp] theorem setAcc_ev (a : Nat) (x : Option Access) : (s.setAcc a x).ev = s.ev := rfl
@[simp] theorem setAcc_conv (a : Nat) (x : Option Access) : (s.setAcc a x).conv = s.conv := rfl
@[simp] theorem setAcc_circ (a : Nat) (x : Option Access) : (s.setAcc a x).circ = s.circ := rfl
@[simp] theorem setAcc_coll (a : Nat) (x : Option Access) : (s.setAcc a x).coll = s.coll := rfl
@[simp] theorem setAcc_links (a : Nat) (x : Option Access) : (s.setAcc a x).links = s.links := rfl
@[simp] theorem setAcc_mig (a : Nat) (x : Option Access) : (s.setAcc a x).mig = s.mig := rfl
@[simp] theorem setAcc_fleet (a : Nat) (x : Option Access) : (s.setAcc a x).fleet = s.fleet := rfl
@[simp] theorem setAcc_coreAt (a : Nat) (x : Option Access) (m : Nat) : (s.setAcc a x).coreAt m = s.coreAt m := rfl
@[simp] theorem setAcc_dieAt (a : Nat) (x : Option Access) (m : Nat) : (s.setAcc a x).dieAt m = s.dieAt m := rfl
@[simp] theorem setAcc_ownerAt (a : Nat) (x : Option Access) (m : Nat) : (s.setAcc a x).ownerAt m = s.ownerAt m := rfl
@[simp] theorem setAcc_taskAt (a : Nat) (x : Option Access) (m : Nat) : (s.setAcc a x).taskAt m = s.taskAt m := rfl
@[simp] theorem setAcc_groupAt (a : Nat) (x : Option Access) (m : Nat) : (s.setAcc a x).groupAt m = s.groupAt m := rfl
@[simp] theorem setAcc_portAt (a : Nat) (x : Option Access) (m : Nat) : (s.setAcc a x).portAt m = s.portAt m := rfl
@[simp] theorem setAcc_moduleAt (a : Nat) (x : Option Access) (m : Nat) : (s.setAcc a x).moduleAt m = s.moduleAt m := rfl
@[simp] theorem setAcc_bufAt (a : Nat) (x : Option Access) (m : Nat) : (s.setAcc a x).bufAt m = s.bufAt m := rfl
@[simp] theorem setAcc_here (a : Nat) (x : Option Access) : (s.setAcc a x).here = s.here := rfl
@[simp] theorem setAcc_feature (a : Nat) (x : Option Access) (m : Nat) : (s.setAcc a x).feature m = s.feature m := rfl
@[simp] theorem setAcc_keyOf (a : Nat) (x : Option Access) (m : Nat) : (s.setAcc a x).keyOf m = s.keyOf m := rfl

/-! ## onAcc -/

@[simp] theorem onAcc_beat (a : Nat) (f : Access → Access) : (s.onAcc a f).beat = s.beat := rfl
@[simp] theorem onAcc_turn (a : Nat) (f : Access → Access) : (s.onAcc a f).turn = s.turn := rfl
@[simp] theorem onAcc_free (a : Nat) (f : Access → Access) : (s.onAcc a f).free = s.free := rfl
@[simp] theorem onAcc_nextId (a : Nat) (f : Access → Access) : (s.onAcc a f).nextId = s.nextId := rfl
@[simp] theorem onAcc_cores (a : Nat) (f : Access → Access) : (s.onAcc a f).cores = s.cores := rfl
@[simp] theorem onAcc_dies (a : Nat) (f : Access → Access) : (s.onAcc a f).dies = s.dies := rfl
@[simp] theorem onAcc_mem (a : Nat) (f : Access → Access) : (s.onAcc a f).mem = s.mem := rfl
@[simp] theorem onAcc_tasks (a : Nat) (f : Access → Access) : (s.onAcc a f).tasks = s.tasks := rfl
@[simp] theorem onAcc_limbo (a : Nat) (f : Access → Access) : (s.onAcc a f).limbo = s.limbo := rfl
@[simp] theorem onAcc_frame (a : Nat) (f : Access → Access) : (s.onAcc a f).frame = s.frame := rfl
@[simp] theorem onAcc_groups (a : Nat) (f : Access → Access) : (s.onAcc a f).groups = s.groups := rfl
@[simp] theorem onAcc_owners (a : Nat) (f : Access → Access) : (s.onAcc a f).owners = s.owners := rfl
@[simp] theorem onAcc_images (a : Nat) (f : Access → Access) : (s.onAcc a f).images = s.images := rfl
@[simp] theorem onAcc_boot (a : Nat) (f : Access → Access) : (s.onAcc a f).boot = s.boot := rfl
@[simp] theorem onAcc_cmd (a : Nat) (f : Access → Access) : (s.onAcc a f).cmd = s.cmd := rfl
@[simp] theorem onAcc_placing (a : Nat) (f : Access → Access) : (s.onAcc a f).placing = s.placing := rfl
@[simp] theorem onAcc_node (a : Nat) (f : Access → Access) : (s.onAcc a f).node = s.node := rfl
@[simp] theorem onAcc_ev (a : Nat) (f : Access → Access) : (s.onAcc a f).ev = s.ev := rfl
@[simp] theorem onAcc_conv (a : Nat) (f : Access → Access) : (s.onAcc a f).conv = s.conv := rfl
@[simp] theorem onAcc_circ (a : Nat) (f : Access → Access) : (s.onAcc a f).circ = s.circ := rfl
@[simp] theorem onAcc_coll (a : Nat) (f : Access → Access) : (s.onAcc a f).coll = s.coll := rfl
@[simp] theorem onAcc_links (a : Nat) (f : Access → Access) : (s.onAcc a f).links = s.links := rfl
@[simp] theorem onAcc_mig (a : Nat) (f : Access → Access) : (s.onAcc a f).mig = s.mig := rfl
@[simp] theorem onAcc_fleet (a : Nat) (f : Access → Access) : (s.onAcc a f).fleet = s.fleet := rfl
@[simp] theorem onAcc_coreAt (a : Nat) (f : Access → Access) (m : Nat) : (s.onAcc a f).coreAt m = s.coreAt m := rfl
@[simp] theorem onAcc_dieAt (a : Nat) (f : Access → Access) (m : Nat) : (s.onAcc a f).dieAt m = s.dieAt m := rfl
@[simp] theorem onAcc_ownerAt (a : Nat) (f : Access → Access) (m : Nat) : (s.onAcc a f).ownerAt m = s.ownerAt m := rfl
@[simp] theorem onAcc_taskAt (a : Nat) (f : Access → Access) (m : Nat) : (s.onAcc a f).taskAt m = s.taskAt m := rfl
@[simp] theorem onAcc_groupAt (a : Nat) (f : Access → Access) (m : Nat) : (s.onAcc a f).groupAt m = s.groupAt m := rfl
@[simp] theorem onAcc_portAt (a : Nat) (f : Access → Access) (m : Nat) : (s.onAcc a f).portAt m = s.portAt m := rfl
@[simp] theorem onAcc_moduleAt (a : Nat) (f : Access → Access) (m : Nat) : (s.onAcc a f).moduleAt m = s.moduleAt m := rfl
@[simp] theorem onAcc_bufAt (a : Nat) (f : Access → Access) (m : Nat) : (s.onAcc a f).bufAt m = s.bufAt m := rfl
@[simp] theorem onAcc_here (a : Nat) (f : Access → Access) : (s.onAcc a f).here = s.here := rfl
@[simp] theorem onAcc_feature (a : Nat) (f : Access → Access) (m : Nat) : (s.onAcc a f).feature m = s.feature m := rfl
@[simp] theorem onAcc_keyOf (a : Nat) (f : Access → Access) (m : Nat) : (s.onAcc a f).keyOf m = s.keyOf m := rfl

/-! ## setGroup -/

@[simp] theorem setGroup_beat (g : Nat) (x : Group) : (s.setGroup g x).beat = s.beat := rfl
@[simp] theorem setGroup_turn (g : Nat) (x : Group) : (s.setGroup g x).turn = s.turn := rfl
@[simp] theorem setGroup_free (g : Nat) (x : Group) : (s.setGroup g x).free = s.free := rfl
@[simp] theorem setGroup_nextId (g : Nat) (x : Group) : (s.setGroup g x).nextId = s.nextId := rfl
@[simp] theorem setGroup_cores (g : Nat) (x : Group) : (s.setGroup g x).cores = s.cores := rfl
@[simp] theorem setGroup_dies (g : Nat) (x : Group) : (s.setGroup g x).dies = s.dies := rfl
@[simp] theorem setGroup_mem (g : Nat) (x : Group) : (s.setGroup g x).mem = s.mem := rfl
@[simp] theorem setGroup_accs (g : Nat) (x : Group) : (s.setGroup g x).accs = s.accs := rfl
@[simp] theorem setGroup_tasks (g : Nat) (x : Group) : (s.setGroup g x).tasks = s.tasks := rfl
@[simp] theorem setGroup_limbo (g : Nat) (x : Group) : (s.setGroup g x).limbo = s.limbo := rfl
@[simp] theorem setGroup_frame (g : Nat) (x : Group) : (s.setGroup g x).frame = s.frame := rfl
@[simp] theorem setGroup_owners (g : Nat) (x : Group) : (s.setGroup g x).owners = s.owners := rfl
@[simp] theorem setGroup_images (g : Nat) (x : Group) : (s.setGroup g x).images = s.images := rfl
@[simp] theorem setGroup_boot (g : Nat) (x : Group) : (s.setGroup g x).boot = s.boot := rfl
@[simp] theorem setGroup_cmd (g : Nat) (x : Group) : (s.setGroup g x).cmd = s.cmd := rfl
@[simp] theorem setGroup_placing (g : Nat) (x : Group) : (s.setGroup g x).placing = s.placing := rfl
@[simp] theorem setGroup_node (g : Nat) (x : Group) : (s.setGroup g x).node = s.node := rfl
@[simp] theorem setGroup_ev (g : Nat) (x : Group) : (s.setGroup g x).ev = s.ev := rfl
@[simp] theorem setGroup_conv (g : Nat) (x : Group) : (s.setGroup g x).conv = s.conv := rfl
@[simp] theorem setGroup_circ (g : Nat) (x : Group) : (s.setGroup g x).circ = s.circ := rfl
@[simp] theorem setGroup_coll (g : Nat) (x : Group) : (s.setGroup g x).coll = s.coll := rfl
@[simp] theorem setGroup_links (g : Nat) (x : Group) : (s.setGroup g x).links = s.links := rfl
@[simp] theorem setGroup_mig (g : Nat) (x : Group) : (s.setGroup g x).mig = s.mig := rfl
@[simp] theorem setGroup_fleet (g : Nat) (x : Group) : (s.setGroup g x).fleet = s.fleet := rfl
@[simp] theorem setGroup_coreAt (g : Nat) (x : Group) (m : Nat) : (s.setGroup g x).coreAt m = s.coreAt m := rfl
@[simp] theorem setGroup_dieAt (g : Nat) (x : Group) (m : Nat) : (s.setGroup g x).dieAt m = s.dieAt m := rfl
@[simp] theorem setGroup_ownerAt (g : Nat) (x : Group) (m : Nat) : (s.setGroup g x).ownerAt m = s.ownerAt m := rfl
@[simp] theorem setGroup_taskAt (g : Nat) (x : Group) (m : Nat) : (s.setGroup g x).taskAt m = s.taskAt m := rfl
@[simp] theorem setGroup_accAt (g : Nat) (x : Group) (m : Nat) : (s.setGroup g x).accAt m = s.accAt m := rfl
@[simp] theorem setGroup_portAt (g : Nat) (x : Group) (m : Nat) : (s.setGroup g x).portAt m = s.portAt m := rfl
@[simp] theorem setGroup_moduleAt (g : Nat) (x : Group) (m : Nat) : (s.setGroup g x).moduleAt m = s.moduleAt m := rfl
@[simp] theorem setGroup_bufAt (g : Nat) (x : Group) (m : Nat) : (s.setGroup g x).bufAt m = s.bufAt m := rfl
@[simp] theorem setGroup_here (g : Nat) (x : Group) : (s.setGroup g x).here = s.here := rfl
@[simp] theorem setGroup_feature (g : Nat) (x : Group) (m : Nat) : (s.setGroup g x).feature m = s.feature m := rfl
@[simp] theorem setGroup_keyOf (g : Nat) (x : Group) (m : Nat) : (s.setGroup g x).keyOf m = s.keyOf m := rfl

/-! ## onMem -/

@[simp] theorem onMem_beat (f : Mem → Mem) : (s.onMem f).beat = s.beat := rfl
@[simp] theorem onMem_turn (f : Mem → Mem) : (s.onMem f).turn = s.turn := rfl
@[simp] theorem onMem_free (f : Mem → Mem) : (s.onMem f).free = s.free := rfl
@[simp] theorem onMem_nextId (f : Mem → Mem) : (s.onMem f).nextId = s.nextId := rfl
@[simp] theorem onMem_cores (f : Mem → Mem) : (s.onMem f).cores = s.cores := rfl
@[simp] theorem onMem_dies (f : Mem → Mem) : (s.onMem f).dies = s.dies := rfl
@[simp] theorem onMem_accs (f : Mem → Mem) : (s.onMem f).accs = s.accs := rfl
@[simp] theorem onMem_tasks (f : Mem → Mem) : (s.onMem f).tasks = s.tasks := rfl
@[simp] theorem onMem_limbo (f : Mem → Mem) : (s.onMem f).limbo = s.limbo := rfl
@[simp] theorem onMem_frame (f : Mem → Mem) : (s.onMem f).frame = s.frame := rfl
@[simp] theorem onMem_groups (f : Mem → Mem) : (s.onMem f).groups = s.groups := rfl
@[simp] theorem onMem_owners (f : Mem → Mem) : (s.onMem f).owners = s.owners := rfl
@[simp] theorem onMem_images (f : Mem → Mem) : (s.onMem f).images = s.images := rfl
@[simp] theorem onMem_boot (f : Mem → Mem) : (s.onMem f).boot = s.boot := rfl
@[simp] theorem onMem_cmd (f : Mem → Mem) : (s.onMem f).cmd = s.cmd := rfl
@[simp] theorem onMem_placing (f : Mem → Mem) : (s.onMem f).placing = s.placing := rfl
@[simp] theorem onMem_node (f : Mem → Mem) : (s.onMem f).node = s.node := rfl
@[simp] theorem onMem_ev (f : Mem → Mem) : (s.onMem f).ev = s.ev := rfl
@[simp] theorem onMem_conv (f : Mem → Mem) : (s.onMem f).conv = s.conv := rfl
@[simp] theorem onMem_circ (f : Mem → Mem) : (s.onMem f).circ = s.circ := rfl
@[simp] theorem onMem_coll (f : Mem → Mem) : (s.onMem f).coll = s.coll := rfl
@[simp] theorem onMem_links (f : Mem → Mem) : (s.onMem f).links = s.links := rfl
@[simp] theorem onMem_mig (f : Mem → Mem) : (s.onMem f).mig = s.mig := rfl
@[simp] theorem onMem_fleet (f : Mem → Mem) : (s.onMem f).fleet = s.fleet := rfl
@[simp] theorem onMem_coreAt (f : Mem → Mem) (m : Nat) : (s.onMem f).coreAt m = s.coreAt m := rfl
@[simp] theorem onMem_dieAt (f : Mem → Mem) (m : Nat) : (s.onMem f).dieAt m = s.dieAt m := rfl
@[simp] theorem onMem_ownerAt (f : Mem → Mem) (m : Nat) : (s.onMem f).ownerAt m = s.ownerAt m := rfl
@[simp] theorem onMem_taskAt (f : Mem → Mem) (m : Nat) : (s.onMem f).taskAt m = s.taskAt m := rfl
@[simp] theorem onMem_accAt (f : Mem → Mem) (m : Nat) : (s.onMem f).accAt m = s.accAt m := rfl
@[simp] theorem onMem_groupAt (f : Mem → Mem) (m : Nat) : (s.onMem f).groupAt m = s.groupAt m := rfl
@[simp] theorem onMem_portAt (f : Mem → Mem) (m : Nat) : (s.onMem f).portAt m = s.portAt m := rfl
@[simp] theorem onMem_moduleAt (f : Mem → Mem) (m : Nat) : (s.onMem f).moduleAt m = s.moduleAt m := rfl
@[simp] theorem onMem_bufAt (f : Mem → Mem) (m : Nat) : (s.onMem f).bufAt m = s.bufAt m := rfl
@[simp] theorem onMem_here (f : Mem → Mem) : (s.onMem f).here = s.here := rfl
@[simp] theorem onMem_feature (f : Mem → Mem) (m : Nat) : (s.onMem f).feature m = s.feature m := rfl
@[simp] theorem onMem_keyOf (f : Mem → Mem) (m : Nat) : (s.onMem f).keyOf m = s.keyOf m := rfl

/-! ## onConv -/

@[simp] theorem onConv_beat (f : Conv → Conv) : (s.onConv f).beat = s.beat := rfl
@[simp] theorem onConv_turn (f : Conv → Conv) : (s.onConv f).turn = s.turn := rfl
@[simp] theorem onConv_free (f : Conv → Conv) : (s.onConv f).free = s.free := rfl
@[simp] theorem onConv_nextId (f : Conv → Conv) : (s.onConv f).nextId = s.nextId := rfl
@[simp] theorem onConv_cores (f : Conv → Conv) : (s.onConv f).cores = s.cores := rfl
@[simp] theorem onConv_dies (f : Conv → Conv) : (s.onConv f).dies = s.dies := rfl
@[simp] theorem onConv_mem (f : Conv → Conv) : (s.onConv f).mem = s.mem := rfl
@[simp] theorem onConv_accs (f : Conv → Conv) : (s.onConv f).accs = s.accs := rfl
@[simp] theorem onConv_tasks (f : Conv → Conv) : (s.onConv f).tasks = s.tasks := rfl
@[simp] theorem onConv_limbo (f : Conv → Conv) : (s.onConv f).limbo = s.limbo := rfl
@[simp] theorem onConv_frame (f : Conv → Conv) : (s.onConv f).frame = s.frame := rfl
@[simp] theorem onConv_groups (f : Conv → Conv) : (s.onConv f).groups = s.groups := rfl
@[simp] theorem onConv_owners (f : Conv → Conv) : (s.onConv f).owners = s.owners := rfl
@[simp] theorem onConv_images (f : Conv → Conv) : (s.onConv f).images = s.images := rfl
@[simp] theorem onConv_boot (f : Conv → Conv) : (s.onConv f).boot = s.boot := rfl
@[simp] theorem onConv_cmd (f : Conv → Conv) : (s.onConv f).cmd = s.cmd := rfl
@[simp] theorem onConv_placing (f : Conv → Conv) : (s.onConv f).placing = s.placing := rfl
@[simp] theorem onConv_node (f : Conv → Conv) : (s.onConv f).node = s.node := rfl
@[simp] theorem onConv_ev (f : Conv → Conv) : (s.onConv f).ev = s.ev := rfl
@[simp] theorem onConv_circ (f : Conv → Conv) : (s.onConv f).circ = s.circ := rfl
@[simp] theorem onConv_coll (f : Conv → Conv) : (s.onConv f).coll = s.coll := rfl
@[simp] theorem onConv_links (f : Conv → Conv) : (s.onConv f).links = s.links := rfl
@[simp] theorem onConv_mig (f : Conv → Conv) : (s.onConv f).mig = s.mig := rfl
@[simp] theorem onConv_fleet (f : Conv → Conv) : (s.onConv f).fleet = s.fleet := rfl
@[simp] theorem onConv_coreAt (f : Conv → Conv) (m : Nat) : (s.onConv f).coreAt m = s.coreAt m := rfl
@[simp] theorem onConv_dieAt (f : Conv → Conv) (m : Nat) : (s.onConv f).dieAt m = s.dieAt m := rfl
@[simp] theorem onConv_ownerAt (f : Conv → Conv) (m : Nat) : (s.onConv f).ownerAt m = s.ownerAt m := rfl
@[simp] theorem onConv_taskAt (f : Conv → Conv) (m : Nat) : (s.onConv f).taskAt m = s.taskAt m := rfl
@[simp] theorem onConv_accAt (f : Conv → Conv) (m : Nat) : (s.onConv f).accAt m = s.accAt m := rfl
@[simp] theorem onConv_groupAt (f : Conv → Conv) (m : Nat) : (s.onConv f).groupAt m = s.groupAt m := rfl
@[simp] theorem onConv_portAt (f : Conv → Conv) (m : Nat) : (s.onConv f).portAt m = s.portAt m := rfl
@[simp] theorem onConv_moduleAt (f : Conv → Conv) (m : Nat) : (s.onConv f).moduleAt m = s.moduleAt m := rfl
@[simp] theorem onConv_bufAt (f : Conv → Conv) (m : Nat) : (s.onConv f).bufAt m = s.bufAt m := rfl
@[simp] theorem onConv_here (f : Conv → Conv) : (s.onConv f).here = s.here := rfl
@[simp] theorem onConv_feature (f : Conv → Conv) (m : Nat) : (s.onConv f).feature m = s.feature m := rfl
@[simp] theorem onConv_keyOf (f : Conv → Conv) (m : Nat) : (s.onConv f).keyOf m = s.keyOf m := rfl

/-! ## onPort -/

@[simp] theorem onPort_beat (p : Nat) (f : Port → Port) : (s.onPort p f).beat = s.beat := rfl
@[simp] theorem onPort_turn (p : Nat) (f : Port → Port) : (s.onPort p f).turn = s.turn := rfl
@[simp] theorem onPort_free (p : Nat) (f : Port → Port) : (s.onPort p f).free = s.free := rfl
@[simp] theorem onPort_nextId (p : Nat) (f : Port → Port) : (s.onPort p f).nextId = s.nextId := rfl
@[simp] theorem onPort_cores (p : Nat) (f : Port → Port) : (s.onPort p f).cores = s.cores := rfl
@[simp] theorem onPort_dies (p : Nat) (f : Port → Port) : (s.onPort p f).dies = s.dies := rfl
@[simp] theorem onPort_mem (p : Nat) (f : Port → Port) : (s.onPort p f).mem = s.mem := rfl
@[simp] theorem onPort_accs (p : Nat) (f : Port → Port) : (s.onPort p f).accs = s.accs := rfl
@[simp] theorem onPort_tasks (p : Nat) (f : Port → Port) : (s.onPort p f).tasks = s.tasks := rfl
@[simp] theorem onPort_limbo (p : Nat) (f : Port → Port) : (s.onPort p f).limbo = s.limbo := rfl
@[simp] theorem onPort_frame (p : Nat) (f : Port → Port) : (s.onPort p f).frame = s.frame := rfl
@[simp] theorem onPort_groups (p : Nat) (f : Port → Port) : (s.onPort p f).groups = s.groups := rfl
@[simp] theorem onPort_owners (p : Nat) (f : Port → Port) : (s.onPort p f).owners = s.owners := rfl
@[simp] theorem onPort_images (p : Nat) (f : Port → Port) : (s.onPort p f).images = s.images := rfl
@[simp] theorem onPort_boot (p : Nat) (f : Port → Port) : (s.onPort p f).boot = s.boot := rfl
@[simp] theorem onPort_cmd (p : Nat) (f : Port → Port) : (s.onPort p f).cmd = s.cmd := rfl
@[simp] theorem onPort_placing (p : Nat) (f : Port → Port) : (s.onPort p f).placing = s.placing := rfl
@[simp] theorem onPort_node (p : Nat) (f : Port → Port) : (s.onPort p f).node = s.node := rfl
@[simp] theorem onPort_ev (p : Nat) (f : Port → Port) : (s.onPort p f).ev = s.ev := rfl
@[simp] theorem onPort_conv (p : Nat) (f : Port → Port) : (s.onPort p f).conv = s.conv := rfl
@[simp] theorem onPort_coll (p : Nat) (f : Port → Port) : (s.onPort p f).coll = s.coll := rfl
@[simp] theorem onPort_links (p : Nat) (f : Port → Port) : (s.onPort p f).links = s.links := rfl
@[simp] theorem onPort_mig (p : Nat) (f : Port → Port) : (s.onPort p f).mig = s.mig := rfl
@[simp] theorem onPort_fleet (p : Nat) (f : Port → Port) : (s.onPort p f).fleet = s.fleet := rfl
@[simp] theorem onPort_coreAt (p : Nat) (f : Port → Port) (m : Nat) : (s.onPort p f).coreAt m = s.coreAt m := rfl
@[simp] theorem onPort_dieAt (p : Nat) (f : Port → Port) (m : Nat) : (s.onPort p f).dieAt m = s.dieAt m := rfl
@[simp] theorem onPort_ownerAt (p : Nat) (f : Port → Port) (m : Nat) : (s.onPort p f).ownerAt m = s.ownerAt m := rfl
@[simp] theorem onPort_taskAt (p : Nat) (f : Port → Port) (m : Nat) : (s.onPort p f).taskAt m = s.taskAt m := rfl
@[simp] theorem onPort_accAt (p : Nat) (f : Port → Port) (m : Nat) : (s.onPort p f).accAt m = s.accAt m := rfl
@[simp] theorem onPort_groupAt (p : Nat) (f : Port → Port) (m : Nat) : (s.onPort p f).groupAt m = s.groupAt m := rfl
@[simp] theorem onPort_moduleAt (p : Nat) (f : Port → Port) (m : Nat) : (s.onPort p f).moduleAt m = s.moduleAt m := rfl
@[simp] theorem onPort_bufAt (p : Nat) (f : Port → Port) (m : Nat) : (s.onPort p f).bufAt m = s.bufAt m := rfl
@[simp] theorem onPort_here (p : Nat) (f : Port → Port) : (s.onPort p f).here = s.here := rfl
@[simp] theorem onPort_feature (p : Nat) (f : Port → Port) (m : Nat) : (s.onPort p f).feature m = s.feature m := rfl
@[simp] theorem onPort_keyOf (p : Nat) (f : Port → Port) (m : Nat) : (s.onPort p f).keyOf m = s.keyOf m := rfl

/-! ## onCirc -/

@[simp] theorem onCirc_beat (f : Circ → Circ) : (s.onCirc f).beat = s.beat := rfl
@[simp] theorem onCirc_turn (f : Circ → Circ) : (s.onCirc f).turn = s.turn := rfl
@[simp] theorem onCirc_free (f : Circ → Circ) : (s.onCirc f).free = s.free := rfl
@[simp] theorem onCirc_nextId (f : Circ → Circ) : (s.onCirc f).nextId = s.nextId := rfl
@[simp] theorem onCirc_cores (f : Circ → Circ) : (s.onCirc f).cores = s.cores := rfl
@[simp] theorem onCirc_dies (f : Circ → Circ) : (s.onCirc f).dies = s.dies := rfl
@[simp] theorem onCirc_mem (f : Circ → Circ) : (s.onCirc f).mem = s.mem := rfl
@[simp] theorem onCirc_accs (f : Circ → Circ) : (s.onCirc f).accs = s.accs := rfl
@[simp] theorem onCirc_tasks (f : Circ → Circ) : (s.onCirc f).tasks = s.tasks := rfl
@[simp] theorem onCirc_limbo (f : Circ → Circ) : (s.onCirc f).limbo = s.limbo := rfl
@[simp] theorem onCirc_frame (f : Circ → Circ) : (s.onCirc f).frame = s.frame := rfl
@[simp] theorem onCirc_groups (f : Circ → Circ) : (s.onCirc f).groups = s.groups := rfl
@[simp] theorem onCirc_owners (f : Circ → Circ) : (s.onCirc f).owners = s.owners := rfl
@[simp] theorem onCirc_images (f : Circ → Circ) : (s.onCirc f).images = s.images := rfl
@[simp] theorem onCirc_boot (f : Circ → Circ) : (s.onCirc f).boot = s.boot := rfl
@[simp] theorem onCirc_cmd (f : Circ → Circ) : (s.onCirc f).cmd = s.cmd := rfl
@[simp] theorem onCirc_placing (f : Circ → Circ) : (s.onCirc f).placing = s.placing := rfl
@[simp] theorem onCirc_node (f : Circ → Circ) : (s.onCirc f).node = s.node := rfl
@[simp] theorem onCirc_ev (f : Circ → Circ) : (s.onCirc f).ev = s.ev := rfl
@[simp] theorem onCirc_conv (f : Circ → Circ) : (s.onCirc f).conv = s.conv := rfl
@[simp] theorem onCirc_coll (f : Circ → Circ) : (s.onCirc f).coll = s.coll := rfl
@[simp] theorem onCirc_links (f : Circ → Circ) : (s.onCirc f).links = s.links := rfl
@[simp] theorem onCirc_mig (f : Circ → Circ) : (s.onCirc f).mig = s.mig := rfl
@[simp] theorem onCirc_fleet (f : Circ → Circ) : (s.onCirc f).fleet = s.fleet := rfl
@[simp] theorem onCirc_coreAt (f : Circ → Circ) (m : Nat) : (s.onCirc f).coreAt m = s.coreAt m := rfl
@[simp] theorem onCirc_dieAt (f : Circ → Circ) (m : Nat) : (s.onCirc f).dieAt m = s.dieAt m := rfl
@[simp] theorem onCirc_ownerAt (f : Circ → Circ) (m : Nat) : (s.onCirc f).ownerAt m = s.ownerAt m := rfl
@[simp] theorem onCirc_taskAt (f : Circ → Circ) (m : Nat) : (s.onCirc f).taskAt m = s.taskAt m := rfl
@[simp] theorem onCirc_accAt (f : Circ → Circ) (m : Nat) : (s.onCirc f).accAt m = s.accAt m := rfl
@[simp] theorem onCirc_groupAt (f : Circ → Circ) (m : Nat) : (s.onCirc f).groupAt m = s.groupAt m := rfl
@[simp] theorem onCirc_moduleAt (f : Circ → Circ) (m : Nat) : (s.onCirc f).moduleAt m = s.moduleAt m := rfl
@[simp] theorem onCirc_bufAt (f : Circ → Circ) (m : Nat) : (s.onCirc f).bufAt m = s.bufAt m := rfl
@[simp] theorem onCirc_here (f : Circ → Circ) : (s.onCirc f).here = s.here := rfl
@[simp] theorem onCirc_feature (f : Circ → Circ) (m : Nat) : (s.onCirc f).feature m = s.feature m := rfl
@[simp] theorem onCirc_keyOf (f : Circ → Circ) (m : Nat) : (s.onCirc f).keyOf m = s.keyOf m := rfl

/-! ## onModule -/

@[simp] theorem onModule_beat (k : Nat) (f : Module → Module) : (s.onModule k f).beat = s.beat := rfl
@[simp] theorem onModule_turn (k : Nat) (f : Module → Module) : (s.onModule k f).turn = s.turn := rfl
@[simp] theorem onModule_free (k : Nat) (f : Module → Module) : (s.onModule k f).free = s.free := rfl
@[simp] theorem onModule_nextId (k : Nat) (f : Module → Module) : (s.onModule k f).nextId = s.nextId := rfl
@[simp] theorem onModule_cores (k : Nat) (f : Module → Module) : (s.onModule k f).cores = s.cores := rfl
@[simp] theorem onModule_dies (k : Nat) (f : Module → Module) : (s.onModule k f).dies = s.dies := rfl
@[simp] theorem onModule_mem (k : Nat) (f : Module → Module) : (s.onModule k f).mem = s.mem := rfl
@[simp] theorem onModule_accs (k : Nat) (f : Module → Module) : (s.onModule k f).accs = s.accs := rfl
@[simp] theorem onModule_tasks (k : Nat) (f : Module → Module) : (s.onModule k f).tasks = s.tasks := rfl
@[simp] theorem onModule_limbo (k : Nat) (f : Module → Module) : (s.onModule k f).limbo = s.limbo := rfl
@[simp] theorem onModule_frame (k : Nat) (f : Module → Module) : (s.onModule k f).frame = s.frame := rfl
@[simp] theorem onModule_groups (k : Nat) (f : Module → Module) : (s.onModule k f).groups = s.groups := rfl
@[simp] theorem onModule_owners (k : Nat) (f : Module → Module) : (s.onModule k f).owners = s.owners := rfl
@[simp] theorem onModule_images (k : Nat) (f : Module → Module) : (s.onModule k f).images = s.images := rfl
@[simp] theorem onModule_boot (k : Nat) (f : Module → Module) : (s.onModule k f).boot = s.boot := rfl
@[simp] theorem onModule_cmd (k : Nat) (f : Module → Module) : (s.onModule k f).cmd = s.cmd := rfl
@[simp] theorem onModule_placing (k : Nat) (f : Module → Module) : (s.onModule k f).placing = s.placing := rfl
@[simp] theorem onModule_node (k : Nat) (f : Module → Module) : (s.onModule k f).node = s.node := rfl
@[simp] theorem onModule_ev (k : Nat) (f : Module → Module) : (s.onModule k f).ev = s.ev := rfl
@[simp] theorem onModule_conv (k : Nat) (f : Module → Module) : (s.onModule k f).conv = s.conv := rfl
@[simp] theorem onModule_circ (k : Nat) (f : Module → Module) : (s.onModule k f).circ = s.circ := rfl
@[simp] theorem onModule_coll (k : Nat) (f : Module → Module) : (s.onModule k f).coll = s.coll := rfl
@[simp] theorem onModule_mig (k : Nat) (f : Module → Module) : (s.onModule k f).mig = s.mig := rfl
@[simp] theorem onModule_fleet (k : Nat) (f : Module → Module) : (s.onModule k f).fleet = s.fleet := rfl
@[simp] theorem onModule_coreAt (k : Nat) (f : Module → Module) (m : Nat) : (s.onModule k f).coreAt m = s.coreAt m := rfl
@[simp] theorem onModule_dieAt (k : Nat) (f : Module → Module) (m : Nat) : (s.onModule k f).dieAt m = s.dieAt m := rfl
@[simp] theorem onModule_ownerAt (k : Nat) (f : Module → Module) (m : Nat) : (s.onModule k f).ownerAt m = s.ownerAt m := rfl
@[simp] theorem onModule_taskAt (k : Nat) (f : Module → Module) (m : Nat) : (s.onModule k f).taskAt m = s.taskAt m := rfl
@[simp] theorem onModule_accAt (k : Nat) (f : Module → Module) (m : Nat) : (s.onModule k f).accAt m = s.accAt m := rfl
@[simp] theorem onModule_groupAt (k : Nat) (f : Module → Module) (m : Nat) : (s.onModule k f).groupAt m = s.groupAt m := rfl
@[simp] theorem onModule_portAt (k : Nat) (f : Module → Module) (m : Nat) : (s.onModule k f).portAt m = s.portAt m := rfl
@[simp] theorem onModule_bufAt (k : Nat) (f : Module → Module) (m : Nat) : (s.onModule k f).bufAt m = s.bufAt m := rfl
@[simp] theorem onModule_here (k : Nat) (f : Module → Module) : (s.onModule k f).here = s.here := rfl
@[simp] theorem onModule_feature (k : Nat) (f : Module → Module) (m : Nat) : (s.onModule k f).feature m = s.feature m := rfl
@[simp] theorem onModule_keyOf (k : Nat) (f : Module → Module) (m : Nat) : (s.onModule k f).keyOf m = s.keyOf m := rfl

/-! ## onMig -/

@[simp] theorem onMig_beat (f : Mig → Mig) : (s.onMig f).beat = s.beat := rfl
@[simp] theorem onMig_turn (f : Mig → Mig) : (s.onMig f).turn = s.turn := rfl
@[simp] theorem onMig_free (f : Mig → Mig) : (s.onMig f).free = s.free := rfl
@[simp] theorem onMig_nextId (f : Mig → Mig) : (s.onMig f).nextId = s.nextId := rfl
@[simp] theorem onMig_cores (f : Mig → Mig) : (s.onMig f).cores = s.cores := rfl
@[simp] theorem onMig_dies (f : Mig → Mig) : (s.onMig f).dies = s.dies := rfl
@[simp] theorem onMig_mem (f : Mig → Mig) : (s.onMig f).mem = s.mem := rfl
@[simp] theorem onMig_accs (f : Mig → Mig) : (s.onMig f).accs = s.accs := rfl
@[simp] theorem onMig_tasks (f : Mig → Mig) : (s.onMig f).tasks = s.tasks := rfl
@[simp] theorem onMig_limbo (f : Mig → Mig) : (s.onMig f).limbo = s.limbo := rfl
@[simp] theorem onMig_frame (f : Mig → Mig) : (s.onMig f).frame = s.frame := rfl
@[simp] theorem onMig_groups (f : Mig → Mig) : (s.onMig f).groups = s.groups := rfl
@[simp] theorem onMig_owners (f : Mig → Mig) : (s.onMig f).owners = s.owners := rfl
@[simp] theorem onMig_images (f : Mig → Mig) : (s.onMig f).images = s.images := rfl
@[simp] theorem onMig_boot (f : Mig → Mig) : (s.onMig f).boot = s.boot := rfl
@[simp] theorem onMig_cmd (f : Mig → Mig) : (s.onMig f).cmd = s.cmd := rfl
@[simp] theorem onMig_placing (f : Mig → Mig) : (s.onMig f).placing = s.placing := rfl
@[simp] theorem onMig_node (f : Mig → Mig) : (s.onMig f).node = s.node := rfl
@[simp] theorem onMig_ev (f : Mig → Mig) : (s.onMig f).ev = s.ev := rfl
@[simp] theorem onMig_conv (f : Mig → Mig) : (s.onMig f).conv = s.conv := rfl
@[simp] theorem onMig_circ (f : Mig → Mig) : (s.onMig f).circ = s.circ := rfl
@[simp] theorem onMig_coll (f : Mig → Mig) : (s.onMig f).coll = s.coll := rfl
@[simp] theorem onMig_links (f : Mig → Mig) : (s.onMig f).links = s.links := rfl
@[simp] theorem onMig_fleet (f : Mig → Mig) : (s.onMig f).fleet = s.fleet := rfl
@[simp] theorem onMig_coreAt (f : Mig → Mig) (m : Nat) : (s.onMig f).coreAt m = s.coreAt m := rfl
@[simp] theorem onMig_dieAt (f : Mig → Mig) (m : Nat) : (s.onMig f).dieAt m = s.dieAt m := rfl
@[simp] theorem onMig_ownerAt (f : Mig → Mig) (m : Nat) : (s.onMig f).ownerAt m = s.ownerAt m := rfl
@[simp] theorem onMig_taskAt (f : Mig → Mig) (m : Nat) : (s.onMig f).taskAt m = s.taskAt m := rfl
@[simp] theorem onMig_accAt (f : Mig → Mig) (m : Nat) : (s.onMig f).accAt m = s.accAt m := rfl
@[simp] theorem onMig_groupAt (f : Mig → Mig) (m : Nat) : (s.onMig f).groupAt m = s.groupAt m := rfl
@[simp] theorem onMig_portAt (f : Mig → Mig) (m : Nat) : (s.onMig f).portAt m = s.portAt m := rfl
@[simp] theorem onMig_moduleAt (f : Mig → Mig) (m : Nat) : (s.onMig f).moduleAt m = s.moduleAt m := rfl
@[simp] theorem onMig_bufAt (f : Mig → Mig) (m : Nat) : (s.onMig f).bufAt m = s.bufAt m := rfl
@[simp] theorem onMig_here (f : Mig → Mig) : (s.onMig f).here = s.here := rfl
@[simp] theorem onMig_feature (f : Mig → Mig) (m : Nat) : (s.onMig f).feature m = s.feature m := rfl
@[simp] theorem onMig_keyOf (f : Mig → Mig) (m : Nat) : (s.onMig f).keyOf m = s.keyOf m := rfl

/-! ## onFleet -/

@[simp] theorem onFleet_beat (f : Fleet → Fleet) : (s.onFleet f).beat = s.beat := rfl
@[simp] theorem onFleet_turn (f : Fleet → Fleet) : (s.onFleet f).turn = s.turn := rfl
@[simp] theorem onFleet_free (f : Fleet → Fleet) : (s.onFleet f).free = s.free := rfl
@[simp] theorem onFleet_nextId (f : Fleet → Fleet) : (s.onFleet f).nextId = s.nextId := rfl
@[simp] theorem onFleet_cores (f : Fleet → Fleet) : (s.onFleet f).cores = s.cores := rfl
@[simp] theorem onFleet_dies (f : Fleet → Fleet) : (s.onFleet f).dies = s.dies := rfl
@[simp] theorem onFleet_mem (f : Fleet → Fleet) : (s.onFleet f).mem = s.mem := rfl
@[simp] theorem onFleet_accs (f : Fleet → Fleet) : (s.onFleet f).accs = s.accs := rfl
@[simp] theorem onFleet_tasks (f : Fleet → Fleet) : (s.onFleet f).tasks = s.tasks := rfl
@[simp] theorem onFleet_limbo (f : Fleet → Fleet) : (s.onFleet f).limbo = s.limbo := rfl
@[simp] theorem onFleet_frame (f : Fleet → Fleet) : (s.onFleet f).frame = s.frame := rfl
@[simp] theorem onFleet_groups (f : Fleet → Fleet) : (s.onFleet f).groups = s.groups := rfl
@[simp] theorem onFleet_owners (f : Fleet → Fleet) : (s.onFleet f).owners = s.owners := rfl
@[simp] theorem onFleet_images (f : Fleet → Fleet) : (s.onFleet f).images = s.images := rfl
@[simp] theorem onFleet_boot (f : Fleet → Fleet) : (s.onFleet f).boot = s.boot := rfl
@[simp] theorem onFleet_cmd (f : Fleet → Fleet) : (s.onFleet f).cmd = s.cmd := rfl
@[simp] theorem onFleet_placing (f : Fleet → Fleet) : (s.onFleet f).placing = s.placing := rfl
@[simp] theorem onFleet_node (f : Fleet → Fleet) : (s.onFleet f).node = s.node := rfl
@[simp] theorem onFleet_ev (f : Fleet → Fleet) : (s.onFleet f).ev = s.ev := rfl
@[simp] theorem onFleet_conv (f : Fleet → Fleet) : (s.onFleet f).conv = s.conv := rfl
@[simp] theorem onFleet_circ (f : Fleet → Fleet) : (s.onFleet f).circ = s.circ := rfl
@[simp] theorem onFleet_coll (f : Fleet → Fleet) : (s.onFleet f).coll = s.coll := rfl
@[simp] theorem onFleet_links (f : Fleet → Fleet) : (s.onFleet f).links = s.links := rfl
@[simp] theorem onFleet_mig (f : Fleet → Fleet) : (s.onFleet f).mig = s.mig := rfl
@[simp] theorem onFleet_coreAt (f : Fleet → Fleet) (m : Nat) : (s.onFleet f).coreAt m = s.coreAt m := rfl
@[simp] theorem onFleet_dieAt (f : Fleet → Fleet) (m : Nat) : (s.onFleet f).dieAt m = s.dieAt m := rfl
@[simp] theorem onFleet_ownerAt (f : Fleet → Fleet) (m : Nat) : (s.onFleet f).ownerAt m = s.ownerAt m := rfl
@[simp] theorem onFleet_taskAt (f : Fleet → Fleet) (m : Nat) : (s.onFleet f).taskAt m = s.taskAt m := rfl
@[simp] theorem onFleet_accAt (f : Fleet → Fleet) (m : Nat) : (s.onFleet f).accAt m = s.accAt m := rfl
@[simp] theorem onFleet_groupAt (f : Fleet → Fleet) (m : Nat) : (s.onFleet f).groupAt m = s.groupAt m := rfl
@[simp] theorem onFleet_portAt (f : Fleet → Fleet) (m : Nat) : (s.onFleet f).portAt m = s.portAt m := rfl
@[simp] theorem onFleet_moduleAt (f : Fleet → Fleet) (m : Nat) : (s.onFleet f).moduleAt m = s.moduleAt m := rfl
@[simp] theorem onFleet_bufAt (f : Fleet → Fleet) (m : Nat) : (s.onFleet f).bufAt m = s.bufAt m := rfl
@[simp] theorem onFleet_here (f : Fleet → Fleet) : (s.onFleet f).here = s.here := rfl
@[simp] theorem onFleet_feature (f : Fleet → Fleet) (m : Nat) : (s.onFleet f).feature m = s.feature m := rfl
@[simp] theorem onFleet_keyOf (f : Fleet → Fleet) (m : Nat) : (s.onFleet f).keyOf m = s.keyOf m := rfl

/-! ## setBuf -/

@[simp] theorem setBuf_beat (k : Nat) (b : Option Buf) : (s.setBuf k b).beat = s.beat := rfl
@[simp] theorem setBuf_turn (k : Nat) (b : Option Buf) : (s.setBuf k b).turn = s.turn := rfl
@[simp] theorem setBuf_free (k : Nat) (b : Option Buf) : (s.setBuf k b).free = s.free := rfl
@[simp] theorem setBuf_nextId (k : Nat) (b : Option Buf) : (s.setBuf k b).nextId = s.nextId := rfl
@[simp] theorem setBuf_cores (k : Nat) (b : Option Buf) : (s.setBuf k b).cores = s.cores := rfl
@[simp] theorem setBuf_dies (k : Nat) (b : Option Buf) : (s.setBuf k b).dies = s.dies := rfl
@[simp] theorem setBuf_mem (k : Nat) (b : Option Buf) : (s.setBuf k b).mem = s.mem := rfl
@[simp] theorem setBuf_accs (k : Nat) (b : Option Buf) : (s.setBuf k b).accs = s.accs := rfl
@[simp] theorem setBuf_tasks (k : Nat) (b : Option Buf) : (s.setBuf k b).tasks = s.tasks := rfl
@[simp] theorem setBuf_limbo (k : Nat) (b : Option Buf) : (s.setBuf k b).limbo = s.limbo := rfl
@[simp] theorem setBuf_frame (k : Nat) (b : Option Buf) : (s.setBuf k b).frame = s.frame := rfl
@[simp] theorem setBuf_groups (k : Nat) (b : Option Buf) : (s.setBuf k b).groups = s.groups := rfl
@[simp] theorem setBuf_owners (k : Nat) (b : Option Buf) : (s.setBuf k b).owners = s.owners := rfl
@[simp] theorem setBuf_images (k : Nat) (b : Option Buf) : (s.setBuf k b).images = s.images := rfl
@[simp] theorem setBuf_boot (k : Nat) (b : Option Buf) : (s.setBuf k b).boot = s.boot := rfl
@[simp] theorem setBuf_cmd (k : Nat) (b : Option Buf) : (s.setBuf k b).cmd = s.cmd := rfl
@[simp] theorem setBuf_placing (k : Nat) (b : Option Buf) : (s.setBuf k b).placing = s.placing := rfl
@[simp] theorem setBuf_node (k : Nat) (b : Option Buf) : (s.setBuf k b).node = s.node := rfl
@[simp] theorem setBuf_ev (k : Nat) (b : Option Buf) : (s.setBuf k b).ev = s.ev := rfl
@[simp] theorem setBuf_conv (k : Nat) (b : Option Buf) : (s.setBuf k b).conv = s.conv := rfl
@[simp] theorem setBuf_circ (k : Nat) (b : Option Buf) : (s.setBuf k b).circ = s.circ := rfl
@[simp] theorem setBuf_links (k : Nat) (b : Option Buf) : (s.setBuf k b).links = s.links := rfl
@[simp] theorem setBuf_mig (k : Nat) (b : Option Buf) : (s.setBuf k b).mig = s.mig := rfl
@[simp] theorem setBuf_fleet (k : Nat) (b : Option Buf) : (s.setBuf k b).fleet = s.fleet := rfl
@[simp] theorem setBuf_coreAt (k : Nat) (b : Option Buf) (m : Nat) : (s.setBuf k b).coreAt m = s.coreAt m := rfl
@[simp] theorem setBuf_dieAt (k : Nat) (b : Option Buf) (m : Nat) : (s.setBuf k b).dieAt m = s.dieAt m := rfl
@[simp] theorem setBuf_ownerAt (k : Nat) (b : Option Buf) (m : Nat) : (s.setBuf k b).ownerAt m = s.ownerAt m := rfl
@[simp] theorem setBuf_taskAt (k : Nat) (b : Option Buf) (m : Nat) : (s.setBuf k b).taskAt m = s.taskAt m := rfl
@[simp] theorem setBuf_accAt (k : Nat) (b : Option Buf) (m : Nat) : (s.setBuf k b).accAt m = s.accAt m := rfl
@[simp] theorem setBuf_groupAt (k : Nat) (b : Option Buf) (m : Nat) : (s.setBuf k b).groupAt m = s.groupAt m := rfl
@[simp] theorem setBuf_portAt (k : Nat) (b : Option Buf) (m : Nat) : (s.setBuf k b).portAt m = s.portAt m := rfl
@[simp] theorem setBuf_moduleAt (k : Nat) (b : Option Buf) (m : Nat) : (s.setBuf k b).moduleAt m = s.moduleAt m := rfl
@[simp] theorem setBuf_here (k : Nat) (b : Option Buf) : (s.setBuf k b).here = s.here := rfl
@[simp] theorem setBuf_feature (k : Nat) (b : Option Buf) (m : Nat) : (s.setBuf k b).feature m = s.feature m := rfl
@[simp] theorem setBuf_keyOf (k : Nat) (b : Option Buf) (m : Nat) : (s.setBuf k b).keyOf m = s.keyOf m := rfl

/-! ## raiseMsix -/

@[simp] theorem raiseMsix_beat (v : Nat) : (s.raiseMsix v).beat = s.beat := rfl
@[simp] theorem raiseMsix_turn (v : Nat) : (s.raiseMsix v).turn = s.turn := rfl
@[simp] theorem raiseMsix_free (v : Nat) : (s.raiseMsix v).free = s.free := rfl
@[simp] theorem raiseMsix_nextId (v : Nat) : (s.raiseMsix v).nextId = s.nextId := rfl
@[simp] theorem raiseMsix_cores (v : Nat) : (s.raiseMsix v).cores = s.cores := rfl
@[simp] theorem raiseMsix_dies (v : Nat) : (s.raiseMsix v).dies = s.dies := rfl
@[simp] theorem raiseMsix_mem (v : Nat) : (s.raiseMsix v).mem = s.mem := rfl
@[simp] theorem raiseMsix_accs (v : Nat) : (s.raiseMsix v).accs = s.accs := rfl
@[simp] theorem raiseMsix_tasks (v : Nat) : (s.raiseMsix v).tasks = s.tasks := rfl
@[simp] theorem raiseMsix_limbo (v : Nat) : (s.raiseMsix v).limbo = s.limbo := rfl
@[simp] theorem raiseMsix_frame (v : Nat) : (s.raiseMsix v).frame = s.frame := rfl
@[simp] theorem raiseMsix_groups (v : Nat) : (s.raiseMsix v).groups = s.groups := rfl
@[simp] theorem raiseMsix_owners (v : Nat) : (s.raiseMsix v).owners = s.owners := rfl
@[simp] theorem raiseMsix_images (v : Nat) : (s.raiseMsix v).images = s.images := rfl
@[simp] theorem raiseMsix_boot (v : Nat) : (s.raiseMsix v).boot = s.boot := rfl
@[simp] theorem raiseMsix_cmd (v : Nat) : (s.raiseMsix v).cmd = s.cmd := rfl
@[simp] theorem raiseMsix_placing (v : Nat) : (s.raiseMsix v).placing = s.placing := rfl
@[simp] theorem raiseMsix_node (v : Nat) : (s.raiseMsix v).node = s.node := rfl
@[simp] theorem raiseMsix_conv (v : Nat) : (s.raiseMsix v).conv = s.conv := rfl
@[simp] theorem raiseMsix_circ (v : Nat) : (s.raiseMsix v).circ = s.circ := rfl
@[simp] theorem raiseMsix_coll (v : Nat) : (s.raiseMsix v).coll = s.coll := rfl
@[simp] theorem raiseMsix_links (v : Nat) : (s.raiseMsix v).links = s.links := rfl
@[simp] theorem raiseMsix_mig (v : Nat) : (s.raiseMsix v).mig = s.mig := rfl
@[simp] theorem raiseMsix_fleet (v : Nat) : (s.raiseMsix v).fleet = s.fleet := rfl
@[simp] theorem raiseMsix_coreAt (v : Nat) (m : Nat) : (s.raiseMsix v).coreAt m = s.coreAt m := rfl
@[simp] theorem raiseMsix_dieAt (v : Nat) (m : Nat) : (s.raiseMsix v).dieAt m = s.dieAt m := rfl
@[simp] theorem raiseMsix_ownerAt (v : Nat) (m : Nat) : (s.raiseMsix v).ownerAt m = s.ownerAt m := rfl
@[simp] theorem raiseMsix_taskAt (v : Nat) (m : Nat) : (s.raiseMsix v).taskAt m = s.taskAt m := rfl
@[simp] theorem raiseMsix_accAt (v : Nat) (m : Nat) : (s.raiseMsix v).accAt m = s.accAt m := rfl
@[simp] theorem raiseMsix_groupAt (v : Nat) (m : Nat) : (s.raiseMsix v).groupAt m = s.groupAt m := rfl
@[simp] theorem raiseMsix_portAt (v : Nat) (m : Nat) : (s.raiseMsix v).portAt m = s.portAt m := rfl
@[simp] theorem raiseMsix_moduleAt (v : Nat) (m : Nat) : (s.raiseMsix v).moduleAt m = s.moduleAt m := rfl
@[simp] theorem raiseMsix_bufAt (v : Nat) (m : Nat) : (s.raiseMsix v).bufAt m = s.bufAt m := rfl
@[simp] theorem raiseMsix_here (v : Nat) : (s.raiseMsix v).here = s.here := rfl
@[simp] theorem raiseMsix_feature (v : Nat) (m : Nat) : (s.raiseMsix v).feature m = s.feature m := rfl
@[simp] theorem raiseMsix_keyOf (v : Nat) (m : Nat) : (s.raiseMsix v).keyOf m = s.keyOf m := rfl

/-! ## badWrite -/

@[simp] theorem badWrite_beat (off : Nat) (w : Word) : (s.badWrite off w).beat = s.beat := rfl
@[simp] theorem badWrite_turn (off : Nat) (w : Word) : (s.badWrite off w).turn = s.turn := rfl
@[simp] theorem badWrite_free (off : Nat) (w : Word) : (s.badWrite off w).free = s.free := rfl
@[simp] theorem badWrite_nextId (off : Nat) (w : Word) : (s.badWrite off w).nextId = s.nextId := rfl
@[simp] theorem badWrite_cores (off : Nat) (w : Word) : (s.badWrite off w).cores = s.cores := rfl
@[simp] theorem badWrite_dies (off : Nat) (w : Word) : (s.badWrite off w).dies = s.dies := rfl
@[simp] theorem badWrite_mem (off : Nat) (w : Word) : (s.badWrite off w).mem = s.mem := rfl
@[simp] theorem badWrite_accs (off : Nat) (w : Word) : (s.badWrite off w).accs = s.accs := rfl
@[simp] theorem badWrite_tasks (off : Nat) (w : Word) : (s.badWrite off w).tasks = s.tasks := rfl
@[simp] theorem badWrite_limbo (off : Nat) (w : Word) : (s.badWrite off w).limbo = s.limbo := rfl
@[simp] theorem badWrite_frame (off : Nat) (w : Word) : (s.badWrite off w).frame = s.frame := rfl
@[simp] theorem badWrite_groups (off : Nat) (w : Word) : (s.badWrite off w).groups = s.groups := rfl
@[simp] theorem badWrite_owners (off : Nat) (w : Word) : (s.badWrite off w).owners = s.owners := rfl
@[simp] theorem badWrite_images (off : Nat) (w : Word) : (s.badWrite off w).images = s.images := rfl
@[simp] theorem badWrite_boot (off : Nat) (w : Word) : (s.badWrite off w).boot = s.boot := rfl
@[simp] theorem badWrite_cmd (off : Nat) (w : Word) : (s.badWrite off w).cmd = s.cmd := rfl
@[simp] theorem badWrite_placing (off : Nat) (w : Word) : (s.badWrite off w).placing = s.placing := rfl
@[simp] theorem badWrite_node (off : Nat) (w : Word) : (s.badWrite off w).node = s.node := rfl
@[simp] theorem badWrite_conv (off : Nat) (w : Word) : (s.badWrite off w).conv = s.conv := rfl
@[simp] theorem badWrite_circ (off : Nat) (w : Word) : (s.badWrite off w).circ = s.circ := rfl
@[simp] theorem badWrite_coll (off : Nat) (w : Word) : (s.badWrite off w).coll = s.coll := rfl
@[simp] theorem badWrite_links (off : Nat) (w : Word) : (s.badWrite off w).links = s.links := rfl
@[simp] theorem badWrite_mig (off : Nat) (w : Word) : (s.badWrite off w).mig = s.mig := rfl
@[simp] theorem badWrite_fleet (off : Nat) (w : Word) : (s.badWrite off w).fleet = s.fleet := rfl
@[simp] theorem badWrite_coreAt (off : Nat) (w : Word) (m : Nat) : (s.badWrite off w).coreAt m = s.coreAt m := rfl
@[simp] theorem badWrite_dieAt (off : Nat) (w : Word) (m : Nat) : (s.badWrite off w).dieAt m = s.dieAt m := rfl
@[simp] theorem badWrite_ownerAt (off : Nat) (w : Word) (m : Nat) : (s.badWrite off w).ownerAt m = s.ownerAt m := rfl
@[simp] theorem badWrite_taskAt (off : Nat) (w : Word) (m : Nat) : (s.badWrite off w).taskAt m = s.taskAt m := rfl
@[simp] theorem badWrite_accAt (off : Nat) (w : Word) (m : Nat) : (s.badWrite off w).accAt m = s.accAt m := rfl
@[simp] theorem badWrite_groupAt (off : Nat) (w : Word) (m : Nat) : (s.badWrite off w).groupAt m = s.groupAt m := rfl
@[simp] theorem badWrite_portAt (off : Nat) (w : Word) (m : Nat) : (s.badWrite off w).portAt m = s.portAt m := rfl
@[simp] theorem badWrite_moduleAt (off : Nat) (w : Word) (m : Nat) : (s.badWrite off w).moduleAt m = s.moduleAt m := rfl
@[simp] theorem badWrite_bufAt (off : Nat) (w : Word) (m : Nat) : (s.badWrite off w).bufAt m = s.bufAt m := rfl
@[simp] theorem badWrite_here (off : Nat) (w : Word) : (s.badWrite off w).here = s.here := rfl
@[simp] theorem badWrite_feature (off : Nat) (w : Word) (m : Nat) : (s.badWrite off w).feature m = s.feature m := rfl
@[simp] theorem badWrite_keyOf (off : Nat) (w : Word) (m : Nat) : (s.badWrite off w).keyOf m = s.keyOf m := rfl

/-! ## finish -/

@[simp] theorem finish_beat (a : Nat) (r : Res) : (s.finish a r).beat = s.beat := rfl
@[simp] theorem finish_turn (a : Nat) (r : Res) : (s.finish a r).turn = s.turn := rfl
@[simp] theorem finish_free (a : Nat) (r : Res) : (s.finish a r).free = s.free := rfl
@[simp] theorem finish_nextId (a : Nat) (r : Res) : (s.finish a r).nextId = s.nextId := rfl
@[simp] theorem finish_cores (a : Nat) (r : Res) : (s.finish a r).cores = s.cores := rfl
@[simp] theorem finish_dies (a : Nat) (r : Res) : (s.finish a r).dies = s.dies := rfl
@[simp] theorem finish_mem (a : Nat) (r : Res) : (s.finish a r).mem = s.mem := rfl
@[simp] theorem finish_tasks (a : Nat) (r : Res) : (s.finish a r).tasks = s.tasks := rfl
@[simp] theorem finish_limbo (a : Nat) (r : Res) : (s.finish a r).limbo = s.limbo := rfl
@[simp] theorem finish_frame (a : Nat) (r : Res) : (s.finish a r).frame = s.frame := rfl
@[simp] theorem finish_groups (a : Nat) (r : Res) : (s.finish a r).groups = s.groups := rfl
@[simp] theorem finish_owners (a : Nat) (r : Res) : (s.finish a r).owners = s.owners := rfl
@[simp] theorem finish_images (a : Nat) (r : Res) : (s.finish a r).images = s.images := rfl
@[simp] theorem finish_boot (a : Nat) (r : Res) : (s.finish a r).boot = s.boot := rfl
@[simp] theorem finish_cmd (a : Nat) (r : Res) : (s.finish a r).cmd = s.cmd := rfl
@[simp] theorem finish_placing (a : Nat) (r : Res) : (s.finish a r).placing = s.placing := rfl
@[simp] theorem finish_node (a : Nat) (r : Res) : (s.finish a r).node = s.node := rfl
@[simp] theorem finish_ev (a : Nat) (r : Res) : (s.finish a r).ev = s.ev := rfl
@[simp] theorem finish_conv (a : Nat) (r : Res) : (s.finish a r).conv = s.conv := rfl
@[simp] theorem finish_circ (a : Nat) (r : Res) : (s.finish a r).circ = s.circ := rfl
@[simp] theorem finish_coll (a : Nat) (r : Res) : (s.finish a r).coll = s.coll := rfl
@[simp] theorem finish_links (a : Nat) (r : Res) : (s.finish a r).links = s.links := rfl
@[simp] theorem finish_mig (a : Nat) (r : Res) : (s.finish a r).mig = s.mig := rfl
@[simp] theorem finish_fleet (a : Nat) (r : Res) : (s.finish a r).fleet = s.fleet := rfl
@[simp] theorem finish_coreAt (a : Nat) (r : Res) (m : Nat) : (s.finish a r).coreAt m = s.coreAt m := rfl
@[simp] theorem finish_dieAt (a : Nat) (r : Res) (m : Nat) : (s.finish a r).dieAt m = s.dieAt m := rfl
@[simp] theorem finish_ownerAt (a : Nat) (r : Res) (m : Nat) : (s.finish a r).ownerAt m = s.ownerAt m := rfl
@[simp] theorem finish_taskAt (a : Nat) (r : Res) (m : Nat) : (s.finish a r).taskAt m = s.taskAt m := rfl
@[simp] theorem finish_groupAt (a : Nat) (r : Res) (m : Nat) : (s.finish a r).groupAt m = s.groupAt m := rfl
@[simp] theorem finish_portAt (a : Nat) (r : Res) (m : Nat) : (s.finish a r).portAt m = s.portAt m := rfl
@[simp] theorem finish_moduleAt (a : Nat) (r : Res) (m : Nat) : (s.finish a r).moduleAt m = s.moduleAt m := rfl
@[simp] theorem finish_bufAt (a : Nat) (r : Res) (m : Nat) : (s.finish a r).bufAt m = s.bufAt m := rfl
@[simp] theorem finish_here (a : Nat) (r : Res) : (s.finish a r).here = s.here := rfl
@[simp] theorem finish_feature (a : Nat) (r : Res) (m : Nat) : (s.finish a r).feature m = s.feature m := rfl
@[simp] theorem finish_keyOf (a : Nat) (r : Res) (m : Nat) : (s.finish a r).keyOf m = s.keyOf m := rfl

/-! ## fresh -/

@[simp] theorem fresh_beat : (s.fresh.2).beat = s.beat := rfl
@[simp] theorem fresh_turn : (s.fresh.2).turn = s.turn := rfl
@[simp] theorem fresh_free : (s.fresh.2).free = s.free := rfl
@[simp] theorem fresh_cores : (s.fresh.2).cores = s.cores := rfl
@[simp] theorem fresh_dies : (s.fresh.2).dies = s.dies := rfl
@[simp] theorem fresh_mem : (s.fresh.2).mem = s.mem := rfl
@[simp] theorem fresh_accs : (s.fresh.2).accs = s.accs := rfl
@[simp] theorem fresh_tasks : (s.fresh.2).tasks = s.tasks := rfl
@[simp] theorem fresh_limbo : (s.fresh.2).limbo = s.limbo := rfl
@[simp] theorem fresh_frame : (s.fresh.2).frame = s.frame := rfl
@[simp] theorem fresh_groups : (s.fresh.2).groups = s.groups := rfl
@[simp] theorem fresh_owners : (s.fresh.2).owners = s.owners := rfl
@[simp] theorem fresh_images : (s.fresh.2).images = s.images := rfl
@[simp] theorem fresh_boot : (s.fresh.2).boot = s.boot := rfl
@[simp] theorem fresh_cmd : (s.fresh.2).cmd = s.cmd := rfl
@[simp] theorem fresh_placing : (s.fresh.2).placing = s.placing := rfl
@[simp] theorem fresh_node : (s.fresh.2).node = s.node := rfl
@[simp] theorem fresh_ev : (s.fresh.2).ev = s.ev := rfl
@[simp] theorem fresh_conv : (s.fresh.2).conv = s.conv := rfl
@[simp] theorem fresh_circ : (s.fresh.2).circ = s.circ := rfl
@[simp] theorem fresh_coll : (s.fresh.2).coll = s.coll := rfl
@[simp] theorem fresh_links : (s.fresh.2).links = s.links := rfl
@[simp] theorem fresh_mig : (s.fresh.2).mig = s.mig := rfl
@[simp] theorem fresh_fleet : (s.fresh.2).fleet = s.fleet := rfl
@[simp] theorem fresh_coreAt (m : Nat) : (s.fresh.2).coreAt m = s.coreAt m := rfl
@[simp] theorem fresh_dieAt (m : Nat) : (s.fresh.2).dieAt m = s.dieAt m := rfl
@[simp] theorem fresh_ownerAt (m : Nat) : (s.fresh.2).ownerAt m = s.ownerAt m := rfl
@[simp] theorem fresh_taskAt (m : Nat) : (s.fresh.2).taskAt m = s.taskAt m := rfl
@[simp] theorem fresh_accAt (m : Nat) : (s.fresh.2).accAt m = s.accAt m := rfl
@[simp] theorem fresh_groupAt (m : Nat) : (s.fresh.2).groupAt m = s.groupAt m := rfl
@[simp] theorem fresh_portAt (m : Nat) : (s.fresh.2).portAt m = s.portAt m := rfl
@[simp] theorem fresh_moduleAt (m : Nat) : (s.fresh.2).moduleAt m = s.moduleAt m := rfl
@[simp] theorem fresh_bufAt (m : Nat) : (s.fresh.2).bufAt m = s.bufAt m := rfl
@[simp] theorem fresh_here : (s.fresh.2).here = s.here := rfl
@[simp] theorem fresh_feature (m : Nat) : (s.fresh.2).feature m = s.feature m := rfl
@[simp] theorem fresh_keyOf (m : Nat) : (s.fresh.2).keyOf m = s.keyOf m := rfl

/-! ## serve -/

@[simp] theorem serve_beat (k : Nat) : (s.serve k).beat = s.beat := rfl
@[simp] theorem serve_turn (k : Nat) : (s.serve k).turn = s.turn := rfl
@[simp] theorem serve_free (k : Nat) : (s.serve k).free = s.free := rfl
@[simp] theorem serve_nextId (k : Nat) : (s.serve k).nextId = s.nextId := rfl
@[simp] theorem serve_cores (k : Nat) : (s.serve k).cores = s.cores := rfl
@[simp] theorem serve_dies (k : Nat) : (s.serve k).dies = s.dies := rfl
@[simp] theorem serve_accs (k : Nat) : (s.serve k).accs = s.accs := rfl
@[simp] theorem serve_tasks (k : Nat) : (s.serve k).tasks = s.tasks := rfl
@[simp] theorem serve_limbo (k : Nat) : (s.serve k).limbo = s.limbo := rfl
@[simp] theorem serve_frame (k : Nat) : (s.serve k).frame = s.frame := rfl
@[simp] theorem serve_groups (k : Nat) : (s.serve k).groups = s.groups := rfl
@[simp] theorem serve_owners (k : Nat) : (s.serve k).owners = s.owners := rfl
@[simp] theorem serve_images (k : Nat) : (s.serve k).images = s.images := rfl
@[simp] theorem serve_boot (k : Nat) : (s.serve k).boot = s.boot := rfl
@[simp] theorem serve_cmd (k : Nat) : (s.serve k).cmd = s.cmd := rfl
@[simp] theorem serve_placing (k : Nat) : (s.serve k).placing = s.placing := rfl
@[simp] theorem serve_node (k : Nat) : (s.serve k).node = s.node := rfl
@[simp] theorem serve_ev (k : Nat) : (s.serve k).ev = s.ev := rfl
@[simp] theorem serve_conv (k : Nat) : (s.serve k).conv = s.conv := rfl
@[simp] theorem serve_circ (k : Nat) : (s.serve k).circ = s.circ := rfl
@[simp] theorem serve_coll (k : Nat) : (s.serve k).coll = s.coll := rfl
@[simp] theorem serve_links (k : Nat) : (s.serve k).links = s.links := rfl
@[simp] theorem serve_mig (k : Nat) : (s.serve k).mig = s.mig := rfl
@[simp] theorem serve_fleet (k : Nat) : (s.serve k).fleet = s.fleet := rfl
@[simp] theorem serve_coreAt (k : Nat) (m : Nat) : (s.serve k).coreAt m = s.coreAt m := rfl
@[simp] theorem serve_dieAt (k : Nat) (m : Nat) : (s.serve k).dieAt m = s.dieAt m := rfl
@[simp] theorem serve_ownerAt (k : Nat) (m : Nat) : (s.serve k).ownerAt m = s.ownerAt m := rfl
@[simp] theorem serve_taskAt (k : Nat) (m : Nat) : (s.serve k).taskAt m = s.taskAt m := rfl
@[simp] theorem serve_accAt (k : Nat) (m : Nat) : (s.serve k).accAt m = s.accAt m := rfl
@[simp] theorem serve_groupAt (k : Nat) (m : Nat) : (s.serve k).groupAt m = s.groupAt m := rfl
@[simp] theorem serve_portAt (k : Nat) (m : Nat) : (s.serve k).portAt m = s.portAt m := rfl
@[simp] theorem serve_moduleAt (k : Nat) (m : Nat) : (s.serve k).moduleAt m = s.moduleAt m := rfl
@[simp] theorem serve_bufAt (k : Nat) (m : Nat) : (s.serve k).bufAt m = s.bufAt m := rfl
@[simp] theorem serve_feature (k : Nat) (m : Nat) : (s.serve k).feature m = s.feature m := rfl
@[simp] theorem serve_keyOf (k : Nat) (m : Nat) : (s.serve k).keyOf m = s.keyOf m := rfl
@[simp] theorem serve_here (k : Nat) : (s.serve k).here = s.here := rfl

/-! ## numbered -/

@[simp] theorem numbered_beat : (s.numbered).beat = s.beat := rfl
@[simp] theorem numbered_turn : (s.numbered).turn = s.turn := rfl
@[simp] theorem numbered_free : (s.numbered).free = s.free := rfl
@[simp] theorem numbered_nextId : (s.numbered).nextId = s.nextId := rfl
@[simp] theorem numbered_cores : (s.numbered).cores = s.cores := rfl
@[simp] theorem numbered_dies : (s.numbered).dies = s.dies := rfl
@[simp] theorem numbered_mem : (s.numbered).mem = s.mem := rfl
@[simp] theorem numbered_accs : (s.numbered).accs = s.accs := rfl
@[simp] theorem numbered_tasks : (s.numbered).tasks = s.tasks := rfl
@[simp] theorem numbered_limbo : (s.numbered).limbo = s.limbo := rfl
@[simp] theorem numbered_frame : (s.numbered).frame = s.frame := rfl
@[simp] theorem numbered_groups : (s.numbered).groups = s.groups := rfl
@[simp] theorem numbered_owners : (s.numbered).owners = s.owners := rfl
@[simp] theorem numbered_images : (s.numbered).images = s.images := rfl
@[simp] theorem numbered_boot : (s.numbered).boot = s.boot := rfl
@[simp] theorem numbered_cmd : (s.numbered).cmd = s.cmd := rfl
@[simp] theorem numbered_placing : (s.numbered).placing = s.placing := rfl
@[simp] theorem numbered_node : (s.numbered).node = s.node := rfl
@[simp] theorem numbered_conv : (s.numbered).conv = s.conv := rfl
@[simp] theorem numbered_circ : (s.numbered).circ = s.circ := rfl
@[simp] theorem numbered_coll : (s.numbered).coll = s.coll := rfl
@[simp] theorem numbered_links : (s.numbered).links = s.links := rfl
@[simp] theorem numbered_mig : (s.numbered).mig = s.mig := rfl
@[simp] theorem numbered_fleet : (s.numbered).fleet = s.fleet := rfl
@[simp] theorem numbered_coreAt (m : Nat) : (s.numbered).coreAt m = s.coreAt m := rfl
@[simp] theorem numbered_dieAt (m : Nat) : (s.numbered).dieAt m = s.dieAt m := rfl
@[simp] theorem numbered_ownerAt (m : Nat) : (s.numbered).ownerAt m = s.ownerAt m := rfl
@[simp] theorem numbered_taskAt (m : Nat) : (s.numbered).taskAt m = s.taskAt m := rfl
@[simp] theorem numbered_accAt (m : Nat) : (s.numbered).accAt m = s.accAt m := rfl
@[simp] theorem numbered_groupAt (m : Nat) : (s.numbered).groupAt m = s.groupAt m := rfl
@[simp] theorem numbered_portAt (m : Nat) : (s.numbered).portAt m = s.portAt m := rfl
@[simp] theorem numbered_moduleAt (m : Nat) : (s.numbered).moduleAt m = s.moduleAt m := rfl
@[simp] theorem numbered_bufAt (m : Nat) : (s.numbered).bufAt m = s.bufAt m := rfl
@[simp] theorem numbered_feature (m : Nat) : (s.numbered).feature m = s.feature m := rfl
@[simp] theorem numbered_keyOf (m : Nat) : (s.numbered).keyOf m = s.keyOf m := rfl
@[simp] theorem numbered_here : (s.numbered).here = s.here := rfl

/-! ## What an update writes -/

@[simp] theorem coreAt_setCore_same (n : Nat) (k : Core) : (s.setCore n k).coreAt n = k := mget_mset_same ..
theorem coreAt_setCore_other (n m : Nat) (k : Core) (h : m ≠ n) : (s.setCore n k).coreAt m = s.coreAt m := mget_mset_other _ _ _ h
theorem coreAt_setCore (n m : Nat) (k : Core) : (s.setCore n k).coreAt m = if m = n then k else s.coreAt m := mget_mset ..
@[simp] theorem coreAt_onCore_same (n : Nat) (f : Core → Core) : (s.onCore n f).coreAt n = f (s.coreAt n) := mget_mset_same ..
theorem coreAt_onCore_other (n m : Nat) (f : Core → Core) (h : m ≠ n) : (s.onCore n f).coreAt m = s.coreAt m :=
  mget_mset_other _ _ _ h
theorem coreAt_onCore (n m : Nat) (f : Core → Core) :
    (s.onCore n f).coreAt m = if m = n then f (s.coreAt n) else s.coreAt m := mget_mset ..
@[simp] theorem onHere_here (f : Core → Core) : (s.onHere f).here = f s.here := mget_mset_same ..
@[simp] theorem onCtl_here (f : Ctl → Ctl) : (s.onCtl f).here = { s.here with c := f s.here.c } := mget_mset_same ..
theorem onHere_other (f : Core → Core) (m : Nat) (h : m ≠ s.turn.core) : (s.onHere f).coreAt m = s.coreAt m :=
  mget_mset_other _ _ _ h
theorem onCtl_other (f : Ctl → Ctl) (m : Nat) (h : m ≠ s.turn.core) : (s.onCtl f).coreAt m = s.coreAt m :=
  mget_mset_other _ _ _ h
theorem here_setCore (n : Nat) (k : Core) : (s.setCore n k).here = if s.turn.core = n then k else s.here := mget_mset ..
theorem here_onCore (n : Nat) (f : Core → Core) : (s.onCore n f).here = if s.turn.core = n then f (s.coreAt n) else s.here :=
  mget_mset ..
@[simp] theorem here_onCore_turn (f : Core → Core) : (s.onCore s.turn.core f).here = f s.here := mget_mset_same ..
@[simp] theorem here_setCore_turn (k : Core) : (s.setCore s.turn.core k).here = k := mget_mset_same ..
@[simp] theorem onHere_coreAt (f : Core → Core) : (s.onHere f).coreAt s.turn.core = f s.here := mget_mset_same ..
@[simp] theorem onCtl_coreAt (f : Ctl → Ctl) : (s.onCtl f).coreAt s.turn.core = { s.here with c := f s.here.c } := mget_mset_same ..
@[simp] theorem coreAt_turn_core : s.coreAt s.turn.core = s.here := rfl
@[simp] theorem dieAt_setDie_same (d : Nat) (x : Die) : (s.setDie d x).dieAt d = x := mget_mset_same ..
@[simp] theorem dieAt_onDie_same (d : Nat) (f : Die → Die) : (s.onDie d f).dieAt d = f (s.dieAt d) := mget_mset_same ..
theorem dieAt_onDie_other (d m : Nat) (f : Die → Die) (h : m ≠ d) : (s.onDie d f).dieAt m = s.dieAt m := mget_mset_other _ _ _ h
theorem dieAt_onDie (d m : Nat) (f : Die → Die) : (s.onDie d f).dieAt m = if m = d then f (s.dieAt d) else s.dieAt m :=
  mget_mset ..
@[simp] theorem ownerAt_onOwner_same (o : Nat) (f : Owner → Owner) : (s.onOwner o f).ownerAt o = f (s.ownerAt o) :=
  mget_mset_same ..
theorem ownerAt_onOwner_other (o m : Nat) (f : Owner → Owner) (h : m ≠ o) : (s.onOwner o f).ownerAt m = s.ownerAt m :=
  mget_mset_other _ _ _ h
@[simp] theorem taskAt_setTask_same (t : Nat) (x : Option Task) : (s.setTask t x).taskAt t = x := mget_mset_same ..
theorem taskAt_setTask_other (t m : Nat) (x : Option Task) (h : m ≠ t) : (s.setTask t x).taskAt m = s.taskAt m :=
  mget_mset_other _ _ _ h
@[simp] theorem taskAt_onTask_same (t : Nat) (f : Task → Task) : (s.onTask t f).taskAt t = (s.taskAt t).map f := mget_mset_same ..
theorem taskAt_onTask_other (t m : Nat) (f : Task → Task) (h : m ≠ t) : (s.onTask t f).taskAt m = s.taskAt m :=
  mget_mset_other _ _ _ h
@[simp] theorem accAt_setAcc_same (a : Nat) (x : Option Access) : (s.setAcc a x).accAt a = x := mget_mset_same ..
theorem accAt_setAcc_other (a m : Nat) (x : Option Access) (h : m ≠ a) : (s.setAcc a x).accAt m = s.accAt m :=
  mget_mset_other _ _ _ h
@[simp] theorem accAt_onAcc_same (a : Nat) (f : Access → Access) : (s.onAcc a f).accAt a = (s.accAt a).map f := mget_mset_same ..
theorem accAt_onAcc_other (a m : Nat) (f : Access → Access) (h : m ≠ a) : (s.onAcc a f).accAt m = s.accAt m :=
  mget_mset_other _ _ _ h
@[simp] theorem accAt_finish_same (a : Nat) (r : Res) :
    (s.finish a r).accAt a = (s.accAt a).map fun x => { x with stage := .performed, res := r } := mget_mset_same ..
theorem accAt_finish_other (a m : Nat) (r : Res) (h : m ≠ a) : (s.finish a r).accAt m = s.accAt m := mget_mset_other _ _ _ h
@[simp] theorem groupAt_setGroup_same (g : Nat) (x : Group) : (s.setGroup g x).groupAt g = x := mget_mset_same ..
theorem groupAt_setGroup_other (g m : Nat) (x : Group) (h : m ≠ g) : (s.setGroup g x).groupAt m = s.groupAt m :=
  mget_mset_other _ _ _ h
@[simp] theorem portAt_onPort_same (p : Nat) (f : Port → Port) : (s.onPort p f).portAt p = f (s.portAt p) := mget_mset_same ..
theorem portAt_onPort_other (p m : Nat) (f : Port → Port) (h : m ≠ p) : (s.onPort p f).portAt m = s.portAt m :=
  mget_mset_other _ _ _ h
theorem portAt_onPort (p m : Nat) (f : Port → Port) :
    (s.onPort p f).portAt m = if m = p then f (s.portAt p) else s.portAt m := mget_mset ..
@[simp] theorem moduleAt_onModule_same (k : Nat) (f : Module → Module) : (s.onModule k f).moduleAt k = f (s.moduleAt k) :=
  mget_mset_same ..
theorem moduleAt_onModule_other (k m : Nat) (f : Module → Module) (h : m ≠ k) : (s.onModule k f).moduleAt m = s.moduleAt m :=
  mget_mset_other _ _ _ h
@[simp] theorem bufAt_setBuf_same (k : Nat) (b : Option Buf) : (s.setBuf k b).bufAt k = b := mget_mset_same ..
@[simp] theorem serve_mem (k : Nat) : (s.serve k).mem = { s.mem with served := k :: s.mem.served } := rfl
@[simp] theorem numbered_ev : s.numbered.ev = { s.ev with asked := s.ev.asked + 1 } := rfl
theorem bufAt_setBuf_other (k m : Nat) (b : Option Buf) (h : m ≠ k) : (s.setBuf k b).bufAt m = s.bufAt m := mget_mset_other _ _ _ h
@[simp] theorem onMem_mem (f : Mem → Mem) : (s.onMem f).mem = f s.mem := rfl
@[simp] theorem onConv_conv (f : Conv → Conv) : (s.onConv f).conv = f s.conv := rfl
@[simp] theorem onCirc_circ (f : Circ → Circ) : (s.onCirc f).circ = f s.circ := rfl
@[simp] theorem onMig_mig (f : Mig → Mig) : (s.onMig f).mig = f s.mig := rfl
@[simp] theorem onFleet_fleet (f : Fleet → Fleet) : (s.onFleet f).fleet = f s.fleet := rfl
@[simp] theorem fresh_fst : s.fresh.1 = s.nextId := rfl
@[simp] theorem fresh_nextId : s.fresh.2.nextId = s.nextId + 1 := rfl

/-! ## Streams -/

@[simp] theorem eng_onEng_same (k : Core) (e : Stream) (f : Eng → Eng) : (k.onEng e f).eng e = f (k.eng e) := mget_mset_same ..
theorem eng_onEng_other (k : Core) (e d : Stream) (f : Eng → Eng) (h : d ≠ e) : (k.onEng e f).eng d = k.eng d :=
  mget_mset_other _ _ _ (by cases e <;> cases d <;> simp_all [Stream.idx])
@[simp] theorem onEng_c (k : Core) (e : Stream) (f : Eng → Eng) : (k.onEng e f).c = k.c := rfl
@[simp] theorem onEng_ch (k : Core) (e : Stream) (f : Eng → Eng) : (k.onEng e f).ch = k.ch := rfl
@[simp] theorem onEng_cr (k : Core) (e : Stream) (f : Eng → Eng) : (k.onEng e f).cr = k.cr := rfl
@[simp] theorem onEng_tr (k : Core) (e : Stream) (f : Eng → Eng) : (k.onEng e f).tr = k.tr := rfl
@[simp] theorem onEng_mx (k : Core) (e : Stream) (f : Eng → Eng) : (k.onEng e f).mx = k.mx := rfl
@[simp] theorem onEng_pl (k : Core) (e : Stream) (f : Eng → Eng) : (k.onEng e f).pl = k.pl := rfl

end Sys2Proof.Machine
end

