-- ==== Sys2Proof/Laws/Operands.lean ====
section
/-!
SUPPORT. Laws of the operands of C: the conditions under which its checks pass, and what reading, writing and moving on
leave alone.
-/

set_option Elab.async false

namespace Sys2Proof.Machine

open Sys2Proof.Safety

variable {s : State} {srcs : List Src} {regs : List (BitVec 6)} {dst : Option (BitVec 6)}

/-! ## The checks of R234 -/

theorem srcBound_of_ready {x : Src} (h : SrcReady s srcs x) : s.srcBound x.1 = true := by
  cases hc : chanField x.1 with
  | false => simp [State.srcBound, hc]
  | true => obtain ⟨q, hq, hr, -⟩ := h hc; simp [State.srcBound, hq, hr]

theorem srcFull_of_ready {x : Src} (h : SrcReady s srcs x) : s.srcFull srcs x.1 = true := by
  cases hc : chanField x.1 with
  | false => simp [State.srcFull, hc]
  | true => obtain ⟨q, hq, -, hn⟩ := h hc; simp [State.srcFull, hq, hn]

theorem dstBound_of_ready {d : BitVec 6} (h : DstReady s d) : s.dstBound d = true := by
  cases hc : chanField d with
  | false => simp [State.dstBound, hc]
  | true => obtain ⟨e, hq, -⟩ := h hc; simp [State.dstBound, hq]

theorem dstRoom_of_ready {d : BitVec 6} (h : DstReady s d) : s.dstRoom d = true := by
  cases hc : chanField d with
  | false => simp [State.dstRoom, hc]
  | true => obtain ⟨e, hq, hr⟩ := h hc; simp [State.dstRoom, hq, hr]

/-- An instruction whose operands are ready passes the checks of R234. -/
theorem cCheck_of_ready (h : Ready s srcs regs dst) : s.cCheck srcs regs dst = .ok := by
  have hb : (srcs.all fun x => s.srcBound x.1) = true := List.all_eq_true.2 fun x hx => srcBound_of_ready (h.sources x hx)
  have hf : (srcs.all fun x => s.srcFull srcs x.1) = true := List.all_eq_true.2 fun x hx => srcFull_of_ready (h.sources x hx)
  have hd : dst.toList.all s.dstBound = true := by
    cases dst with
    | none => rfl
    | some d => simpa using dstBound_of_ready (h.dest d rfl)
  have hr : dst.toList.all s.dstRoom = true := by
    cases dst with
    | none => rfl
    | some d => simpa using dstRoom_of_ready (h.dest d rfl)
  have hc : (s.here.cr.tcheck && (srcs.map Prod.fst ++ regs ++ dst.toList).any s.here.shadowed) = false := by
    cases ht : s.here.cr.tcheck with
    | false => rfl
    | true =>
      rw [Bool.true_and, List.any_eq_false]
      exact fun f hf => by simp [h.clear ht f hf]
  rw [State.cCheck, hb, hf, hd, hr, hc]
  rfl

/-- Operands that pass the checks of R234 are ready. -/
theorem ready_of_cCheck (h : s.cCheck srcs regs dst = .ok) : Ready s srcs regs dst := by
  unfold State.cCheck at h
  split at h
  · cases h
  · split at h
    · cases h
    · split at h
      · cases h
      · rename_i h1 h2 h3
        simp only [Bool.or_eq_true, Bool.not_eq_true', not_or, Bool.not_eq_false, List.all_eq_true] at h1 h2
        simp only [Bool.and_eq_true, not_and, List.any_eq_true, not_exists, Bool.not_eq_true] at h3
        refine ⟨fun x hx hc => ?_, fun d hd hc => ?_, fun ht f hf => h3 ht f hf⟩
        · have b1 := h1.1 x hx
          have b2 := h2.1 x hx
          simp only [State.srcBound, State.srcFull, hc, Bool.not_true, Bool.false_or] at b1 b2
          cases hq : s.queueOf s.turn.core x.1 with
          | none => simp [hq] at b1
          | some q => simp only [hq, decide_eq_true_eq] at b1 b2; exact ⟨q, rfl, b1, b2⟩
        · have b1 := h1.2 d (by simp [hd])
          have b2 := h2.2 d (by simp [hd])
          simp only [State.dstBound, State.dstRoom, hc, Bool.not_true, Bool.false_or] at b1 b2
          cases hq : s.queueOf s.turn.core d with
          | none => simp [hq] at b1
          | some q => cases q with
            | feed e => simp only [hq, decide_eq_true_eq] at b2; exact ⟨e, rfl, b2⟩
            | _ => simp [hq] at b1

theorem issues_of_cCheck (h : s.cCheck srcs regs dst = .ok) (hp : s.here.c.pc.toNat < 16383) : Issues s srcs regs dst :=
  ⟨ready_of_cCheck h, hp⟩

/-- The common form of an instruction, where it issues, has its effect. -/
theorem cIssue_next (h : Issues s srcs regs dst) (k : State → State) : cIssue s srcs regs dst k = .next (k s) := by
  have hn : s.hasNext = true := by have := h.2; simp [State.hasNext, NotLast] at *; omega
  simp [cIssue, cCheck_of_ready h.1, hn]

/-- The common form of a jump, where its operands are ready, does what it says. -/
theorem cJump_next (h : Ready s srcs [] dst) (k : State → Out) : cJump s srcs dst k = k s := by
  simp [cJump, cCheck_of_ready h]

/-- No source and no destination: the checks always pass. -/
theorem ready_none : Ready s [] [] none := ⟨by simp, by simp, by simp⟩

theorem issues_none (h : NotLast s) : Issues s [] [] none := ⟨ready_none, h⟩

theorem fall_next (h : NotLast s) (k : State → State) : s.fall k = .next (k s).advance := by
  have hn : s.hasNext = true := by simp [State.hasNext, NotLast] at *; omega
  simp [State.fall, hn]

theorem transfer_next {t : Int} (h0 : 0 ≤ t) (h1 : t < 16384) (k : State → State) :
    s.transfer t k = .next ((k s).goto t.toNat) := by simp [State.transfer, h0, h1]

theorem transfer_out {t : Int} (h : t < 0 ∨ 16384 ≤ t) (k : State → State) : s.transfer t k = .next (s.trapAt 0x22 0) := by
  have : ¬(0 ≤ t ∧ t < 16384) := by omega
  simp [State.transfer, this]

end Sys2Proof.Machine
end

