-- ==== Sys2Proof/Laws/Frames.lean ====
section
/-!
SUPPORT. What reading a source, writing a destination and moving on leave alone, and how such frames compose.
-/

set_option Elab.async false

namespace Sys2Proof.Machine

open Sys2Proof.Safety

/-! ## Composition -/

theorem sameRest_refl (s : State) : SameRest s s := by constructor <;> first | rfl | exact fun _ => rfl

theorem sameRest_trans {s t u : State} (h : SameRest s t) (k : SameRest t u) : SameRest s u where
  bytes a := (k.bytes a).trans (h.bytes a)
  mem := k.mem.trans h.mem
  dies d := by
    have e := h.dies d
    rw [← k.dies d] at e
    simpa using e
  accs := k.accs.trans h.accs
  tasks := k.tasks.trans h.tasks
  groups := k.groups.trans h.groups
  owners := k.owners.trans h.owners
  frame := k.frame.trans h.frame
  images := k.images.trans h.images
  boot := k.boot.trans h.boot
  cmd := k.cmd.trans h.cmd
  placing := k.placing.trans h.placing
  node := k.node.trans h.node
  ev := k.ev.trans h.ev
  conv := k.conv.trans h.conv
  circ := k.circ.trans h.circ
  coll := k.coll.trans h.coll
  links := k.links.trans h.links
  mig := k.mig.trans h.mig
  fleet := k.fleet.trans h.fleet
  nextId := k.nextId.trans h.nextId
  beat := k.beat.trans h.beat
  turn := k.turn.trans h.turn

/-- Frames of single cores compose: the queues popped and the registers written add up. -/
theorem sameCore_trans {s t u : State} {l l' l'' : List Src} {d d' d'' : Option (BitVec 6)} (ht : t.turn = s.turn)
    (h : SameCore s t l d) (k : SameCore t u l' d') (hl : ∀ x ∈ l, x ∈ l'') (hl' : ∀ x ∈ l', x ∈ l'')
    (hd : ∀ x, d = some x → d'' = some x) (hd' : ∀ x, d' = some x → d'' = some x) : SameCore s u l'' d'' where
  regs r hr := (k.regs r fun x hx => hr x (hd' x hx)).trans (h.regs r fun x hx => hr x (hd x hx))
  flags := k.flags.trans h.flags
  handler := k.handler.trans h.handler
  level := k.level.trans h.level
  vectors := k.vectors.trans h.vectors
  matrices := k.matrices.trans h.matrices
  placed := k.placed.trans h.placed
  bindings := k.bindings.trans h.bindings
  queues q hq := by
    have e : ∀ f, t.queueOf t.turn.core f = s.queueOf s.turn.core f := fun f => by
      have := h.bindings; simp only [State.here] at this; rw [State.queueOf, State.queueOf, this]
    have := k.queues q fun x hx hp => by rw [e]; exact hq x (hl' x hx) hp
    rw [ht] at this
    exact this.trans (h.queues q fun x hx hp => hq x (hl x hx) hp)
  others n hn := (k.others n (by rw [ht]; exact hn)).trans (h.others n hn)

theorem sameCore_refl (s : State) : SameCore s s [] none := by constructor <;> intros <;> rfl

/-! ## Reading -/

@[simp] theorem readReg_snd_turn (s : State) (r : Nat) : (s.readReg r).2.turn = s.turn := by
  unfold State.readReg; split
  · rfl
  · dsimp only; split <;> rfl

theorem readReg_sameRest (s : State) (r : Nat) : SameRest s (s.readReg r).2 := by
  unfold State.readReg; split
  · exact sameRest_refl s
  · dsimp only; split
    · exact sameRest_refl s
    · constructor <;> first | rfl | exact fun _ => rfl

theorem readReg_sameCore (s : State) (r : Nat) : SameCore s (s.readReg r).2 [] none := by
  unfold State.readReg; split
  · exact sameCore_refl s
  · dsimp only; split
    · exact sameCore_refl s
    · constructor <;> intros <;> rfl

/-- A queue replaced leaves everything outside the queues of the core and the copy outputs of its die. -/
theorem setEntries_sameRest (s : State) (n : Nat) (q : Queue) (l : List Word) : SameRest s (s.setEntries n q l) := by
  cases q with
  | copyOut k =>
    constructor <;> first | rfl | exact fun _ => rfl | skip
    intro d
    by_cases h : d = dieOf n
    · subst h; simp [State.setEntries]
    · simp [State.setEntries, dieAt_onDie_other _ _ _ _ h]
  | _ => constructor <;> first | rfl | exact fun _ => rfl

/-- A queue of the current core replaced: the core's other queues, and all else of the cores, are as before. -/
theorem setEntries_here (s : State) (q : Queue) (l : List Word) : let t := s.setEntries s.turn.core q l
    t.here.c = s.here.c ∧ t.here.cr = s.here.cr ∧ t.here.tr = s.here.tr ∧ t.here.ve = s.here.ve ∧ t.here.mx = s.here.mx ∧
    t.here.pl = s.here.pl ∧ t.here.ch.table = s.here.ch.table ∧ (∀ n, n ≠ s.turn.core → t.coreAt n = s.coreAt n) ∧
    ∀ p, p ≠ q → t.entries s.turn.core p = s.entries s.turn.core p := by
  have oth (f : Core → Core) (n : Nat) (hn : n ≠ s.turn.core) : (s.onCore s.turn.core f).coreAt n = s.coreAt n :=
    coreAt_onCore_other _ _ _ _ hn
  cases q with
  | result e =>
    refine ⟨by simp [State.setEntries], by simp [State.setEntries], by simp [State.setEntries], by simp [State.setEntries],
      by simp [State.setEntries], by simp [State.setEntries], by simp [State.setEntries], fun n hn => oth _ n hn, ?_⟩
    intro p hp
    cases p <;> simp [State.entries, State.setEntries]
    rename_i j
    exact mget_mset_other _ _ _ (by rintro rfl; exact hp rfl)
  | feed e =>
    refine ⟨by simp [State.setEntries], by simp [State.setEntries], by simp [State.setEntries], by simp [State.setEntries],
      by simp [State.setEntries], by simp [State.setEntries], by simp [State.setEntries], fun n hn => oth _ n hn, ?_⟩
    intro p hp
    cases p <;> simp [State.entries, State.setEntries]
    rename_i j
    exact mget_mset_other _ _ _ (by rintro rfl; exact hp rfl)
  | mailbox =>
    refine ⟨by simp [State.setEntries], by simp [State.setEntries], by simp [State.setEntries], by simp [State.setEntries],
      by simp [State.setEntries], by simp [State.setEntries], by simp [State.setEntries], fun n hn => oth _ n hn, ?_⟩
    intro p hp
    cases p <;> simp [State.entries, State.setEntries]
    exact absurd rfl hp
  | copyOut k =>
    refine ⟨rfl, rfl, rfl, rfl, rfl, rfl, rfl, fun n _ => rfl, ?_⟩
    intro p hp
    cases p <;> simp [State.entries, State.setEntries]
    rename_i j
    exact mget_mset_other _ _ _ (by rintro rfl; exact hp rfl)
  | wakeQ j =>
    have e (f : Core → Core) (h : ∀ c : Core, (f c).c = c.c ∧ (f c).cr = c.cr ∧ (f c).tr = c.tr ∧ (f c).ve = c.ve ∧
        (f c).mx = c.mx ∧ (f c).pl = c.pl ∧ (f c).ch.table = c.ch.table ∧ (f c).ch.results = c.ch.results ∧
        (f c).ch.feeds = c.ch.feeds ∧ (f c).ch.mail = c.ch.mail ∧
        ∀ i, i ≠ j → mget [] (f c).ch.wakes i = mget [] c.ch.wakes i) (t : State) (ht : t = s.onCore s.turn.core f) :
        t.here.c = s.here.c ∧ t.here.cr = s.here.cr ∧ t.here.tr = s.here.tr ∧ t.here.ve = s.here.ve ∧
        t.here.mx = s.here.mx ∧ t.here.pl = s.here.pl ∧ t.here.ch.table = s.here.ch.table ∧
        (∀ n, n ≠ s.turn.core → t.coreAt n = s.coreAt n) ∧ ∀ p, p ≠ .wakeQ j → t.entries s.turn.core p = s.entries s.turn.core p := by
      subst ht
      obtain ⟨h1, h2, h3, h4, h5, h6, h7, h8, h9, h10, h11⟩ := h s.here
      refine ⟨by simp [h1], by simp [h2], by simp [h3], by simp [h4], by simp [h5], by simp [h6], by simp [h7], fun n hn => oth _ n hn, ?_⟩
      intro p hp
      cases p <;> simp [State.entries, h8, h9, h10]
      rename_i i
      exact h11 i (by rintro rfl; exact hp rfl)
    refine e (fun c => match c.ch.late.find? (fun e => e.1 == j) with
      | some e =>
        if l.length < 16 then { c with ch := { c.ch with wakes := mset [] c.ch.wakes j (l ++ [e.2]), late := c.ch.late.erase e } }
        else { c with ch := { c.ch with wakes := mset [] c.ch.wakes j l } }
      | none => { c with ch := { c.ch with wakes := mset [] c.ch.wakes j l } }) (fun c => ?_) _ rfl
    have hw (l : List Word) (i : Nat) (hi : i ≠ j) : mget [] (mset [] c.ch.wakes j l) i = mget [] c.ch.wakes i :=
      mget_mset_other _ _ _ hi
    dsimp only
    split
    · split <;> exact ⟨rfl, rfl, rfl, rfl, rfl, rfl, rfl, rfl, rfl, rfl, fun i hi => hw _ i hi⟩
    · exact ⟨rfl, rfl, rfl, rfl, rfl, rfl, rfl, rfl, rfl, rfl, fun i hi => hw _ i hi⟩

@[simp] theorem setEntries_turn (s : State) (n : Nat) (q : Queue) (l : List Word) : (s.setEntries n q l).turn = s.turn := by
  cases q <;> rfl
@[simp] theorem setEntries_beat (s : State) (n : Nat) (q : Queue) (l : List Word) : (s.setEntries n q l).beat = s.beat := by
  cases q <;> rfl

/-- What reading a source can do: nothing, count a free value, or pop a queue. -/
theorem readSrc_cases (s : State) (f : BitVec 6) (pop : Bool) :
    (s.readSrc f pop).2 = s ∨ (s.readSrc f pop).2 = { s with free := s.free + 1 } ∨
      ∃ q w l, pop = true ∧ chanField f = true ∧ s.queueOf s.turn.core f = some q ∧ s.entries s.turn.core q = w :: l ∧
        (s.readSrc f pop).2 = s.setEntries s.turn.core q l := by
  unfold State.readSrc
  split
  · split
    · split
      · cases pop
        · exact .inl rfl
        · exact .inr (.inr ⟨_, _, _, rfl, ‹_›, ‹_›, ‹_›, rfl⟩)
      · exact .inl rfl
    · exact .inl rfl
  · unfold State.readReg
    split
    · exact .inl rfl
    · dsimp only; split
      · exact .inl rfl
      · exact .inr (.inl rfl)

@[simp] theorem readSrc_turn (s : State) (f : BitVec 6) (pop : Bool) : (s.readSrc f pop).2.turn = s.turn := by
  obtain h | h | ⟨_, _, _, _, _, _, _, h⟩ := readSrc_cases s f pop <;> simp [h]

@[simp] theorem readSrc_beat (s : State) (f : BitVec 6) (pop : Bool) : (s.readSrc f pop).2.beat = s.beat := by
  obtain h | h | ⟨_, _, _, _, _, _, _, h⟩ := readSrc_cases s f pop <;> simp [h]

theorem readSrc_sameRest (s : State) (f : BitVec 6) (pop : Bool) : SameRest s (s.readSrc f pop).2 := by
  obtain h | h | ⟨_, _, _, _, _, _, _, h⟩ := readSrc_cases s f pop <;> rw [h]
  · exact sameRest_refl s
  · constructor <;> first | rfl | exact fun _ => rfl
  · exact setEntries_sameRest ..

theorem readSrc_sameCore (s : State) (f : BitVec 6) (pop : Bool) : SameCore s (s.readSrc f pop).2 [(f, pop)] none := by
  obtain h | h | ⟨q, w, l, rfl, hc, hq, he, h⟩ := readSrc_cases s f pop <;> rw [h]
  · constructor <;> intros <;> rfl
  · constructor <;> intros <;> rfl
  · obtain ⟨h1, h2, h3, h4, h5, h6, h7, h8, h9⟩ := setEntries_here s q l
    refine ⟨fun r _ => by rw [h1], h2, h3, by rw [h1], h4, h5, h6, h7, fun p hp => h9 p ?_, h8⟩
    rintro rfl
    exact hp (f, true) (by simp) rfl hq

theorem readDst_sameRest (s : State) (d : BitVec 6) : SameRest s (s.readDst d).2 := by
  unfold State.readDst; split
  · exact sameRest_refl s
  · exact readReg_sameRest s _
theorem readDst_sameCore (s : State) (d : BitVec 6) : SameCore s (s.readDst d).2 [] none := by
  unfold State.readDst; split
  · exact sameCore_refl s
  · exact readReg_sameCore s _
@[simp] theorem readDst_turn (s : State) (d : BitVec 6) : (s.readDst d).2.turn = s.turn := by
  unfold State.readDst; split <;> simp

/-! ## Writing and moving on -/

@[simp] theorem writeDst_turn (s : State) (d : BitVec 6) (lat : Nat) (v : Word) : (s.writeDst d lat v).turn = s.turn := by
  unfold State.writeDst State.setReg
  repeat' split
  all_goals rfl

/-- Writing a destination is a change of the core's control stream, or nothing. -/
theorem writeDst_cases (s : State) (d : BitVec 6) (lat : Nat) (v : Word) :
    s.writeDst d lat v = s ∨ ∃ f : Ctl → Ctl, s.writeDst d lat v = s.onCtl f ∧ ∀ c : Ctl, (f c).hlevel = c.hlevel ∧ (f c).pc = c.pc ∧
      ∀ r, (chanField d = true ∨ fieldNo d = 0 ∨ fieldNo d ≠ r) → mget 0 (f c).regs r = mget 0 c.regs r := by
  unfold State.writeDst
  split
  · split
    · exact .inr ⟨_, rfl, fun c => ⟨rfl, rfl, fun _ _ => rfl⟩⟩
    · exact .inl rfl
  · split
    · exact .inl rfl
    · split
      · rename_i hc hd hl
        refine .inr ⟨fun c => { c with regs := mset 0 c.regs (fieldNo d) v }, by simp [State.setReg, hd], fun c => ⟨rfl, rfl, ?_⟩⟩
        intro r hr
        refine mget_mset_other _ _ _ ?_
        rcases hr with h | h | h
        · exact absurd h hc
        · exact absurd h hd
        · exact Ne.symm h
      · exact .inr ⟨_, rfl, fun c => ⟨rfl, rfl, fun _ _ => rfl⟩⟩

theorem onCtl_sameRest (s : State) (f : Ctl → Ctl) : SameRest s (s.onCtl f) := by
  constructor <;> first | rfl | exact fun _ => rfl

theorem onCtl_sameCore (s : State) (f : Ctl → Ctl) (d : Option (BitVec 6)) (hl : (f s.here.c).hlevel = s.here.c.hlevel)
    (hr : ∀ r, (∀ x, d = some x → chanField x = true ∨ fieldNo x = 0 ∨ fieldNo x ≠ r) →
      mget 0 (f s.here.c).regs r = mget 0 s.here.c.regs r) : SameCore s (s.onCtl f) [] d := by
  constructor
  · intro r h; simpa using hr r h
  · simp
  · simp
  · simpa using hl
  · simp
  · simp
  · simp
  · simp
  · intro q _; cases q <;> simp [State.entries]
  · intro n hn; exact coreAt_onCore_other _ _ _ _ hn

theorem writeDst_sameRest (s : State) (d : BitVec 6) (lat : Nat) (v : Word) : SameRest s (s.writeDst d lat v) := by
  obtain h | ⟨f, h, -⟩ := writeDst_cases s d lat v <;> rw [h]
  · exact sameRest_refl s
  · exact onCtl_sameRest s f

theorem writeDst_sameCore (s : State) (d : BitVec 6) (lat : Nat) (v : Word) : SameCore s (s.writeDst d lat v) [] (some d) := by
  obtain h | ⟨f, h, hf⟩ := writeDst_cases s d lat v <;> rw [h]
  · constructor <;> intros <;> rfl
  · exact onCtl_sameCore s f _ (hf _).1 fun r hr => (hf _).2.2 r (hr d rfl)

@[simp] theorem advance_turn (s : State) : s.advance.turn = s.turn := rfl
theorem advance_sameRest (s : State) : SameRest s s.advance := onCtl_sameRest s _
theorem advance_sameCore (s : State) : SameCore s s.advance [] none := onCtl_sameCore s _ _ rfl fun _ _ => rfl

end Sys2Proof.Machine
end

