-- ==== Sys2Proof/Laws/Access.lean ====
section
/-!
SUPPORT. What the tables of Safety.lean say of the meanings: every instruction of a table issues through the one shared
operation of its shape; the answer of an address check; the lowest free run of a scratchpad; a change of several engines.
-/

set_option Elab.async false

set_option maxRecDepth 4000

namespace Sys2Proof.Machine

open Sys2Proof Sys2Proof.Machine Sys2Proof.Safety

/-- An instruction of the table registerOnly issues with the sources, registers and destination that the table gives (R234). -/
theorem registerOnly_issue (i : Instr) (srcs : List Src) (regs : List (BitVec 6)) (dst : Option (BitVec 6))
    (h : registerOnly i = some (srcs, regs, dst)) : ∃ k, ∀ s, exec i s = cIssue s srcs regs dst k := by
  cases i
  all_goals first | (cases h; done) | (cases h; exact ⟨_, fun _ => rfl⟩)

/-- What the shared issue does with an instruction that fails one of R234's checks, in their order. -/
theorem cIssue_checks (s : State) (srcs : List Src) (regs : List (BitVec 6)) (dst : Option (BitVec 6)) (k : State → State) :
    let unbound := (∃ x ∈ srcs, s.srcBound x.1 = false) ∨ ∃ d, dst = some d ∧ s.dstBound d = false
    let short := (∃ x ∈ srcs, s.srcFull srcs x.1 = false) ∨ ∃ d, dst = some d ∧ s.dstRoom d = false
    let shadow := s.here.cr.tcheck = true ∧ ∃ f ∈ srcs.map Prod.fst ++ regs ++ dst.toList, s.here.shadowed f = true
    (unbound → cIssue s srcs regs dst k = .next (s.trapAt 0x4B 0)) ∧
    (¬unbound → short → cIssue s srcs regs dst k = .next (s.stalled true)) ∧
    (¬unbound → ¬short → shadow → cIssue s srcs regs dst k = .next (s.trapAt 0x24 0)) ∧
    (¬unbound → ¬short → ¬shadow → s.here.c.pc = 16383 → cIssue s srcs regs dst k = .next (s.trapAt 0x22 0)) := by
  intro unbound short shadow
  have hu : (!(srcs.all fun x => s.srcBound x.1) || !(dst.toList.all s.dstBound)) = decide unbound := by
    rw [Bool.eq_iff_iff]; simp [unbound]
  have hs : (!(srcs.all fun x => s.srcFull srcs x.1) || !(dst.toList.all s.dstRoom)) = decide short := by
    rw [Bool.eq_iff_iff]; simp [short]
  have hw : (s.here.cr.tcheck && (srcs.map Prod.fst ++ regs ++ dst.toList).any s.here.shadowed) = decide shadow := by
    rw [Bool.eq_iff_iff]; simp only [Bool.and_eq_true, List.any_eq_true, decide_eq_true_eq]; exact Iff.rfl
  simp only [cIssue, State.cCheck, hu, hs, hw]
  refine ⟨?_, ?_, ?_, ?_⟩ <;> intros <;>
    simp only [*, decide_true, decide_false, if_true, Bool.false_eq_true, if_false, State.hasNext]
  all_goals rfl

/-- A scalar access issues through the shared access issue, with what the table gives. -/
theorem scalarAccess_form (i : Instr) (f : AccForm) (h : scalarAccess i = some f) : ∀ s, exec i s =
    cAccessIssue s f.srcs f.regs f.dst f.lq f.sq f.posted (fun v s => s.chk (f.ea v) f.align f.width f.need)
      (fun v l s => s.cAccess l (f.ea v).toNat (f.op v) (f.dst.getD 0) f.lq f.sq f.scope) := by
  cases i
  all_goals first | (cases h; done) | (cases h; exact fun _ => rfl)

/-- An access check that passes answers its width, and whether it reads. -/
theorem chk_rd {s : State} {ea al w n l w' rd} (h : s.chk ea al w n = .ok (l, w', rd)) :
    w' = w ∧ rd = if n.reads then 1 else 0 := by
  unfold State.chk at h
  split at h
  · split at h
    · cases h
    · cases h; simp
  · cases h

/-- An A micro-order issues through the shared issue of A, with what the table gives. -/
theorem vectorForm_issue (s : State) (i : Instr) (f : VecForm) (h : vectorForm s i = some f) :
    exec i s = aIssue f.d f.m f.g f.sense f.k f.lat f.srcs f.use f.gw f.run s := by
  cases i
  all_goals first | (cases h; done) | (cases h; rfl)

/-- The lowest offset at which a run of bytes is free is the first fit (R268). -/
theorem firstFit_lowest (rs : List (Nat × Nat)) (n k : Nat) (h : freeRun rs k n = true)
    (hl : ∀ j, j < k → freeRun rs j n = false) : firstFit rs n = some k := by
  have hc : k = 0 ∨ ∃ r ∈ rs, r.1 + r.2 = k := by
    by_cases hk : k = 0
    · exact .inl hk
    · right
      have := hl (k - 1) (by omega)
      simp only [freeRun, Bool.and_eq_true, Bool.and_eq_false_iff, decide_eq_true_eq, decide_eq_false_iff_not,
        List.all_eq_true, List.all_eq_false, Bool.or_eq_true] at h this
      rcases this with h1 | ⟨r, hr, h1⟩
      · omega
      · refine ⟨r, hr, ?_⟩
        have := h.2 r hr
        simp at h1
        omega
  have hm : k ∈ (0 :: rs.map fun r => r.1 + r.2).filter fun o => freeRun rs o n := by
    simp only [List.mem_filter, h, and_true, List.mem_cons, List.mem_map]
    rcases hc with h | ⟨r, hr, e⟩
    · exact .inl h
    · exact .inr ⟨r, hr, e⟩
  rw [firstFit, List.min?_eq_some_iff]
  refine ⟨hm, fun b hb => ?_⟩
  simp only [List.mem_filter] at hb
  by_contra hlt
  rw [hl b (by omega)] at hb; simp at hb

/-- The same change made to several engines of a core, read at one of them. -/
theorem eng_foldl_onEng (f : Eng → Eng) (l : List Sys2Proof.Stream) (c : Core) (e : Sys2Proof.Stream) (hl : l.Nodup) :
    ((l.foldl (fun k e => k.onEng e f) c).eng e) = if e ∈ l then f (c.eng e) else c.eng e := by
  induction l generalizing c with
  | nil => simp
  | cons hd t ih =>
    rw [List.foldl_cons, ih _ hl.of_cons]
    have hnd := List.nodup_cons.1 hl
    by_cases h : e = hd
    · subst h; simp [hnd.1]
    · simp [h, eng_onEng_other _ _ _ _ h]

theorem maskStreams_nodup (m : BitVec 5) : (maskStreams m).Nodup := by
  unfold maskStreams; exact List.Nodup.filter _ (by decide)

end Sys2Proof.Machine
end

