-- ==== Sys2Proof/Laws/Decode.lean ====
section
/-!
SUPPORT. Every layout read back: the fields of a packed word are those it was packed from.
-/

set_option Elab.async false

namespace Sys2Proof

/-- A field above the low part lies in the high part. -/
theorem ext_hi {m n : Nat} (x : BitVec m) (y : BitVec n) (lo k : Nat) (h : n ≤ lo) :
    (x ++ y).extractLsb' lo k = x.extractLsb' (lo - n) k := by
  apply BitVec.eq_of_getLsbD_eq
  intro i hi
  simp only [BitVec.getLsbD_extractLsb', BitVec.getLsbD_append, hi, decide_true, Bool.true_and]
  rw [if_neg (by omega)]
  congr 1
  omega
/-- A field inside the low part. -/
theorem ext_in {m n : Nat} (x : BitVec m) (y : BitVec n) (lo k : Nat) (h : lo + k ≤ n) :
    (x ++ y).extractLsb' lo k = y.extractLsb' lo k := by
  apply BitVec.eq_of_getLsbD_eq
  intro i hi
  simp only [BitVec.getLsbD_extractLsb', BitVec.getLsbD_append, hi, decide_true, Bool.true_and]
  rw [if_pos (by omega)]
/-- The low part. -/
theorem ext_lo {m n : Nat} (x : BitVec m) (y : BitVec n) : (x ++ y).extractLsb' 0 n = y :=
  (ext_in x y 0 n (by omega)).trans BitVec.extractLsb'_eq_self
/-- A bit above the low part. -/
theorem bit_hi {m n : Nat} (x : BitVec m) (y : BitVec n) (k : Nat) (h : n ≤ k) : (x ++ y).getLsbD k = x.getLsbD (k - n) := by
  rw [BitVec.getLsbD_append, if_neg (by omega)]
/-- A bit inside the low part. -/
theorem bit_in {m n : Nat} (x : BitVec m) (y : BitVec n) (k : Nat) (h : k < n) : (x ++ y).getLsbD k = y.getLsbD k := by
  rw [BitVec.getLsbD_append, if_pos h]
/-- The lowest bit. -/
theorem bit_lo {m : Nat} (x : BitVec m) (b : Bool) : (x ++ BitVec.ofBool b).getLsbD 0 = b := by
  rw [bit_in _ _ _ (by decide)]
  cases b <;> rfl

/-! ## packR -/

@[simp] theorem packR_m (m : BitVec 6) (o : RForm) (n : BitVec 6) : fld (packR m o n) 26 6 = m :=
  (ext_hi _ _ _ _ (by decide)).trans <| (ext_hi _ _ _ _ (by decide)).trans <| (ext_hi _ _ _ _ (by decide)).trans <| (ext_hi _ _ _ _ (by decide)).trans <| (ext_hi _ _ _ _ (by decide)).trans <| (ext_hi _ _ _ _ (by decide)).trans <| BitVec.extractLsb'_eq_self
@[simp] theorem packR_d (m : BitVec 6) (o : RForm) (n : BitVec 6) : fld (packR m o n) 20 6 = o.d :=
  (ext_hi _ _ _ _ (by decide)).trans <| (ext_hi _ _ _ _ (by decide)).trans <| (ext_hi _ _ _ _ (by decide)).trans <| (ext_hi _ _ _ _ (by decide)).trans <| (ext_hi _ _ _ _ (by decide)).trans <| ext_lo _ _
@[simp] theorem packR_a (m : BitVec 6) (o : RForm) (n : BitVec 6) : fld (packR m o n) 14 6 = o.a :=
  (ext_hi _ _ _ _ (by decide)).trans <| (ext_hi _ _ _ _ (by decide)).trans <| (ext_hi _ _ _ _ (by decide)).trans <| (ext_hi _ _ _ _ (by decide)).trans <| ext_lo _ _
@[simp] theorem packR_b (m : BitVec 6) (o : RForm) (n : BitVec 6) : fld (packR m o n) 8 6 = o.b :=
  (ext_hi _ _ _ _ (by decide)).trans <| (ext_hi _ _ _ _ (by decide)).trans <| (ext_hi _ _ _ _ (by decide)).trans <| ext_lo _ _
@[simp] theorem packR_p (m : BitVec 6) (o : RForm) (n : BitVec 6) : bitAt (packR m o n) 7 = o.p :=
  (bit_hi _ _ _ (by decide)).trans <| (bit_hi _ _ _ (by decide)).trans <| bit_lo _ _
@[simp] theorem packR_q (m : BitVec 6) (o : RForm) (n : BitVec 6) : bitAt (packR m o n) 6 = o.q :=
  (bit_hi _ _ _ (by decide)).trans <| bit_lo _ _
@[simp] theorem packR_n (m : BitVec 6) (o : RForm) (n : BitVec 6) : fld (packR m o n) 0 6 = n :=
  ext_lo _ _

/-! ## packI -/

@[simp] theorem packI_m (m : BitVec 6) (o : IForm) : fld (packI m o) 26 6 = m :=
  (ext_hi _ _ _ _ (by decide)).trans <| (ext_hi _ _ _ _ (by decide)).trans <| (ext_hi _ _ _ _ (by decide)).trans <| (ext_hi _ _ _ _ (by decide)).trans <| BitVec.extractLsb'_eq_self
@[simp] theorem packI_d (m : BitVec 6) (o : IForm) : fld (packI m o) 20 6 = o.d :=
  (ext_hi _ _ _ _ (by decide)).trans <| (ext_hi _ _ _ _ (by decide)).trans <| (ext_hi _ _ _ _ (by decide)).trans <| ext_lo _ _
@[simp] theorem packI_a (m : BitVec 6) (o : IForm) : fld (packI m o) 14 6 = o.a :=
  (ext_hi _ _ _ _ (by decide)).trans <| (ext_hi _ _ _ _ (by decide)).trans <| ext_lo _ _
@[simp] theorem packI_p (m : BitVec 6) (o : IForm) : bitAt (packI m o) 13 = o.p :=
  (bit_hi _ _ _ (by decide)).trans <| bit_lo _ _
@[simp] theorem packI_i (m : BitVec 6) (o : IForm) : fld (packI m o) 0 13 = o.i :=
  ext_lo _ _

/-! ## packU -/

@[simp] theorem packU_m (m d : BitVec 6) (i : BitVec 20) : fld (packU m d i) 26 6 = m :=
  (ext_hi _ _ _ _ (by decide)).trans <| (ext_hi _ _ _ _ (by decide)).trans <| BitVec.extractLsb'_eq_self
@[simp] theorem packU_d (m d : BitVec 6) (i : BitVec 20) : fld (packU m d i) 20 6 = d :=
  (ext_hi _ _ _ _ (by decide)).trans <| ext_lo _ _
@[simp] theorem packU_i (m d : BitVec 6) (i : BitVec 20) : fld (packU m d i) 0 20 = i :=
  ext_lo _ _

/-! ## packB -/

@[simp] theorem packB_m (m : BitVec 6) (o : BForm) : fld (packB m o) 26 6 = m :=
  (ext_hi _ _ _ _ (by decide)).trans <| (ext_hi _ _ _ _ (by decide)).trans <| (ext_hi _ _ _ _ (by decide)).trans <| (ext_hi _ _ _ _ (by decide)).trans <| BitVec.extractLsb'_eq_self
@[simp] theorem packB_c (m : BitVec 6) (o : BForm) : fld (packB m o) 22 4 = o.c :=
  (ext_hi _ _ _ _ (by decide)).trans <| (ext_hi _ _ _ _ (by decide)).trans <| (ext_hi _ _ _ _ (by decide)).trans <| ext_lo _ _
@[simp] theorem packB_a (m : BitVec 6) (o : BForm) : fld (packB m o) 16 6 = o.a :=
  (ext_hi _ _ _ _ (by decide)).trans <| (ext_hi _ _ _ _ (by decide)).trans <| ext_lo _ _
@[simp] theorem packB_p (m : BitVec 6) (o : BForm) : bitAt (packB m o) 15 = o.p :=
  (bit_hi _ _ _ (by decide)).trans <| bit_lo _ _
@[simp] theorem packB_n (m : BitVec 6) (o : BForm) : fld (packB m o) 0 15 = o.n :=
  ext_lo _ _

/-! ## packJ -/

@[simp] theorem packJ_m (m : BitVec 6) (n : BitVec 26) : fld (packJ m n) 26 6 = m :=
  (ext_hi _ _ _ _ (by decide)).trans <| BitVec.extractLsb'_eq_self
@[simp] theorem packJ_n (m : BitVec 6) (n : BitVec 26) : fld (packJ m n) 0 26 = n :=
  ext_lo _ _

/-! ## packYR -/

@[simp] theorem packYR_maj (u : BitVec 6) (o : RForm) : fld (packYR u o) 26 6 = 0x3F#6 :=
  (ext_hi _ _ _ _ (by decide)).trans <| (ext_hi _ _ _ _ (by decide)).trans <| (ext_hi _ _ _ _ (by decide)).trans <| (ext_hi _ _ _ _ (by decide)).trans <| (ext_hi _ _ _ _ (by decide)).trans <| (ext_hi _ _ _ _ (by decide)).trans <| BitVec.extractLsb'_eq_self
@[simp] theorem packYR_u (u : BitVec 6) (o : RForm) : fld (packYR u o) 20 6 = u :=
  (ext_hi _ _ _ _ (by decide)).trans <| (ext_hi _ _ _ _ (by decide)).trans <| (ext_hi _ _ _ _ (by decide)).trans <| (ext_hi _ _ _ _ (by decide)).trans <| (ext_hi _ _ _ _ (by decide)).trans <| ext_lo _ _
@[simp] theorem packYR_d (u : BitVec 6) (o : RForm) : fld (packYR u o) 14 6 = o.d :=
  (ext_hi _ _ _ _ (by decide)).trans <| (ext_hi _ _ _ _ (by decide)).trans <| (ext_hi _ _ _ _ (by decide)).trans <| (ext_hi _ _ _ _ (by decide)).trans <| ext_lo _ _
@[simp] theorem packYR_a (u : BitVec 6) (o : RForm) : fld (packYR u o) 8 6 = o.a :=
  (ext_hi _ _ _ _ (by decide)).trans <| (ext_hi _ _ _ _ (by decide)).trans <| (ext_hi _ _ _ _ (by decide)).trans <| ext_lo _ _
@[simp] theorem packYR_b (u : BitVec 6) (o : RForm) : fld (packYR u o) 2 6 = o.b :=
  (ext_hi _ _ _ _ (by decide)).trans <| (ext_hi _ _ _ _ (by decide)).trans <| ext_lo _ _
@[simp] theorem packYR_p (u : BitVec 6) (o : RForm) : bitAt (packYR u o) 1 = o.p :=
  (bit_hi _ _ _ (by decide)).trans <| bit_lo _ _
@[simp] theorem packYR_q (u : BitVec 6) (o : RForm) : bitAt (packYR u o) 0 = o.q :=
  bit_lo _ _

/-! ## packYI -/

@[simp] theorem packYI_maj (u : BitVec 6) (o : KForm) : fld (packYI u o) 26 6 = 0x3F#6 :=
  (ext_hi _ _ _ _ (by decide)).trans <| (ext_hi _ _ _ _ (by decide)).trans <| (ext_hi _ _ _ _ (by decide)).trans <| (ext_hi _ _ _ _ (by decide)).trans <| (ext_hi _ _ _ _ (by decide)).trans <| BitVec.extractLsb'_eq_self
@[simp] theorem packYI_u (u : BitVec 6) (o : KForm) : fld (packYI u o) 20 6 = u :=
  (ext_hi _ _ _ _ (by decide)).trans <| (ext_hi _ _ _ _ (by decide)).trans <| (ext_hi _ _ _ _ (by decide)).trans <| (ext_hi _ _ _ _ (by decide)).trans <| ext_lo _ _
@[simp] theorem packYI_d (u : BitVec 6) (o : KForm) : fld (packYI u o) 14 6 = o.d :=
  (ext_hi _ _ _ _ (by decide)).trans <| (ext_hi _ _ _ _ (by decide)).trans <| (ext_hi _ _ _ _ (by decide)).trans <| ext_lo _ _
@[simp] theorem packYI_a (u : BitVec 6) (o : KForm) : fld (packYI u o) 8 6 = o.a :=
  (ext_hi _ _ _ _ (by decide)).trans <| (ext_hi _ _ _ _ (by decide)).trans <| ext_lo _ _
@[simp] theorem packYI_p (u : BitVec 6) (o : KForm) : bitAt (packYI u o) 7 = o.p :=
  (bit_hi _ _ _ (by decide)).trans <| bit_lo _ _
@[simp] theorem packYI_n (u : BitVec 6) (o : KForm) : fld (packYI u o) 0 7 = o.n :=
  ext_lo _ _

/-! ## packYS -/

@[simp] theorem packYS_maj (u : BitVec 6) (o : SForm) (m : BitVec 5) : fld (packYS u o m) 26 6 = 0x3F#6 :=
  (ext_hi _ _ _ _ (by decide)).trans <| (ext_hi _ _ _ _ (by decide)).trans <| (ext_hi _ _ _ _ (by decide)).trans <| (ext_hi _ _ _ _ (by decide)).trans <| (ext_hi _ _ _ _ (by decide)).trans <| (ext_hi _ _ _ _ (by decide)).trans <| (ext_hi _ _ _ _ (by decide)).trans <| BitVec.extractLsb'_eq_self
@[simp] theorem packYS_u (u : BitVec 6) (o : SForm) (m : BitVec 5) : fld (packYS u o m) 20 6 = u :=
  (ext_hi _ _ _ _ (by decide)).trans <| (ext_hi _ _ _ _ (by decide)).trans <| (ext_hi _ _ _ _ (by decide)).trans <| (ext_hi _ _ _ _ (by decide)).trans <| (ext_hi _ _ _ _ (by decide)).trans <| (ext_hi _ _ _ _ (by decide)).trans <| ext_lo _ _
@[simp] theorem packYS_a (u : BitVec 6) (o : SForm) (m : BitVec 5) : fld (packYS u o m) 14 6 = o.a :=
  (ext_hi _ _ _ _ (by decide)).trans <| (ext_hi _ _ _ _ (by decide)).trans <| (ext_hi _ _ _ _ (by decide)).trans <| (ext_hi _ _ _ _ (by decide)).trans <| (ext_hi _ _ _ _ (by decide)).trans <| ext_lo _ _
@[simp] theorem packYS_b (u : BitVec 6) (o : SForm) (m : BitVec 5) : fld (packYS u o m) 8 6 = o.b :=
  (ext_hi _ _ _ _ (by decide)).trans <| (ext_hi _ _ _ _ (by decide)).trans <| (ext_hi _ _ _ _ (by decide)).trans <| (ext_hi _ _ _ _ (by decide)).trans <| ext_lo _ _
@[simp] theorem packYS_p (u : BitVec 6) (o : SForm) (m : BitVec 5) : bitAt (packYS u o m) 7 = o.p :=
  (bit_hi _ _ _ (by decide)).trans <| (bit_hi _ _ _ (by decide)).trans <| (bit_hi _ _ _ (by decide)).trans <| bit_lo _ _
@[simp] theorem packYS_q (u : BitVec 6) (o : SForm) (m : BitVec 5) : bitAt (packYS u o m) 6 = o.q :=
  (bit_hi _ _ _ (by decide)).trans <| (bit_hi _ _ _ (by decide)).trans <| bit_lo _ _
@[simp] theorem packYS_m (u : BitVec 6) (o : SForm) (m : BitVec 5) : fld (packYS u o m) 0 5 = m :=
  ext_lo _ _

/-! ## packYV -/

@[simp] theorem packYV_maj (u : BitVec 6) (o : VForm) : fld (packYV u o) 26 6 = 0x3F#6 :=
  (ext_hi _ _ _ _ (by decide)).trans <| (ext_hi _ _ _ _ (by decide)).trans <| (ext_hi _ _ _ _ (by decide)).trans <| (ext_hi _ _ _ _ (by decide)).trans <| (ext_hi _ _ _ _ (by decide)).trans <| (ext_hi _ _ _ _ (by decide)).trans <| BitVec.extractLsb'_eq_self
@[simp] theorem packYV_u (u : BitVec 6) (o : VForm) : fld (packYV u o) 20 6 = u :=
  (ext_hi _ _ _ _ (by decide)).trans <| (ext_hi _ _ _ _ (by decide)).trans <| (ext_hi _ _ _ _ (by decide)).trans <| (ext_hi _ _ _ _ (by decide)).trans <| (ext_hi _ _ _ _ (by decide)).trans <| ext_lo _ _
@[simp] theorem packYV_v (u : BitVec 6) (o : VForm) : fld (packYV u o) 14 6 = o.v :=
  (ext_hi _ _ _ _ (by decide)).trans <| (ext_hi _ _ _ _ (by decide)).trans <| (ext_hi _ _ _ _ (by decide)).trans <| (ext_hi _ _ _ _ (by decide)).trans <| ext_lo _ _
@[simp] theorem packYV_a (u : BitVec 6) (o : VForm) : fld (packYV u o) 8 6 = o.a :=
  (ext_hi _ _ _ _ (by decide)).trans <| (ext_hi _ _ _ _ (by decide)).trans <| (ext_hi _ _ _ _ (by decide)).trans <| ext_lo _ _
@[simp] theorem packYV_p (u : BitVec 6) (o : VForm) : bitAt (packYV u o) 7 = o.p :=
  (bit_hi _ _ _ (by decide)).trans <| (bit_hi _ _ _ (by decide)).trans <| bit_lo _ _
@[simp] theorem packYV_s (u : BitVec 6) (o : VForm) : fld (packYV u o) 0 4 = o.s :=
  ext_lo _ _

/-! ## packYT -/

@[simp] theorem packYT_maj (u : BitVec 6) (n : BitVec 4) (r : BitVec 2) (o : SForm) : fld (packYT u n r o) 26 6 = 0x3F#6 :=
  (ext_hi _ _ _ _ (by decide)).trans <| (ext_hi _ _ _ _ (by decide)).trans <| (ext_hi _ _ _ _ (by decide)).trans <| (ext_hi _ _ _ _ (by decide)).trans <| (ext_hi _ _ _ _ (by decide)).trans <| (ext_hi _ _ _ _ (by decide)).trans <| (ext_hi _ _ _ _ (by decide)).trans <| BitVec.extractLsb'_eq_self
@[simp] theorem packYT_u (u : BitVec 6) (n : BitVec 4) (r : BitVec 2) (o : SForm) : fld (packYT u n r o) 20 6 = u :=
  (ext_hi _ _ _ _ (by decide)).trans <| (ext_hi _ _ _ _ (by decide)).trans <| (ext_hi _ _ _ _ (by decide)).trans <| (ext_hi _ _ _ _ (by decide)).trans <| (ext_hi _ _ _ _ (by decide)).trans <| (ext_hi _ _ _ _ (by decide)).trans <| ext_lo _ _
@[simp] theorem packYT_n (u : BitVec 6) (n : BitVec 4) (r : BitVec 2) (o : SForm) : fld (packYT u n r o) 16 4 = n :=
  (ext_hi _ _ _ _ (by decide)).trans <| (ext_hi _ _ _ _ (by decide)).trans <| (ext_hi _ _ _ _ (by decide)).trans <| (ext_hi _ _ _ _ (by decide)).trans <| (ext_hi _ _ _ _ (by decide)).trans <| ext_lo _ _
@[simp] theorem packYT_r (u : BitVec 6) (n : BitVec 4) (r : BitVec 2) (o : SForm) : fld (packYT u n r o) 14 2 = r :=
  (ext_hi _ _ _ _ (by decide)).trans <| (ext_hi _ _ _ _ (by decide)).trans <| (ext_hi _ _ _ _ (by decide)).trans <| (ext_hi _ _ _ _ (by decide)).trans <| ext_lo _ _
@[simp] theorem packYT_a (u : BitVec 6) (n : BitVec 4) (r : BitVec 2) (o : SForm) : fld (packYT u n r o) 8 6 = o.a :=
  (ext_hi _ _ _ _ (by decide)).trans <| (ext_hi _ _ _ _ (by decide)).trans <| (ext_hi _ _ _ _ (by decide)).trans <| ext_lo _ _
@[simp] theorem packYT_b (u : BitVec 6) (n : BitVec 4) (r : BitVec 2) (o : SForm) : fld (packYT u n r o) 2 6 = o.b :=
  (ext_hi _ _ _ _ (by decide)).trans <| (ext_hi _ _ _ _ (by decide)).trans <| ext_lo _ _
@[simp] theorem packYT_p (u : BitVec 6) (n : BitVec 4) (r : BitVec 2) (o : SForm) : bitAt (packYT u n r o) 1 = o.p :=
  (bit_hi _ _ _ (by decide)).trans <| bit_lo _ _
@[simp] theorem packYT_q (u : BitVec 6) (n : BitVec 4) (r : BitVec 2) (o : SForm) : bitAt (packYT u n r o) 0 = o.q :=
  bit_lo _ _

/-! ## packG -/

@[simp] theorem packG_m (m : BitVec 6) (o : GForm) : fld (packG m o) 26 6 = m :=
  (ext_hi _ _ _ _ (by decide)).trans <| (ext_hi _ _ _ _ (by decide)).trans <| (ext_hi _ _ _ _ (by decide)).trans <| (ext_hi _ _ _ _ (by decide)).trans <| BitVec.extractLsb'_eq_self
@[simp] theorem packG_v (m : BitVec 6) (o : GForm) : fld (packG m o) 20 6 = o.v :=
  (ext_hi _ _ _ _ (by decide)).trans <| (ext_hi _ _ _ _ (by decide)).trans <| (ext_hi _ _ _ _ (by decide)).trans <| ext_lo _ _
@[simp] theorem packG_b (m : BitVec 6) (o : GForm) : fld (packG m o) 16 4 = o.b :=
  (ext_hi _ _ _ _ (by decide)).trans <| (ext_hi _ _ _ _ (by decide)).trans <| ext_lo _ _
@[simp] theorem packG_o (m : BitVec 6) (o : GForm) : fld (packG m o) 4 12 = o.o :=
  (ext_hi _ _ _ _ (by decide)).trans <| ext_lo _ _
@[simp] theorem packG_k (m : BitVec 6) (o : GForm) : fld (packG m o) 0 4 = o.k :=
  ext_lo _ _

/-! ## packA -/

@[simp] theorem packA_m (m : BitVec 6) (o : AForm) : fld (packA m o) 26 6 = m :=
  (ext_hi _ _ _ _ (by decide)).trans <| (ext_hi _ _ _ _ (by decide)).trans <| (ext_hi _ _ _ _ (by decide)).trans <| (ext_hi _ _ _ _ (by decide)).trans <| (ext_hi _ _ _ _ (by decide)).trans <| (ext_hi _ _ _ _ (by decide)).trans <| BitVec.extractLsb'_eq_self
@[simp] theorem packA_d (m : BitVec 6) (o : AForm) : fld (packA m o) 20 6 = o.d :=
  (ext_hi _ _ _ _ (by decide)).trans <| (ext_hi _ _ _ _ (by decide)).trans <| (ext_hi _ _ _ _ (by decide)).trans <| (ext_hi _ _ _ _ (by decide)).trans <| (ext_hi _ _ _ _ (by decide)).trans <| ext_lo _ _
@[simp] theorem packA_a (m : BitVec 6) (o : AForm) : fld (packA m o) 14 6 = o.a :=
  (ext_hi _ _ _ _ (by decide)).trans <| (ext_hi _ _ _ _ (by decide)).trans <| (ext_hi _ _ _ _ (by decide)).trans <| (ext_hi _ _ _ _ (by decide)).trans <| ext_lo _ _
@[simp] theorem packA_b (m : BitVec 6) (o : AForm) : fld (packA m o) 8 6 = o.b :=
  (ext_hi _ _ _ _ (by decide)).trans <| (ext_hi _ _ _ _ (by decide)).trans <| (ext_hi _ _ _ _ (by decide)).trans <| ext_lo _ _
@[simp] theorem packA_g (m : BitVec 6) (o : AForm) : fld (packA m o) 5 3 = o.g :=
  (ext_hi _ _ _ _ (by decide)).trans <| (ext_hi _ _ _ _ (by decide)).trans <| ext_lo _ _
@[simp] theorem packA_s (m : BitVec 6) (o : AForm) : bitAt (packA m o) 4 = o.s :=
  (bit_hi _ _ _ (by decide)).trans <| bit_lo _ _
@[simp] theorem packA_k (m : BitVec 6) (o : AForm) : fld (packA m o) 0 4 = o.k :=
  ext_lo _ _

/-! ## packXO -/

@[simp] theorem packXO_m (m : BitVec 6) (o : XOForm) : fld (packXO m o) 26 6 = m :=
  (ext_hi _ _ _ _ (by decide)).trans <| (ext_hi _ _ _ _ (by decide)).trans <| (ext_hi _ _ _ _ (by decide)).trans <| (ext_hi _ _ _ _ (by decide)).trans <| BitVec.extractLsb'_eq_self
@[simp] theorem packXO_e (m : BitVec 6) (o : XOForm) : fld (packXO m o) 20 6 = o.e :=
  (ext_hi _ _ _ _ (by decide)).trans <| (ext_hi _ _ _ _ (by decide)).trans <| (ext_hi _ _ _ _ (by decide)).trans <| ext_lo _ _
@[simp] theorem packXO_p (m : BitVec 6) (o : XOForm) : fld (packXO m o) 16 4 = o.p :=
  (ext_hi _ _ _ _ (by decide)).trans <| (ext_hi _ _ _ _ (by decide)).trans <| ext_lo _ _
@[simp] theorem packXO_q (m : BitVec 6) (o : XOForm) : fld (packXO m o) 12 4 = o.q :=
  (ext_hi _ _ _ _ (by decide)).trans <| ext_lo _ _
@[simp] theorem packXO_i (m : BitVec 6) (o : XOForm) : fld (packXO m o) 0 12 = o.i :=
  ext_lo _ _

/-! ## Fields within fields, and words of their own layout -/

@[simp] theorem minor33_x (m : BitVec 6) (o : RForm) (x y : BitVec 3) : fld (packR m o (x ++ y)) 3 3 = x :=
  (ext_in _ _ _ _ (by decide)).trans <| (ext_hi _ _ _ _ (by decide)).trans <| BitVec.extractLsb'_eq_self
@[simp] theorem minor33_y (m : BitVec 6) (o : RForm) (x y : BitVec 3) : fld (packR m o (x ++ y)) 0 3 = y :=
  (ext_in _ _ _ _ (by decide)).trans <| ext_lo _ _

@[simp] theorem minor42_x (m : BitVec 6) (o : RForm) (x : BitVec 4) (y : BitVec 2) : fld (packR m o (x ++ y)) 2 4 = x :=
  (ext_in _ _ _ _ (by decide)).trans <| (ext_hi _ _ _ _ (by decide)).trans <| BitVec.extractLsb'_eq_self
@[simp] theorem minor42_y (m : BitVec 6) (o : RForm) (x : BitVec 4) (y : BitVec 2) : fld (packR m o (x ++ y)) 0 2 = y :=
  (ext_in _ _ _ _ (by decide)).trans <| ext_lo _ _

@[simp] theorem minor132_x (m : BitVec 6) (o : RForm) (x : BitVec 3) (y : BitVec 2) : fld (packR m o (0b0#1 ++ x ++ y)) 2 3 = x :=
  (ext_in _ _ _ _ (by decide)).trans <| (ext_hi _ _ _ _ (by decide)).trans <| ext_lo _ _
@[simp] theorem minor132_y (m : BitVec 6) (o : RForm) (x : BitVec 3) (y : BitVec 2) : fld (packR m o (0b0#1 ++ x ++ y)) 0 2 = y :=
  (ext_in _ _ _ _ (by decide)).trans <| ext_lo _ _

@[simp] theorem waitWord_l (m d : BitVec 6) (l s c t : BitVec 5) : fld (packU m d (l ++ s ++ c ++ t)) 15 5 = l :=
  (ext_in _ _ _ _ (by decide)).trans <| (ext_hi _ _ _ _ (by decide)).trans <| (ext_hi _ _ _ _ (by decide)).trans <| (ext_hi _ _ _ _ (by decide)).trans <| BitVec.extractLsb'_eq_self
@[simp] theorem waitWord_s (m d : BitVec 6) (l s c t : BitVec 5) : fld (packU m d (l ++ s ++ c ++ t)) 10 5 = s :=
  (ext_in _ _ _ _ (by decide)).trans <| (ext_hi _ _ _ _ (by decide)).trans <| (ext_hi _ _ _ _ (by decide)).trans <| ext_lo _ _
@[simp] theorem waitWord_c (m d : BitVec 6) (l s c t : BitVec 5) : fld (packU m d (l ++ s ++ c ++ t)) 5 5 = c :=
  (ext_in _ _ _ _ (by decide)).trans <| (ext_hi _ _ _ _ (by decide)).trans <| ext_lo _ _
@[simp] theorem waitWord_t (m d : BitVec 6) (l s c t : BitVec 5) : fld (packU m d (l ++ s ++ c ++ t)) 0 5 = t :=
  (ext_in _ _ _ _ (by decide)).trans <| ext_lo _ _

@[simp] theorem bindWord_k (m d a : BitVec 6) (p : Bool) (k : BitVec 3) (u : BitVec 10) : fld (packI m ⟨d, a, p, k ++ u⟩) 10 3 = k :=
  (ext_in _ _ _ _ (by decide)).trans <| (ext_hi _ _ _ _ (by decide)).trans <| BitVec.extractLsb'_eq_self
@[simp] theorem bindWord_u (m d a : BitVec 6) (p : Bool) (k : BitVec 3) (u : BitVec 10) : fld (packI m ⟨d, a, p, k ++ u⟩) 0 10 = u :=
  (ext_in _ _ _ _ (by decide)).trans <| ext_lo _ _

@[simp] theorem unbindWord_n (m d a : BitVec 6) (p : Bool) (n : BitVec 4) : fld (packYI m ⟨d, a, p, 0#3 ++ n⟩) 0 4 = n :=
  (ext_in _ _ _ _ (by decide)).trans <| ext_lo _ _

@[simp] theorem ppointWord_x (m d : BitVec 6) (x : BitVec 8) : fld (packU m d (0#12 ++ x)) 0 8 = x :=
  (ext_in _ _ _ _ (by decide)).trans <| ext_lo _ _

@[simp] theorem tokWord_maj (a b c : BitVec 6) : fld ((0x3E#6 ++ a ++ b ++ c ++ 0#8 : W32)) 26 6 = 0x3E#6 :=
  (ext_hi _ _ _ _ (by decide)).trans <| (ext_hi _ _ _ _ (by decide)).trans <| (ext_hi _ _ _ _ (by decide)).trans <| (ext_hi _ _ _ _ (by decide)).trans <| BitVec.extractLsb'_eq_self
@[simp] theorem tokWord_a (a b c : BitVec 6) : fld ((0x3E#6 ++ a ++ b ++ c ++ 0#8 : W32)) 20 6 = a :=
  (ext_hi _ _ _ _ (by decide)).trans <| (ext_hi _ _ _ _ (by decide)).trans <| (ext_hi _ _ _ _ (by decide)).trans <| ext_lo _ _
@[simp] theorem tokWord_b (a b c : BitVec 6) : fld ((0x3E#6 ++ a ++ b ++ c ++ 0#8 : W32)) 14 6 = b :=
  (ext_hi _ _ _ _ (by decide)).trans <| (ext_hi _ _ _ _ (by decide)).trans <| ext_lo _ _
@[simp] theorem tokWord_c (a b c : BitVec 6) : fld ((0x3E#6 ++ a ++ b ++ c ++ 0#8 : W32)) 8 6 = c :=
  (ext_hi _ _ _ _ (by decide)).trans <| ext_lo _ _

@[simp] theorem rloopWord_maj (t : BitVec 13) (l : Bool) (n : BitVec 12) : fld ((0x3F#6 ++ t ++ BitVec.ofBool l ++ n : W32)) 26 6 = 0x3F#6 :=
  (ext_hi _ _ _ _ (by decide)).trans <| (ext_hi _ _ _ _ (by decide)).trans <| (ext_hi _ _ _ _ (by decide)).trans <| BitVec.extractLsb'_eq_self
@[simp] theorem rloopWord_t (t : BitVec 13) (l : Bool) (n : BitVec 12) : fld ((0x3F#6 ++ t ++ BitVec.ofBool l ++ n : W32)) 13 13 = t :=
  (ext_hi _ _ _ _ (by decide)).trans <| (ext_hi _ _ _ _ (by decide)).trans <| ext_lo _ _
@[simp] theorem rloopWord_l (t : BitVec 13) (l : Bool) (n : BitVec 12) : bitAt ((0x3F#6 ++ t ++ BitVec.ofBool l ++ n : W32)) 12 = l :=
  (bit_hi _ _ _ (by decide)).trans <| bit_lo _ _
@[simp] theorem rloopWord_n (t : BitVec 13) (l : Bool) (n : BitVec 12) : fld ((0x3F#6 ++ t ++ BitVec.ofBool l ++ n : W32)) 0 12 = n :=
  ext_lo _ _

@[simp] theorem lportWord_maj (p : BitVec 3) (n : BitVec 4) (c : Bool) (k : BitVec 4) : fld ((0x01#6 ++ p ++ n ++ BitVec.ofBool c ++ 0#14 ++ k : W32)) 26 6 = 0x01#6 :=
  (ext_hi _ _ _ _ (by decide)).trans <| (ext_hi _ _ _ _ (by decide)).trans <| (ext_hi _ _ _ _ (by decide)).trans <| (ext_hi _ _ _ _ (by decide)).trans <| (ext_hi _ _ _ _ (by decide)).trans <| BitVec.extractLsb'_eq_self
@[simp] theorem lportWord_p (p : BitVec 3) (n : BitVec 4) (c : Bool) (k : BitVec 4) : fld ((0x01#6 ++ p ++ n ++ BitVec.ofBool c ++ 0#14 ++ k : W32)) 23 3 = p :=
  (ext_hi _ _ _ _ (by decide)).trans <| (ext_hi _ _ _ _ (by decide)).trans <| (ext_hi _ _ _ _ (by decide)).trans <| (ext_hi _ _ _ _ (by decide)).trans <| ext_lo _ _
@[simp] theorem lportWord_n (p : BitVec 3) (n : BitVec 4) (c : Bool) (k : BitVec 4) : fld ((0x01#6 ++ p ++ n ++ BitVec.ofBool c ++ 0#14 ++ k : W32)) 19 4 = n :=
  (ext_hi _ _ _ _ (by decide)).trans <| (ext_hi _ _ _ _ (by decide)).trans <| (ext_hi _ _ _ _ (by decide)).trans <| ext_lo _ _
@[simp] theorem lportWord_c (p : BitVec 3) (n : BitVec 4) (c : Bool) (k : BitVec 4) : bitAt ((0x01#6 ++ p ++ n ++ BitVec.ofBool c ++ 0#14 ++ k : W32)) 18 = c :=
  (bit_hi _ _ _ (by decide)).trans <| (bit_hi _ _ _ (by decide)).trans <| bit_lo _ _
@[simp] theorem lportWord_k (p : BitVec 3) (n : BitVec 4) (c : Bool) (k : BitVec 4) : fld ((0x01#6 ++ p ++ n ++ BitVec.ofBool c ++ 0#14 ++ k : W32)) 0 4 = k :=
  ext_lo _ _

@[simp] theorem lnestWord_maj (n b : BitVec 4) (o : BitVec 14) (k : BitVec 4) : fld ((0x04#6 ++ n ++ b ++ o ++ k : W32)) 26 6 = 0x04#6 :=
  (ext_hi _ _ _ _ (by decide)).trans <| (ext_hi _ _ _ _ (by decide)).trans <| (ext_hi _ _ _ _ (by decide)).trans <| (ext_hi _ _ _ _ (by decide)).trans <| BitVec.extractLsb'_eq_self
@[simp] theorem lnestWord_n (n b : BitVec 4) (o : BitVec 14) (k : BitVec 4) : fld ((0x04#6 ++ n ++ b ++ o ++ k : W32)) 22 4 = n :=
  (ext_hi _ _ _ _ (by decide)).trans <| (ext_hi _ _ _ _ (by decide)).trans <| (ext_hi _ _ _ _ (by decide)).trans <| ext_lo _ _
@[simp] theorem lnestWord_b (n b : BitVec 4) (o : BitVec 14) (k : BitVec 4) : fld ((0x04#6 ++ n ++ b ++ o ++ k : W32)) 18 4 = b :=
  (ext_hi _ _ _ _ (by decide)).trans <| (ext_hi _ _ _ _ (by decide)).trans <| ext_lo _ _
@[simp] theorem lnestWord_o (n b : BitVec 4) (o : BitVec 14) (k : BitVec 4) : fld ((0x04#6 ++ n ++ b ++ o ++ k : W32)) 4 14 = o :=
  (ext_hi _ _ _ _ (by decide)).trans <| ext_lo _ _
@[simp] theorem lnestWord_k (n b : BitVec 4) (o : BitVec 14) (k : BitVec 4) : fld ((0x04#6 ++ n ++ b ++ o ++ k : W32)) 0 4 = k :=
  ext_lo _ _

@[simp] theorem sportWord_maj (p : BitVec 3) (n k : BitVec 4) : fld ((0x01#6 ++ p ++ n ++ 0#15 ++ k : W32)) 26 6 = 0x01#6 :=
  (ext_hi _ _ _ _ (by decide)).trans <| (ext_hi _ _ _ _ (by decide)).trans <| (ext_hi _ _ _ _ (by decide)).trans <| (ext_hi _ _ _ _ (by decide)).trans <| BitVec.extractLsb'_eq_self
@[simp] theorem sportWord_p (p : BitVec 3) (n k : BitVec 4) : fld ((0x01#6 ++ p ++ n ++ 0#15 ++ k : W32)) 23 3 = p :=
  (ext_hi _ _ _ _ (by decide)).trans <| (ext_hi _ _ _ _ (by decide)).trans <| (ext_hi _ _ _ _ (by decide)).trans <| ext_lo _ _
@[simp] theorem sportWord_n (p : BitVec 3) (n k : BitVec 4) : fld ((0x01#6 ++ p ++ n ++ 0#15 ++ k : W32)) 19 4 = n :=
  (ext_hi _ _ _ _ (by decide)).trans <| (ext_hi _ _ _ _ (by decide)).trans <| ext_lo _ _
@[simp] theorem sportWord_k (p : BitVec 3) (n k : BitVec 4) : fld ((0x01#6 ++ p ++ n ++ 0#15 ++ k : W32)) 0 4 = k :=
  ext_lo _ _

@[simp] theorem mmacWord_maj (e : BitVec 6) (p t : BitVec 3) (r : BitVec 8) (o : BitVec 6) : fld ((0x01#6 ++ e ++ p ++ t ++ r ++ o : W32)) 26 6 = 0x01#6 :=
  (ext_hi _ _ _ _ (by decide)).trans <| (ext_hi _ _ _ _ (by decide)).trans <| (ext_hi _ _ _ _ (by decide)).trans <| (ext_hi _ _ _ _ (by decide)).trans <| (ext_hi _ _ _ _ (by decide)).trans <| BitVec.extractLsb'_eq_self
@[simp] theorem mmacWord_e (e : BitVec 6) (p t : BitVec 3) (r : BitVec 8) (o : BitVec 6) : fld ((0x01#6 ++ e ++ p ++ t ++ r ++ o : W32)) 20 6 = e :=
  (ext_hi _ _ _ _ (by decide)).trans <| (ext_hi _ _ _ _ (by decide)).trans <| (ext_hi _ _ _ _ (by decide)).trans <| (ext_hi _ _ _ _ (by decide)).trans <| ext_lo _ _
@[simp] theorem mmacWord_p (e : BitVec 6) (p t : BitVec 3) (r : BitVec 8) (o : BitVec 6) : fld ((0x01#6 ++ e ++ p ++ t ++ r ++ o : W32)) 17 3 = p :=
  (ext_hi _ _ _ _ (by decide)).trans <| (ext_hi _ _ _ _ (by decide)).trans <| (ext_hi _ _ _ _ (by decide)).trans <| ext_lo _ _
@[simp] theorem mmacWord_t (e : BitVec 6) (p t : BitVec 3) (r : BitVec 8) (o : BitVec 6) : fld ((0x01#6 ++ e ++ p ++ t ++ r ++ o : W32)) 14 3 = t :=
  (ext_hi _ _ _ _ (by decide)).trans <| (ext_hi _ _ _ _ (by decide)).trans <| ext_lo _ _
@[simp] theorem mmacWord_r (e : BitVec 6) (p t : BitVec 3) (r : BitVec 8) (o : BitVec 6) : fld ((0x01#6 ++ e ++ p ++ t ++ r ++ o : W32)) 6 8 = r :=
  (ext_hi _ _ _ _ (by decide)).trans <| ext_lo _ _
@[simp] theorem mmacWord_o (e : BitVec 6) (p t : BitVec 3) (r : BitVec 8) (o : BitVec 6) : fld ((0x01#6 ++ e ++ p ++ t ++ r ++ o : W32)) 0 6 = o :=
  ext_lo _ _

@[simp] theorem mclrWord_maj (e : BitVec 6) (t : BitVec 3) : fld ((0x02#6 ++ e ++ 0#3 ++ t ++ 0#14 : W32)) 26 6 = 0x02#6 :=
  (ext_hi _ _ _ _ (by decide)).trans <| (ext_hi _ _ _ _ (by decide)).trans <| (ext_hi _ _ _ _ (by decide)).trans <| (ext_hi _ _ _ _ (by decide)).trans <| BitVec.extractLsb'_eq_self
@[simp] theorem mclrWord_e (e : BitVec 6) (t : BitVec 3) : fld ((0x02#6 ++ e ++ 0#3 ++ t ++ 0#14 : W32)) 20 6 = e :=
  (ext_hi _ _ _ _ (by decide)).trans <| (ext_hi _ _ _ _ (by decide)).trans <| (ext_hi _ _ _ _ (by decide)).trans <| ext_lo _ _
@[simp] theorem mclrWord_t (e : BitVec 6) (t : BitVec 3) : fld ((0x02#6 ++ e ++ 0#3 ++ t ++ 0#14 : W32)) 14 3 = t :=
  (ext_hi _ _ _ _ (by decide)).trans <| ext_lo _ _

@[simp] theorem mretWord_maj (e : BitVec 6) (n : BitVec 4) (t f : BitVec 3) (m : BitVec 2) (c : Bool) : fld ((0x03#6 ++ e ++ n ++ t ++ f ++ m ++ BitVec.ofBool c ++ 0#7 : W32)) 26 6 = 0x03#6 :=
  (ext_hi _ _ _ _ (by decide)).trans <| (ext_hi _ _ _ _ (by decide)).trans <| (ext_hi _ _ _ _ (by decide)).trans <| (ext_hi _ _ _ _ (by decide)).trans <| (ext_hi _ _ _ _ (by decide)).trans <| (ext_hi _ _ _ _ (by decide)).trans <| (ext_hi _ _ _ _ (by decide)).trans <| BitVec.extractLsb'_eq_self
@[simp] theorem mretWord_e (e : BitVec 6) (n : BitVec 4) (t f : BitVec 3) (m : BitVec 2) (c : Bool) : fld ((0x03#6 ++ e ++ n ++ t ++ f ++ m ++ BitVec.ofBool c ++ 0#7 : W32)) 20 6 = e :=
  (ext_hi _ _ _ _ (by decide)).trans <| (ext_hi _ _ _ _ (by decide)).trans <| (ext_hi _ _ _ _ (by decide)).trans <| (ext_hi _ _ _ _ (by decide)).trans <| (ext_hi _ _ _ _ (by decide)).trans <| (ext_hi _ _ _ _ (by decide)).trans <| ext_lo _ _
@[simp] theorem mretWord_n (e : BitVec 6) (n : BitVec 4) (t f : BitVec 3) (m : BitVec 2) (c : Bool) : fld ((0x03#6 ++ e ++ n ++ t ++ f ++ m ++ BitVec.ofBool c ++ 0#7 : W32)) 16 4 = n :=
  (ext_hi _ _ _ _ (by decide)).trans <| (ext_hi _ _ _ _ (by decide)).trans <| (ext_hi _ _ _ _ (by decide)).trans <| (ext_hi _ _ _ _ (by decide)).trans <| (ext_hi _ _ _ _ (by decide)).trans <| ext_lo _ _
@[simp] theorem mretWord_t (e : BitVec 6) (n : BitVec 4) (t f : BitVec 3) (m : BitVec 2) (c : Bool) : fld ((0x03#6 ++ e ++ n ++ t ++ f ++ m ++ BitVec.ofBool c ++ 0#7 : W32)) 13 3 = t :=
  (ext_hi _ _ _ _ (by decide)).trans <| (ext_hi _ _ _ _ (by decide)).trans <| (ext_hi _ _ _ _ (by decide)).trans <| (ext_hi _ _ _ _ (by decide)).trans <| ext_lo _ _
@[simp] theorem mretWord_f (e : BitVec 6) (n : BitVec 4) (t f : BitVec 3) (m : BitVec 2) (c : Bool) : fld ((0x03#6 ++ e ++ n ++ t ++ f ++ m ++ BitVec.ofBool c ++ 0#7 : W32)) 10 3 = f :=
  (ext_hi _ _ _ _ (by decide)).trans <| (ext_hi _ _ _ _ (by decide)).trans <| (ext_hi _ _ _ _ (by decide)).trans <| ext_lo _ _
@[simp] theorem mretWord_m (e : BitVec 6) (n : BitVec 4) (t f : BitVec 3) (m : BitVec 2) (c : Bool) : fld ((0x03#6 ++ e ++ n ++ t ++ f ++ m ++ BitVec.ofBool c ++ 0#7 : W32)) 8 2 = m :=
  (ext_hi _ _ _ _ (by decide)).trans <| (ext_hi _ _ _ _ (by decide)).trans <| ext_lo _ _
@[simp] theorem mretWord_c (e : BitVec 6) (n : BitVec 4) (t f : BitVec 3) (m : BitVec 2) (c : Bool) : bitAt ((0x03#6 ++ e ++ n ++ t ++ f ++ m ++ BitVec.ofBool c ++ 0#7 : W32)) 7 = c :=
  (bit_hi _ _ _ (by decide)).trans <| bit_lo _ _

@[simp] theorem mwselWord_maj (e : BitVec 6) (w : BitVec 4) : fld ((0x04#6 ++ e ++ w ++ 0#16 : W32)) 26 6 = 0x04#6 :=
  (ext_hi _ _ _ _ (by decide)).trans <| (ext_hi _ _ _ _ (by decide)).trans <| (ext_hi _ _ _ _ (by decide)).trans <| BitVec.extractLsb'_eq_self
@[simp] theorem mwselWord_e (e : BitVec 6) (w : BitVec 4) : fld ((0x04#6 ++ e ++ w ++ 0#16 : W32)) 20 6 = e :=
  (ext_hi _ _ _ _ (by decide)).trans <| (ext_hi _ _ _ _ (by decide)).trans <| ext_lo _ _
@[simp] theorem mwselWord_w (e : BitVec 6) (w : BitVec 4) : fld ((0x04#6 ++ e ++ w ++ 0#16 : W32)) 16 4 = w :=
  (ext_hi _ _ _ _ (by decide)).trans <| ext_lo _ _

@[simp] theorem absWord_maj (e : BitVec 6) : fld ((0x05#6 ++ e ++ 0#20 : W32)) 26 6 = 0x05#6 :=
  (ext_hi _ _ _ _ (by decide)).trans <| (ext_hi _ _ _ _ (by decide)).trans <| BitVec.extractLsb'_eq_self
@[simp] theorem absWord_e (e : BitVec 6) : fld ((0x05#6 ++ e ++ 0#20 : W32)) 20 6 = e :=
  (ext_hi _ _ _ _ (by decide)).trans <| ext_lo _ _

@[simp] theorem addWord_maj (e : BitVec 6) (b : BitVec 19) : fld ((0x05#6 ++ e ++ 1#1 ++ b : W32)) 26 6 = 0x05#6 :=
  (ext_hi _ _ _ _ (by decide)).trans <| (ext_hi _ _ _ _ (by decide)).trans <| (ext_hi _ _ _ _ (by decide)).trans <| BitVec.extractLsb'_eq_self
@[simp] theorem addWord_e (e : BitVec 6) (b : BitVec 19) : fld ((0x05#6 ++ e ++ 1#1 ++ b : W32)) 20 6 = e :=
  (ext_hi _ _ _ _ (by decide)).trans <| (ext_hi _ _ _ _ (by decide)).trans <| ext_lo _ _
@[simp] theorem addWord_one (e : BitVec 6) (b : BitVec 19) : fld ((0x05#6 ++ e ++ 1#1 ++ b : W32)) 19 1 = 1#1 :=
  (ext_hi _ _ _ _ (by decide)).trans <| ext_lo _ _
@[simp] theorem addWord_b (e : BitVec 6) (b : BitVec 19) : fld ((0x05#6 ++ e ++ 1#1 ++ b : W32)) 0 19 = b :=
  ext_lo _ _

@[simp] theorem mnopWord_maj (e : BitVec 6) : fld ((0x06#6 ++ e ++ 0#20 : W32)) 26 6 = 0x06#6 :=
  (ext_hi _ _ _ _ (by decide)).trans <| (ext_hi _ _ _ _ (by decide)).trans <| BitVec.extractLsb'_eq_self
@[simp] theorem mnopWord_e (e : BitVec 6) : fld ((0x06#6 ++ e ++ 0#20 : W32)) 20 6 = e :=
  (ext_hi _ _ _ _ (by decide)).trans <| ext_lo _ _

@[simp] theorem sel24_x (m : BitVec 6) (o : AUForm) (x : BitVec 2) (y : BitVec 4) : fld (packA m (o.toA (x ++ y))) 12 2 = x :=
  (ext_hi _ _ _ _ (by decide)).trans <| (ext_hi _ _ _ _ (by decide)).trans <| (ext_hi _ _ _ _ (by decide)).trans <| (ext_in _ _ _ _ (by decide)).trans <| (ext_hi _ _ _ _ (by decide)).trans <| BitVec.extractLsb'_eq_self
@[simp] theorem sel24_y (m : BitVec 6) (o : AUForm) (x : BitVec 2) (y : BitVec 4) : fld (packA m (o.toA (x ++ y))) 8 4 = y :=
  (ext_hi _ _ _ _ (by decide)).trans <| (ext_hi _ _ _ _ (by decide)).trans <| (ext_hi _ _ _ _ (by decide)).trans <| (ext_in _ _ _ _ (by decide)).trans <| ext_lo _ _

@[simp] theorem sel42_x (m : BitVec 6) (o : AUForm) (x : BitVec 4) (y : BitVec 2) : fld (packA m (o.toA (x ++ y))) 10 4 = x :=
  (ext_hi _ _ _ _ (by decide)).trans <| (ext_hi _ _ _ _ (by decide)).trans <| (ext_hi _ _ _ _ (by decide)).trans <| (ext_in _ _ _ _ (by decide)).trans <| (ext_hi _ _ _ _ (by decide)).trans <| BitVec.extractLsb'_eq_self
@[simp] theorem sel42_y (m : BitVec 6) (o : AUForm) (x : BitVec 4) (y : BitVec 2) : fld (packA m (o.toA (x ++ y))) 8 2 = y :=
  (ext_hi _ _ _ _ (by decide)).trans <| (ext_hi _ _ _ _ (by decide)).trans <| (ext_hi _ _ _ _ (by decide)).trans <| (ext_in _ _ _ _ (by decide)).trans <| ext_lo _ _

@[simp] theorem sel222_x (m : BitVec 6) (o : AUForm) (x y z : BitVec 2) : fld (packA m (o.toA (x ++ y ++ z))) 12 2 = x :=
  (ext_hi _ _ _ _ (by decide)).trans <| (ext_hi _ _ _ _ (by decide)).trans <| (ext_hi _ _ _ _ (by decide)).trans <| (ext_in _ _ _ _ (by decide)).trans <| (ext_hi _ _ _ _ (by decide)).trans <| (ext_hi _ _ _ _ (by decide)).trans <| BitVec.extractLsb'_eq_self
@[simp] theorem sel222_y (m : BitVec 6) (o : AUForm) (x y z : BitVec 2) : fld (packA m (o.toA (x ++ y ++ z))) 10 2 = y :=
  (ext_hi _ _ _ _ (by decide)).trans <| (ext_hi _ _ _ _ (by decide)).trans <| (ext_hi _ _ _ _ (by decide)).trans <| (ext_in _ _ _ _ (by decide)).trans <| (ext_hi _ _ _ _ (by decide)).trans <| ext_lo _ _
@[simp] theorem sel222_z (m : BitVec 6) (o : AUForm) (x y z : BitVec 2) : fld (packA m (o.toA (x ++ y ++ z))) 8 2 = z :=
  (ext_hi _ _ _ _ (by decide)).trans <| (ext_hi _ _ _ _ (by decide)).trans <| (ext_hi _ _ _ _ (by decide)).trans <| (ext_in _ _ _ _ (by decide)).trans <| ext_lo _ _

@[simp] theorem gopWord_p (m : BitVec 6) (p : BitVec 2) (w x y k : BitVec 4) (g : BitVec 3) (s : Bool) : fld (packA m ⟨p ++ w, 0#2 ++ x, 0#2 ++ y, g, s, k⟩) 24 2 = p :=
  (ext_hi _ _ _ _ (by decide)).trans <| (ext_hi _ _ _ _ (by decide)).trans <| (ext_hi _ _ _ _ (by decide)).trans <| (ext_hi _ _ _ _ (by decide)).trans <| (ext_hi _ _ _ _ (by decide)).trans <| (ext_in _ _ _ _ (by decide)).trans <| (ext_hi _ _ _ _ (by decide)).trans <| BitVec.extractLsb'_eq_self
@[simp] theorem gopWord_w (m : BitVec 6) (p : BitVec 2) (w x y k : BitVec 4) (g : BitVec 3) (s : Bool) : fld (packA m ⟨p ++ w, 0#2 ++ x, 0#2 ++ y, g, s, k⟩) 20 4 = w :=
  (ext_hi _ _ _ _ (by decide)).trans <| (ext_hi _ _ _ _ (by decide)).trans <| (ext_hi _ _ _ _ (by decide)).trans <| (ext_hi _ _ _ _ (by decide)).trans <| (ext_hi _ _ _ _ (by decide)).trans <| (ext_in _ _ _ _ (by decide)).trans <| ext_lo _ _
@[simp] theorem gopWord_x (m : BitVec 6) (p : BitVec 2) (w x y k : BitVec 4) (g : BitVec 3) (s : Bool) : fld (packA m ⟨p ++ w, 0#2 ++ x, 0#2 ++ y, g, s, k⟩) 14 4 = x :=
  (ext_hi _ _ _ _ (by decide)).trans <| (ext_hi _ _ _ _ (by decide)).trans <| (ext_hi _ _ _ _ (by decide)).trans <| (ext_hi _ _ _ _ (by decide)).trans <| (ext_in _ _ _ _ (by decide)).trans <| ext_lo _ _
@[simp] theorem gopWord_y (m : BitVec 6) (p : BitVec 2) (w x y k : BitVec 4) (g : BitVec 3) (s : Bool) : fld (packA m ⟨p ++ w, 0#2 ++ x, 0#2 ++ y, g, s, k⟩) 8 4 = y :=
  (ext_hi _ _ _ _ (by decide)).trans <| (ext_hi _ _ _ _ (by decide)).trans <| (ext_hi _ _ _ _ (by decide)).trans <| (ext_in _ _ _ _ (by decide)).trans <| ext_lo _ _

@[simp] theorem minor132_top (m : BitVec 6) (o : RForm) (x : BitVec 3) (y : BitVec 2) :
    bitAt (packR m o (0b0#1 ++ x ++ y)) 5 = false :=
  (bit_in _ _ _ (by decide)).trans <| (bit_hi _ _ _ (by decide)).trans <| (bit_hi _ _ _ (by decide)).trans rfl
@[simp] theorem absWord_top (e : BitVec 6) : bitAt (0x05#6 ++ e ++ 0#20 : W32) 19 = false :=
  (bit_in _ _ _ (by decide)).trans rfl
@[simp] theorem addWord_top (e : BitVec 6) (b : BitVec 19) : bitAt (0x05#6 ++ e ++ 1#1 ++ b : W32) 19 = true :=
  (bit_hi _ _ _ (by decide)).trans <| (bit_in _ _ _ (by decide)).trans rfl
/-- The minors of adds and cmp are none of the others. -/
theorem minor_ge (k : BitVec 3) (x : BitVec 3) (h : 4 ≤ k.toNat) : 32 ≤ (k ++ x).toNat := by
  rw [BitVec.toNat_append, Nat.shiftLeft_eq]
  exact Nat.le_trans (by omega) Nat.left_le_or
/-- The operations without a row of their own are below 8. -/
theorem op_lt (x : BitVec 3) : (0#1 ++ x).toNat < 8 := by
  rw [BitVec.toNat_append, BitVec.toNat_ofNat, Nat.zero_mod, Nat.zero_shiftLeft, Nat.zero_or]
  exact x.isLt

/-! ## Whole layouts -/

@[simp] theorem unpackR_packR (m : BitVec 6) (o : RForm) (n : BitVec 6) : unpackR (packR m o n) = o := by simp [unpackR]
@[simp] theorem unpackI_packI (m : BitVec 6) (o : IForm) : unpackI (packI m o) = o := by simp [unpackI]
@[simp] theorem unpackB_packB (m : BitVec 6) (o : BForm) : unpackB (packB m o) = o := by simp [unpackB]
@[simp] theorem unpackYR_packYR (u : BitVec 6) (o : RForm) : unpackYR (packYR u o) = o := by simp [unpackYR]
@[simp] theorem unpackYI_packYI (u : BitVec 6) (o : KForm) : unpackYI (packYI u o) = o := by simp [unpackYI]
@[simp] theorem unpackYS_packYS (u : BitVec 6) (o : SForm) (m : BitVec 5) : unpackYS (packYS u o m) = o := by simp [unpackYS]
@[simp] theorem unpackYV_packYV (u : BitVec 6) (o : VForm) : unpackYV (packYV u o) = o := by simp [unpackYV]
@[simp] theorem unpackYT_packYT (u : BitVec 6) (n : BitVec 4) (r : BitVec 2) (o : SForm) : unpackYT (packYT u n r o) = o := by
  simp [unpackYT]
@[simp] theorem unpackG_packG (m : BitVec 6) (o : GForm) : unpackG (packG m o) = o := by simp [unpackG]
@[simp] theorem unpackA_packA (m : BitVec 6) (o : AForm) : unpackA (packA m o) = o := by simp [unpackA]
@[simp] theorem unpackXO_packXO (m : BitVec 6) (o : XOForm) : unpackXO (packXO m o) = o := by simp [unpackXO]

/-! ## Narrow forms -/

@[simp] theorem toU_toR (o : UForm) : o.toR.toU = o := rfl
@[simp] theorem toS_toR (o : SForm) : o.toR.toS = o := rfl
@[simp] theorem toO_toR (o : OForm) : o.toR.toO = o := rfl
@[simp] theorem toO_toS (o : OForm) : o.toS.toO = o := rfl
@[simp] theorem toU_toA (o : AUForm) (b : BitVec 6) : (o.toA b).toU = o := rfl
@[simp] theorem b_toA (o : AUForm) (b : BitVec 6) : (o.toA b).b = b := rfl
@[simp] theorem toH_toI (o : HForm) : o.toI.toH = o := by
  have h : (0#7 ++ o.s).extractLsb' 0 6 = o.s := ext_lo _ _
  cases o
  exact congrArg (HForm.mk _ _ _) h
@[simp] theorem toC_toI (o : CForm) : o.toI.toC = o := by
  have h : (o.c ++ o.i).extractLsb' 10 3 = o.c := (ext_hi _ _ _ _ (by decide)).trans BitVec.extractLsb'_eq_self
  have k : (o.c ++ o.i).extractLsb' 0 10 = o.i := ext_lo _ _
  cases o
  exact congr (congrArg (CForm.mk _ _ _) h) k
@[simp] theorem toX_toI (o : XForm) : o.toI.toX = o := by
  have h : (o.pos ++ o.len ++ BitVec.ofBool o.sgn).extractLsb' 7 6 = o.pos :=
    (ext_hi _ _ _ _ (by decide)).trans <| (ext_hi _ _ _ _ (by decide)).trans BitVec.extractLsb'_eq_self
  have k : (o.pos ++ o.len ++ BitVec.ofBool o.sgn).extractLsb' 1 6 = o.len := (ext_hi _ _ _ _ (by decide)).trans <| ext_lo _ _
  have b : (o.pos ++ o.len ++ BitVec.ofBool o.sgn).getLsbD 0 = o.sgn := bit_lo _ _
  cases o
  exact congr (congr (congrArg (XForm.mk _ _ _) h) k) b

end Sys2Proof
end

