-- ==== Sys2Proof/Laws/Eng.lean ====
section
/-!
SUPPORT. The shared form of a micro-order (moIssue): when it issues, waits or stops its stream, and what taking its tokens
leaves alone (01_machine.md R20, R22, R34; 13_ins_vector.md R285).
-/

set_option Elab.async false

namespace Sys2Proof.Machine

open Sys2Proof.Safety

/-- A micro-order whose tokens are met and whose own conditions hold takes its tokens, has its effect and goes on. -/
theorem moIssue_next {s : State} {k : BitVec 4} {t : Nat} (h : EngineReady s k t) (ask : State → Ask) (eff : State → State)
    (ha : ask (s.popped k) = .ok) : moIssue k t ask eff s = .next (eff (taken s k)).stepOn := by
  simp [moIssue, h.prefx, h.pops, h.room, ha, taken]

/-- One whose conditions say to wait leaves its stream on hold. -/
theorem moIssue_held {s : State} {k : BitVec 4} {t : Nat} (h : EngineReady s k t) (ask : State → Ask) (eff : State → State)
    (ha : ask (s.popped k) = .stall) : moIssue k t ask eff s = .next (held s) := by
  simp [moIssue, h.prefx, h.pops, h.room, ha, held]

/-- One whose conditions find a fault stops its stream. -/
theorem moIssue_fault {s : State} {k : BitVec 4} {t : Nat} {f : EngFault} (h : EngineReady s k t) (ask : State → Ask)
    (eff : State → State) (ha : ask (s.popped k) = .fault f) : moIssue k t ask eff s = .next (s.stopHere f) := by
  simp [moIssue, h.prefx, h.pops, h.room, ha]

/-- One whose prefix, pop bits or token are not met waits. -/
theorem moIssue_waits {s : State} {k : BitVec 4} {t : Nat}
    (h : s.here.prefixMet s.eng = false ∨ s.here.popsMet s.turn.stream k = false ∨ s.here.tokenRoom t = false)
    (ask : State → Ask) (eff : State → State) : moIssue k t ask eff s = .next (held s) := by
  rcases h with h | h | h <;> simp [moIssue, h, held]

/-! ## What taking the prefix and the pop bits leaves alone -/

section
variable (c : Core) (e : Stream) (k : BitVec 4)

@[simp] theorem takePrefix_c : (c.takePrefix e).c = c.c := by unfold Core.takePrefix; split <;> rfl
@[simp] theorem takePrefix_ch : (c.takePrefix e).ch = c.ch := by unfold Core.takePrefix; split <;> rfl
@[simp] theorem takePrefix_cr : (c.takePrefix e).cr = c.cr := by unfold Core.takePrefix; split <;> rfl
@[simp] theorem takePrefix_tr : (c.takePrefix e).tr = c.tr := by unfold Core.takePrefix; split <;> rfl
@[simp] theorem takePrefix_mx : (c.takePrefix e).mx = c.mx := by unfold Core.takePrefix; split <;> rfl
@[simp] theorem takePrefix_pl : (c.takePrefix e).pl = c.pl := by unfold Core.takePrefix; split <;> rfl
@[simp] theorem takePrefix_jobs : (c.takePrefix e).ve.jobs = c.ve.jobs := by unfold Core.takePrefix; split <;> rfl
@[simp] theorem takePrefix_v : (c.takePrefix e).ve.v = c.ve.v := by unfold Core.takePrefix; split <;> rfl
@[simp] theorem takePrefix_g : (c.takePrefix e).ve.g = c.ve.g := by unfold Core.takePrefix; split <;> rfl
@[simp] theorem takePrefix_qs : (c.takePrefix e).ve.qs = c.ve.qs := by unfold Core.takePrefix; split <;> rfl
@[simp] theorem takePrefix_nests : (c.takePrefix e).ve.nests = c.ve.nests := by unfold Core.takePrefix; split <;> rfl
@[simp] theorem takePrefix_ins : (c.takePrefix e).ve.ins = c.ve.ins := by unfold Core.takePrefix; split <;> rfl
@[simp] theorem takePrefix_outs : (c.takePrefix e).ve.outs = c.ve.outs := by unfold Core.takePrefix; split <;> rfl
@[simp] theorem takePrefix_bases : (c.takePrefix e).ve.bases = c.ve.bases := by unfold Core.takePrefix; split <;> rfl
@[simp] theorem takePrefix_old : (c.takePrefix e).ve.old = c.ve.old := by unfold Core.takePrefix; split <;> rfl
@[simp] theorem takePops_c : (c.takePops e k).c = c.c := rfl
@[simp] theorem takePops_ch : (c.takePops e k).ch = c.ch := rfl
@[simp] theorem takePops_cr : (c.takePops e k).cr = c.cr := rfl
@[simp] theorem takePops_tr : (c.takePops e k).tr = c.tr := rfl
@[simp] theorem takePops_mx : (c.takePops e k).mx = c.mx := rfl
@[simp] theorem takePops_pl : (c.takePops e k).pl = c.pl := rfl
theorem linkPop_jobs (x : Vecs) (l : Bool) : (x.linkPop e l).jobs = x.jobs := by cases e <;> cases l <;> rfl
theorem linkPop_v (x : Vecs) (l : Bool) : (x.linkPop e l).v = x.v := by cases e <;> cases l <;> rfl
theorem linkPop_g (x : Vecs) (l : Bool) : (x.linkPop e l).g = x.g := by cases e <;> cases l <;> rfl
theorem linkPop_qs (x : Vecs) (l : Bool) : (x.linkPop e l).qs = x.qs := by cases e <;> cases l <;> rfl
theorem linkPop_nests (x : Vecs) (l : Bool) : (x.linkPop e l).nests = x.nests := by cases e <;> cases l <;> rfl
theorem linkPop_ins (x : Vecs) (l : Bool) : (x.linkPop e l).ins = x.ins := by cases e <;> cases l <;> rfl
theorem linkPop_outs (x : Vecs) (l : Bool) : (x.linkPop e l).outs = x.outs := by cases e <;> cases l <;> rfl
theorem linkPop_bases (x : Vecs) (l : Bool) : (x.linkPop e l).bases = x.bases := by cases e <;> cases l <;> rfl
theorem linkPop_old (x : Vecs) (l : Bool) : (x.linkPop e l).old = x.old := by cases e <;> cases l <;> rfl
@[simp] theorem takePops_jobs : (c.takePops e k).ve.jobs = c.ve.jobs := by
  simp only [Core.takePops]; split <;> split <;> simp only [linkPop_jobs]
@[simp] theorem takePops_v : (c.takePops e k).ve.v = c.ve.v := by
  simp only [Core.takePops]; split <;> split <;> simp only [linkPop_v]
@[simp] theorem takePops_g : (c.takePops e k).ve.g = c.ve.g := by
  simp only [Core.takePops]; split <;> split <;> simp only [linkPop_g]
@[simp] theorem takePops_qs : (c.takePops e k).ve.qs = c.ve.qs := by
  simp only [Core.takePops]; split <;> split <;> simp only [linkPop_qs]
@[simp] theorem takePops_nests : (c.takePops e k).ve.nests = c.ve.nests := by
  simp only [Core.takePops]; split <;> split <;> simp only [linkPop_nests]
@[simp] theorem takePops_ins : (c.takePops e k).ve.ins = c.ve.ins := by
  simp only [Core.takePops]; split <;> split <;> simp only [linkPop_ins]
@[simp] theorem takePops_outs : (c.takePops e k).ve.outs = c.ve.outs := by
  simp only [Core.takePops]; split <;> split <;> simp only [linkPop_outs]
@[simp] theorem takePops_bases : (c.takePops e k).ve.bases = c.ve.bases := by
  simp only [Core.takePops]; split <;> split <;> simp only [linkPop_bases]
@[simp] theorem takePops_old : (c.takePops e k).ve.old = c.ve.old := by
  simp only [Core.takePops]; split <;> split <;> simp only [linkPop_old]

end

/-! ## The state that a micro-order finds its operands in -/

section
variable (s : State) (k : BitVec 4)

@[simp] theorem popped_c : (s.popped k).here.c = s.here.c := by simp [State.popped]
@[simp] theorem popped_ch : (s.popped k).here.ch = s.here.ch := by simp [State.popped]
@[simp] theorem popped_cr : (s.popped k).here.cr = s.here.cr := by simp [State.popped]
@[simp] theorem popped_tr : (s.popped k).here.tr = s.here.tr := by simp [State.popped]
@[simp] theorem popped_mx : (s.popped k).here.mx = s.here.mx := by simp [State.popped]
@[simp] theorem popped_pl : (s.popped k).here.pl = s.here.pl := by simp [State.popped]
@[simp] theorem popped_jobs : (s.popped k).here.ve.jobs = s.here.ve.jobs := by simp [State.popped]
@[simp] theorem popped_v : (s.popped k).here.ve.v = s.here.ve.v := by simp [State.popped]
@[simp] theorem popped_g : (s.popped k).here.ve.g = s.here.ve.g := by simp [State.popped]
@[simp] theorem popped_qs : (s.popped k).here.ve.qs = s.here.ve.qs := by simp [State.popped]
@[simp] theorem popped_nests : (s.popped k).here.ve.nests = s.here.ve.nests := by simp [State.popped]
@[simp] theorem popped_ins : (s.popped k).here.ve.ins = s.here.ve.ins := by simp [State.popped]
@[simp] theorem popped_outs : (s.popped k).here.ve.outs = s.here.ve.outs := by simp [State.popped]
@[simp] theorem popped_bases : (s.popped k).here.ve.bases = s.here.ve.bases := by simp [State.popped]
@[simp] theorem popped_old : (s.popped k).here.ve.old = s.here.ve.old := by simp [State.popped]
@[simp] theorem popped_mem : (s.popped k).mem = s.mem := rfl
@[simp] theorem popped_beat : (s.popped k).beat = s.beat := rfl
@[simp] theorem popped_turn : (s.popped k).turn = s.turn := rfl
@[simp] theorem popped_nextId : (s.popped k).nextId = s.nextId := rfl
@[simp] theorem popped_accs : (s.popped k).accs = s.accs := rfl
@[simp] theorem popped_tasks : (s.popped k).tasks = s.tasks := rfl
@[simp] theorem popped_dies : (s.popped k).dies = s.dies := rfl
@[simp] theorem popped_owners : (s.popped k).owners = s.owners := rfl
@[simp] theorem popped_placing : (s.popped k).placing = s.placing := rfl
@[simp] theorem popped_free : (s.popped k).free = s.free := rfl
theorem popped_other (n : Nat) (h : n ≠ s.turn.core) : (s.popped k).coreAt n = s.coreAt n := onHere_other s _ n h
@[simp] theorem popped_baseHere (b : Nat) : (s.popped k).baseHere b = s.baseHere b := by simp [State.baseHere]

end

/-! ## The state in which a micro-order acts -/

section
variable (s : State) (k : BitVec 4)

@[simp] theorem taken_c : (taken s k).here.c = s.here.c := by simp [taken]
@[simp] theorem taken_ch : (taken s k).here.ch = s.here.ch := by simp [taken]
@[simp] theorem taken_cr : (taken s k).here.cr = s.here.cr := by simp [taken]
@[simp] theorem taken_tr : (taken s k).here.tr = s.here.tr := by simp [taken]
@[simp] theorem taken_mx : (taken s k).here.mx = s.here.mx := by simp [taken]
@[simp] theorem taken_pl : (taken s k).here.pl = s.here.pl := by simp [taken]
@[simp] theorem taken_jobs : (taken s k).here.ve.jobs = s.here.ve.jobs := by simp [taken]
@[simp] theorem taken_v : (taken s k).here.ve.v = s.here.ve.v := by simp [taken]
@[simp] theorem taken_g : (taken s k).here.ve.g = s.here.ve.g := by simp [taken]
@[simp] theorem taken_qs : (taken s k).here.ve.qs = s.here.ve.qs := by simp [taken]
@[simp] theorem taken_nests : (taken s k).here.ve.nests = s.here.ve.nests := by simp [taken]
@[simp] theorem taken_ins : (taken s k).here.ve.ins = s.here.ve.ins := by simp [taken]
@[simp] theorem taken_outs : (taken s k).here.ve.outs = s.here.ve.outs := by simp [taken]
@[simp] theorem taken_bases : (taken s k).here.ve.bases = s.here.ve.bases := by simp [taken]
@[simp] theorem taken_old : (taken s k).here.ve.old = s.here.ve.old := by simp [taken]
@[simp] theorem taken_mem : (taken s k).mem = s.mem := rfl
@[simp] theorem taken_beat : (taken s k).beat = s.beat := rfl
@[simp] theorem taken_turn : (taken s k).turn = s.turn := rfl
@[simp] theorem taken_nextId : (taken s k).nextId = s.nextId := rfl
@[simp] theorem taken_accs : (taken s k).accs = s.accs := rfl
@[simp] theorem taken_tasks : (taken s k).tasks = s.tasks := rfl
@[simp] theorem taken_dies : (taken s k).dies = s.dies := rfl
@[simp] theorem taken_owners : (taken s k).owners = s.owners := rfl
@[simp] theorem taken_placing : (taken s k).placing = s.placing := rfl
@[simp] theorem taken_free : (taken s k).free = s.free := rfl
theorem taken_other (n : Nat) (h : n ≠ s.turn.core) : (taken s k).coreAt n = s.coreAt n := onHere_other s _ n h
@[simp] theorem taken_baseHere (b : Nat) : (taken s k).baseHere b = s.baseHere b := by simp [State.baseHere]

end
end Sys2Proof.Machine
end

