-- ==== Sys2Proof/Laws/Lanes.lean ====
section
/-!
SUPPORT. The lanes of a vector: what lanesOf reads, what ofLanes builds, and what the result of a lane-wise operation holds
in a lane (01_machine.md R26).
-/

set_option Elab.async false

namespace Sys2Proof.Machine

theorem foldLanes_lt (w : Nat) (l : List Nat) : l.foldr (fun v n => v % 2 ^ w + 2 ^ w * n) 0 < 2 ^ (w * l.length) := by
  induction l with
  | nil => simp
  | cons a t ih =>
    simp only [List.foldr_cons, List.length_cons, Nat.mul_succ, Nat.pow_add]
    have h1 : a % 2 ^ w < 2 ^ w := Nat.mod_lt _ (by positivity)
    have := Nat.mul_le_mul_left (2 ^ w) (Nat.succ_le_of_lt ih)
    rw [Nat.mul_comm (2 ^ (w * t.length))]
    simp only [Nat.succ_eq_add_one, Nat.mul_add] at this
    omega

theorem foldLanes_get (w : Nat) (l : List Nat) (m : Nat) (h : m < l.length) :
    l.foldr (fun v n => v % 2 ^ w + 2 ^ w * n) 0 / 2 ^ (w * m) % 2 ^ w = l.getD m 0 % 2 ^ w := by
  induction l generalizing m with
  | nil => simp at h
  | cons a t ih =>
    have hp : 0 < 2 ^ w := by positivity
    simp only [List.foldr_cons]
    cases m with
    | zero => simp
    | succ m =>
      have e : w * (m + 1) = w + w * m := by rw [Nat.mul_succ, Nat.add_comm]
      rw [e, Nat.pow_add, ← Nat.div_div_eq_div_mul, Nat.add_mul_div_left _ _ hp, Nat.div_eq_of_lt (Nat.mod_lt _ hp),
        Nat.zero_add, ih m (by simpa using h)]
      simp

theorem bitsOf_eq {n : Nat} (x : BitVec n) (lo w : Nat) : bitsOf x lo w = x.toNat / 2 ^ lo % 2 ^ w := by
  simp [bitsOf, BitVec.extractLsb'_toNat, Nat.shiftRight_eq_div_pow]

theorem toNat_ofNat_lt {k n : Nat} (h : n < 2 ^ k) : (BitVec.ofNat k n).toNat = n := by
  rw [BitVec.toNat_ofNat, Nat.mod_eq_of_lt h]

/-- Lane m of a vector built from lanes is the m-th of them, modulo the lane. -/
theorem bitsOf_ofLanes (w : Nat) (l : List Nat) (m : Nat) (h : m < l.length) (hw : w * l.length ≤ 2048) :
    bitsOf (ofLanes w l) (w * m) w = l.getD m 0 % 2 ^ w := by
  have h1 := Nat.lt_of_lt_of_le (foldLanes_lt w l) (Nat.pow_le_pow_right (by omega) hw)
  rw [bitsOf_eq, ofLanes, toNat_ofNat_lt h1, foldLanes_get w l m h]

theorem lanesOf_length (w : Nat) (x : Vec) : (lanesOf w x).length = 2048 / w := by simp [lanesOf]

theorem lanesOf_getD (w : Nat) (x : Vec) (m : Nat) (h : m < 2048 / w) :
    (lanesOf w x).getD m 0 = bitsOf x.data (w * m) w := by
  simp [lanesOf, h]

theorem bit_le_or {n : Nat} {a b c : BitVec n} (h : a &&& ~~~c = 0) (hb : c &&& ~~~b = 0) : a &&& ~~~b = 0 := by
  apply BitVec.eq_of_getLsbD_eq
  intro i hi
  have h1 := congrArg (·.getLsbD i) h
  have h2 := congrArg (·.getLsbD i) hb
  simp [hi] at h1 h2 ⊢
  cases a.getLsbD i <;> cases b.getLsbD i <;> cases hc : c.getLsbD i <;> simp_all

/-- The flags of all lanes together hold the flags of each. -/
theorem foldFlags (l : List (Nat × Flags)) (a : Flags) :
    a &&& ~~~(l.foldl (fun a e => a ||| e.2) a) = 0 ∧ ∀ e ∈ l, e.2 &&& ~~~(l.foldl (fun a e => a ||| e.2) a) = 0 := by
  induction l generalizing a with
  | nil => simp
  | cons x t ih =>
    have h := ih (a ||| x.2)
    simp only [List.foldl_cons, List.mem_cons, forall_eq_or_imp]
    have hl : a &&& ~~~(a ||| x.2) = 0 := by apply BitVec.eq_of_getLsbD_eq; intro i hi; simp [hi]; grind
    have hr : x.2 &&& ~~~(a ||| x.2) = 0 := by
      apply BitVec.eq_of_getLsbD_eq; intro i hi; simp [hi]; grind
    exact ⟨bit_le_or hl h.1, bit_le_or hr h.1, h.2⟩

/-- The tag of a uniform vector in each quarter. -/
theorem quarter_tags4 (d : BitVec 2048) (t : Tag) (q : Nat) (h : q < 4) : (Vec.quarter ⟨d, tags4 t⟩ q).tag = t := by
  apply BitVec.eq_of_getLsbD_eq
  intro i hi
  have : q = 0 ∨ q = 1 ∨ q = 2 ∨ q = 3 := by omega
  rcases this with rfl | rfl | rfl | rfl <;>
    simp [Vec.quarter, tags4, hi] <;> grind

/-- What a result made lane by lane holds. -/
theorem laneRes_spec (f : Sfx) (l : List (Nat × Flags)) (hl : f.w * l.length ≤ 2048) : ∃ x fl, laneRes f l = .ok (x, fl, []) ∧
    (∀ m, m < l.length → bitsOf x.data (f.w * m) f.w = (l.getD m (0, 0)).1 % 2 ^ f.w) ∧
    (∀ e ∈ l, e.2 &&& ~~~fl = 0) ∧ ∀ q, q < 4 → (x.quarter q).tag = f.tag := by
  refine ⟨_, _, rfl, fun m hm => ?_, (foldFlags l 0).2, fun q hq => quarter_tags4 _ _ q hq⟩
  rw [bitsOf_ofLanes _ _ _ (by simpa using hm) (by simpa using hl)]
  simp [hm]

end Sys2Proof.Machine
end

