-- ==== Sys2Proof/Laws/Mem.lean ====
section
/-!
SUPPORT. Laws of storage: reads after writes, and the canonical form, which every operation on storage keeps.
-/

set_option Elab.async false

namespace Sys2Proof.Machine

open Sys2Proof.Safety

/-! ## Little-endian bytes -/

@[simp] theorem leBytes_length (v n : Nat) : (leBytes v n).length = n := by
  induction n generalizing v with
  | zero => rfl
  | succ n ih => simp [leBytes, ih]

/-- The bytes of a value, read back, are the value's low bytes (R4). -/
theorem leNat_leBytes (v n : Nat) : leNat (leBytes v n) = v % 256 ^ n := by
  induction n generalizing v with
  | zero => simp [leBytes, leNat, Nat.mod_one]
  | succ n ih =>
    simp only [leBytes, leNat, ih, BitVec.toNat_ofNat]
    rw [show (256 : Nat) ^ (n + 1) = 256 * 256 ^ n by rw [Nat.pow_succ, Nat.mul_comm], Nat.mod_mul]

theorem upFrom_length (a n : Nat) : (upFrom a n).length = n := by
  induction n generalizing a with
  | zero => rfl
  | succ n ih => simp [upFrom, ih]

/-- A run of keys just written reads as the values written. -/
theorem mgetList_msetList {α : Type} [DecidableEq α] (d : α) (vs : List α) (m : SMap α) (k : Nat) :
    mgetList d (msetList d m k vs) k vs.length = vs := by
  induction vs generalizing m k with
  | nil => rfl
  | cons v t ih =>
    have h0 := mget_msetList_in d (v :: t) m k 0 (by simp)
    simp only [Nat.add_zero, List.getD_cons_zero] at h0
    have h1 := ih (mset d m k v) (k + 1)
    simp only [mgetList, msetList] at h1 ⊢
    simp only [List.length_cons, upFrom, List.map_cons, h1]
    exact congrArg (· :: t) h0

/-! ## Reads after writes -/

@[simp] theorem byte_setByte_same (m : Mem) (a : Nat) (b : Byte) : (m.setByte a b).byte a = b := by simp [Mem.byte, Mem.setByte]
theorem byte_setByte_other (m : Mem) {a c : Nat} (b : Byte) (h : c ≠ a) : (m.setByte a b).byte c = m.byte c := by
  simpa [Mem.byte, Mem.setByte] using mget_mset_other 0 m.bytes b h

/-- Bytes just written read back. -/
theorem read_write (m : Mem) (a : Nat) (bs : List Byte) : (m.write a bs).read a bs.length = bs :=
  mgetList_msetList 0 bs m.bytes a
/-- A write of bytes leaves every other byte alone. -/
theorem byte_write_out (m : Mem) (a c : Nat) (bs : List Byte) (h : c < a ∨ a + bs.length ≤ c) :
    (m.write a bs).byte c = m.byte c := mget_msetList_out 0 bs m.bytes a c h

/-- A block written leaves every byte of another block alone (R70). -/
theorem byte_putBlk_out (m : Mem) (key : BitVec 512) (b : Nat) (x : Blk) (c : Nat) (h : c / 64 ≠ b) :
    (m.putBlk key b x).byte c = m.byte c :=
  mget_msetList_out 0 _ m.bytes _ c (by rw [leBytes_length]; omega)
/-- A block just written holds the value written, with its tag (R70). -/
theorem rawBlk_putBlk (m : Mem) (key : BitVec 512) (b : Nat) (x : Blk) : (m.putBlk key b x).rawBlk b = x := by
  have h := mgetList_msetList (0 : Byte) (leBytes x.data.toNat 64) m.bytes (64 * b)
  rw [leBytes_length] at h
  have hd : BitVec.ofNat 512 (leNat (leBytes x.data.toNat 64)) = x.data := by
    apply BitVec.eq_of_toNat_eq
    rw [BitVec.toNat_ofNat, leNat_leBytes, show (256 : Nat) = 2 ^ 8 from rfl, ← Nat.pow_mul, Nat.mod_mod]
    exact Nat.mod_eq_of_lt x.data.isLt
  simp only [Mem.rawBlk, Mem.read, Mem.putBlk, h, hd, mget_mset_same]
/-- A block written under a key reads under that key as what was written (R115). -/
theorem blkUnder_putBlk (m : Mem) (key : BitVec 512) (b : Nat) (x : Blk) : (m.putBlk key b x).blkUnder key b = x := by
  cases hb : isScrBlk b <;> simp [Mem.blkUnder, rawBlk_putBlk, hb] <;> intro h <;> simp [Mem.putBlk, Mem.keyAt, hb] at h
/-- Bytes written into a block leave every byte of another block alone (R70). -/
theorem byte_patchBlk_out (m : Mem) (key : BitVec 512) (b k n v c : Nat) (h : c / 64 ≠ b) :
    (m.patchBlk key b k n v).byte c = m.byte c :=
  mget_msetList_out 0 _ m.bytes _ c (by rw [leBytes_length]; omega)
/-- Bytes written into a block leave every tag alone (R70). -/
@[simp] theorem patchBlk_tags (m : Mem) (key : BitVec 512) (b k n v : Nat) : (m.patchBlk key b k n v).tags = m.tags := rfl

/-! ## The canonical form -/

theorem memoryWf_iff (m : Mem) : Memory.wf m = true ↔
    mwf 0 m.bytes = true ∧ mwf 0 m.tags = true ∧ mwf none m.keys = true ∧ mwf false m.bad = true ∧ mwf false m.valid = true ∧
      mwf false m.dirty = true ∧ mwf none m.tweaks = true := by
  simp only [Memory.wf, Bool.and_eq_true]
  exact ⟨fun ⟨⟨⟨⟨⟨⟨a, b⟩, c⟩, d⟩, e⟩, f⟩, g⟩ => ⟨a, b, c, e, f, g, d⟩, fun ⟨a, b, c, e, f, g, d⟩ => ⟨⟨⟨⟨⟨⟨a, b⟩, c⟩, d⟩, e⟩, f⟩, g⟩⟩

/-- Storage at reset is canonical: nothing is listed. -/
theorem memoryWf_reset : Memory.wf State.reset.mem = true := rfl

theorem memoryWf_setByte (m : Mem) (a : Nat) (b : Byte) (h : Memory.wf m = true) : Memory.wf (m.setByte a b) = true := by
  rw [memoryWf_iff] at h ⊢; exact ⟨mwf_mset 0 _ _ _ h.1, h.2⟩

theorem memoryWf_write (m : Mem) (a : Nat) (bs : List Byte) (h : Memory.wf m = true) : Memory.wf (m.write a bs) = true := by
  rw [memoryWf_iff] at h ⊢; exact ⟨mwf_msetList 0 _ _ _ h.1, h.2⟩

theorem mwf_ite {α : Type} [DecidableEq α] {d : α} {c : Prop} [Decidable c] {m n : SMap α} (hm : mwf d m = true) (hn : mwf d n = true) :
    mwf d (if c then m else n) = true := by split <;> assumption

theorem memoryWf_putBlk (m : Mem) (key : BitVec 512) (b : Nat) (x : Blk) (h : Memory.wf m = true) :
    Memory.wf (m.putBlk key b x) = true := by
  rw [memoryWf_iff] at h ⊢
  obtain ⟨h1, h2, h3, h4, h5, h6, h7⟩ := h
  exact ⟨mwf_msetList 0 _ _ _ h1, mwf_mset 0 _ _ _ h2, mwf_ite h3 (mwf_mset _ _ _ _ h3), mwf_mset false m.bad b false h4,
    mwf_ite (mwf_msetList _ _ _ _ h5) h5, mwf_ite (mwf_mset _ _ _ _ h6) h6, mwf_ite h7 (mwf_mset none _ _ none h7)⟩

/-- Setting keys one by one keeps the canonical form. -/
theorem mwf_foldSet {α : Type} [DecidableEq α] (d v : α) (ks : List Nat) (m : SMap α) (h : mwf d m = true) :
    mwf d (ks.foldl (fun m k => mset d m k v) m) = true := by
  induction ks generalizing m with
  | nil => exact h
  | cons k t ih => exact ih _ (mwf_mset d m k v h)

theorem memoryWf_patchBlk (m : Mem) (key : BitVec 512) (b k n v : Nat) (h : Memory.wf m = true) :
    Memory.wf (m.patchBlk key b k n v) = true := by
  rw [memoryWf_iff] at h ⊢
  obtain ⟨h1, h2, h3, h4, h5, h6, h7⟩ := h
  exact ⟨mwf_msetList 0 _ _ _ h1, h2, mwf_ite h3 (mwf_mset _ _ _ _ h3), h4, mwf_ite (mwf_foldSet _ _ _ _ h5) h5,
    mwf_ite (mwf_mset _ _ _ _ h6) h6, mwf_ite h7 (mwf_mset none _ _ none h7)⟩

theorem memoryWf_takeDirty (m : Mem) (l : Loc) (h : Memory.wf m = true) : Memory.wf (m.takeDirty l).2 = true := by
  cases l with
  | hbm p =>
    rw [memoryWf_iff] at h ⊢
    exact ⟨h.1, h.2.1, h.2.2.1, h.2.2.2.1, h.2.2.2.2.1, mwf_mset false m.dirty (p / 4096) false h.2.2.2.2.2.1,
      h.2.2.2.2.2.2⟩
  | _ => exact h

/-! ## Slices of tables -/

section
variable {α : Type} [DecidableEq α] (d : α)

theorem tableIn_iff (n : Nat) (m : SMap α) : tableIn d n m = true ↔ mwf d m = true ∧ ∀ e ∈ m, e.1 < n := by
  simp [tableIn]

theorem tableIn_nil (n : Nat) : tableIn d n ([] : SMap α) = true := rfl

/-- Two canonical tables, the keys of the first below those of the second, make a canonical table. -/
theorem mwf_append (a b : SMap α) (ha : mwf d a = true) (hb : mwf d b = true) (h : ∀ x ∈ a, ∀ y ∈ b, x.1 < y.1) :
    mwf d (a ++ b) = true := by
  induction a with
  | nil => exact hb
  | cons e t ih =>
    obtain ⟨j, w⟩ := e
    rw [mwf_cons] at ha
    rw [List.cons_append, mwf_cons]
    refine ⟨ha.1, fun x hx => ?_, ih ha.2.2 fun x hx => h x (List.mem_cons_of_mem _ hx)⟩
    rcases List.mem_append.1 hx with hx | hx
    · exact ha.2.1 x hx
    · exact h _ (List.mem_cons_self ..) x hx

/-- Keys moved up keep the canonical form. -/
theorem mwf_up (m : SMap α) (lo : Nat) (h : mwf d m = true) : mwf d (m.map fun e => (e.1 + lo, e.2)) = true := by
  induction m with
  | nil => rfl
  | cons e t ih =>
    obtain ⟨j, w⟩ := e
    rw [mwf_cons] at h
    rw [List.map_cons, mwf_cons]
    refine ⟨h.1, fun x hx => ?_, ih h.2.2⟩
    obtain ⟨y, hy, rfl⟩ := List.mem_map.1 hx
    exact Nat.add_lt_add_right (h.2.1 y hy) lo

/-- Keys moved down from lo keep the canonical form. -/
theorem mwf_down (m : SMap α) (lo : Nat) (h : mwf d m = true) (hl : ∀ e ∈ m, lo ≤ e.1) :
    mwf d (m.map fun e => (e.1 - lo, e.2)) = true := by
  induction m with
  | nil => rfl
  | cons e t ih =>
    obtain ⟨j, w⟩ := e
    rw [mwf_cons] at h
    rw [List.map_cons, mwf_cons]
    refine ⟨h.1, fun x hx => ?_, ih h.2.2 fun x hx => hl x (List.mem_cons_of_mem _ hx)⟩
    obtain ⟨y, hy, rfl⟩ := List.mem_map.1 hx
    have h1 := h.2.1 y hy
    have h2 := hl (j, w) (List.mem_cons_self ..)
    show j - lo < y.1 - lo
    have h3 : lo ≤ j := h2
    omega

/-- A slice of a canonical table is canonical, with keys below its length. -/
theorem tableIn_mslice (m : SMap α) (lo n : Nat) (h : mwf d m = true) : tableIn d n (mslice m lo n) = true := by
  rw [tableIn_iff]
  have hin : ∀ e ∈ m.filter (fun e => lo ≤ e.1 && e.1 < lo + n), lo ≤ e.1 ∧ e.1 < lo + n := fun e he => by
    simpa using (List.mem_filter.1 he).2
  refine ⟨mwf_down d _ lo (mwf_filter d m _ h) fun e he => (hin e he).1, fun e he => ?_⟩
  obtain ⟨y, hy, rfl⟩ := List.mem_map.1 he
  have := hin y hy
  show y.1 - lo < n
  omega

/-- A slice put into a canonical table leaves it canonical. -/
theorem mwf_msplice (m : SMap α) (lo n : Nat) (x : SMap α) (h : mwf d m = true) (hx : tableIn d n x = true) :
    mwf d (msplice m lo n x) = true := by
  rw [tableIn_iff] at hx
  unfold msplice
  have hlo : ∀ e ∈ m.filter (fun e => e.1 < lo), e.1 < lo := fun e he => by simpa using (List.mem_filter.1 he).2
  have hhi : ∀ e ∈ m.filter (fun e => lo + n ≤ e.1), lo + n ≤ e.1 := fun e he => by simpa using (List.mem_filter.1 he).2
  have hmid : ∀ e ∈ x.map (fun e => (e.1 + lo, e.2)), lo ≤ e.1 ∧ e.1 < lo + n := fun e he => by
    obtain ⟨y, hy, rfl⟩ := List.mem_map.1 he
    have := hx.2 y hy
    constructor
    · exact Nat.le_add_left ..
    · show y.1 + lo < lo + n; omega
  refine mwf_append d _ _ (mwf_append d _ _ (mwf_filter d m _ h) (mwf_up d x lo hx.1) fun a ha b hb => ?_)
    (mwf_filter d m _ h) fun a ha b hb => ?_
  · exact Nat.lt_of_lt_of_le (hlo a ha) (hmid b hb).1
  · have hb' := hhi b hb
    rcases List.mem_append.1 ha with ha | ha
    · have := hlo a ha; omega
    · have := (hmid a ha).2; omega

theorem tableIn_ite {n : Nat} {c : Prop} [Decidable c] {a b : SMap α} (ha : tableIn d n a = true) (hb : tableIn d n b = true) :
    tableIn d n (if c then a else b) = true := by split <;> assumption

end

/-! ## Rows -/

theorem mem_mset {α : Type} [DecidableEq α] (d : α) (m : SMap α) (k : Nat) (v : α) (e : Nat × α) (h : e ∈ mset d m k v) :
    e = (k, v) ∨ e ∈ m := by
  unfold mset at h
  split at h
  · exact .inr (mdel_sub m k e h)
  · exact (mem_mput _ k v e h).imp id (mdel_sub m k e)

/-- Keys below n set one by one keep a table canonical, with its keys below n. -/
theorem tableIn_foldSet {α : Type} [DecidableEq α] (d : α) (n : Nat) (f : Nat → α) (ks : List Nat) (m : SMap α)
    (h : tableIn d n m = true) (hk : ∀ k ∈ ks, k < n) : tableIn d n (ks.foldl (fun m k => mset d m k (f k)) m) = true := by
  induction ks generalizing m with
  | nil => exact h
  | cons k t ih =>
    refine ih _ ?_ fun x hx => hk x (List.mem_cons_of_mem _ hx)
    rw [tableIn_iff] at h ⊢
    refine ⟨mwf_mset d m k _ h.1, fun e he => ?_⟩
    rcases mem_mset d m k _ e he with rfl | he
    · exact hk k (List.mem_cons_self ..)
    · exact h.2 e he

/-- The keys of a granule's blocks, those of a run among them, are canonical. -/
theorem tableIn_rowKeys (m : Mem) (g : Nat) : tableIn none 64 (m.rowKeys g) = true :=
  tableIn_foldSet none 64 _ _ _ rfl fun _ hk => List.mem_range.1 hk

/-- The row that a granule of canonical storage holds is canonical. -/
theorem rowWf_rowOf (m : Mem) (g : Nat) (h : Memory.wf m = true) : rowWf (m.rowOf g) = true := by
  rw [memoryWf_iff] at h
  simp only [rowWf, Bool.and_eq_true]
  exact ⟨⟨⟨⟨tableIn_mslice 0 m.bytes _ _ h.1, tableIn_mslice 0 m.tags _ _ h.2.1⟩, tableIn_rowKeys m g⟩,
    tableIn_mslice none m.tweaks _ _ h.2.2.2.2.2.2⟩, tableIn_mslice false m.bad _ _ h.2.2.2.1⟩

/-- The tweaks of a row, as another granule tells them, are canonical. -/
theorem tableIn_tweaksAt (r : Row) (g : Nat) : tableIn none 64 (r.tweaksAt g) = true :=
  tableIn_foldSet none 64 _ _ _ rfl fun _ hk => List.mem_range.1 hk

/-- A canonical row placed in canonical storage leaves it canonical. -/
theorem memoryWf_putRow (m : Mem) (g : Nat) (r : Row) (h : Memory.wf m = true) (hr : rowWf r = true) :
    Memory.wf (m.putRow g r) = true := by
  rw [memoryWf_iff] at h ⊢
  simp only [rowWf, Bool.and_eq_true] at hr
  obtain ⟨h1, h2, h3, h4, h5, h6, h7⟩ := h
  obtain ⟨⟨⟨⟨r1, r2⟩, r3⟩, -⟩, r5⟩ := hr
  exact ⟨mwf_msplice 0 _ _ _ _ h1 r1, mwf_msplice 0 _ _ _ _ h2 r2, mwf_msplice none _ _ _ _ h3 r3,
    mwf_msplice false _ _ _ _ h4 r5, h5, mwf_mset _ _ _ _ h6, mwf_msplice none _ _ _ _ h7 (tableIn_tweaksAt r g)⟩

/-! ## Storage of the package -/

/-- A change of the memory that keeps its form keeps all storage canonical. -/
theorem canonical_onMem (s : State) (f : Mem → Mem) (hf : Memory.wf (f s.mem) = true) : Canonical (s.onMem f) :=
  hf

/-! ## Runs of blocks and bytes -/

/-- A slice put into a table whose keys lie below n leaves them there, and the table canonical. -/
theorem tableIn_msplice {α : Type} [DecidableEq α] (d : α) (m : SMap α) (lo k n : Nat) (x : SMap α) (h : tableIn d n m = true)
    (hx : tableIn d k x = true) (hn : lo + k ≤ n) : tableIn d n (msplice m lo k x) = true := by
  rw [tableIn_iff]
  refine ⟨mwf_msplice d m lo k x ((tableIn_iff d n m).1 h).1 hx, fun e he => ?_⟩
  unfold msplice at he
  have hm := ((tableIn_iff d n m).1 h).2
  have hk := ((tableIn_iff d k x).1 hx).2
  rcases List.mem_append.1 he with he | he
  · rcases List.mem_append.1 he with he | he
    · exact hm e (List.mem_filter.1 he).1
    · obtain ⟨y, hy, rfl⟩ := List.mem_map.1 he
      have := hk y hy
      show y.1 + lo < n
      omega
  · exact hm e (List.mem_filter.1 he).1

/-- Bytes put into a table of n bytes one by one leave it canonical. -/
theorem tableIn_cellTable (n : Nat) (l : List (Nat × Byte)) : tableIn 0 n (cellTable n l) = true := by
  unfold cellTable
  suffices h : ∀ m : List Host.Cell, tableIn 0 n m = true →
      tableIn 0 n (l.foldl (fun m e => if e.1 < n then mset 0 m e.1 (mget 0 m e.1 ||| e.2) else m) m) = true from h [] rfl
  induction l with
  | nil => exact fun _ h => h
  | cons e t ih =>
    refine fun m h => ih _ ?_
    dsimp only
    split
    · rw [tableIn_iff] at h ⊢
      refine ⟨mwf_mset 0 m _ _ h.1, fun x hx => ?_⟩
      rcases mem_mset 0 m _ _ x hx with rfl | hx
      · assumption
      · exact h.2 x hx
    · exact h

/-- The bytes of a run of blocks of canonical storage, as a key reads them, are canonical. -/
theorem tableIn_areaBytes (m : Mem) (key : BitVec 512) (lo n : Nat) (h : Memory.wf m = true) :
    tableIn 0 (64 * n) (m.areaBytes key lo n) = true := by
  unfold Mem.areaBytes
  dsimp only
  split
  · exact tableIn_mslice 0 _ _ _ ((memoryWf_iff m).1 h).1
  · exact tableIn_cellTable _ _

/-- A run of blocks written whole leaves canonical storage canonical (R70). -/
theorem memoryWf_putArea (m : Mem) (key : BitVec 512) (lo n : Nat) (cells : List Host.Cell) (h : Memory.wf m = true)
    (hc : tableIn 0 (64 * n) cells = true) : Memory.wf (m.putArea key lo n cells) = true := by
  rw [memoryWf_iff] at h ⊢
  obtain ⟨h1, h2, h3, h4, h5, h6, h7⟩ := h
  have hd (k : Nat) : tableIn false k ((List.range k).map fun g => (g, true)) = true := by
    rw [tableIn_iff]
    refine ⟨?_, fun e he => ?_⟩
    · induction k with
      | zero => rfl
      | succ k ih =>
        rw [List.range_succ, List.map_append]
        refine mwf_append _ _ _ ih rfl fun x hx y hy => ?_
        obtain ⟨i, hi, rfl⟩ := List.mem_map.1 hx
        simp at hy
        subst hy
        exact List.mem_range.1 hi
    · obtain ⟨i, hi, rfl⟩ := List.mem_map.1 he
      exact List.mem_range.1 hi
  exact ⟨mwf_msplice 0 _ _ _ _ h1 hc, mwf_mclear 0 _ _ _ h2, mwf_mclear none _ _ _ h3, mwf_mclear false _ _ _ h4, h5,
    mwf_msplice false _ _ _ _ h6 (hd _), mwf_mclear none _ _ _ h7⟩

/-- A row of canonical storage is canonical. -/
theorem rowWf_rowAt (s : State) (h r : Nat) (hc : Canonical s) : rowWf (s.rowAt h r) = true :=
  rowWf_rowOf _ _ hc

/-- A canonical row put into canonical storage leaves it canonical. -/
theorem canonical_setRow (s : State) (h r : Nat) (x : Row) (hc : Canonical s) (hx : rowWf x = true) :
    Canonical (s.setRow h r x) :=
  canonical_onMem s _ (memoryWf_putRow _ _ _ hc hx)

/-- Copied rows leave canonical storage canonical. -/
theorem canonical_copyRows (k : Nat) (s : State) (hs rs hd rd : Nat) (hc : Canonical s) :
    Canonical (s.copyRows hs rs hd rd k).1 := by
  induction k generalizing s rs rd with
  | zero => exact hc
  | succ k ih =>
    unfold State.copyRows
    dsimp only
    split
    · exact hc
    · exact ih _ _ _ (canonical_setRow s hd rd _ hc (rowWf_rowAt s hs rs hc))

/-- Rows placed one by one leave canonical storage canonical. -/
theorem canonical_foldRows (l : List (Nat × Nat × Row)) (s : State) (hc : Canonical s) (hl : ∀ e ∈ l, rowWf e.2.2 = true) :
    Canonical (l.foldl (fun u e => u.setRow e.1 e.2.1 e.2.2) s) := by
  induction l generalizing s with
  | nil => exact hc
  | cons e t ih =>
    exact ih _ (canonical_setRow s _ _ _ hc (hl e (List.mem_cons_self ..))) fun x hx => hl x (List.mem_cons_of_mem _ hx)

/-- A table without its entries of HBM is canonical as it was. -/
theorem mwf_clearHbm {α : Type} [DecidableEq α] (d : α) (k : Nat) (m : SMap α) (h : mwf d m = true) : mwf d (clearHbm k m) = true :=
  mwf_mclear d _ _ _ (mwf_mclear d _ _ _ h)

/-- New active tables keep all storage canonical. -/
theorem canonical_retable (s : State) (t : Placing) (hc : Canonical s) : Canonical (s.retable t) := by
  refine canonical_foldRows _ _ ?_ fun e he => ?_
  · have h := (memoryWf_iff _).1 hc
    unfold Canonical
    rw [memoryWf_iff]
    exact ⟨mwf_clearHbm 0 _ _ h.1, mwf_clearHbm 0 _ _ h.2.1, mwf_clearHbm none _ _ h.2.2.1, mwf_clearHbm false _ _ h.2.2.2.1,
      h.2.2.2.2.1, rfl, mwf_clearHbm none _ _ h.2.2.2.2.2.2⟩
  · obtain ⟨g, -, hg⟩ := List.mem_filterMap.1 he
    obtain ⟨p, -, rfl⟩ := Option.map_eq_some_iff.1 hg
    exact rowWf_rowOf _ _ hc

end Sys2Proof.Machine
end

