-- ==== Sys2Proof/Laws/PerInstr.lean ====
section
/-!
SUPPORT. Per instruction: in every space that holds it, the decoder reads the encoder's word back as the instruction.
-/

set_option Elab.async false

namespace Sys2Proof.Laws.RoundTrip

open Sys2Proof.Safety

/-- A well-formed instruction is read back from its word in each of its spaces. -/
def Statement (i : Instr) : Prop :=
  i.wf = true → ∀ st ∈ spacesOf i, ∀ w, encode i = some w → decode st w = some i

/-- It is enough that the raw reading of the word gives the instruction. -/
theorem of_raw {i : Instr} {w : W32} (he : encode i = some w) (h : ∀ st ∈ spacesOf i, rawOf st w = some i) : Statement i := by
  intro hw st hs v hv
  obtain rfl : w = v := by simpa [he] using hv
  simp [decode, h st hs, hw, he]

theorem none_of {i : Instr} (h : spacesOf i = []) : Statement i := by intro _ st hs; simp [h] at hs

/-- The control space. -/
theorem of_c {i : Instr} {w : W32} (he : encode i = some w) (hs : spacesOf i = [.c]) (h : rawC w = some i) : Statement i :=
  of_raw he fun st m => by rw [hs, List.mem_singleton] at m; subst m; exact h
/-- The space of an engine of its own. -/
theorem of_own {i : Instr} {w : W32} {st : Stream} {own : Option Instr} (he : encode i = some w) (hs : spacesOf i = [st])
    (hr : rawOf st w = rawShared w own) (h : rawShared w own = some i) : Statement i :=
  of_raw he fun st m => by rw [hs, List.mem_singleton] at m; subst m; rw [hr]; exact h
/-- A word that every engine shares. -/
theorem of_shared {i : Instr} {w : W32} (he : encode i = some w) (hs : spacesOf i = [.l, .a, .s, .m, .x])
    (h : ∀ own, rawShared w own = some i) : Statement i :=
  of_raw he fun st m => by
    rw [hs] at m
    simp only [List.mem_cons, List.not_mem_nil, or_false] at m
    rcases m with rfl | rfl | rfl | rfl | rfl <;> exact h _

theorem add x0 : Statement (.add x0) := of_c rfl rfl (by unfold rawC; rw [packR_m]; unfold rawMinor01; rw [packR_n, unpackR_packR]; rfl)
theorem sub x0 : Statement (.sub x0) := of_c rfl rfl (by unfold rawC; rw [packR_m]; unfold rawMinor01; rw [packR_n, unpackR_packR]; rfl)
theorem mul x0 : Statement (.mul x0) := of_c rfl rfl (by unfold rawC; rw [packR_m]; unfold rawMinor01; rw [packR_n, unpackR_packR]; rfl)
theorem mulh x0 : Statement (.mulh x0) := of_c rfl rfl (by unfold rawC; rw [packR_m]; unfold rawMinor01; rw [packR_n, unpackR_packR]; rfl)
theorem mulhn x0 : Statement (.mulhn x0) := of_c rfl rfl (by unfold rawC; rw [packR_m]; unfold rawMinor01; rw [packR_n, unpackR_packR]; rfl)
theorem div x0 : Statement (.div x0) := of_c rfl rfl (by unfold rawC; rw [packR_m]; unfold rawMinor01; rw [packR_n, unpackR_packR]; rfl)
theorem divn x0 : Statement (.divn x0) := of_c rfl rfl (by unfold rawC; rw [packR_m]; unfold rawMinor01; rw [packR_n, unpackR_packR]; rfl)
theorem rem x0 : Statement (.rem x0) := of_c rfl rfl (by unfold rawC; rw [packR_m]; unfold rawMinor01; rw [packR_n, unpackR_packR]; rfl)
theorem remn x0 : Statement (.remn x0) := of_c rfl rfl (by unfold rawC; rw [packR_m]; unfold rawMinor01; rw [packR_n, unpackR_packR]; rfl)
theorem and_ x0 : Statement (.and_ x0) := of_c rfl rfl (by unfold rawC; rw [packR_m]; unfold rawMinor01; rw [packR_n, unpackR_packR]; rfl)
theorem or_ x0 : Statement (.or_ x0) := of_c rfl rfl (by unfold rawC; rw [packR_m]; unfold rawMinor01; rw [packR_n, unpackR_packR]; rfl)
theorem xor x0 : Statement (.xor x0) := of_c rfl rfl (by unfold rawC; rw [packR_m]; unfold rawMinor01; rw [packR_n, unpackR_packR]; rfl)
theorem andn x0 : Statement (.andn x0) := of_c rfl rfl (by unfold rawC; rw [packR_m]; unfold rawMinor01; rw [packR_n, unpackR_packR]; rfl)
theorem shl x0 : Statement (.shl x0) := of_c rfl rfl (by unfold rawC; rw [packR_m]; unfold rawMinor01; rw [packR_n, unpackR_packR]; rfl)
theorem shr x0 : Statement (.shr x0) := of_c rfl rfl (by unfold rawC; rw [packR_m]; unfold rawMinor01; rw [packR_n, unpackR_packR]; rfl)
theorem sra x0 : Statement (.sra x0) := of_c rfl rfl (by unfold rawC; rw [packR_m]; unfold rawMinor01; rw [packR_n, unpackR_packR]; rfl)
theorem rotl x0 : Statement (.rotl x0) := of_c rfl rfl (by unfold rawC; rw [packR_m]; unfold rawMinor01; rw [packR_n, unpackR_packR]; rfl)
theorem min_ x0 : Statement (.min_ x0) := of_c rfl rfl (by unfold rawC; rw [packR_m]; unfold rawMinor01; rw [packR_n, unpackR_packR]; rfl)
theorem max_ x0 : Statement (.max_ x0) := of_c rfl rfl (by unfold rawC; rw [packR_m]; unfold rawMinor01; rw [packR_n, unpackR_packR]; rfl)
theorem minn x0 : Statement (.minn x0) := of_c rfl rfl (by unfold rawC; rw [packR_m]; unfold rawMinor01; rw [packR_n, unpackR_packR]; rfl)
theorem maxn x0 : Statement (.maxn x0) := of_c rfl rfl (by unfold rawC; rw [packR_m]; unfold rawMinor01; rw [packR_n, unpackR_packR]; rfl)
theorem clz x0 : Statement (.clz x0) := of_c rfl rfl (by unfold rawC; rw [packR_m]; unfold rawMinor01; rw [packR_n, unpackR_packR]; rfl)
theorem ctz x0 : Statement (.ctz x0) := of_c rfl rfl (by unfold rawC; rw [packR_m]; unfold rawMinor01; rw [packR_n, unpackR_packR]; rfl)
theorem popc x0 : Statement (.popc x0) := of_c rfl rfl (by unfold rawC; rw [packR_m]; unfold rawMinor01; rw [packR_n, unpackR_packR]; rfl)
theorem sel x0 : Statement (.sel x0) := of_c rfl rfl (by unfold rawC; rw [packR_m]; unfold rawMinor01; rw [packR_n, unpackR_packR]; rfl)
theorem adds x0 x1 : Statement (.adds x0 x1) := of_c rfl rfl (by
  have := minor_ge 4#3 x1 (by decide)
  simp [rawC, rawMinor01]
  split <;> first | omega | rfl)
theorem cmp x0 x1 : Statement (.cmp x0 x1) := of_c rfl rfl (by
  have := minor_ge 5#3 x1 (by decide)
  simp [rawC, rawMinor01]
  split <;> first | omega | rfl)
theorem addi x0 : Statement (.addi x0) := of_c rfl rfl (by unfold rawC; rw [packI_m, unpackI_packI]; rfl)
theorem andi x0 : Statement (.andi x0) := of_c rfl rfl (by unfold rawC; rw [packI_m, unpackI_packI]; rfl)
theorem ori x0 : Statement (.ori x0) := of_c rfl rfl (by unfold rawC; rw [packI_m, unpackI_packI]; rfl)
theorem xori x0 : Statement (.xori x0) := of_c rfl rfl (by unfold rawC; rw [packI_m, unpackI_packI]; rfl)
theorem shli x0 : Statement (.shli x0) := of_c rfl rfl (by simp [rawC])
theorem shri x0 : Statement (.shri x0) := of_c rfl rfl (by simp [rawC])
theorem srai x0 : Statement (.srai x0) := of_c rfl rfl (by simp [rawC])
theorem cmpi x0 : Statement (.cmpi x0) := of_c rfl rfl (by simp [rawC])
theorem ext_ x0 : Statement (.ext_ x0) := of_c rfl rfl (by simp [rawC])
theorem ins x0 : Statement (.ins x0) := of_c rfl rfl (by simp [rawC])
theorem movh x0 x1 : Statement (.movh x0 x1) := of_c rfl rfl (by simp [rawC])
theorem ldI8 x0 : Statement (.ldI8 x0) := of_c rfl rfl (by unfold rawC; rw [packI_m, unpackI_packI]; rfl)
theorem ldB16 x0 : Statement (.ldB16 x0) := of_c rfl rfl (by unfold rawC; rw [packI_m, unpackI_packI]; rfl)
theorem ldI32 x0 : Statement (.ldI32 x0) := of_c rfl rfl (by unfold rawC; rw [packI_m, unpackI_packI]; rfl)
theorem ldN32 x0 : Statement (.ldN32 x0) := of_c rfl rfl (by unfold rawC; rw [packI_m, unpackI_packI]; rfl)
theorem ldI64 x0 : Statement (.ldI64 x0) := of_c rfl rfl (by unfold rawC; rw [packI_m, unpackI_packI]; rfl)
theorem stI8 x0 : Statement (.stI8 x0) := of_c rfl rfl (by unfold rawC; rw [packI_m, unpackI_packI]; rfl)
theorem stB16 x0 : Statement (.stB16 x0) := of_c rfl rfl (by unfold rawC; rw [packI_m, unpackI_packI]; rfl)
theorem stI32 x0 : Statement (.stI32 x0) := of_c rfl rfl (by unfold rawC; rw [packI_m, unpackI_packI]; rfl)
theorem stI64 x0 : Statement (.stI64 x0) := of_c rfl rfl (by unfold rawC; rw [packI_m, unpackI_packI]; rfl)
theorem br x0 : Statement (.br x0) := of_c rfl rfl (by simp [rawC])
theorem loop x0 x1 : Statement (.loop x0 x1) := of_c rfl rfl (by simp [rawC])
theorem jmp x0 : Statement (.jmp x0) := of_c rfl rfl (by simp [rawC])
theorem jal x0 : Statement (.jal x0) := of_c rfl rfl (by simp [rawC])
theorem amoI32 x0 x1 x2 : Statement (.amoI32 x0 x1 x2) := of_c rfl rfl (by
  have := op_lt x1
  simp [rawC, rawAtomicI32]
  split <;> first | omega | rfl)
theorem amoFadd x0 x1 : Statement (.amoFadd x0 x1) := of_c rfl rfl (by simp [rawC, rawAtomicI32])
theorem amoN32 x0 x1 x2 : Statement (.amoN32 x0 x1 x2) := of_c rfl rfl (by
  have := op_lt x1
  simp [rawC, rawAtomicN32]
  split <;> first | omega | rfl)
theorem amoI64 x0 x1 x2 : Statement (.amoI64 x0 x1 x2) := of_c rfl rfl (by
  have := op_lt x1
  simp [rawC, rawAtomicI64]
  split <;> first | omega | rfl)
theorem casI32 x0 x1 : Statement (.casI32 x0 x1) := of_c rfl rfl (by simp [rawC, rawAtomicI32])
theorem casN32 x0 x1 : Statement (.casN32 x0 x1) := of_c rfl rfl (by simp [rawC, rawAtomicN32])
theorem casI64 x0 x1 : Statement (.casI64 x0 x1) := of_c rfl rfl (by simp [rawC, rawAtomicI64])
theorem sqadd x0 x1 : Statement (.sqadd x0 x1) := of_c rfl rfl (by simp [rawC, rawAtomicI64])
theorem qalign : Statement (.qalign) := of_c rfl rfl (by simp [rawC, rawMinor1D])
theorem mjoin : Statement (.mjoin) := of_c rfl rfl (by simp [rawC, rawMinor1D])
theorem spal x0 : Statement (.spal x0) := of_c rfl rfl (by unfold rawC; rw [packR_m]; unfold rawMinor1D; rw [packR_n, unpackR_packR]; rfl)
theorem spfree x0 : Statement (.spfree x0) := of_c rfl rfl (by unfold rawC; rw [packR_m]; unfold rawMinor1D; rw [packR_n, unpackR_packR]; rfl)
theorem waddrI32 x0 : Statement (.waddrI32 x0) := of_c rfl rfl (by unfold rawC; rw [packR_m]; unfold rawMinor1D; rw [packR_n, unpackR_packR]; rfl)
theorem waddrI64 x0 : Statement (.waddrI64 x0) := of_c rfl rfl (by unfold rawC; rw [packR_m]; unfold rawMinor1D; rw [packR_n, unpackR_packR]; rfl)
theorem wake x0 : Statement (.wake x0) := of_c rfl rfl (by unfold rawC; rw [packR_m]; unfold rawMinor1D; rw [packR_n, unpackR_packR]; rfl)
theorem sqwait x0 : Statement (.sqwait x0) := of_c rfl rfl (by unfold rawC; rw [packR_m]; unfold rawMinor1D; rw [packR_n, unpackR_packR]; rfl)
theorem swinit x0 : Statement (.swinit x0) := of_c rfl rfl (by unfold rawC; rw [packR_m]; unfold rawMinor1D; rw [packR_n, unpackR_packR]; rfl)
theorem swait x0 : Statement (.swait x0) := of_c rfl rfl (by unfold rawC; rw [packR_m]; unfold rawMinor1D; rw [packR_n, unpackR_packR]; rfl)
theorem gjoin x0 : Statement (.gjoin x0) := of_c rfl rfl (by unfold rawC; rw [packR_m]; unfold rawMinor1D; rw [packR_n, unpackR_packR]; rfl)
theorem gleave x0 : Statement (.gleave x0) := of_c rfl rfl (by unfold rawC; rw [packR_m]; unfold rawMinor1D; rw [packR_n, unpackR_packR]; rfl)
theorem gbar x0 : Statement (.gbar x0) := of_c rfl rfl (by unfold rawC; rw [packR_m]; unfold rawMinor1D; rw [packR_n, unpackR_packR]; rfl)
theorem jr x0 : Statement (.jr x0) := of_c rfl rfl (by unfold rawC; rw [packR_m]; unfold rawMinor1D; rw [packR_n, unpackR_packR]; rfl)
theorem chlvl x0 x1 : Statement (.chlvl x0 x1) := of_c rfl rfl (by simp [rawC, rawMinor1D])
theorem chdrop x0 : Statement (.chdrop x0) := of_c rfl rfl (by simp [rawC, rawMinor1D])
theorem wait x0 x1 x2 x3 : Statement (.wait x0 x1 x2 x3) := of_c rfl rfl (by simp [rawC])
theorem chbind x0 x1 x2 : Statement (.chbind x0 x1 x2) := of_c rfl rfl (by simp [rawC])
theorem nop x0 : Statement (.nop x0) := of_c rfl rfl (by simp [rawC])
theorem fork x0 x1 : Statement (.fork x0 x1) := of_c rfl rfl (by simp [rawC, rawSystem])
theorem rdv x0 : Statement (.rdv x0) := of_c rfl rfl (by simp [rawC, rawSystem])
theorem estop x0 : Statement (.estop x0) := of_c rfl rfl (by simp [rawC, rawSystem])
theorem ebase x0 x1 : Statement (.ebase x0 x1) := of_c rfl rfl (by simp [rawC, rawSystem])
theorem mfence x0 : Statement (.mfence x0) := of_c rfl rfl (by simp [rawC, rawSystem])
theorem tbind x0 x1 x2 : Statement (.tbind x0 x1 x2) := of_c rfl rfl (by simp [rawC, rawSystem])
theorem tunbind x0 : Statement (.tunbind x0) := of_c rfl rfl (by simp [rawC, rawSystem])
theorem post x0 : Statement (.post x0) := of_c rfl rfl (by unfold rawC; rw [packYR_maj]; unfold rawSystem; rw [packYR_u, unpackYR_packYR]; rfl)
theorem tail : Statement (.tail) := of_c rfl rfl (by simp [rawC, rawSystem])
theorem halt : Statement (.halt) := of_c rfl rfl (by simp [rawC, rawSystem])
theorem ppoint x0 : Statement (.ppoint x0) := of_c rfl rfl (by simp [rawC, rawSystem])
theorem tfence : Statement (.tfence) := of_c rfl rfl (by simp [rawC, rawSystem])
theorem sysc x0 : Statement (.sysc x0) := of_c rfl rfl (by simp [rawC, rawSystem])
theorem brk x0 : Statement (.brk x0) := of_c rfl rfl (by simp [rawC, rawSystem])
theorem eret : Statement (.eret) := of_c rfl rfl (by simp [rawC, rawSystem])
theorem csrr x0 x1 : Statement (.csrr x0 x1) := of_c rfl rfl (by simp [rawC, rawSystem])
theorem csrw x0 : Statement (.csrw x0) := of_c rfl rfl (by simp [rawC, rawSystem])
theorem csrs x0 : Statement (.csrs x0) := of_c rfl rfl (by simp [rawC, rawSystem])
theorem csrc x0 : Statement (.csrc x0) := of_c rfl rfl (by simp [rawC, rawSystem])
theorem stset x0 : Statement (.stset x0) := of_c rfl rfl (by unfold rawC; rw [packYR_maj]; unfold rawSystem; rw [packYR_u, unpackYR_packYR]; rfl)
theorem stclr x0 : Statement (.stclr x0) := of_c rfl rfl (by unfold rawC; rw [packYR_maj]; unfold rawSystem; rw [packYR_u, unpackYR_packYR]; rfl)
theorem sfwait x0 : Statement (.sfwait x0) := of_c rfl rfl (by unfold rawC; rw [packYR_maj]; unfold rawSystem; rw [packYR_u, unpackYR_packYR]; rfl)
theorem bemsg x0 : Statement (.bemsg x0) := of_c rfl rfl (by unfold rawC; rw [packYR_maj]; unfold rawSystem; rw [packYR_u, unpackYR_packYR]; rfl)
theorem hand x0 : Statement (.hand x0) := of_c rfl rfl (by unfold rawC; rw [packYR_maj]; unfold rawSystem; rw [packYR_u, unpackYR_packYR]; rfl)
theorem deal x0 : Statement (.deal x0) := of_c rfl rfl (by unfold rawC; rw [packYR_maj]; unfold rawSystem; rw [packYR_u, unpackYR_packYR]; rfl)
theorem undeal x0 : Statement (.undeal x0) := of_c rfl rfl (by unfold rawC; rw [packYR_maj]; unfold rawSystem; rw [packYR_u, unpackYR_packYR]; rfl)
theorem rcirc x0 : Statement (.rcirc x0) := of_c rfl rfl (by unfold rawC; rw [packYR_maj]; unfold rawSystem; rw [packYR_u, unpackYR_packYR]; rfl)
theorem cgen x0 : Statement (.cgen x0) := of_c rfl rfl (by unfold rawC; rw [packYR_maj]; unfold rawSystem; rw [packYR_u, unpackYR_packYR]; rfl)
theorem ctab x0 : Statement (.ctab x0) := of_c rfl rfl (by unfold rawC; rw [packYR_maj]; unfold rawSystem; rw [packYR_u, unpackYR_packYR]; rfl)
theorem fdown x0 : Statement (.fdown x0) := of_c rfl rfl (by unfold rawC; rw [packYR_maj]; unfold rawSystem; rw [packYR_u, unpackYR_packYR]; rfl)
theorem fpeek x0 : Statement (.fpeek x0) := of_c rfl rfl (by unfold rawC; rw [packYR_maj]; unfold rawSystem; rw [packYR_u, unpackYR_packYR]; rfl)
theorem fup x0 : Statement (.fup x0) := of_c rfl rfl (by unfold rawC; rw [packYR_maj]; unfold rawSystem; rw [packYR_u, unpackYR_packYR]; rfl)
theorem lease x0 : Statement (.lease x0) := of_c rfl rfl (by unfold rawC; rw [packYR_maj]; unfold rawSystem; rw [packYR_u, unpackYR_packYR]; rfl)
theorem spill x0 : Statement (.spill x0) := of_c rfl rfl (by simp [rawC, rawSystem])
theorem fill x0 : Statement (.fill x0) := of_c rfl rfl (by simp [rawC, rawSystem])
theorem unlease x0 : Statement (.unlease x0) := of_c rfl rfl (by unfold rawC; rw [packYR_maj]; unfold rawSystem; rw [packYR_u, unpackYR_packYR]; rfl)
theorem tok x0 x1 x2 : Statement (.tok x0 x1 x2) := of_shared rfl rfl fun _ => by simp [rawShared]
theorem rloop x0 x1 x2 : Statement (.rloop x0 x1 x2) := of_shared rfl rfl fun _ => by simp [rawShared]
theorem tableEnd : Statement (.tableEnd) := of_shared rfl rfl fun _ => rfl
theorem lport x0 x1 x2 x3 : Statement (.lport x0 x1 x2 x3) := of_own rfl rfl rfl (by simp [rawShared, rawL])
theorem lglob x0 : Statement (.lglob x0) := of_own rfl rfl rfl (by simp [rawShared, rawL])
theorem lbc x0 : Statement (.lbc x0) := of_own rfl rfl rfl (by simp [rawShared, rawL])
theorem lnest x0 x1 x2 x3 : Statement (.lnest x0 x1 x2 x3) := of_own rfl rfl rfl (by simp [rawShared, rawL])
theorem sport x0 x1 x2 : Statement (.sport x0 x1 x2) := of_own rfl rfl rfl (by simp [rawShared, rawS])
theorem sglob x0 : Statement (.sglob x0) := of_own rfl rfl rfl (by simp [rawShared, rawS])
theorem vaddI8 x0 : Statement (.vaddI8 x0) := of_own rfl rfl rfl (by unfold rawShared rawA; rw [packA_m, unpackA_packA]; rfl)
theorem vaddI32 x0 : Statement (.vaddI32 x0) := of_own rfl rfl rfl (by unfold rawShared rawA; rw [packA_m, unpackA_packA]; rfl)
theorem vaddF32 x0 : Statement (.vaddF32 x0) := of_own rfl rfl rfl (by unfold rawShared rawA; rw [packA_m, unpackA_packA]; rfl)
theorem vaddB16 x0 : Statement (.vaddB16 x0) := of_own rfl rfl rfl (by unfold rawShared rawA; rw [packA_m, unpackA_packA]; rfl)
theorem vsubI8 x0 : Statement (.vsubI8 x0) := of_own rfl rfl rfl (by unfold rawShared rawA; rw [packA_m, unpackA_packA]; rfl)
theorem vsubI32 x0 : Statement (.vsubI32 x0) := of_own rfl rfl rfl (by unfold rawShared rawA; rw [packA_m, unpackA_packA]; rfl)
theorem vsubF32 x0 : Statement (.vsubF32 x0) := of_own rfl rfl rfl (by unfold rawShared rawA; rw [packA_m, unpackA_packA]; rfl)
theorem vsubB16 x0 : Statement (.vsubB16 x0) := of_own rfl rfl rfl (by unfold rawShared rawA; rw [packA_m, unpackA_packA]; rfl)
theorem vmulI32 x0 : Statement (.vmulI32 x0) := of_own rfl rfl rfl (by unfold rawShared rawA; rw [packA_m, unpackA_packA]; rfl)
theorem vmulF32 x0 : Statement (.vmulF32 x0) := of_own rfl rfl rfl (by unfold rawShared rawA; rw [packA_m, unpackA_packA]; rfl)
theorem vmulB16 x0 : Statement (.vmulB16 x0) := of_own rfl rfl rfl (by unfold rawShared rawA; rw [packA_m, unpackA_packA]; rfl)
theorem vfmaF32 x0 : Statement (.vfmaF32 x0) := of_own rfl rfl rfl (by unfold rawShared rawA; rw [packA_m, unpackA_packA]; rfl)
theorem vfmaB16 x0 : Statement (.vfmaB16 x0) := of_own rfl rfl rfl (by unfold rawShared rawA; rw [packA_m, unpackA_packA]; rfl)
theorem vfmsF32 x0 : Statement (.vfmsF32 x0) := of_own rfl rfl rfl (by unfold rawShared rawA; rw [packA_m, unpackA_packA]; rfl)
theorem vfmsB16 x0 : Statement (.vfmsB16 x0) := of_own rfl rfl rfl (by unfold rawShared rawA; rw [packA_m, unpackA_packA]; rfl)
theorem vminI32 x0 : Statement (.vminI32 x0) := of_own rfl rfl rfl (by unfold rawShared rawA; rw [packA_m, unpackA_packA]; rfl)
theorem vminF32 x0 : Statement (.vminF32 x0) := of_own rfl rfl rfl (by unfold rawShared rawA; rw [packA_m, unpackA_packA]; rfl)
theorem vminB16 x0 : Statement (.vminB16 x0) := of_own rfl rfl rfl (by unfold rawShared rawA; rw [packA_m, unpackA_packA]; rfl)
theorem vmaxI32 x0 : Statement (.vmaxI32 x0) := of_own rfl rfl rfl (by unfold rawShared rawA; rw [packA_m, unpackA_packA]; rfl)
theorem vmaxF32 x0 : Statement (.vmaxF32 x0) := of_own rfl rfl rfl (by unfold rawShared rawA; rw [packA_m, unpackA_packA]; rfl)
theorem vmaxB16 x0 : Statement (.vmaxB16 x0) := of_own rfl rfl rfl (by unfold rawShared rawA; rw [packA_m, unpackA_packA]; rfl)
theorem vand x0 : Statement (.vand x0) := of_own rfl rfl rfl (by unfold rawShared rawA; rw [packA_m, unpackA_packA]; rfl)
theorem vor x0 : Statement (.vor x0) := of_own rfl rfl rfl (by unfold rawShared rawA; rw [packA_m, unpackA_packA]; rfl)
theorem vxor x0 : Statement (.vxor x0) := of_own rfl rfl rfl (by unfold rawShared rawA; rw [packA_m, unpackA_packA]; rfl)
theorem vandn x0 : Statement (.vandn x0) := of_own rfl rfl rfl (by unfold rawShared rawA; rw [packA_m, unpackA_packA]; rfl)
theorem vshl x0 : Statement (.vshl x0) := of_own rfl rfl rfl (by unfold rawShared rawA; rw [packA_m, unpackA_packA]; rfl)
theorem vshr x0 : Statement (.vshr x0) := of_own rfl rfl rfl (by unfold rawShared rawA; rw [packA_m, unpackA_packA]; rfl)
theorem vsra x0 : Statement (.vsra x0) := of_own rfl rfl rfl (by unfold rawShared rawA; rw [packA_m, unpackA_packA]; rfl)
theorem vcmpEqI32 x0 : Statement (.vcmpEqI32 x0) := of_own rfl rfl rfl (by unfold rawShared rawA; rw [packA_m, unpackA_packA]; rfl)
theorem vcmpEqF32 x0 : Statement (.vcmpEqF32 x0) := of_own rfl rfl rfl (by unfold rawShared rawA; rw [packA_m, unpackA_packA]; rfl)
theorem vcmpEqB16 x0 : Statement (.vcmpEqB16 x0) := of_own rfl rfl rfl (by unfold rawShared rawA; rw [packA_m, unpackA_packA]; rfl)
theorem vcmpLtI32 x0 : Statement (.vcmpLtI32 x0) := of_own rfl rfl rfl (by unfold rawShared rawA; rw [packA_m, unpackA_packA]; rfl)
theorem vcmpLtF32 x0 : Statement (.vcmpLtF32 x0) := of_own rfl rfl rfl (by unfold rawShared rawA; rw [packA_m, unpackA_packA]; rfl)
theorem vcmpLtB16 x0 : Statement (.vcmpLtB16 x0) := of_own rfl rfl rfl (by unfold rawShared rawA; rw [packA_m, unpackA_packA]; rfl)
theorem vcmpLeI32 x0 : Statement (.vcmpLeI32 x0) := of_own rfl rfl rfl (by unfold rawShared rawA; rw [packA_m, unpackA_packA]; rfl)
theorem vcmpLeF32 x0 : Statement (.vcmpLeF32 x0) := of_own rfl rfl rfl (by unfold rawShared rawA; rw [packA_m, unpackA_packA]; rfl)
theorem vcmpLeB16 x0 : Statement (.vcmpLeB16 x0) := of_own rfl rfl rfl (by unfold rawShared rawA; rw [packA_m, unpackA_packA]; rfl)
theorem vsel x0 : Statement (.vsel x0) := of_own rfl rfl rfl (by unfold rawShared rawA; rw [packA_m, unpackA_packA]; rfl)
theorem vpermI8 x0 : Statement (.vpermI8 x0) := of_own rfl rfl rfl (by unfold rawShared rawA; rw [packA_m, unpackA_packA]; rfl)
theorem vpermI32 x0 : Statement (.vpermI32 x0) := of_own rfl rfl rfl (by unfold rawShared rawA; rw [packA_m, unpackA_packA]; rfl)
theorem vclampI32 x0 : Statement (.vclampI32 x0) := of_own rfl rfl rfl (by unfold rawShared rawA; rw [packA_m, unpackA_packA]; rfl)
theorem vclampF32 x0 : Statement (.vclampF32 x0) := of_own rfl rfl rfl (by unfold rawShared rawA; rw [packA_m, unpackA_packA]; rfl)
theorem vclampB16 x0 : Statement (.vclampB16 x0) := of_own rfl rfl rfl (by unfold rawShared rawA; rw [packA_m, unpackA_packA]; rfl)
theorem vmovI8 x0 : Statement (.vmovI8 x0) := of_own rfl rfl rfl (by unfold rawShared rawA rawUnaryI8; rw [packA_m, unpackA_packA]; rfl)
theorem vmovI32 x0 : Statement (.vmovI32 x0) := of_own rfl rfl rfl (by unfold rawShared rawA rawUnaryI32; rw [packA_m, unpackA_packA]; rfl)
theorem vmovF32 x0 : Statement (.vmovF32 x0) := of_own rfl rfl rfl (by unfold rawShared rawA rawUnaryF32; rw [packA_m, unpackA_packA]; rfl)
theorem vmovB16 x0 : Statement (.vmovB16 x0) := of_own rfl rfl rfl (by unfold rawShared rawA rawUnaryB16; rw [packA_m, unpackA_packA]; rfl)
theorem vabsI8 x0 : Statement (.vabsI8 x0) := of_own rfl rfl rfl (by unfold rawShared rawA rawUnaryI8; rw [packA_m, unpackA_packA]; rfl)
theorem vabsI32 x0 : Statement (.vabsI32 x0) := of_own rfl rfl rfl (by unfold rawShared rawA rawUnaryI32; rw [packA_m, unpackA_packA]; rfl)
theorem vabsF32 x0 : Statement (.vabsF32 x0) := of_own rfl rfl rfl (by unfold rawShared rawA rawUnaryF32; rw [packA_m, unpackA_packA]; rfl)
theorem vabsB16 x0 : Statement (.vabsB16 x0) := of_own rfl rfl rfl (by unfold rawShared rawA rawUnaryB16; rw [packA_m, unpackA_packA]; rfl)
theorem vnegI8 x0 : Statement (.vnegI8 x0) := of_own rfl rfl rfl (by unfold rawShared rawA rawUnaryI8; rw [packA_m, unpackA_packA]; rfl)
theorem vnegI32 x0 : Statement (.vnegI32 x0) := of_own rfl rfl rfl (by unfold rawShared rawA rawUnaryI32; rw [packA_m, unpackA_packA]; rfl)
theorem vnegF32 x0 : Statement (.vnegF32 x0) := of_own rfl rfl rfl (by unfold rawShared rawA rawUnaryF32; rw [packA_m, unpackA_packA]; rfl)
theorem vnegB16 x0 : Statement (.vnegB16 x0) := of_own rfl rfl rfl (by unfold rawShared rawA rawUnaryB16; rw [packA_m, unpackA_packA]; rfl)
theorem vsumI32 x0 : Statement (.vsumI32 x0) := of_own rfl rfl rfl (by unfold rawShared rawA rawUnaryI32; rw [packA_m, unpackA_packA]; rfl)
theorem vsumF32 x0 : Statement (.vsumF32 x0) := of_own rfl rfl rfl (by unfold rawShared rawA rawUnaryF32; rw [packA_m, unpackA_packA]; rfl)
theorem vsumB16 x0 : Statement (.vsumB16 x0) := of_own rfl rfl rfl (by unfold rawShared rawA rawUnaryB16; rw [packA_m, unpackA_packA]; rfl)
theorem vscanI32 x0 : Statement (.vscanI32 x0) := of_own rfl rfl rfl (by unfold rawShared rawA rawUnaryI32; rw [packA_m, unpackA_packA]; rfl)
theorem vscanF32 x0 : Statement (.vscanF32 x0) := of_own rfl rfl rfl (by unfold rawShared rawA rawUnaryF32; rw [packA_m, unpackA_packA]; rfl)
theorem vscanB16 x0 : Statement (.vscanB16 x0) := of_own rfl rfl rfl (by unfold rawShared rawA rawUnaryB16; rw [packA_m, unpackA_packA]; rfl)
theorem vrcpF32 x0 : Statement (.vrcpF32 x0) := of_own rfl rfl rfl (by unfold rawShared rawA rawUnaryF32; rw [packA_m, unpackA_packA]; rfl)
theorem vrcpB16 x0 : Statement (.vrcpB16 x0) := of_own rfl rfl rfl (by unfold rawShared rawA rawUnaryB16; rw [packA_m, unpackA_packA]; rfl)
theorem vrsqF32 x0 : Statement (.vrsqF32 x0) := of_own rfl rfl rfl (by unfold rawShared rawA rawUnaryF32; rw [packA_m, unpackA_packA]; rfl)
theorem vrsqB16 x0 : Statement (.vrsqB16 x0) := of_own rfl rfl rfl (by unfold rawShared rawA rawUnaryB16; rw [packA_m, unpackA_packA]; rfl)
theorem vex2F32 x0 : Statement (.vex2F32 x0) := of_own rfl rfl rfl (by unfold rawShared rawA rawUnaryF32; rw [packA_m, unpackA_packA]; rfl)
theorem vex2B16 x0 : Statement (.vex2B16 x0) := of_own rfl rfl rfl (by unfold rawShared rawA rawUnaryB16; rw [packA_m, unpackA_packA]; rfl)
theorem vlg2F32 x0 : Statement (.vlg2F32 x0) := of_own rfl rfl rfl (by unfold rawShared rawA rawUnaryF32; rw [packA_m, unpackA_packA]; rfl)
theorem vlg2B16 x0 : Statement (.vlg2B16 x0) := of_own rfl rfl rfl (by unfold rawShared rawA rawUnaryB16; rw [packA_m, unpackA_packA]; rfl)
theorem vbc x0 x1 : Statement (.vbc x0 x1) := of_own rfl rfl rfl (by unfold rawShared rawA; rw [packA_m, unpackA_packA]; rfl)
theorem vcvtI8 x0 x1 x2 : Statement (.vcvtI8 x0 x1 x2) := of_own rfl rfl rfl (by simp [rawShared, rawA])
theorem vcvtI32 x0 x1 x2 : Statement (.vcvtI32 x0 x1 x2) := of_own rfl rfl rfl (by simp [rawShared, rawA])
theorem vcvtF32 x0 x1 x2 : Statement (.vcvtF32 x0 x1 x2) := of_own rfl rfl rfl (by simp [rawShared, rawA])
theorem vcvtB16 x0 x1 x2 : Statement (.vcvtB16 x0 x1 x2) := of_own rfl rfl rfl (by simp [rawShared, rawA])
theorem vcvtE4 x0 x1 x2 : Statement (.vcvtE4 x0 x1 x2) := of_own rfl rfl rfl (by simp [rawShared, rawA])
theorem vcvtE5 x0 x1 x2 : Statement (.vcvtE5 x0 x1 x2) := of_own rfl rfl rfl (by simp [rawShared, rawA])
theorem vcvtF4 x0 x1 x2 : Statement (.vcvtF4 x0 x1 x2) := of_own rfl rfl rfl (by simp [rawShared, rawA])
theorem vcvtDs8 x0 x1 x2 : Statement (.vcvtDs8 x0 x1 x2) := of_own rfl rfl rfl (by simp [rawShared, rawA])
theorem vqmax x0 x1 x2 : Statement (.vqmax x0 x1 x2) := of_own rfl rfl rfl (by simp [rawShared, rawA])
theorem vqcvt x0 x1 x2 x3 : Statement (.vqcvt x0 x1 x2 x3) := of_own rfl rfl rfl (by simp [rawShared, rawA])
theorem vdq x0 x1 : Statement (.vdq x0 x1) := of_own rfl rfl rfl (by simp [rawShared, rawA])
theorem gop x0 x1 x2 x3 x4 : Statement (.gop x0 x1 x2 x3 x4) := of_own rfl rfl rfl (by simp [rawShared, rawA])
theorem vqcvtI8 x0 x1 x2 : Statement (.vqcvtI8 x0 x1 x2) := of_own rfl rfl rfl (by simp [rawShared, rawA])
theorem mmac x0 x1 x2 x3 x4 : Statement (.mmac x0 x1 x2 x3 x4) := of_own rfl rfl rfl (by simp [rawShared, rawM])
theorem mclr x0 x1 : Statement (.mclr x0 x1) := of_own rfl rfl rfl (by simp [rawShared, rawM])
theorem mret x0 x1 x2 x3 x4 x5 : Statement (.mret x0 x1 x2 x3 x4 x5) := of_own rfl rfl rfl (by simp [rawShared, rawM])
theorem mwsel x0 x1 : Statement (.mwsel x0 x1) := of_own rfl rfl rfl (by simp [rawShared, rawM])
theorem mstampAbs x0 : Statement (.mstampAbs x0) := of_own rfl rfl rfl (by simp [rawShared, rawM])
theorem mstampAdd x0 x1 : Statement (.mstampAdd x0 x1) := of_own rfl rfl rfl (by simp [rawShared, rawM])
theorem mnop x0 : Statement (.mnop x0) := of_own rfl rfl rfl (by simp [rawShared, rawM])
theorem xcopy x0 : Statement (.xcopy x0) := of_own rfl rfl rfl (by unfold rawShared rawX; rw [packXO_m, unpackXO_packXO]; rfl)
theorem xgat x0 : Statement (.xgat x0) := of_own rfl rfl rfl (by unfold rawShared rawX; rw [packXO_m, unpackXO_packXO]; rfl)
theorem xsct x0 : Statement (.xsct x0) := of_own rfl rfl rfl (by unfold rawShared rawX; rw [packXO_m, unpackXO_packXO]; rfl)
theorem xwload x0 : Statement (.xwload x0) := of_own rfl rfl rfl (by unfold rawShared rawX; rw [packXO_m, unpackXO_packXO]; rfl)
theorem xred x0 : Statement (.xred x0) := of_own rfl rfl rfl (by unfold rawShared rawX; rw [packXO_m, unpackXO_packXO]; rfl)
theorem xwenq x0 : Statement (.xwenq x0) := of_own rfl rfl rfl (by unfold rawShared rawX; rw [packXO_m, unpackXO_packXO]; rfl)
theorem xsend x0 : Statement (.xsend x0) := of_own rfl rfl rfl (by unfold rawShared rawX; rw [packXO_m, unpackXO_packXO]; rfl)
theorem xcoll x0 : Statement (.xcoll x0) := of_own rfl rfl rfl (by unfold rawShared rawX; rw [packXO_m, unpackXO_packXO]; rfl)
theorem powerOn x0 : Statement (.powerOn x0) := none_of rfl
theorem functionLevelReset : Statement (.functionLevelReset) := none_of rfl
theorem linkHbmTrainingDone x0 : Statement (.linkHbmTrainingDone x0) := none_of rfl
theorem featureGo : Statement (.featureGo) := none_of rfl
theorem registerImage : Statement (.registerImage) := none_of rfl
theorem unregisterImage : Statement (.unregisterImage) := none_of rfl
theorem unmap : Statement (.unmap) := none_of rfl
theorem unmapPinsDropped : Statement (.unmapPinsDropped) := none_of rfl
theorem relocate : Statement (.relocate) := none_of rfl
theorem undealCommand : Statement (.undealCommand) := none_of rfl
theorem commitSvn : Statement (.commitSvn) := none_of rfl
theorem keyInstall x0 x1 : Statement (.keyInstall x0 x1) := none_of rfl
theorem octlWrite x0 x1 : Statement (.octlWrite x0 x1) := none_of rfl
theorem hostRead x0 x1 : Statement (.hostRead x0 x1) := none_of rfl
theorem hostWrite x0 x1 : Statement (.hostWrite x0 x1) := none_of rfl
theorem hostAtomicop x0 x1 x2 x3 x4 : Statement (.hostAtomicop x0 x1 x2 x3 x4) := none_of rfl
theorem mailboxPush x0 x1 : Statement (.mailboxPush x0 x1) := none_of rfl
theorem postPortPost x0 x1 : Statement (.postPortPost x0 x1) := none_of rfl
theorem dirtySnapshot x0 x1 : Statement (.dirtySnapshot x0 x1) := none_of rfl
theorem tableRewriteCommit : Statement (.tableRewriteCommit) := none_of rfl
theorem tableRewriteDrained : Statement (.tableRewriteDrained) := none_of rfl
theorem hvecWrite x0 x1 : Statement (.hvecWrite x0 x1) := none_of rfl
theorem preemptRequest x0 x1 : Statement (.preemptRequest x0 x1) := none_of rfl
theorem preemptCancel x0 x1 : Statement (.preemptCancel x0 x1) := none_of rfl
theorem driverInterrupt x0 x1 x2 : Statement (.driverInterrupt x0 x1 x2) := none_of rfl
theorem moduleRetrainRequest x0 x1 : Statement (.moduleRetrainRequest x0 x1) := none_of rfl
theorem moduleWindowBoundary x0 x1 : Statement (.moduleWindowBoundary x0 x1) := none_of rfl
theorem portReopen x0 : Statement (.portReopen x0) := none_of rfl
theorem portHealthWindow x0 : Statement (.portHealthWindow x0) := none_of rfl
theorem portPark x0 : Statement (.portPark x0) := none_of rfl
theorem portWake x0 : Statement (.portWake x0) := none_of rfl
theorem portIdleTimeout x0 : Statement (.portIdleTimeout x0) := none_of rfl
theorem widthChangeBoundary x0 : Statement (.widthChangeBoundary x0) := none_of rfl
theorem wavelengthRelockDone x0 : Statement (.wavelengthRelockDone x0) := none_of rfl
theorem wakeBudgetExpired x0 : Statement (.wakeBudgetExpired x0) := none_of rfl
theorem migrationPass : Statement (.migrationPass) := none_of rfl
theorem migrationReceive : Statement (.migrationReceive) := none_of rfl
theorem migrationAbort : Statement (.migrationAbort) := none_of rfl
theorem sessionKeyInstall x0 : Statement (.sessionKeyInstall x0) := none_of rfl
theorem msessWrite x0 : Statement (.msessWrite x0) := none_of rfl
theorem granuleRecord x0 : Statement (.granuleRecord x0) := none_of rfl
theorem recordAck x0 : Statement (.recordAck x0) := none_of rfl
theorem taskExport : Statement (.taskExport) := none_of rfl
theorem taskImport : Statement (.taskImport) := none_of rfl
theorem typedStateRecord x0 : Statement (.typedStateRecord x0) := none_of rfl
theorem quote : Statement (.quote) := none_of rfl
theorem quoteSigned : Statement (.quoteSigned) := none_of rfl
theorem nonceWrite x0 x1 : Statement (.nonceWrite x0 x1) := none_of rfl
theorem updateVerify : Statement (.updateVerify) := none_of rfl
theorem updateVerifyDone : Statement (.updateVerifyDone) := none_of rfl
theorem updateInstall : Statement (.updateInstall) := none_of rfl
theorem updateInstallDone x0 : Statement (.updateInstallDone x0) := none_of rfl
theorem uploadWindowWrite x0 x1 : Statement (.uploadWindowWrite x0 x1) := none_of rfl
theorem thermalChange x0 x1 : Statement (.thermalChange x0 x1) := none_of rfl
theorem registerWrite x0 x1 x2 : Statement (.registerWrite x0 x1 x2) := none_of rfl
theorem launchPacket x0 : Statement (.launchPacket x0) := none_of rfl
theorem sliceSetAside : Statement (.sliceSetAside) := none_of rfl
theorem collectiveAbort x0 x1 : Statement (.collectiveAbort x0 x1) := none_of rfl
theorem domainJoin x0 x1 : Statement (.domainJoin x0 x1) := none_of rfl
theorem circuitSlotStart : Statement (.circuitSlotStart) := none_of rfl
theorem dataWindowOpen x0 : Statement (.dataWindowOpen x0) := none_of rfl
theorem circuitCommit : Statement (.circuitCommit) := none_of rfl
theorem sendDataFlit x0 : Statement (.sendDataFlit x0) := none_of rfl
theorem transactionFlit x0 : Statement (.transactionFlit x0) := none_of rfl
theorem collectivePacket x0 x1 : Statement (.collectivePacket x0 x1) := none_of rfl
theorem abortFlit x0 x1 : Statement (.abortFlit x0 x1) := none_of rfl
theorem controlFrame x0 : Statement (.controlFrame x0) := none_of rfl
theorem fecFrameUncorrectable x0 x1 : Statement (.fecFrameUncorrectable x0 x1) := none_of rfl
theorem frameReplayRequest x0 x1 : Statement (.frameReplayRequest x0 x1) := none_of rfl
theorem sendAccepted x0 x1 x2 x3 : Statement (.sendAccepted x0 x1 x2 x3) := none_of rfl
theorem sweepAdd x0 x1 x2 : Statement (.sweepAdd x0 x1 x2) := none_of rfl
theorem ucieFlitReceived x0 x1 x2 x3 : Statement (.ucieFlitReceived x0 x1 x2 x3) := none_of rfl
theorem retryTimeout x0 x1 x2 : Statement (.retryTimeout x0 x1 x2) := none_of rfl
theorem moduleRetrainEnd x0 x1 x2 x3 : Statement (.moduleRetrainEnd x0 x1 x2 x3) := none_of rfl
theorem stationLoad x0 x1 : Statement (.stationLoad x0 x1) := none_of rfl
theorem stationAdd x0 x1 : Statement (.stationAdd x0 x1) := none_of rfl
theorem stationCopy x0 x1 : Statement (.stationCopy x0 x1) := none_of rfl
theorem stationTake x0 x1 : Statement (.stationTake x0 x1) := none_of rfl
theorem stationFlagRaise x0 : Statement (.stationFlagRaise x0) := none_of rfl
theorem handTakesEffect x0 x1 : Statement (.handTakesEffect x0 x1) := none_of rfl
theorem handWithhold x0 x1 : Statement (.handWithhold x0 x1) := none_of rfl
theorem parcelBoard x0 x1 : Statement (.parcelBoard x0 x1) := none_of rfl
theorem slotClaim x0 x1 : Statement (.slotClaim x0 x1) := none_of rfl
theorem parcelDelivery x0 x1 : Statement (.parcelDelivery x0 x1) := none_of rfl
theorem fullSlotReturn x0 x1 : Statement (.fullSlotReturn x0 x1) := none_of rfl
theorem groupQuarantineEnd x0 : Statement (.groupQuarantineEnd x0) := none_of rfl
theorem homeSliceOperation x0 : Statement (.homeSliceOperation x0) := none_of rfl
theorem homeSliceLoad x0 : Statement (.homeSliceLoad x0) := none_of rfl
theorem writeBack x0 : Statement (.writeBack x0) := none_of rfl
theorem bankOperation x0 x1 : Statement (.bankOperation x0 x1) := none_of rfl
theorem accessCompletion x0 : Statement (.accessCompletion x0) := none_of rfl
theorem timetablePost x0 : Statement (.timetablePost x0) := none_of rfl
theorem counterReport x0 : Statement (.counterReport x0) := none_of rfl
theorem releaseTick x0 : Statement (.releaseTick x0) := none_of rfl
theorem placement x0 : Statement (.placement x0) := none_of rfl
theorem overlayLoadDone x0 : Statement (.overlayLoadDone x0) := none_of rfl
theorem frameBarrier : Statement (.frameBarrier) := none_of rfl
theorem powerHoldEnd : Statement (.powerHoldEnd) := none_of rfl
theorem deadlinePassed x0 : Statement (.deadlinePassed x0) := none_of rfl
theorem taskRetire x0 : Statement (.taskRetire x0) := none_of rfl
theorem preemptAtRetirement x0 : Statement (.preemptAtRetirement x0) := none_of rfl
theorem contextSave x0 : Statement (.contextSave x0) := none_of rfl
theorem saveCommit x0 : Statement (.saveCommit x0) := none_of rfl
theorem contextSlotAcquire x0 : Statement (.contextSlotAcquire x0) := none_of rfl
theorem restoreDone x0 : Statement (.restoreDone x0) := none_of rfl
theorem checkpointWriteback x0 x1 : Statement (.checkpointWriteback x0 x1) := none_of rfl
theorem watchdogStall x0 : Statement (.watchdogStall x0) := none_of rfl
theorem watchdogLate x0 : Statement (.watchdogLate x0) := none_of rfl
theorem watchdogSave x0 : Statement (.watchdogSave x0) := none_of rfl
theorem eventTaken x0 : Statement (.eventTaken x0) := none_of rfl
theorem portWalkFetch x0 x1 : Statement (.portWalkFetch x0 x1) := none_of rfl
theorem portDrain x0 x1 : Statement (.portDrain x0 x1) := none_of rfl
theorem engineCompletion x0 x1 : Statement (.engineCompletion x0 x1) := none_of rfl
theorem bundleVerified : Statement (.bundleVerified) := none_of rfl
theorem headerError x0 x1 : Statement (.headerError x0 x1) := none_of rfl

end Sys2Proof.Laws.RoundTrip
end

