-- ==== Sys2Proof/Tests/Slice0.lean ====
section
/-!
SUPPORT. Tests: first the well-formedness checks and words of the spec; then, for every statement with hypotheses, states and
operands that meet them (test_meets_…), at the boundaries of its ranges; last, results that the spec gives.
-/

set_option Elab.async false

set_option maxRecDepth 8000

namespace Sys2Proof.Tests

open Sys2Proof Sys2Proof.Machine Sys2Proof.Safety

/-! ## Well-formedness: one ill-formed term for each check -/

theorem test_wf_sources : ([.add ⟨1, 2, 3, true, false⟩, .add ⟨1, 2, 3, false, true⟩, .clz ⟨1, 2, true⟩, .sqwait ⟨1, 2, true, false⟩,
    .sqwait ⟨1, 2, false, true⟩, .jr ⟨1, true⟩, .addi ⟨1, 2, true, 0⟩, .shli ⟨1, 2, true, 0⟩, .cmpi ⟨1, 2, true, 0, 0⟩,
    .ext_ ⟨1, 2, true, 0, 0, false⟩, .br ⟨0, 2, true, 0⟩, .spill ⟨0, 2, true, 0⟩] : List Instr).any Instr.wf = false := by decide

theorem test_wf_fields : ([.cmpi ⟨1, 2, false, 6, 0⟩, .cmp ⟨1, 2, 3, false, false⟩ 6, .ext_ ⟨1, 2, false, 1, 63, false⟩,
    .ins ⟨1, 2, false, 0, 0, true⟩, .br ⟨8, 2, false, 0⟩, .csrw ⟨32, 1, false, 8⟩, .csrw ⟨1, 32, false, 8⟩,
    .csrw ⟨1, 2, true, 8⟩, .csrw ⟨1, 2, false, 0x0D⟩, .csrr 1 0x49, .csrr 1 0x3F, .csrr 1 0x58, .csrr 32 0,
    .spill ⟨56, 2, false, 0⟩, .sel ⟨32, 1, 2, false, false⟩, .stI8 ⟨32, 1, false, 0⟩, .casI64 ⟨32, 1, 2, false, false⟩ 0,
    .loop 0 1, .loop 32 1, .chlvl 1 31, .chdrop 31, .chbind 31 0 0] : List Instr).any Instr.wf = false := by decide

theorem test_wf_masks : ([.fork ⟨1, 2, false, false⟩ 0, .rdv 0, .estop 0, .mfence 0, .ebase ⟨1, false⟩ 3, .ebase ⟨1, false⟩ 0,
    .tbind 0 0 ⟨1, 2, false, false⟩, .chbind 32 0 5, .chbind 32 1 5, .chbind 32 2 16, .chbind 32 3 1, .chbind 32 4 16,
    .chbind 32 5 0] : List Instr).any Instr.wf = false := by decide

theorem test_wf_engines : ([.lport 0 0 false 8, .lport 0 0 false 2, .sport 0 0 4, .sport 0 0 1, .lglob ⟨56, 0, 0, 0⟩,
    .lglob ⟨0, 0, 0, 8⟩, .lbc ⟨0, 0, 0, 2⟩, .lnest 0 0 0 8, .sglob ⟨0, 0, 0, 4⟩, .vaddI32 ⟨0, 0, 0, 7, true, 0⟩,
    .vmovI8 ⟨0, 0, 7, true, 0⟩, .vcvtI8 ⟨0, 0, 0, false, 0⟩ 0 0, .vcvtI8 ⟨0, 0, 0, false, 0⟩ 0 9,
    .vqmax ⟨0, 0, 0, false, 0⟩ 2 0, .vqmax ⟨0, 0, 0, false, 0⟩ 1 3, .vqmax ⟨0, 0, 0, false, 0⟩ 7 1,
    .vqcvt ⟨0, 0, 0, false, 0⟩ 0 0 3, .vqcvt ⟨0, 0, 0, false, 0⟩ 0 2 1, .vqcvtI8 ⟨0, 0, 0, false, 0⟩ 0 3,
    .vdq ⟨0, 0, 0, false, 0⟩ 0, .gop 3 0 0 1 0, .mret 0 0 0 4 0 false] : List Instr).any Instr.wf = false := by decide

theorem test_wf_units : ([.keyInstall 16 0, .octlWrite 16 0, .mailboxPush 192 0, .postPortPost 8 0, .dirtySnapshot 512 0,
    .hvecWrite 8 0, .preemptRequest 0 24, .driverInterrupt 8 0 0, .moduleRetrainRequest 28 0, .moduleWindowBoundary 0 16,
    .portPark 48, .nonceWrite 6 0, .thermalChange 28 0, .stationLoad 16 0, .stationTake 0 28, .groupQuarantineEnd 4096,
    .writeBack 512, .bankOperation 0 256, .placement 8, .saveCommit 192, .portWalkFetch 0 8] : List Instr).any Instr.wf = false := by
  decide

/-! ## Words of the spec -/

/-- The worked words of R232, R239, R246, R373 and of 20_drv_traps.md. -/
theorem test_decode_worked_control_words : Sys2Proof.decode .c 0x0448C580 = some (.add ⟨4, 35, 5, true, false⟩) ∧
    Sys2Proof.decode .c 0x04804923 = some (.adds ⟨8, 1, 9, false, false⟩ 3) ∧
    Sys2Proof.decode .c 0x58457FFD = some (.br ⟨1, 5, false, 0x7FFD⟩) ∧ Sys2Proof.decode .c 0xF8000000 = some (.nop 0) ∧
    Sys2Proof.decode .c 0xFC63C61C = some (.tbind 3 3 ⟨6, 7, false, false⟩) ∧
    Sys2Proof.decode .c 0xFD100550 = some (.csrw ⟨0, 5, false, 0x50⟩) ∧ Sys2Proof.decode .c 0xFD014040 = some (.csrr 5 0x40) ∧
    Sys2Proof.decode .c 0xFCF00000 = some .eret ∧ Sys2Proof.decode .c 0xFE00C414 = some (.fup ⟨3, 4, 5, false, false⟩) := by
  decide

/-- The worked words of R232 and R315. -/
theorem test_decode_worked_engine_words : Sys2Proof.decode .a 0x0851BA79 = some (.vaddI32 ⟨5, 6, 58, 3, true, 9⟩) ∧
    Sys2Proof.decode .m 0x04504FD0 = some (.mmac 5 0 1 63 16) ∧ Sys2Proof.decode .l 0x052C0001 = some (.lport 2 5 true 1) ∧
    Sys2Proof.decode .l 0x08730081 = some (.lglob ⟨7, 3, 8, 1⟩) ∧ Sys2Proof.decode .l 0x11040020 = some (.lnest 4 1 2 0) ∧
    Sys2Proof.decode .s 0x04B00008 = some (.sport 1 6 8) ∧ Sys2Proof.decode .a 0x30A2FBE0 = some (.vfmaF32 ⟨10, 11, 59, 7, false, 0⟩) ∧
    Sys2Proof.decode .a 0x848268E0 = some (.vcmpLtF32 ⟨8, 9, 40, 7, false, 0⟩) ∧
    Sys2Proof.decode .a 0xB820C3E0 = some (.vsumF32 ⟨2, 3, 7, false, 0⟩) ∧
    Sys2Proof.decode .a 0xE83101E0 = some (.vqcvt ⟨3, 4, 7, false, 0⟩ 0 0 1) ∧
    Sys2Proof.decode .a 0xF19083E0 = some (.gop 1 9 2 3 0) ∧ Sys2Proof.decode .a 0xF8524000 = some (.tok 5 9 0) ∧
    Sys2Proof.decode .a 0xFC02001F = some (.rloop 16 false 31) := by
  decide

/-- Memory, atomic, channel, jump and sync words, field by field from R208 to R217. -/
theorem test_decode_fields_of_memory_and_sync :
    Sys2Proof.decode .c (0x11#6 ++ 3#6 ++ 4#6 ++ 0#1 ++ 0x1FF8#13) = some (.ldI64 ⟨3, 4, false, 0x1FF8⟩) ∧
    Sys2Proof.decode .c (0x1A#6 ++ 3#6 ++ 4#6 ++ 5#6 ++ 0#1 ++ 0#1 ++ 0#4 ++ 1#2) = some (.amoI32 ⟨3, 4, 5, false, false⟩ 0 1) ∧
    Sys2Proof.decode .c (0x1C#6 ++ 3#6 ++ 4#6 ++ 5#6 ++ 0#1 ++ 0#1 ++ 9#4 ++ 3#2) = some (.casI64 ⟨3, 4, 5, false, false⟩ 3) ∧
    Sys2Proof.decode .c (0x1F#6 ++ 34#6 ++ 0#7 ++ 4#3 ++ 15#10) = some (.chbind 34 4 15) ∧
    Sys2Proof.decode .c (0x19#6 ++ 0x3FFFFFF#26) = some (.jal 0x3FFFFFF) ∧
    Sys2Proof.decode .c (0x1D#6 ++ 3#6 ++ 4#6 ++ 0#6 ++ 0#2 ++ 2#6) = some (.spal ⟨3, 4, false⟩) ∧
    Sys2Proof.decode .c (0x1D#6 ++ 0#6 ++ 4#6 ++ 5#6 ++ 0#2 ++ 6#6) = some (.wake ⟨4, 5, false, false⟩) ∧
    Sys2Proof.decode .c (0x1D#6 ++ 3#6 ++ 4#6 ++ 0#6 ++ 0#2 ++ 0x0A#6) = some (.gjoin ⟨3, 4, false⟩) ∧
    Sys2Proof.decode .c (0x1E#6 ++ 0#6 ++ 1#5 ++ 2#5 ++ 3#5 ++ 4#5) = some (.wait 1 2 3 4) := by
  decide

/-- Fabric, cell, matrix and copy words, field by field from R218, R219, R230 and R231. -/
theorem test_decode_fields_of_fabric_and_engines :
    Sys2Proof.decode .c (0x3F#6 ++ 0x14#6 ++ 3#6 ++ 4#6 ++ 5#6 ++ 0#2) = some (.stset ⟨3, 4, 5, false, false⟩) ∧
    Sys2Proof.decode .c (0x3F#6 ++ 0x18#6 ++ 3#6 ++ 4#6 ++ 0#6 ++ 0#2) = some (.hand ⟨3, 4, false⟩) ∧
    Sys2Proof.decode .c (0x3F#6 ++ 0x1B#6 ++ 3#6 ++ 4#6 ++ 0#6 ++ 0#2) = some (.rcirc ⟨3, 4, false⟩) ∧
    Sys2Proof.decode .c (0x3F#6 ++ 0x1E#6 ++ 3#6 ++ 4#6 ++ 5#6 ++ 0#2) = some (.fdown ⟨3, 4, 5, false, false⟩) ∧
    Sys2Proof.decode .c (0x3F#6 ++ 0x22#6 ++ 55#6 ++ 4#6 ++ 0#1 ++ 0#3 ++ 9#4) = some (.spill ⟨55, 4, false, 9⟩) ∧
    Sys2Proof.decode .m (3#6 ++ 5#6 ++ 2#4 ++ 1#3 ++ 3#3 ++ 1#2 ++ 1#1 ++ 0#7) = some (.mret 5 2 1 3 1 true) ∧
    Sys2Proof.decode .x (1#6 ++ 5#6 ++ 1#4 ++ 2#4 ++ 0xABC#12) = some (.xcopy ⟨5, 1, 2, 0xABC⟩) := by
  decide

/-- Words that are no instruction: R24's zero word, add with pop bit 1 on a register (R222), a reserved major. -/
theorem test_decode_refuses : Sys2Proof.decode .c 0 = none ∧ Sys2Proof.decode .c 0x0448C5C0 = none ∧
    Sys2Proof.decode .c 0x80000000 = none ∧ Sys2Proof.decode .c 0x74000040 = none ∧ Sys2Proof.decode .a 0x08000FF0 = none := by
  decide

/-! ## States that meet the hypotheses of the statements -/

/-- The machine with core 0 at work, changed by f; its stream st makes the move. -/
def cs (f : Core → Core) (st : Stream := .c) : State :=
  let s : State := (State.reset.setTask 1 (some fetchTask)).onCore 0 fun c =>
    f { c with pl := { c.pl with task := some 1, phase := .running } }
  { s with turn := ⟨[], 0, st⟩, nextId := 2 }
/-- The control stream changed. -/
def ctl (f : Ctl → Ctl) : Core → Core := fun c => { c with c := f c.c }
/-- Scalar registers with values. -/
def xs (l : SMap Word) : Core → Core := ctl fun c => { c with regs := l }
/-- Channel c0 at the result side of M with two entries, c1 at its feed side, c2 at its full feed side of A; c3 unbound. -/
def chans : Core → Core := fun c => { c with ch := { c.ch with
  table := [(0, some (.result 3)), (1, some (.feed 3)), (2, some (.feed 1))], results := [(3, [7, 9])], feeds := [(1, List.replicate 16 1)] } }

/-- An instruction of C with register operands issues at the last pc but one. -/
theorem test_meets_Issues : Issues (cs (ctl fun c => { c with pc := 16382 })) [(1, false), (31, false)] [4] (some 0) :=
  issues_of_cCheck (by decide) (by decide)
/-- One that pops two entries of a channel and writes a feed side issues. -/
theorem test_meets_Issues_channels : Issues (cs chans) [(32, true), (32, true)] [] (some 33) :=
  issues_of_cCheck (by decide) (by decide)

theorem test_meets_EveryWellFormedInstructionRoundTrips : Instr.wf (.add ⟨4, 35, 5, true, false⟩) = true ∧
    Stream.c ∈ spacesOf (.add ⟨4, 35, 5, true, false⟩) ∧ encode (.add ⟨4, 35, 5, true, false⟩) = some 0x0448C580 := by decide

theorem test_meets_DecodedWordsAreWellFormedAndExact : Sys2Proof.decode .c 0xFCF00000 = some .eret ∧ encode .eret = some 0xFCF00000 := by
  decide

theorem test_meets_StepRunsTheDecodedInstruction :
    (let s : State := State.reset.withFetchWord 32 0x0448C580
     s.turn.agenda = [.stream 0 .c] ∧ s.mayIssue 0 .c = true ∧ s.fetchWord 0 .c = some 0x0448C580 ∧
       Sys2Proof.decode .c 0x0448C580 = some (.add ⟨4, 35, 5, true, false⟩)) ∧
    (cs fun c => { c with pl := { c.pl with imem := [(0, 0x80000000)] } }).fetchWord 0 .c = some 0x80000000 ∧
    Sys2Proof.decode .c 0x80000000 = none ∧ (cs id).mayIssue 0 .c = true ∧
    State.reset.mayIssue 0 .c = false ∧ ((cs fun c => { c with mx := { c.mx with gate := true } }).coreAt 0).mx.gate = true := by decide

theorem test_meets_StepMakesTheDevicesTransitions : State.reset.turn.agenda = [] ∧
    ({ State.reset with turn := ⟨[.event .frameBarrier], 0, .c⟩ } : State).turn.agenda = .event .frameBarrier :: [] := by decide

theorem test_meets_RegisterOperationsGiveTheirResults :
    (∃ lat f, binary (.add ⟨3, 1, 2, false, false⟩) = some (⟨3, 1, 2, false, false⟩, lat, f)) ∧
    Issues (cs (xs [(1, 5), (2, 7)])) [(1, false), (2, false)] [] (some 3) :=
  ⟨⟨_, _, rfl⟩, issues_of_cCheck (by decide) (by decide)⟩

theorem test_meets_UnaryOperationsGiveTheirResults :
    (∃ f, unary (.clz ⟨3, 1, false⟩) = some (3, 1, false, f)) ∧ Issues (cs id) [(1, false)] [] (some 3) ∧ Issues (cs id) [] [] (some 3) :=
  ⟨⟨_, rfl⟩, issues_of_cCheck (by decide) (by decide), issues_of_cCheck (by decide) (by decide)⟩

theorem test_meets_SelAndInsReadTheirDestination : Issues (cs id) [(1, false), (2, false)] [3] (some 3) ∧
    Issues (cs id) [(1, false)] [3] (some 3) :=
  ⟨issues_of_cCheck (by decide) (by decide), issues_of_cCheck (by decide) (by decide)⟩

theorem test_meets_FieldsAreExtractedAndInserted : (0#6).toNat + (63#6).toNat + 1 ≤ 64 ∧ (63 : Nat) < 64 ∧
    (63#6).toNat + (0#6).toNat + 1 ≤ 64 := by decide

theorem test_meets_BitCountsMatchTheirTable : (1 : Word) ≠ 0 ∧ (0x15#6 = 0x15 ∧ 0x17#6 = 0x17) ∧ Issues (cs id) [(1, false)] [] (some 3) :=
  ⟨by decide, by decide, issues_of_cCheck (by decide) (by decide)⟩

theorem test_meets_SourcesReadRegistersAndChannels :
    (chanField 0 = false ∧ fieldNo 0 = 0) ∧ (chanField 31 = false ∧ fieldNo 31 ≠ 0 ∧ ∀ p ∈ (cs id).here.c.pend, p.reg ≠ 31) ∧
    ((cs (ctl fun c => { c with pend := [⟨5, 1, 9⟩] })).here.c.pend.filter fun p => p.reg == 5).getLast? = some ⟨5, 1, 9⟩ ∧
    (chanField 32 = true ∧ (cs chans).queueOf 0 32 = some (.result 3) ∧ (cs chans).entries 0 (.result 3) = 7 :: [9]) := by decide

/-- Results for x0 and for x31; a push of latency 4 to a feed side that an earlier push reaches on the same beat, looked at on that beat and
on the one before, and one that an earlier push reaches later. -/
theorem test_meets_DestinationsTakeResultsAfterTheirShadow : (chanField 0 = false ∧ fieldNo 0 = 0) ∧
    (chanField 31 = false ∧ fieldNo 31 ≠ 0) ∧ (∀ p ∈ (cs id).here.c.pend, p.reg ≠ 31) ∧
    (chanField 33 = true ∧ (cs chans).queueOf 0 33 = some (.feed 3)) ∧
    (let s := cs fun c => { chans c with c := { c.c with pushes := [⟨3, 1, 4⟩, ⟨1, 5, 9⟩] } }
     s.queueOf 0 33 = some (.feed 3) ∧ s.here.c.pushes.filter (fun p => p.feed == 3) = [⟨3, 1, 4⟩] ∧ 3 < s.beat + 4 ∧ s.beat + 4 ≤ 4 ∧
       s.beat + 2 ≤ 3 ∧ 3 < (⟨3, 1, 4⟩ : Push).due) := by decide

/-- The four clauses in turn: an unbound channel; a full feed side; in checked mode a register in its shadow; the last pc. -/
theorem test_meets_ChecksOfR234ComeInOrder : registerOnly (.clz ⟨3, 1, false⟩) = some ([(1, false)], [], some 3) ∧
    (cs chans).srcBound 35 = false ∧ ((cs chans).dstBound 34 = true ∧ (cs chans).dstRoom 34 = false) ∧
    (let s := cs fun c => { c with c := { c.c with pend := [⟨5, 1, 9⟩] }, cr := { c.cr with tcheck := true } }
     s.here.cr.tcheck = true ∧ s.here.shadowed 5 = true ∧ s.srcBound 5 = true ∧ s.srcFull [(5, false)] 5 = true) ∧
    (cs (ctl fun c => { c with pc := 16383 })).here.c.pc = 16383 := by decide

theorem test_meets_RegisterInstructionsLeaveTheRestAlone :
    registerOnly (.add ⟨33, 32, 32, true, true⟩) = some ([(32, true), (32, true)], [], some 33) ∧
    Issues (cs chans) [(32, true), (32, true)] [] (some 33) :=
  ⟨by decide, issues_of_cCheck (by decide) (by decide)⟩

theorem test_meets_HintsOnlyTakeABeat : NotLast (cs (ctl fun c => { c with pc := 16382 })) := by unfold NotLast; decide

/-- A taken branch to the last word, one past it, one not taken; loop with 2 and with 1 left; jumps to the first word and before
it, and a jmp with x31 in its shadow; jr to the last word and past it. -/
theorem test_meets_BranchesTransferOrFallThrough :
    Ready (cs (xs [(1, 1)])) [(1, false)] [] none ∧ Ready (cs (xs [(1, 2)])) [(1, false)] [] (some 1) ∧ Ready (cs id) [] [] (some 31) ∧
    Ready (cs fun c => { c with c := { c.c with pend := [⟨31, 1, 9⟩] }, cr := { c.cr with tcheck := true } }) [] [] none ∧
    (brTaken 1 1 = true ∧ (0 : Int) + (0x3FFF#15).toInt = 16383 ∧ (1 : Int) + (0x3FFF#15).toInt = 16384) ∧
    (brTaken 1 0 = false ∧ NotLast (cs id)) ∧ ((0 : Int) + (0#26).toInt = 0 ∧ (0 : Int) + (0x3FFFFFF#26).toInt = -1) ∧
    ((cs (xs [(1, 16383)])).readSrc 1 false).1.toNat = 16383 ∧ ((cs (xs [(1, 16384)])).readSrc 1 false).1.toNat = 16384 :=
  ⟨ready_of_cCheck (by decide), ready_of_cCheck (by decide), ready_of_cCheck (by decide), ready_of_cCheck (by decide), by decide, ⟨by decide, by unfold NotLast; decide⟩, by decide, by decide⟩

theorem test_meets_ChannelInstructionsActOnTheTable :
    (NotLast (cs chans) ∧ (cs chans).boundElsewhere 35 (queueNamed 3 0) = false ∧ (cs chans).pushesOf 35 = false) ∧
    (Issues (cs chans) [] [] (some 3) ∧ (cs chans).queueOf 0 33 = some (.feed 3) ∧ (cs chans).queueOf 0 32 = some (.result 3)) :=
  ⟨⟨by unfold NotLast; decide, by decide⟩, issues_of_cCheck (by decide) (by decide), by decide⟩

/-- Core 0 with its first 4 KiB region live and the first 512 bytes of it valid; f changes the core. -/
def scrS (f : Core → Core) : State :=
  let s := cs fun c => f { c with pl := { c.pl with regions := [(0, 4096)] } }
  { s with mem := { s.mem with valid := (List.range 128).map fun i => (2 ^ 39 + i, true) } }
/-- A load of core 0 that is queued. -/
def load0 : Access where
  agent := .c
  core := 0
  task := 1
  owner := 0
  loc := .scr 0 0
  va := 0
  op := .load 8 false
  dst := 3
  pc := 0
  issue := 0
  ix := 0
  six := 0
  lq := true
  sq := false
  epoch := 0
  scope := 9
  job := 0
  part := 0
  hist := 0
  sync := none
  chain := 0
  depth := 0
  stage := .queued
  due := 0
  res := .none
  flags := 0
/-- That machine with accesses under way, under the numbers from 2 on. -/
def withAccs (s : State) (l : List Access) : State :=
  { s with accs := (upFrom 2 l.length).zip (l.map some), nextId := 2 + l.length }
/-- An L stream changed. -/
def engL (f : Eng → Eng) : Core → Core := fun c => c.onEng .l f

/-- A load of the last valid word and a store to the last byte of the region. -/
theorem test_meets_ScalarAccessesEnterTheirQueues :
    (∃ f, scalarAccess (.ldI64 ⟨3, 1, false, 504⟩) = some f ∧ Issues (scrS id) f.srcs f.regs f.dst ∧
      (∀ d, f.dst = some d → chanField d = false) ∧ (scrS id).queueRoom f.lq f.sq = true ∧
      (scrS id).chk (f.ea (f.inputs (scrS id)).1) f.align f.width f.need = .ok (.scr 0 504, f.width, 1)) ∧
    ∃ f, scalarAccess (.stI8 ⟨3, 1, false, 4095⟩) = some f ∧ Issues (scrS id) f.srcs f.regs f.dst ∧
      (scrS id).queueRoom f.lq f.sq = true ∧
      (scrS id).chk (f.ea (f.inputs (scrS id)).1) f.align f.width f.need = .ok (.scr 0 4095, f.width, 0) :=
  ⟨⟨_, rfl, issues_of_cCheck (by decide) (by decide), fun d h => by cases h; decide, by decide, rfl⟩,
    ⟨_, rfl, issues_of_cCheck (by decide) (by decide), by decide, rfl⟩⟩

/-- A channel destination; the addresses 2^52 and 2^52 - 1; one past the region; 32 loads out. -/
theorem test_meets_FaultyAccessesTrapAndFullQueuesStall :
    (∃ f, scalarAccess (.ldI64 ⟨33, 1, false, 0⟩) = some f ∧ ∃ d, f.dst = some d ∧ chanField d = true) ∧
    ∃ f, scalarAccess (.ldI64 ⟨3, 1, false, 0⟩) = some f ∧ (∀ d, f.dst = some d → chanField d = false) ∧
      (let s := scrS (xs [(1, 0x10000000000000)])
       Issues s f.srcs f.regs f.dst ∧ (f.ea (f.inputs s).1).toNat = 2 ^ 52) ∧
      (let s := scrS (xs [(1, 0xFFFFFFFFFFFFF)])
       Issues s f.srcs f.regs f.dst ∧ (f.ea (f.inputs s).1).toNat = 2 ^ 52 - 1 ∧ (f.ea (f.inputs s).1).toNat % f.align ≠ 0) ∧
      (let s := scrS (xs [(1, 4096)])
       Issues s f.srcs f.regs f.dst ∧ s.chk (f.ea (f.inputs s).1) f.align f.width f.need = .error (causeUnallocated, 4096)) ∧
      (let s := withAccs (scrS id) (List.replicate 32 load0)
       Issues s f.srcs f.regs f.dst ∧ s.chk (f.ea (f.inputs s).1) f.align f.width f.need = .ok (.scr 0 0, 8, 1) ∧
         f.lq = true ∧ 32 ≤ s.loadsOut s.turn.core) := by
  refine ⟨⟨_, rfl, _, rfl, by decide⟩, _, rfl, fun d h => by cases h; decide, ?_, ?_, ?_, ?_⟩
  · exact ⟨issues_of_cCheck (by decide) (by decide), by decide⟩
  · exact ⟨issues_of_cCheck (by decide) (by decide), by decide, by decide⟩
  · exact ⟨issues_of_cCheck (by decide) (by decide), rfl⟩
  · exact ⟨issues_of_cCheck (by decide) (by decide), rfl, rfl, by decide⟩

/-- Three markers on L; none; one load out and a wait for one; a quiet core. -/
theorem test_meets_MarkersAndCountedWaitsComplete : NotLast (cs id) ∧
    (∀ e ∈ maskStreams 1, ((cs (engL fun g => { g with markers := [1, 1, 1] })).here.eng e).markers.length < 4) ∧
    (∀ e ∈ [Stream.l, .a, .s, .m, .x], ((cs id).here.eng e).markers = []) ∧
    ((withAccs (cs id) [load0]).countsMet 1 0 0 0 = true ∧ (withAccs (cs id) [load0]).takePending ⟨1, 0, 0, false⟩ = none) ∧
    ((cs id).quietBefore (((cs id).inWait.map CWait.acc).getD (cs id).nextId) (((cs id).inWait.map CWait.since).getD (cs id).beat) = true ∧
      (cs id).takePending ⟨0, 0, 0, true⟩ = none ∧
      (cs id).here.cr.fflags &&& (cs id).here.cr.fenable = 0) :=
  ⟨by unfold NotLast; decide, by decide, by decide, ⟨by decide, rfl⟩, by decide, rfl, by decide⟩

/-- A load out and a wait for none; a held fault; a raised and enabled flag; a marker on a stopped stream and on a running one. -/
theorem test_meets_PendingFaultsAreTakenAtWaitsAndFences :
    (withAccs (cs id) [load0]).countsMet 0 0 0 0 = false ∧
    (let s := cs (ctl fun c => { c with held := [⟨0, 8, 64, 0, 3⟩], ldIx := 1 })
     s.countsMet 0 0 0 0 = true ∧ (s.takePending ⟨0, 0, 0, false⟩).isSome = true ∧ s.quietBefore s.nextId s.beat = true ∧ s.inWait = none ∧
       (s.takePending ⟨0, 0, 0, true⟩).isSome = true) ∧
    (let s := cs fun c => { c with cr := { c.cr with fflags := 3, fenable := 2 } }
     s.quietBefore s.nextId s.beat = true ∧ s.takePending ⟨0, 0, 0, true⟩ = none ∧ s.here.cr.fflags &&& s.here.cr.fenable = 2) ∧
    (let s := cs (engL fun g => { g with markers := [1], state := .stopped, fault := some ⟨0x21, 0, 0, 0, 0, 0, 0⟩ })
     [Stream.l, .a, .s, .m, .x].filter (fun e => (s.here.eng e).markers != []) = [.l] ∧ (s.engineReport [.l]).isSome = true) ∧
    (let s := cs (engL fun g => { g with markers := [1], state := .running })
     [Stream.l, .a, .s, .m, .x].filter (fun e => (s.here.eng e).markers != []) = [.l] ∧ s.engineReport [.l] = none) := by
  refine ⟨by decide, ⟨by decide, by decide, by decide, by decide, by decide⟩, ⟨by decide, rfl, by decide⟩, by decide, by decide, rfl⟩

/-- Sizes 0 and 2^22 + 4096; 32 regions; no room; the lowest room after a region; a region that nothing uses. -/
theorem test_meets_RegionsAreAllocatedFirstFit :
    (Issues (cs (xs [(1, 4096)])) [(1, false)] [] (some 3) ∧ (cs id).queueRoom true false = true) ∧
    (4096 % 4096 = 0 ∧ ¬ 2 ^ 22 < 2 ^ 22 ∧ 2 ^ 22 < 2 ^ 22 + 4096 ∧ 4095 % 4096 ≠ 0) ∧
    32 ≤ (cs fun c => { c with pl := { c.pl with regions := (List.range 32).map fun i => (4096 * i, 4096) } }).here.pl.regions.length ∧
    (∀ k, freeRun [(0, 2 ^ 22)] k 4096 = false) ∧
    (freeRun [(0, 4096)] 4096 4096 = true ∧ ∀ j, j < 4096 → freeRun [(0, 4096)] j 4096 = false) ∧
    (let s := scrS id
     Issues s [(1, false)] [] none ∧ s.here.pl.regions.find? (fun r => r.1 == (s.readSrc 1 false).1.toNat) = some (0, 4096) ∧
       s.here.regionInUse 0 0 4096 = false ∧ s.regionBusy 0 0 4096 = false) := by
  refine ⟨⟨issues_of_cCheck (by decide) (by decide), by decide⟩, by decide, by decide, fun k => ?_, ⟨by decide, fun j hj => ?_⟩,
    issues_of_cCheck (by decide) (by decide), by decide, by decide, by decide⟩
  · simp [freeRun]; omega
  · simp [freeRun]; omega

/-- Channel c4 at wake queue 15. -/
def wakeChan : Core → Core := fun c => { c with ch := { c.ch with table := [(4, some (.wakeQ 15))] } }
/-- The C stream in a wait that has brought the value 9. -/
def waited : Core → Core := ctl fun c => { c with cwait := some ⟨0, 0, 1, some 9, none, none⟩ }

/-- A wait that begins at a word of the local window and at a counter; a waiter at a word that differs and at one that agrees, and a
counter at its threshold; a wait that is over; 15 watches armed; a sync word whose generation is 0, asked for 0 and for 1, and one that has failed. -/
theorem test_meets_WaitsOnWordsAndSyncWordsComplete :
    (Issues (scrS id) [(1, false), (2, false)] [] (some 3) ∧ (scrS id).inWait = none ∧ (scrS id).queueRoom true false = true ∧
      (scrS id).waitCheck 0 4 = .ok (.scr 0 0, 4, 1)) ∧
    (let a (v : Word) : Access := { load0 with op := .waddr 4 true v none, stage := .arrived }
     let b : Access := { load0 with op := .sqwait 0, lq := false, stage := .arrived }
     let s := withAccs (scrS id) [a 5, a 0, b]
     s.accAt 2 = some (a 5) ∧ s.accAt 3 = some (a 0) ∧ s.accAt 4 = some b ∧ pocOf s.placing (.scr 0 0) ≠ 20000 ∧
       s.pocFault (.scr 0 0) = none ∧ (s.blkSeen (a 5)).nat 0 4 = 0 ∧
       (mget [] s.mem.waiters (pocOf s.placing (.scr 0 0))).length < waiterRoom (pocOf s.placing (.scr 0 0))) ∧
    (cs waited).inWait = some ⟨0, 0, 1, some 9, none, none⟩ ∧
    (let s := withAccs (scrS wakeChan) (List.replicate 15 { load0 with op := .waddr 4 true 0 (some 15), lq := false })
     s.queueOf s.turn.core 36 = some (.wakeQ 15) ∧ s.watchesOf s.turn.core < 16 ∧ Issues s [(1, false), (2, false)] [] none ∧
       s.waitCheck 0 4 = .ok (.scr 0 0, 4, 1) ∧ s.waitCheck 504 8 = .ok (.scr 0 504, 8, 1)) ∧
    (Issues (scrS id) [(1, false), (2, false)] [] none ∧ (scrS id).queueRoom false true = true ∧
      (scrS id).syncCheck 4080 false = .ok (.scr 0 4080, 16, 0)) ∧
    ((scrS id).syncCheck 496 true = .ok (.scr 0 496, 16, 1) ∧ (scrS id).syncWord 0 496 3 / 4 % 2 = 0 ∧
      (scrS id).genReached 0 496 0 = true ∧ (scrS id).genReached 0 496 1 = false) ∧
    (let s : State := { scrS id with mem := (scrS id).mem.write (2 ^ 41 + 508) (leBytes 4 4) }
     s.syncCheck 496 true = .ok (.scr 0 496, 16, 1) ∧ s.syncWord 0 496 3 / 4 % 2 = 1) := by
  refine ⟨⟨issues_of_cCheck (by decide) (by decide), rfl, by decide, rfl⟩, by decide +kernel, rfl,
    ⟨rfl, by decide, issues_of_cCheck (by decide) (by decide), rfl, rfl⟩,
    ⟨issues_of_cCheck (by decide) (by decide), by decide, rfl⟩, ⟨rfl, by decide, by decide, by decide⟩, rfl, by decide⟩

/-- The task of core 0 in the groups gs, and group 5 as g. -/
def grp (gs : List Nat) (g : Group) (f : Core → Core := id) : State :=
  { ((cs f).setTask 1 (some { fetchTask with groups := gs })) with groups := [(5, g)] }
/-- A live group of incarnation 1 with these members. -/
def live1 (ms : List Nat) : Group := ⟨.live, 1, ms, 0, 3, 0⟩

/-- The refusals and the joining of R59 in turn, for handle 0x501; a member and no member; a member with nothing outstanding that has
not arrived, and every member arrived; an arrival at a generation that has ended and at one that has not. -/
theorem test_meets_GroupsAreJoinedLeftAndMet :
    (Issues (grp [] (live1 []) (xs [(1, 0x501)])) [(1, false)] [] (some 3) ∧ handleId 0x501 = 5) ∧
    (∃ y, (grp [] (live1 [])).taskAt 1 = some y ∧ y.groups.length < 4 ∧ y.owner = 0) ∧
    (1 ∈ ((grp [] (live1 [1])).groupAt 5).members ∧ 1 ∉ ((grp [] (live1 [2])).groupAt 5).members) ∧
    (∃ y, (grp [1, 2, 3, 4] (live1 [])).taskAt 1 = some y ∧ 4 ≤ y.groups.length) ∧
    ((grp [] ⟨.quarantine, 1, [], 0, 0, 0⟩).groupAt 5).st = .quarantine ∧
    (((grp [] (live1 [])).groupAt 5).inc.toNat = 0x501 % 256 ∧ ((grp [] (live1 [])).groupAt 5).inc.toNat ≠ 0x502 % 256) ∧
    (((grp [] { live1 [] with owner := 1 }).groupAt 5).st = .live ∧ ((grp [] { live1 [] with owner := 1 }).groupAt 5).owner ≠ 0) ∧
    ((grp [0x501] (live1 [1])).isMember 1 0x501 = true ∧ (grp [] (live1 [1])).isMember 1 0x501 = false) ∧
    (let s : State := (grp [0x501] (live1 [1])).onTask 1 fun x => { x with arrived := [(5, 3)] }
     s.isMember 1 0x501 = true ∧ s.arrival 1 5 = some 3 ∧ (s.groupAt 5).gen = 3) ∧
    (let s : State := (grp [0x501] (live1 [1])).onTask 1 fun x => { x with arrived := [(5, 2)] }
     s.arrival 1 5 = some 2 ∧ (s.groupAt 5).gen ≠ 2) ∧
    (let s : State := grp [0x501] (live1 [1])
     s.isMember 1 0x501 = true ∧ s.arrival 1 5 = none ∧ s.loadsOut s.turn.core = 0 ∧ s.storesOut s.turn.core = 0 ∧
       s.takePending ⟨0, 0, s.here.c.cpIx, false⟩ = none) ∧
    (let s : State := (grp [0x501] (live1 [1])).onTask 1 fun x => { x with arrived := [(5, 3)] }
     (s.groupAt 5).members ≠ [] ∧ (s.arrivals 5).length = (s.groupAt 5).members.length) := by
  refine ⟨⟨issues_of_cCheck (by decide) (by decide), by decide⟩, ⟨_, rfl, by decide, rfl⟩, by decide, ⟨_, rfl, by decide⟩, by decide,
    by decide, by decide, by decide, by decide, by decide, ⟨by decide, by decide, by decide, by decide, rfl⟩, by decide⟩

/-- All streams idle, with slip depths 1 and 32; done streams; a stream without micro-orders. -/
theorem test_meets_EngineControlStartsAndStopsStreams :
    (Issues (cs id) [(1, false), (2, false)] [] none ∧ (∀ e ∈ maskStreams 31, ((cs id).here.eng e).state = .idle) ∧
      forkOk 31 0 0x1002000 = true ∧ (cs id).engineReport (maskStreams 31) = none) ∧
    (∀ e ∈ maskStreams 1, ((cs (engL fun g => { g with state := .done })).here.eng e).state = .done) ∧
    (∀ e ∈ maskStreams 31, (cs id).here.ordersOut e = false) ∧
    (maskStreams 4 = [.s] ∧ Issues (cs (xs [(1, 0x1FFF)])) [(1, false)] [] none ∧ bitsOf (0x1FFF : Word) 13 51 = 0) := by
  refine ⟨⟨issues_of_cCheck (by decide) (by decide), by decide, by decide, rfl⟩, by decide, by decide, rfl,
    issues_of_cCheck (by decide) (by decide), by decide⟩

/-- A binding of the first 64 local bytes, seven beats after its stall began; a descriptor of a task in the scratchpad. -/
theorem test_meets_BindingsAndPostsComplete :
    (let s : State := { (scrS fun c => ctl (fun k => { k with regs := [(2, 63)], cwait := some ⟨0, 0, 1, none, none, none⟩ }) c) with beat := 7 }
     Issues s [(1, false), (2, false)] [] none ∧ s.inWait = some ⟨0, 0, 1, none, none, none⟩ ∧
       s.binding 3 0 63 = .ok (⟨0, 64, true, true, 0, 0, 0, [⟨0, 64, .scr 0 0, 0⟩], 2⟩, []) ∧ 0 + 7 + 0 ≤ s.beat) ∧
    NotLast (cs id) ∧
    (let s := scrS id
     Issues s [(1, false)] [] (some 3) ∧ s.queueRoom true false = true ∧
       (s.blockCheck .load 0 2).bind (noPeer 0) = .ok [.scr 0 0, .scr 0 64] ∧
       s.condCheck (s.descWords [.scr 0 0, .scr 0 64]) (min 4 (descConds (s.descWords [.scr 0 0, .scr 0 64]))) = none ∧
       [Loc.scr 0 0, .scr 0 64].findSome? s.pocFault = none) := by
  refine ⟨⟨issues_of_cCheck (by decide) (by decide), rfl, rfl, by decide⟩, by unfold NotLast; decide,
    issues_of_cCheck (by decide) (by decide), by decide, rfl, by decide, by decide⟩

/-- A quiet core; a running engine and no request that can be taken; one that can. -/
theorem test_meets_TasksEndByHaltAndTail :
    (let s := cs id
     s.here.enginesRest = true ∧ s.engineReport [.l, .a, .s, .m, .x] = none ∧ s.takePending ⟨0, 0, 0, true⟩ = none ∧
       s.here.cr.fflags &&& s.here.cr.fenable = 0 ∧ s.here.tr.events = [] ∧
       s.quietBefore ((s.inWait.map CWait.acc).getD s.nextId) ((s.inWait.map CWait.since).getD s.beat) = true ∧
       s.loadsLeft = false ∧ s.trackerNeed ≤ 8 ∧ s.here.pl.tailed = none) ∧
    (let s := cs fun c => c.onEng .a fun g => { g with state := .running }
     s.here.enginesRest = false ∧ s.canPreempt s.turn.core = false ∧ NotLast s) ∧
    (let s := (cs fun c => { c with pl := { c.pl with preempt := true } }).onTask 1 fun x => { x with slot := some 0 }
     s.canPreempt s.turn.core = true) :=
  ⟨⟨by decide, rfl, rfl, by decide, by decide, by decide, by decide, by decide, rfl⟩, ⟨by decide, by decide, by unfold NotLast; decide⟩, by decide⟩

/-- A die with a handler image. -/
def withHandler (s : State) : State := s.onDie 0 fun d => { d with hvec := 1 }

theorem test_meets_TrapEntrySavesAndEntersTheHandler :
    (let s := withHandler (cs id)
     (s.coreAt 0).c.hlevel = false ∧ (s.dieAt (dieOf 0)).hvec ≠ 0) ∧ dieOf 0 = 0 ∧ dieOf 191 = 7 := by decide

theorem test_meets_TcauseAndSstateHoldTheirFields :
    (⟨6, 5, 0xFF, 0, 0, 0, 0, 0, 0, none⟩ : Report).stream ≤ 5 ∧ (⟨6, 5, 0xFF, 0, 0, 0, 0, 0, 0, none⟩ : Report).kind ≤ 6 := by decide

theorem test_meets_HandlerLevelFaultsFailTheTask : ((cs (ctl fun c => { c with hlevel := true })).coreAt 0).c.hlevel = true ∧
    ((cs id).coreAt 0).c.hlevel = false ∧ ((cs id).dieAt (dieOf 0)).hvec = 0 := by decide

/-- A handler with nothing in flight, with tctl.fail and without; a stopped stream that tctl.restart names. -/
theorem test_meets_CallsTrapAndEretReturns : NotLast (cs (ctl fun c => { c with pc := 16382 })) ∧
    (let s := cs (ctl fun c => { c with hlevel := true })
     s.here.c.hlevel = true ∧ s.cInFlight s.turn.core = false ∧ s.here.tr.fail = false) ∧
    (cs fun c => { c with tr := { c.tr with fail := true } }).here.tr.fail = true ∧
    (let s := cs fun c => engL (fun g => { g with state := .stopped, fault := some ⟨0x21, 3, 4, 0, 0, 0, 0⟩ })
       { c with tr := { c.tr with restart := 1 } }
     s.here.tr.restart.getLsbD (Stream.idx .l) = true ∧ (s.here.eng .l).state = .stopped ∧ (s.here.eng .l).fault.isSome = true) := by
  refine ⟨by unfold NotLast; decide, by decide, by decide, by decide⟩

/-- The registers at the ends of each range: 0x05 and 0x40; 0x04 and 0x0C; 0x42, 0x45 and 0x4C. Grants and features absent, and
feature 2 present without the grant. -/
theorem test_meets_PrivilegeIsCheckedByLevelGrantAndFeature :
    ((0x05#7 = 0x05 ∨ 0x40 ≤ (0x05#7).toNat) ∧ (0x40 ≤ (0x40#7).toNat)) ∧ ((0x04#7).toNat ≤ 0x04 ∧ 0x42 ≤ (0x42#7).toNat ∧ (0x45#7).toNat ≤ 0x45) ∧
    ((cs id).convGrant = false ∧ (cs id).feature 1 = false ∧ (cs id).feature 2 = false ∧ (cs id).feature 3 = false) ∧
    (let s : State := { cs id with boot := { Boot.rest with go := true, accepted := 4 } }
     s.feature 2 = true ∧ s.circGrant = false) := by decide

theorem test_meets_ControlRegistersAreReadAndWritten : Issues (cs id) [] [] (some 3) ∧ Issues (cs id) [(1, false)] [] (some 3) ∧
    (csrReadOnly 0x08 = false ∧ csrHandlerOnly 0x08 = false) ∧ (csrReadOnly 0x57 = false ∧ csrHandlerOnly 0x57 = true) :=
  ⟨issues_of_cCheck (by decide) (by decide), issues_of_cCheck (by decide) (by decide), by decide, by decide⟩

/-- With feature bits accepted. -/
def feat (s : State) (w : Word) : State := { s with boot := { s.boot with go := true, accepted := w } }
/-- Owner 0 with the conveyor and the circuit grant. -/
def grants0 (s : State) : State := s.onOwner 0 fun o => { o with conv := true, circ := true }
/-- A local window of n valid words in one region. -/
def scrN (n : Nat) (f : Core → Core) : State :=
  let s := cs fun c => f { c with pl := { c.pl with regions := [(0, 65536)] } }
  { s with mem := { s.mem with valid := (List.range n).map fun i => (2 ^ 39 + i, true) } }

/-- Records of zeros in the local window; a handle that names no group; flag 15; core 191. -/
theorem test_meets_ConveyorInstructionsAnswerTheirCodes :
    (let s := grants0 (scrN 128 id)
     s.convGrant = true ∧ Issues s [(1, false), (2, false)] [] (some 3) ∧ Issues s [(1, false)] [] (some 3) ∧
       s.stRec 480 = .ok ⟨0, 0, 0⟩ ∧ s.localPieces 0 6 = .ok () ∧ s.localPieces 0xC0 (s.dealRec 0).recs.length = .ok ()) ∧
    bitsOf (0xFFFFFF : Word) 24 40 = 0 ∧
    (bitsOf (0x1F : Word) 5 59 = 0 ∧ 0 ≤ (((cs id).stationFlag 0 15).extractLsb' 32 32 - (0 : Word).setWidth 32).toInt ∧
      ((cs id).stationFlag 0 15).getLsbD 7 = false) ∧
    ((cs id).queueRoom true true = true ∧ ((cs (xs [(1, 191)])).readSrc 1 false).1.toNat < 192) := by
  refine ⟨⟨by decide, issues_of_cCheck (by decide) (by decide), issues_of_cCheck (by decide) (by decide), rfl, rfl, rfl⟩, by decide,
    by decide, by decide⟩

/-- A record of fifty blocks in the local window, in warn mode; port 47. -/
theorem test_meets_CircuitInstructionsAnswerTheirCodes :
    (let s := grants0 (feat (scrN 0 fun c => { c with cr := { c.cr with spwarn := true } }) 4)
     s.feature 2 = true ∧ s.circGrant = true ∧ Issues s [(1, false)] [] (some 3) ∧
       (s.blockCheck .load 0 50).bind (noPeer 0) = .ok ((List.range 50).map fun i => .scr 0 (64 * i)) ∧
       ((List.range 50).map fun i => Loc.scr 0 (64 * i)).findSome? s.pocFault = none) ∧
    ((cs (xs [(1, 47)])).readSrc 1 false).1.toNat < 48 := by
  refine ⟨⟨by decide, by decide, issues_of_cCheck (by decide) (by decide), by decide +kernel, by decide +kernel⟩, by decide⟩

/-- A lease of sixteen registers of core 1. -/
def leased : Core → Core := fun c => { c with pl := { c.pl with lease := some ⟨1, List.range 16, 0, false, []⟩ } }

/-- A cell and a descriptor of zeros in the local window; a lease of sixteen slots of which the last is named. -/
theorem test_meets_CellAndLeaseInstructionsComplete :
    (let s := feat (scrN 128 id) 2
     s.feature 1 = true ∧ Issues s [(1, false), (2, false)] [] (some 3) ∧ s.queueRoom true true = true ∧ s.cellCheck 64 = .ok (.scr 0 64) ∧
       s.localBlock 448 = .ok (.scr 0 448) ∧ cellDescOk (s.readBlk (.scr 0 448)) = true ∧ s.valueBlock 448 = .ok (.scr 0 448)) ∧
    (let s := feat (scrN 128 fun c => xs [(1, 1)] (leased c)) 8
     s.feature 3 = true ∧ Issues s [(1, false), (2, false)] [] (some 3) ∧ Issues s [(1, false)] [] none ∧
       s.here.leaseSlot 15 0 = some 15 ∧ s.here.pl.lent.contains (physV (s.here.eng .a).rb 55) = false ∧
       s.queueRoom true false = true ∧ s.queueRoom false true = true ∧
       (s.here.pl.lease.map Lease.lessor = some 1 ∧ bitsOf (1 : Word) 2 62 = 0 ∧ 1 % 4 = bitsOf (1 : Word) 0 2 ∧ s.spillsOf 0 = [])) := by
  refine ⟨⟨by decide, issues_of_cCheck (by decide) (by decide), by decide, rfl, rfl, by decide, rfl⟩,
    by decide, issues_of_cCheck (by decide) (by decide), issues_of_cCheck (by decide) (by decide), by decide, by decide, by decide, by decide,
    by decide⟩

/-- Step 8190 before an ordinary word; a stream with no micro-order out. -/
theorem test_meets_EngineControlWordsComplete :
    (let s := cs (fun c => engL (fun g => { g with step := 8190 }) { c with pl := { c.pl with omem := [(8191, 0x052C0001)] } }) .l
     s.eng.step ≠ 8191 ∧ s.nextBars = false) ∧ ((cs id .l).here.ordersOut .l = false ∧ (cs id .l).eng.pushing = []) := by decide

/-- Base 0 at the first 4 KiB of the local window, base 1 at the shared memory of die 0, base 2 at a peer; nest set 0 walks base 0
in one vector and nest set 1 in 256 vectors of the same place. -/
def bases : Core → Core := fun c => { c with ve := { c.ve with
  bases := [(0, ⟨0, 4096, true, true, 0, 0, 0, [⟨0, 4096, .scr 0 0, 0⟩], 11⟩),
            (1, ⟨2 ^ 22, 4096, true, true, 0, 0, 0, [⟨2 ^ 22, 4096, .dsm 0 0, 0⟩], 12⟩),
            (2, ⟨2 ^ 23, 4096, true, true, 0, 0, 0, [⟨2 ^ 23, 4096, .peer 5 1 0, 0⟩], 13⟩)],
  nests := [(1, BitVec.ofNat 256 (255 * 2 ^ 32))] } }

/-- The last 256 bytes and the last 64 that are valid; 32 bytes of a nest set; ports at rest. -/
theorem test_meets_LoadAndStoreMicroOrdersComplete :
    (let s : State := { scrN 128 bases with turn := ⟨[], 0, .l⟩ }
     EngineReady s 0 0 ∧ s.lentAsk (s.physHere 55) = .ok ∧ s.readAsk 0 256 256 = .ok ∧ s.readAsk 0 448 64 = .ok ∧ s.readAsk 0 480 32 = .ok ∧
       (let q := s.here.inPort 7
        s.bindAsk (q.done && q.fifo == [] && q.pos == q.asked && q.cursor == 0) 0 false = .ok)) ∧
    (let s : State := { scrN 128 bases with turn := ⟨[], 0, .s⟩ }
     EngineReady s 0 0 ∧ s.engReach 0 .s (s.baseHere 0) true 3840 256 0x2C = .ok (3840, .scr 0 3840) ∧ s.bindAsk true 0 true = .ok) := by
  refine ⟨⟨⟨by decide, by decide, by decide⟩, by decide +kernel⟩, ⟨by decide, by decide, by decide⟩, by decide +kernel⟩

/-- The micro-orders of A on v1 and v2 into v3, with a guard and without link tokens. -/
def aOrders2 (o : AForm) : List Instr :=
  [.vaddI8 o, .vaddI32 o, .vaddF32 o, .vaddB16 o, .vsubI8 o, .vsubI32 o, .vsubF32 o, .vsubB16 o, .vmulI32 o, .vmulF32 o, .vmulB16 o,
    .vfmaF32 o, .vfmaB16 o, .vfmsF32 o, .vfmsB16 o, .vminI32 o, .vminF32 o, .vminB16 o, .vmaxI32 o, .vmaxF32 o, .vmaxB16 o, .vand o,
    .vor o, .vxor o, .vandn o, .vshl o, .vshr o, .vsra o, .vcmpEqI32 o, .vcmpEqF32 o, .vcmpEqB16 o, .vcmpLtI32 o, .vcmpLtF32 o,
    .vcmpLtB16 o, .vcmpLeI32 o, .vcmpLeF32 o, .vcmpLeB16 o, .vsel o, .vpermI8 o, .vpermI32 o, .vclampI32 o, .vclampF32 o,
    .vclampB16 o]
/-- Those on v1 into v3. -/
def aOrders1 (u : AUForm) : List Instr :=
  [.vmovI8 u, .vmovI32 u, .vmovF32 u, .vmovB16 u, .vabsI8 u, .vabsI32 u, .vabsF32 u, .vabsB16 u, .vnegI8 u, .vnegI32 u, .vnegF32 u,
    .vnegB16 u, .vsumI32 u, .vsumF32 u, .vsumB16 u, .vscanI32 u, .vscanF32 u, .vscanB16 u, .vrcpF32 u, .vrcpB16 u, .vrsqF32 u,
    .vrsqB16 u, .vex2F32 u, .vex2B16 u, .vlg2F32 u, .vlg2B16 u, .vbc u 63, .vcvtI8 u 0 3, .vcvtI32 u 0 3, .vcvtF32 u 0 4,
    .vcvtB16 u 0 3, .vcvtE4 u 0 3, .vcvtE5 u 0 3, .vcvtF4 u 0 3, .vcvtDs8 u 0 3, .vqmax u 5 1, .vqcvt u 0 0 1, .vqcvtI8 u 0 1, .vdq u 1]
/-- Both, under guard g. -/
def aOrders (g : BitVec 3) : List Instr := aOrders2 ⟨3, 1, 2, g, false, 0⟩ ++ aOrders1 ⟨3, 1, g, false, 0⟩

/-- Whether the state meets what VectorMicroOrdersComplete asks of an order. -/
def aMeets (s : State) (i : Instr) : Bool :=
  match vectorForm s i with
  | some f => (s.popped f.k).aAsk f.d f.m f.g f.sense f.srcs f.use f.gw f.run == .ok
  | none => false

/-- Every micro-order of A but vqcvt and vdq issues on the first beat of a fork; vqcvt with its quantiser state made, vdq with a
block in E4M3; and every one under a guard that does not hold. -/
theorem test_meets_VectorMicroOrdersComplete :
    (EngineReady (cs id .a) 0 0 ∧ ((aOrders 7).take 79).all (aMeets (cs id .a)) = true) ∧
    (let q (t : Nat) : Core → Core := fun c => { c with ve := { c.ve with qs := ⟨true, 3, t, 0, 0⟩ } }
     aMeets (cs (q 5) .a) (.vqcvt ⟨3, 1, 7, false, 0⟩ 0 0 1) = true ∧ aMeets (cs (q 1) .a) (.vqcvtI8 ⟨3, 1, 7, false, 0⟩ 0 1) = true) ∧
    aMeets (cs (fun c => { c with ve := { c.ve with v := [(1, ⟨0, tags4 0x0500⟩)] } }) .a) (.vdq ⟨3, 1, 7, false, 0⟩ 1) = true ∧
    ((aOrders 0).all (aMeets (cs id .a)) = true ∧ ((cs id .a).guardOn 0 false).1 = false ∧ ((cs id .a).guardOn 7 false).1 = true) := by
  refine ⟨⟨⟨by decide, by decide, by decide⟩, by decide +kernel⟩, by decide +kernel⟩

/-- Every scalar access, at local address 0 with x2 = 0, passes its checks. -/
theorem test_meets_ScalarAccessesEnterTheirQueues_each :
    (let r : RForm := ⟨3, 1, 2, false, false⟩
     let o : IForm := ⟨3, 1, false, 0⟩
     ([.ldI8 o, .ldB16 o, .ldI32 o, .ldN32 o, .ldI64 o, .stI8 o, .stB16 o, .stI32 o, .stI64 o, .amoI32 r 0 0, .amoFadd r 0, .amoN32 r 7 3,
       .amoI64 r 6 2, .casI32 r 0, .casN32 r 0, .casI64 r 0, .sqadd ⟨1, 2, false, false⟩ 0, .wake ⟨1, 2, false, false⟩,
       .fpeek ⟨3, 1, false⟩] : List Instr).all fun i => match scalarAccess i with
        | some f => (scrS id).cCheck f.srcs f.regs f.dst == .ok && (scrS id).queueRoom f.lq f.sq &&
            (match (scrS id).chk (f.ea (f.inputs (scrS id)).1) f.align f.width f.need with
              | .ok (l, w, _) => l == .scr 0 0 && w == f.width
              | .error _ => false)
        | none => false) = true := by decide +kernel

theorem test_meets_LanesAreComputedOneByOne : Sfx.i8 ∈ [Sfx.i8, Sfx.i32, Sfx.n32, Sfx.f32, Sfx.b16] ∧ (255 : Nat) < 2048 / Sfx.i8.w ∧
    ¬ (256 : Nat) < 2048 / Sfx.i8.w := by decide

theorem test_meets_SelectionPermutationAndGuards : (∃ f, vectorForm (cs id .a) (.vsel ⟨3, 1, 2, 7, false, 0⟩) = some f) ∧
    (∃ f, vectorForm (cs id .a) (.vbc ⟨3, 1, 7, false, 0⟩ 63) = some f) ∧ (∃ f, vectorForm (cs id .a) (.vpermI8 ⟨3, 1, 2, 7, false, 0⟩) = some f) ∧
    (∃ f, vectorForm (cs id .a) (.vpermI32 ⟨3, 1, 2, 7, false, 0⟩) = some f) ∧ EngineReady (cs id .a) 0 0 ∧
    (let s := cs (fun c => { c with cr := { c.cr with tcheck := true } }) .a
     EngineReady s 0 0 ∧ s.here.cr.tcheck = true ∧ ∀ v, v < 16 → s.here.gBusy (physG s.eng.rb v) = false) :=
  ⟨⟨_, rfl⟩, ⟨_, rfl⟩, ⟨_, rfl⟩, ⟨_, rfl⟩, ⟨by decide, by decide, by decide⟩, ⟨by decide, by decide, by decide⟩, by decide, by decide⟩

/-- M at beat 32 with tile w0 of integer weights, all absent, selected on beat 0, and port i0 with one row of integers; M's feed side
holds a stamp. -/
def mState : State :=
  let s : State := cs (fun c => { bases c with
    mx := { c.mx with sel := some (0, 0), wtiles := [(0, { WTile.rest with state := .resident })] }
    tr := { c.tr with mbase := 32 }
    ch := { c.ch with feeds := [(3, [99])] }
    pl := { c.pl with regions := [(0, 65536)] }
    ve := { (bases c).ve with ins := [(0, { InPort.rest with bound := true, toM := true, fifo := [⟨0, tags4 0x0100⟩] })],
                              nests := [(2, BitVec.ofNat 256 (255 * 2 ^ 32))] } }) .m
  { (s.onTask 1 fun x => { x with rdepth := 1000 }) with beat := 32 }

/-- A stamp that comes on the next beat and one that has just come; a free tile and converter; a walk of 256 vectors; a feed side that holds a stamp. -/
theorem test_meets_MatrixMicroOrdersComplete : (31 : Nat) < ({ mState with beat := 31 } : State).macStamp 0 ∧ mState.macStamp 0 ≤ mState.beat ∧
    (match (mState.onHere fun c => c.onMat fun m => { m with reached := none }).macStart 0 0 7 0 (mState.macStamp 0) 32 with
      | .ok _ => true
      | .error _ => false) = true ∧
    EngineReady mState 0 63 ∧ mState.here.tileBusy 7 true = false ∧ mState.here.tileBusy 7 false = false ∧
    mState.here.mx.convBusy ≤ mState.beat ∧ mget [] mState.here.ch.feeds 3 = 99 :: [] ∧
    mState.retCheck (mget 0 mState.here.ve.nests 2) 3 = none :=
  ⟨by decide, by decide, by decide +kernel, ⟨by decide, by decide, by decide⟩, by decide, by decide, by decide, by decide, by decide +kernel⟩

/-- X with the words ws as the descriptor at index 0, and port 0 joined to package 5 in every slot. -/
def xState (ws : List Nat) : State :=
  let s : State := { feat (scrN 128 bases) 4 with turn := ⟨[], 0, .x⟩ }
  { s with mem := ((List.range ws.length).zip ws).foldl (fun m e => m.write (2 ^ 41 + 8 * e.1) (leBytes e.2 8)) s.mem
           circ := { s.circ with active := { s.circ.active with words := [(0, 0x80280000)] } } }
/-- Whether the state meets what CopyMicroOrdersComplete asks of an order of this kind. -/
def xMeets (s : State) (kind : Nat) (o : XOForm) : Bool :=
  (s.popped 0).xAsk kind o == .ok && (match (taken s 0).xDesc o.i.toNat with
    | .ok _ => true
    | .error _ => false)

/-- One block each: local to shared memory and within the window, gathered and scattered; a weight block; a sum into shared memory; a
send and an enqueue to the peer, which base 2 names; one chunk kept by nobody, and one kept here in a buffer of handle 0. -/
theorem test_meets_CopyMicroOrdersComplete : EngineReady (xState [1]) 0 63 ∧ xMeets (xState [1]) 1 ⟨63, 0, 1, 0⟩ = true ∧
    xMeets (xState [2 ^ 60 + 1]) 2 ⟨63, 0, 0, 0⟩ = true ∧ xMeets (xState [2 ^ 60 + 1]) 3 ⟨63, 0, 0, 0⟩ = true ∧
    xMeets (xState [1]) 4 ⟨63, 0, 15, 0⟩ = true ∧ xMeets (xState [1]) 5 ⟨63, 0, 1, 0⟩ = true ∧
    xMeets (xState [1, 0, 0, 0, 0, 1]) 6 ⟨63, 0, 2, 0⟩ = true ∧ xMeets (xState [1]) 7 ⟨63, 0, 2, 0⟩ = true ∧
    xMeets (xState [8]) 8 ⟨63, 0, 0, 0⟩ = true ∧ ((xState [1]).baseHere 2).peer = some (5, 1) ∧
    (xMeets (xState [8, 0, 0, 0, 0x80]) 8 ⟨63, 0, 1, 0⟩ = true ∧ dKeep [8, 0, 0, 0, 0x180] = true) :=
  ⟨⟨by decide, by decide, by decide⟩, by decide +kernel⟩

/-- A prefix whose token is not high enough; a pop without its token; a port without a vector; a lent register. -/
theorem test_meets_MicroOrdersWaitOrStopTheirStream :
    (let s := cs (fun c => c.onEng .a fun g => { g with prefx := some (5, 0, 0) }) .a
     s.here.prefixMet s.eng = false) ∧ (cs id .a).here.popsMet .a 8 = false ∧
    (let s := cs (fun c => { c with ve := { c.ve with ins := [(0, { InPort.rest with bound := true })] } }) .a
     EngineReady s 0 0 ∧ ∃ f, vectorForm s (.vmovI8 ⟨3, 56, 7, false, 0⟩) = some f ∧
       (s.popped f.k).aAsk f.d f.m f.g f.sense f.srcs f.use f.gw f.run = .stall) ∧
    (let s := cs (fun c => { c with pl := { c.pl with lent := [3] } }) .a
     EngineReady s 0 0 ∧ s.eng.state ≠ .stopped ∧ ∃ f, vectorForm s (.vmovI8 ⟨3, 1, 7, false, 0⟩) = some f ∧
       (s.popped f.k).aAsk f.d f.m f.g f.sense f.srcs f.use f.gw f.run = .fault (.of 0x4A)) := by
  refine ⟨by decide, by decide, ⟨⟨by decide, by decide, by decide⟩, _, rfl, by decide +kernel⟩,
    ⟨by decide, by decide, by decide⟩, by decide, _, rfl, by decide +kernel⟩

theorem test_meets_ArithmeticMicroOrdersTouchOnlyTheirJob :
    (let s := cs (fun c => c.onEng .a fun g => { g with step := 8190 }) .a
     s.turn.stream = .a ∧ s.eng.step ≠ 8191 ∧ EngineReady s 0 0 ∧ aMeets s (.vaddI32 ⟨3, 1, 2, 7, false, 0⟩) = true) :=
  ⟨by decide, by decide, ⟨by decide, by decide, by decide⟩, by decide +kernel⟩

/-- A bundle of 4,096 zero bytes whose header gives another length. -/
def bundle0 : Bundle := ⟨0x56424C50, 0, 0, 0, 0, 0, [], 0, [], List.replicate 4096 0⟩

/-- Each state of the boot in turn. The two outcomes of a verification rest on the hash and the signature checks of the part, which
are constants without a body (log 9); a header that gives another length than the body's fails in every part. -/
theorem test_meets_BootRunsToOperation :
    (let s : State := { State.reset with boot := { Boot.rest with state := 1, flash := some { bundle0 with magic := 0 } } }
     s.boot.state = 1 ∧ s.boot.flash = some { bundle0 with magic := 0 } ∧ bundleCode s.fused { bundle0 with magic := 0 } = 1) ∧
    (let s : State := { State.reset with boot := { Boot.rest with state := 2 } }
     s.boot.state = 2 ∧ (2 ^ 40 - 1 < 2 ^ 40 ∧ ¬ (2 ^ 40 : Nat) < 2 ^ 40) ∧ (2 ^ 34 - 1 : Nat) < 2 ^ 34) ∧
    (let s (w : Word) : State := { State.reset with boot := { Boot.rest with state := 3, accepted := w } }
     (s 0x1FF).boot.state = 3 ∧ (s 0x1FF).boot.accepted &&& ~~~0x1FF#64 = 0 ∧ (s 0x200).boot.accepted &&& ~~~0x1FF#64 ≠ 0) := by
  refine ⟨⟨rfl, rfl, ?_⟩, by decide, by decide⟩
  unfold bundleCode
  exact if_pos (Or.inl (by decide))

/-- Where a bundle passes the checks of the part, the clause of a good bundle has its hypotheses. -/
theorem test_meets_BootRunsToOperation_good (b : Bundle) (h : bundleCode State.reset.fused b = 0) :
    (let s : State := { State.reset with boot := { Boot.rest with state := 1, flash := some b } }
     s.boot.state = 1 ∧ s.boot.flash = some b ∧ bundleCode s.fused b = 0) := ⟨rfl, rfl, h⟩

/-- HBM of owner 0 with these words from physical address 0x1000 on; image 7, for owner 0, lies there. -/
def imgState (ws : List Nat) : State :=
  { State.reset with
    mem := ((List.range ws.length).zip ws).foldl (fun m e => m.write (0x1000 + 8 * e.1) (leBytes e.2 8))
      { Mem.rest with keys := [(0x40, some 0), (0x41, some 0)] }
    images := [(7, some ⟨1, 0x1000, 64⟩)] }
/-- The header of an image of one instruction word. -/
def head1 : List Nat := [0x444C4948, 0, 0, 0x10000, 0, 0, 0, 0, 0x04000000]
/-- A command with its arguments. -/
def cmdS (s : State) (l : List Word) (run : Nat) : State :=
  { s with cmd := { args := (upFrom 0 l.length).zip l, busy := run != 0, run := run, result := 0 } }

/-- Recovery and none; a good image and a bad one; a handle that nothing names; entry 63, and the page entry at 0x1000; a row, rows that are all good and one
that is not; a hand of handle 256; versions 64 and 0; the last pins
gone; owner 15 with and without live; a handler image; empty tables; the last group of rows. -/
theorem test_meets_DriverCommandsComplete :
    (State.reset.boot.state ≠ 8 ∧ ({ State.reset with boot := { Boot.rest with state := 8 } } : State).boot.state = 8) ∧
    (let s := cmdS (imgState head1) [8, 1, 0x1000, 128] 0
     s.cmd.busy = false ∧ s.imageCode 8 0x1000 128 = 0 ∧ s.imageCode 8 0x1000 127 = 4 ∧ s.entryNames 8 = false ∧ s.cellNames 8 = false) ∧
    (let s := cmdS State.reset [15, 1, 63] 0
     s.cmd.busy = false ∧ (s.arg 0).toNat < 16 ∧ s.arg 1 = 1 ∧ (s.arg 2).toNat < 64) ∧
    (let s := cmdS (imgState head1) [15, 0, 0x1000] 0
     s.cmd.busy = false ∧ (s.arg 0).toNat < 16 ∧ s.arg 1 = 0 ∧ (s.arg 2).toNat + 16 ≤ 2 ^ 40 ∧ s.hbmWord ((s.arg 2).toNat + 8) = some 0) ∧
    (let s := cmdS State.reset [0x7FFFF, 0xF000000, 1] 0
     s.arg 2 = 1 ∧ (s.rowAt 0 0x7FFFF).bad = [] ∧ rowArg (s.arg 0) = (0, 0x7FFFF) ∧ (s.copyRows 0 0x7FFFF 480 0 1).2 = none ∧
       ({ s with mem := { s.mem with bad := [(0, true)] } }.copyRows 0 0 480 0 1).2 = some 0) ∧
    (let s : State := { cmdS State.reset [256, 2] 0 with
       conv := { Conv.rest with hands := [(256, [(1, true)])] }, groups := [(1, { Group.rest with st := .live })] }
     bitsOf (s.arg 0) 20 44 = 0 ∧ s.handleLive 256 = true ∧ s.conv.holdsHand (bitsOf (s.arg 0) 0 20) (s.arg 1).toNat = true ∧ s.beat / 64 + 2 ≤ (s.arg 1).toNat) ∧
    (let s := cmdS State.reset [15, 1, 63] 3
     s.cmd.busy = true ∧ s.cmd.run = 3 ∧ s.unmapPins 15 1 63 = 0) ∧
    ((State.reset.ownerAt 15).live = false ∧ ((2#64).getLsbD 1 = true → ((State.reset.onOwner 15 fun o => { o with keyvalid := true }).ownerAt 15).keyvalid = true) ∧
      ((0#64).getLsbD 1 = false → ((State.reset.onOwner 15 fun o => { o with live := true }).ownerAt 15).live = true →
        (State.reset.onOwner 15 fun o => { o with live := true }).ownerBusy 15 = false)) ∧
    ((∀ k, k < 24 → ((imgState head1).coreAt (24 * 7 + k)).pl.task = none) ∧ (imgState head1).handlerOk 7 = true ∧
      mget none (imgState head1).images 7 = some ⟨1, 0x1000, 64⟩) ∧
    (State.reset.placing.draining = false ∧ State.reset.placing.stagedOk = true) ∧
    (let s : State := { State.reset with placing := { Placing.rest with draining := true } }
     s.placing.draining = true ∧ ∀ id ∈ s.placing.before, ∀ a, s.accAt id = some a → a.done = true) ∧
    bitsOf (0x1FFF : Word) 13 51 = 0 := by
  refine ⟨by decide, by decide +kernel, by decide, by decide +kernel, by decide +kernel, by decide +kernel, by decide +kernel, by decide, by decide +kernel, by decide, by decide, by decide⟩

/-- The version that the running bundle has is above the fused one where the fuses hold none. -/
theorem test_meets_DriverCommandsComplete_version (h : Config.fusedVersion = 0) :
    (let s : State := { State.reset with boot := { Boot.rest with svn := 64 } }
     s.cmd.busy = false ∧ s.fused < s.boot.svn ∧ s.boot.svn ≤ 64) := by
  refine ⟨rfl, ?_, by decide⟩
  show max Config.fusedVersion.toNat 0 < 64
  rw [h]; decide

/-- Owner 0 with the page 0x400000 at HBM address 0, open to the host, and the mailbox words l of core 191. -/
def hostS (l : List Word) : State :=
  { (feat State.reset 0x80).onOwner 0 fun o => { o with live := true, ranges := [(0, ⟨0x400000, 4096, 0, 0x13D⟩)] } with
    mem := { Mem.rest with keys := [(0, some 0)] }
    cores := [(191, { Core.rest with ch := { ChanState.rest with mail := l } })] }

/-- A posted host write that is not performed yet, under number 2. -/
def hostWrite2 : State := withAccs (hostS []) [{ hostAccess 0 (.hbm 0) (.wblk 0 4 Blk.zero) 1 0 with stage := .queued }]

/-- The last register; a read of the last four bytes of a block in one part, a write there, an AtomicOp of 8 bytes, and the last part of a
request; a mailbox with seven words in use by a task, one that is full, and one in launch mode with a first word; a push behind a
posted write; a timetable with room and a full one; the register values at their limits. -/
theorem test_meets_HostRequestsComplete :
    (hostS []).boot.state ≠ 8 ∧ ((0x7F8 + 8 : Nat) < 2 ^ 16 ∧ ((hostS []).ownerAt 15).reg 0 = some 0) ∧
    (2 ^ 16 ≤ (2 ^ 30 + 0x40003C) % 2 ^ 36 ∧ (hostS []).numbered.hostPlaces (2 ^ 30 + 0x40003C) 4 .read = some [(.hbm 0x3C, 4)]) ∧
    ((hostAtomicOp .fetchAdd 8 1 0).isSome = true ∧ (hostS []).numbered.hostLoc (2 ^ 30 + 0x400038) .atomic true = some (.hbm 0x38) ∧
      (hostS []).feature 7 = true ∧ (2 ^ 30 + 0x400038) % 8 = 0) ∧
    (let r : HostReq := ⟨1, 2 ^ 30 + 0x40003C, 4, 1, [], false⟩
     let s : State := { hostS [] with ev := { (hostS []).ev with asked := 1, reqs := [r] } }
     let a : Access := hostAccess 0 (.hbm 0x3C) .rblk 1 0
     a.sq = false ∧ s.ev.reqs.find? (fun r => r.no == a.job) = some r ∧ r.left = 1) ∧
    (hostS []).numbered.hostPlaces (2 ^ 30 + 0x40003C) ([1, 2, 3, 4] : List Byte).length .write = some [(.hbm 0x3C, 4)] ∧
    ((hostS []).ev.pushes = [] ∧ (hostS []).hostWriteBefore (hostS []).nextId = false ∧ hostWrite2.hostWriteBefore hostWrite2.nextId = true) ∧
    ((hostS [0x8000000000000000]).launchMode 191 = true ∧
      ((hostS [0x8000000000000000]).coreAt 191).ch.mail = [0x8000000000000000] ∧ (0x8000000000000000 : Word).getLsbD 63 = true ∧
      ((hostS [0x8000000000000000]).dieAt (dieOf 191)).posts < 4) ∧
    (let s (k : Nat) := (hostS (List.replicate k 0)).onCore 191 fun c => { c with pl := { c.pl with task := some 1 } }
     ((s 7).coreAt 191).ch.mail.length < 8 ∧ (s 7).launchMode 191 = false ∧ 8 ≤ ((s 8).coreAt 191).ch.mail.length ∧
       (s 8).launchMode 191 = false) ∧
    ((0x10F : Word).getLsbD 8 = true ∧ (State.reset.dieAt (descDie (State.reset.dieAt 7).postWords)).posts < 4 ∧
      (State.reset.dieAt (descDie (State.reset.dieAt 7).postWords)).posting = [] ∧
      (let s := State.reset.onDie 0 fun d => { d with posts := 4 }
       4 ≤ (s.dieAt (descDie (s.dieAt 7).postWords)).posts)) ∧
    (State.reset.boot.go = false ∧ bitsOf (4 : Word) 0 3 ≤ 4) := by decide +kernel

/-- Task 1 on core 0 and its die and core, each changed. -/
def taskS (x : Task → Task) (d : Die → Die) (f : Core → Core) : State :=
  ((State.reset.setTask 1 (some (x fetchTask))).onDie 0 d).onCore 0 fun c => f { c with pl := { c.pl with task := some 1, phase := .running } }
/-- An entry of die 0's timetable that waits in row 0. -/
def entry1 (st : TState) : Task := { fetchTask with st := st, row := some 0, core := none }

/-- A timetable without a free row. -/
def fullTable : State := { State.reset with tasks := (List.range 1024).map fun r => (r, some { fetchTask with st := .ready, row := some r, core := none }) }
theorem test_fullTable : fullTable.freeRow 0 = none := by
  refine List.find?_eq_none.mpr fun r hr => ?_
  rw [Bool.not_eq_true, Bool.not_eq_false', List.contains_iff_mem]
  exact List.mem_filterMap.mpr ⟨_, List.mem_map.mpr ⟨r, hr, rfl⟩, rfl⟩

/-- Descriptor words of one condition, whose counter is the local word 8, for image 7 on core 0. -/
def desc1 : List Word := [0, 0, 0, BitVec.ofNat 64 (2 ^ 57 + 1), 7, 0, 0, 0, 8, 1]
/-- A timetable without a free row and a good descriptor; three posts accepted on the beat; a report and a release tick that are due now; one
ready entry without a context; a loader with one beat to go and image 7; the last beat of a frame; the last beat of a hold; a deadline of this tick; a task with nothing under way. -/
theorem test_meets_TimetablesPlaceAndRetireTasks :
    (fullTable.freeRow 0 = none ∧ (imgState head1).freeRow 0 = some 0 ∧
      (imgState head1).descCondsOf 0 (some 0) desc1 (min 4 (descConds desc1)) = some [⟨8, .scr 0 8, 1, 0⟩] ∧ descFieldsOk desc1 = true ∧
      (imgState head1).imageFor (bitsOf (desc1.getD 4 0) 0 32) 0 = true) ∧
    (let s := (withAccs State.reset [{ load0 with op := .post 7 [], stage := .arrived }]).onDie 7 fun d => { d with posts := 3 }
     s.accAt 2 = some { load0 with op := .post 7 [], stage := .arrived } ∧ (s.dieAt 7).posts < 4) ∧
    (let s := (State.reset.setTask 1 (some (entry1 .waiting))).onDie 0 fun d => { d with reports := [(1, 0)] }
     (s.dieAt 0).reports = [(1, 0)] ∧ 0 ≤ s.beat ∧ s.taskAt 1 = some (entry1 .waiting) ∧ s.condsMet (entry1 .waiting) = true) ∧
    (let s := State.reset.setTask 1 (some (entry1 .pending))
     s.releasable 0 = [1] ∧ s.taskAt 1 = some (entry1 .pending) ∧ (entry1 .pending).conds = []) ∧
    (let s := State.reset.setTask 1 (some (entry1 .ready))
     (s.dieAt 0).evalq = [] ∧ s.frame.stretch = false ∧ s.firstEntry 0 = some (1, 0, entry1 .ready) ∧
       s.taskAt 1 = some (entry1 .ready) ∧ s.committed (entry1 .ready) = none) ∧
    (let s := { taskS (fun x => { x with image := 7 }) id fun c => { c with pl := { c.pl with phase := .loading, due := 1 } } with
                mem := (imgState head1).mem, images := (imgState head1).images }
     (s.coreAt 0).pl.task = some 1 ∧ (s.coreAt 0).pl.phase = .loading ∧ (s.coreAt 0).pl.due ≤ s.beat + 1 ∧
       mget none s.images 7 = some ⟨1, 0x1000, 64⟩ ∧ s.hbmBad 0x1000 (s.imgHead 0x1000).dataAt = false) ∧
    (let s : State := { State.reset with frame := { Frame.rest with fofs := 1048575 } }
     s.frame.len ≤ s.frame.fofs + 1 ∧ s.lateTasks = [] ∧ s.frame.ending = false) ∧
    ({ State.reset with frame := { Frame.rest with hold := 1 } } : State).frame.hold = 1 ∧
    (let x : Task := { fetchTask with dl := true, doffset := 1048575 }
     let s : State := { State.reset.setTask 1 (some x) with frame := { Frame.rest with fofs := 1048575 } }
     s.taskAt 1 = some x ∧ x.late = false ∧ x.placed = true ∧ s.frame.passed x.dframe (min x.doffset (s.frame.len - 1)) = true) ∧
    ((taskS id id id).taskBusy 0 1 = false ∧
      ((taskS (fun x => { x with st := .draining }) id id).coreAt 0).pl.task = some 1 ∧
      ((taskS (fun x => { x with st := .tailed }) id fun c => { c with pl := { c.pl with tailed := some 1 } }).coreAt 0).pl.tailed = some 1) := by
  refine ⟨⟨test_fullTable, by decide +kernel⟩, by decide, by decide, by decide +kernel, by decide +kernel, by decide +kernel, by decide, by decide, by decide, by decide⟩

/-- Task 1 with context slot 0 of a die whose slots lie at HBM address 0, whose header names buffer 0. -/
def slotS (d : Die → Die) (f : Core → Core) : State :=
  { taskS (fun x => { x with slot := some 0 }) (fun y => d { y with
        cxcount := 1, slots := [(0, ⟨some 1, some Core.rest, none, ⟨true, []⟩, ⟨false, []⟩⟩)] }) f with
    mem := { Mem.rest.write 0 (leBytes (2 ^ 62) 8) with keys := [(0, some 0)] } }

/-- The last core of the last die; a core with a task and one without; an event; a gate with a request that can be taken; a save before and after its drain; a task that
waits for the one slot; a restore; the last granule; the limits of the watchdog; the save limit on its last beat. -/
theorem test_meets_ContextsAreSavedAndRestored :
    (let s := State.reset.onCore 191 fun c => { c with pl := { c.pl with task := some 1, phase := .loading, preempt := true } }
     (s.coreAt (24 * 7 + 23)).pl.live = true ∧ (s.coreAt (24 * 7 + 23)).pl.preempt = true) ∧
    (((taskS id id id).coreAt (24 * 0 + 0)).pl.task ≠ none ∧ ((taskS id id id).coreAt (24 * 0 + 1)).pl.task = none) ∧
    (let s := taskS id (fun d => { d with hvec := 7 }) fun c =>
        { c with c := { c.c with evOk := true }, tr := { c.tr with events := [(0x57, 5), (0x56, 1)] } }
     (s.coreAt 0).tr.events = (0x57, 5) :: [(0x56, 1)] ∧ (s.coreAt 0).pl.phase = .running ∧ (s.coreAt 0).c.evOk = true ∧
       (s.coreAt 0).c.hlevel = false ∧ (s.dieAt 0).hvec ≠ 0) ∧
    (let s := slotS id fun c => { c with
        c := { c.c with evOk := true }, pl := { c.pl with preempt := true }, mx := { c.mx with gate := true } }
     (s.coreAt 0).mx.gate = true ∧ s.canPreempt 0 = true ∧ (s.coreAt 0).pl.phase = .running ∧ (s.coreAt 0).c.evOk = true ∧
       (s.coreAt 0).jobsOf .m = []) ∧
    (let s (b : Option Nat) := slotS id fun c => { c with pl := { c.pl with phase := .saving, saveBeat := b } }
     (((s none).coreAt 0).pl.saveBeat = none ∧ ((s none).withdrawLoads 0).drained 0 = true ∧
       (s none).slotOf 0 = some ({ fetchTask with slot := some 0 }, 0, 0) ∧ ∀ b, (⟨some 1, none, none, ⟨false, []⟩, ⟨false, []⟩⟩ : Slot).dirtyUnit b 1592 = true) ∧
     (((s (some 0)).coreAt 0).pl.phase = .saving ∧ ((s (some 0)).coreAt 0).pl.saveBeat = some 0 ∧
       (s (some 0)).slotOf 0 = some ({ fetchTask with slot := some 0 }, 0, 0) ∧ ((s (some 0)).coreAt 0).pl.due ≤ (s (some 0)).beat)) ∧
    (let s := taskS (fun x => { x with slotWait := some 5 }) (fun d => { d with cxcount := 1 }) id
     s.freeCtxSlot 0 = some 0 ∧ s.taskAt 1 = some { fetchTask with slotWait := some 5 } ∧
       ∀ e ∈ s.tasks, ∀ y v, e.2 = some y → y.die = 0 → y.slotWait = some v → e.1 = 1 ∨ 5 < v) ∧
    (let s := slotS id fun c => { c with pl := { c.pl with phase := .restoring } }
     let x := { fetchTask with slot := some 0 }
     (s.coreAt 0).pl.phase = .restoring ∧ s.slotOf 0 = some (x, 0, 0) ∧
       (mget Slot.rest (s.dieAt 0).slots 0).buf ((s.committed x).getD 0) = some Core.rest ∧
       s.mem.bad = [] ∧ (s.coreAt 0).pl.due ≤ s.beat) ∧
    (let s := slotS (fun d => { d with incr := true }) id
     (s.coreAt 0).pl.phase = .running ∧ (s.dieAt 0).incr = true ∧ s.slotOf 0 = some ({ fetchTask with slot := some 0 }, 0, 0) ∧
       (0 % 64 = 0 ∧ s.mem.bad = [] ∧ s.watched = []) ∧ (∀ u, (mget Slot.rest (s.dieAt 0).slots 0).dirtyUnit (s.openBuf 0) u = true) ∧ s.settledRegs 0 = true) ∧
    (let s (n : Nat) := taskS id (fun d => { d with stallLim := 1, lateLim := 1 }) fun c =>
        { c with pl := { c.pl with dog := { c.pl.dog with stall := n, late := n } } }
     ((s 1024).coreAt 0).pl.task = some 1 ∧ 1024 * ((s 1024).dieAt 0).stallLim ≤ ((s 1024).coreAt 0).pl.dog.stall ∧
       1024 * ((s 1024).dieAt 0).lateLim ≤ ((s 1024).coreAt 0).pl.dog.late ∧ ((s 2047).coreAt 0).pl.dog.stall < 2 * 1024 ∧
       ((s 2047).coreAt 0).pl.dog.warnedStall = false ∧ ((s 2047).coreAt 0).pl.dog.warnedLate = false ∧
       2 * 1024 ≤ ((s 2048).coreAt 0).pl.dog.stall ∧ 2 * 1024 ≤ ((s 2048).coreAt 0).pl.dog.late) ∧
    (let s := { slotS (fun d => { d with save := 1 }) fun c => { c with pl := { c.pl with phase := .saving, saveBeat := some 6 } } with beat := 1030 }
     (s.coreAt 0).pl.task = some 1 ∧ (s.coreAt 0).pl.saveBeat = some 6 ∧ s.slotOf 0 = some ({ fetchTask with slot := some 0 }, 0, 0) ∧
       (s.dieAt 0).save ≠ 0 ∧ 6 + 1024 * (s.dieAt 0).save ≤ s.beat) := by
  refine ⟨by decide, by decide, by decide, by decide +kernel, ⟨⟨by decide, by decide +kernel, by decide +kernel, ?_⟩, by decide +kernel⟩, ⟨by decide, by decide, ?_⟩, by decide +kernel,
    ⟨by decide, by decide, by decide +kernel, ⟨by decide, by decide, by decide⟩, fun _ => rfl, by decide +kernel⟩, by decide, by decide +kernel⟩
  · intro b; unfold Slot.dirtyUnit Slot.clean; split <;> rfl
  · intro e he y v h1 h2 h3
    exact .inl (List.mem_singleton.mp he ▸ rfl)

/-- With no bad block, none lies in the parts that a restore reads. -/
theorem test_meets_ContextsAreSavedAndRestored_bad (s : State) (h : s.mem.bad = []) (a b : Nat) (m : BitVec 8) :
    ∀ e ∈ restoreParts b m, s.hbmBad (a + e.1) e.2 = false := fun e _ => by simp [State.hbmBad, h, mget]

/-- Port i1 and port o1 of core 0 bound, at the last and the first vector of a walk of 256. -/
def portS : State :=
  { scrN 128 fun c => bases { c with ve := { c.ve with
      ins := [(1, { InPort.rest with bound := true, nest := BitVec.ofNat 256 (255 * 2 ^ 32), asked := 255, pos := 240, base := 11 })]
      outs := [(1, { OutPort.rest with bound := true, nest := BitVec.ofNat 256 (255 * 2 ^ 32), pos := 255, fifo := [Vec.zero], base := 11 })] } }
    with nextId := 100 }
/-- An A micro-order that is due and writes v63. -/
def dueJob : Job := ⟨9, .a, 1, 0, 0, 0, false, false, 0, 0, 0, 0, 1, [], false, .arith [.v 63 Vec.zero]⟩

/-- The same with every vector of the walk of i1 asked for, and vector 3 to fetch again. -/
def portRedo : State := portS.onCore 0 fun c => { c with ve := { c.ve with ins := [(1, { c.inPort 1 with asked := 256, redo := [3] })] } }

/-- A store that has arrived at HBM, and a load behind it; a store at an unplaced granule; a chunk merge at the heads of eight banks; entries with one operation and with two; a bank with a request; a load that is back; a
micro-order that is due; the last vector of a walk, and a vector to fetch again; a vector in an output FIFO. -/
theorem test_meets_AccessesArePerformedAndCompleted :
    (let a : Access := { load0 with op := .store 8 5, loc := .hbm 0x40, stage := .arrived }
     let s := withAccs State.reset [a, { load0 with loc := .hbm 0x40, stage := .arrived }]
     s.accAt 2 = some a ∧ a.op.writes = true ∧ s.sliceOf a.loc = some 0 ∧ s.mem.served.contains (10000 + 0) = false ∧
       wqEnterAll (mget [] s.mem.wq 0) a.op.mergeClass a.wqBlks = some [⟨1, [⟨0, 1⟩]⟩] ∧
       s.accAt 3 = some { load0 with loc := .hbm 0x40, stage := .arrived } ∧ (load0.op).writes = false ∧ s.outOfTurn 2 a = false ∧
       s.outOfTurn 3 { load0 with loc := .hbm 0x40, stage := .arrived } = true) ∧
    (let a : Access := { load0 with op := .store 8 5, loc := .hbm (2 ^ 36), stage := .arrived }
     let s := { withAccs State.reset [a] with placing := { Placing.rest with modes := [(0, 1)] } }
     s.accAt 2 = some a ∧ s.outOfTurn 2 a = false ∧ s.sliceOf a.loc = none) ∧
    (let a : Access := { load0 with agent := .x, op := .redChunk 0, loc := .dsm 7 0, stage := .arrived }
     let ks := (List.range 8).map fun k => 1000 + 256 * 7 + bankOf (64 * k)
     let s := { withAccs State.reset [a] with mem := { Mem.rest with bankq := ks.map fun k => (k, [2]) } }
     s.accAt 2 = some a ∧ a.banks = ks ∧ mget [] s.mem.bankq (1000 + 256 * 7 + 0) = 2 :: [] ∧
       (∀ k ∈ ks, s.mem.served.contains k = false ∧ (mget [] s.mem.bankq k).head? = some 2)) ∧
    (let s : State := { State.reset with mem := { Mem.rest with
       wq := [(510, [⟨1, [⟨0, 1⟩]⟩]), (511, [⟨1, [⟨0, 1⟩, ⟨3, 2⟩]⟩])], bankq := [(1000 + 256 * 7 + 255, [2])] } }
     mget [] s.mem.wq 510 = ⟨1, ⟨0, 1⟩ :: []⟩ :: [] ∧ mget [] s.mem.wq 511 = ⟨1, ⟨0, 1⟩ :: [⟨3, 2⟩]⟩ :: [] ∧
       mget [] s.mem.bankq (1000 + 256 * 7 + 255) = 2 :: [] ∧ s.mem.served.contains (1000 + 256 * 7 + 255) = false) ∧
    (let a : Access := { load0 with stage := .back, res := .val 7, dst := 31 }
     let s := withAccs (cs id) [a]
     s.accAt 2 = some a ∧ (s.coreAt a.core).pl.task = some a.task ∧ a.lq = true ∧ 0 < a.dst) ∧
    (let s := cs fun c => { c with ve := { c.ve with jobs := [dueJob] } }
     s.jobAt 0 9 = some dueJob ∧ dueJob.due ≤ s.beat ∧ (s.coreAt 0).pl.task = some dueJob.task) ∧
    ([(portS, 255), (portRedo, 3)].all fun (s, pos) =>
      let q := (s.coreAt 0).inPort 1
      let b := (s.coreAt 0).baseOf q.base
      q.bound && !q.done && q.redo.headD q.asked == pos && (q.redo != [] || decide (q.fifo.length + (q.asked - q.pos) < 16)) &&
        ((s.coreAt 0).eng .l).state != .stopped && (s.coreAt 0).pl.saveBeat == none &&
        (match s.engReach 0 .l b false (nestOff q.nest pos) 256 0x28 with
          | .ok (0, .scr 0 0) => true
          | _ => false) && s.engReadOk 0 0 (.scr 0 0) 256 == none && (List.range 4).all fun i => (b.locAt (0 + 64 * i)).isSome) = true ∧
    (let q := (portS.coreAt 0).outPort 1
     let b := (portS.coreAt 0).baseOf q.base
     q.fifo = Vec.zero :: [] ∧ q.bound = true ∧ q.pos < nestCount q.nest ∧ ((portS.coreAt 0).eng .s).state ≠ .stopped ∧
       (portS.coreAt 0).pl.saveBeat = none ∧ portS.engReach 0 .s b true (nestOff q.nest q.pos) 256 0x28 = .ok (0, .scr 0 0) ∧
       ∀ i, i < 4 → (b.locAt (0 + 64 * i)).isSome = true) := by
  refine ⟨by decide, by decide, by decide, by decide, by decide, by decide, by decide +kernel, by decide +kernel⟩

/-- An entry of handle 256: its operation, mode and buffer kind. -/
def entry (op mode kind : Nat) : BitVec 128 := BitVec.ofNat 128 (256 * 2 ^ 108 + op * 2 ^ 105 + mode * 2 ^ 103 + kind * 2 ^ 94)
/-- The station of mortise 1 on strand 0 at beat 0, where slot 8 stands, with this entry and slot and a buffer read of eight blocks. -/
def stS (op mode kind : Nat) (x : CSlot) : State :=
  { State.reset.onDie 1 fun d => { d with binders := [(0, some (1, 32))], copies := [(0, List.replicate 15 0)] } with
    conv := { Conv.rest with
      tables := [(entryKey 0 1 8, ⟨entry op mode kind, 0⟩)], slots := [(8, x)]
      reads := [(readKey (entryKey 0 1 8) 0 0, some (false, List.replicate 8 ⟨0, 0x0200⟩))] } }
/-- A hand of handle 256 in mode i32w. -/
def hand1 : CSlot := { CSlot.rest with cls := .hand, handle := 256, pay := List.replicate 8 ⟨0, 0x0200⟩ }

/-- A chunk of i32 lanes of 0. -/
def chunk0 : List Blk := List.replicate 8 ⟨0, 0x0200⟩

/-- A load of an empty slot, its read come and with a block to come, and of a hand; an add, a copy and a take of a hand, to a copy output and to memory; a hand of another
handle; a flag and an installation that are due now; a slot that a hand takes with the next rotation. -/
theorem test_meets_StationsActOnSlots :
    ((stS 1 0 0 CSlot.rest).keyNow 0 1 = 8 ∧ ((stS 1 0 0 CSlot.rest).conv.slot 8).cls = .empty ∧ entOp (entry 1 0 0) = 1 ∧
      (stS 1 0 0 CSlot.rest).readFor (entryKey 0 1 8) 0 = (false, chunk0) ∧
      ((stS 1 0 0 CSlot.rest).onConv fun c => { c with coming := [(readKey (entryKey 0 1 8) 0 0, 1)] }).readFor (entryKey 0 1 8) 0 = (true, chunk0) ∧
      loadPay (entry 1 0 0) chunk0 = some chunk0 ∧ hand1.cls = .hand ∧ hand1.handle = entHandle (entry 1 0 0)) ∧
    (entOp (entry 3 0 0) = 3 ∧ ((stS 3 0 0 hand1).conv.slot 8).cls = .hand ∧ hand1.handle = entHandle (entry 3 0 0) ∧ hand1.mode = entMode (entry 3 0 0) ∧
      addPay (entry 3 0 0) hand1.pay chunk0 = some (chunk0, false, 0)) ∧
    (entOp (entry 2 0 3) = 2 ∧ hand1.error = false ∧ entKind (entry 2 0 3) = 3 ∧ notChunk (entry 2 0 3) hand1.pay = false ∧
      (mget none ((stS 2 0 3 hand1).dieAt 1).binders 0).isSome = true ∧ (mget [] ((stS 2 0 3 hand1).dieAt 1).copies 0).length < 16) ∧
    ([2, 4].all fun op => entOp (entry op 0 0) == op && hand1.mode == entMode (entry op 0 0) && entKind (entry op 0 0) != 3 &&
      !(stS op 0 0 hand1).behindDown 0 1 && !notChunk (entry op 0 0) hand1.pay && (takePay (entry op 0 0) hand1.pay).1[7]? == some ⟨0, 0x0200⟩) = true ∧
    ([1, 2, 3, 4].all fun op => entOp (entry op 0 0) == op && ({ hand1 with handle := 512 } : CSlot).handle != entHandle (entry op 0 0)) = true ∧
    (let f : FlagDue := ⟨0, 15, 0, 0x80⟩
     let s := State.reset.onDie 23 fun d => { d with flagsDue := [f] }
     (s.dieAt 23).flagsDue = [f] ∧ f.due ≤ s.beat) ∧
    (let s : State := { State.reset with conv := { Conv.rest with installs := [⟨0, entryKey 15 27 (slotNow 15 27 0), 0, 0⟩] } }
     s.conv.installs = [⟨0, entryKey 15 27 (s.keyNow 15 27 % 64), 0, 0⟩] ∧ 64 * 0 ≤ s.beat) ∧
    (({ State.reset with conv := { Conv.rest with own := [(8, [(1, some 256)])] } } : State).conv.withheld 8 0 = true) := by
  refine ⟨by decide +kernel, by decide +kernel, by decide +kernel, by decide +kernel, by decide, by decide, by decide, by decide⟩

/-- The last parcel of access 2 for mortise d. -/
def parcel (d rows : Nat) : Parcel := ⟨2, false, 0, rows, d, 0, true⟩
/-- The station of mortise 1 on strand 0 at beat 64, where slot 8 stands, with a parcel that waits for mortise 16. -/
def waitS (x : CSlot) (w : Option Watch) : State :=
  { State.reset with
    beat := 64
    conv := { Conv.rest with
      slots := mset CSlot.rest [] 8 x, queues := [(28 * 1 + 16, [parcel 16 1])], watch := mset none [] (linkKey 1 0) w } }
/-- A slot of parcels from mortise 0 to mortise 1. -/
def slotP (rows : Nat) : CSlot := { CSlot.rest with cls := .parcels, src := posOf 0, dst := posOf 1, parcels := [parcel 1 rows] }

/-- A queue that may board and may watch or claim; a destination with exactly enough rows, one with a row too few and one in a retrain; a full
slot back at its sender; a header as it is and with its first bit inverted; a group whose quarantine ends now. -/
theorem test_meets_StationsActOnSlots_parcels :
    (let s := waitS CSlot.rest none
     s.keyNow 0 1 = 8 ∧ s.conv.boardable 0 1 = some 16 ∧ (s.conv.slot 8).cls = .empty ∧ s.conv.open_ 8 1 = true ∧ (s.conv.slot 8).claimer = none ∧
       s.conv.waitingFor 0 1 ≠ [] ∧ mget none s.conv.watch (linkKey 1 0) = none ∧
       mget none (waitS CSlot.rest (some ⟨8, 63, false⟩)).conv.watch (linkKey 1 0) = some ⟨8, 63, false⟩) ∧
    (let s := waitS (slotP 64) none
     (s.conv.slot 8).cls = .parcels ∧ (s.conv.slot 8).dst = posOf 1 ∧ mget [] s.conv.blocked (blockKey 0 (posOf 0) (posOf 1)) = [] ∧
       mget [] s.conv.rows (linkKey 1 0) = [] ∧ ((s.conv.slot 8).parcels.map Parcel.rows).sum ≤ 64 ∧ (s.moduleAt (linkKey 1 0)).retrainTill = none ∧
       64 < (((waitS (slotP 65) none).conv.slot 8).parcels.map Parcel.rows).sum ∧ ({ Module.rest with retrainTill := some 1600 } : Module).retrainTill ≠ none) ∧
    (let s : State := { State.reset with conv := { Conv.rest with slots := [(0, { slotP 65 with full := true })] } }
     s.keyNow 0 0 = 0 ∧ (s.conv.slot 0).cls = .parcels ∧ (s.conv.slot 0).src = posOf 0 ∧ (s.conv.slot 0).full = true) ∧
    (let s : State := { State.reset with beat := 64, groups := [(4095, { Group.rest with st := .quarantine, inc := 1 })] }
     headerOk ((slotP 64).header ^^^ 0) = true ∧ headerOk ((slotP 64).header ^^^ 1) = false ∧ (s.groupAt 4095).st = .quarantine ∧ (s.groupAt 4095).left + s.quarantine ≤ s.beat ∧ mget [] s.conv.hands (4095 * 256 + 0) = []) := by
  refine ⟨by decide, by decide, by decide, by decide +kernel⟩

/-- A data flit of this number with one parcel for mortise 8. -/
def flit8 (seq : BitVec 8) : UFlit := ⟨seq, false, [.parcel (parcel 8 1) true 0], none, none, 0⟩
/-- The last module, with one flit up and down that is held too, in a retrain that ends then. -/
def modS (seq : BitVec 8) (r : Option Nat) : State :=
  let l : Lane := { Lane.rest with wire := [flit8 seq], held := [flit8 seq] }
  { withAccs State.reset [load0] with
    beat := 2 ^ 20, links := [(linkKey 7 15, { Module.rest with up := l, down := l, retrainTill := r })] }
/-- A package of domain time with port 47 open to package 5 in the slots of a table of two, active since beat 0. -/
def circS (beat : Nat) (f : Port → Port) : State :=
  { State.reset with
    beat := beat
    circ := { Circ.rest with
      joined := true, active := ⟨[12500, 12500], [(47, 0x80280000), (95, 0x80280000)], 0⟩, ports := mset Port.rest [] 47 (f Port.rest) } }
/-- A packet of handle 256 in one chunk, with an add entry. -/
def packet1 : CollPacket := ⟨1, 256, 8, 0, 0, [0x2000], [0]⟩
/-- A staging buffer of that run with one operand per chunk. -/
def buf1 : Buf := ⟨256, 1, 1, 0, 1, 3, 0, Base.rest, 0, 0, 0, 1, [(0, [0])], [], false, 0, none, 1, none, 0⟩

/-- A block of a send to owner 0's page, and a write-with-enqueue into a ring there. -/
def send1 : SendFlit := ⟨47, 1, 0, 0, 0x400000, Blk.zero, 64, false, 0, 0, 0⟩
def enq1 : EnqueueFlit := ⟨47, 1, 0, 0, 0x400080, 64, [Blk.zero], 0x400040, 0, false, 0, 0, 0⟩
/-- A location of HBM, as an answer. -/
def isHbm (p : Nat) : Except (BitVec 8) Loc → Bool
  | .ok (.hbm q) => p == q
  | _ => false
/-- A package with this staging buffer as its last. -/
def bufS (b : Buf) (aborted : SMap Nat) : State := { State.reset with coll := { Coll.rest with bufs := [(255, some b)], aborted := aborted } }

/-- The last module, whose time has come, with the flit that is expected and with another; a retrain that ends now; a guard and a data
window; a send, an enqueue and a transaction at addresses that lead to HBM, and one that is not aligned; packets of each op for the last
buffer, and one of an aborted run; a full chunk in the last buffer, in mode 3 and in mode 0. -/
theorem test_meets_ModulesAndPeersDeliver :
    ([0, 1].all fun q =>
      let x := (modS q none).moduleAt (linkKey 7 15)
      x.open_ && x.up.wire == flit8 q :: [] && !x.dead && decide ((flit8 q).start / 4 + x.flight ≤ (modS q none).beat) && (flit8 q).ack == none &&
        ((flit8 q).seq == x.up.expected) == (q == 0) && (modS q none).accAt (parcel 8 1).acc == some load0 && x.up.overdue (modS q none).beat &&
        decide (x.winStart + 1024 * x.window ≤ (modS q none).beat) && (modS q none).boot.state != 8) = true ∧
    (((modS 0 (some (2 ^ 20))).moduleAt (linkKey 7 15)).retrainTill = some (2 ^ 20) ∧ 2 ^ 20 ≤ (modS 0 none).beat) ∧
    (47 < 48 ∧ (circS 1250 id).inGuard = false ∧ (circS 1249 id).inGuard = true) ∧
    ((hostS []).inGuard = false ∧ isHbm 0 ((hostS []).sendLoc send1.pown send1.va.toNat (min 64 send1.bytes) send1.syncen) = true ∧
      enq1.ring.toNat % 64 = 0 ∧ isHbm 0x40 ((hostS []).peerLoc enq1.pown enq1.ring.toNat .read) = true ∧
      isHbm 0x40 ((hostS []).peerLoc enq1.pown enq1.ring.toNat .write) = true) ∧
    (peerOp (.write 8 5) = (.store 8 5, 8, .write) ∧ (0x400038 : Nat) % 8 = 0 ∧ (0x40003C : Nat) % 8 ≠ 0 ∧
      isHbm 0x38 ((hostS []).peerLoc 0 0x400038 .write) = true) ∧
    ([0, 1, 2, 3].all fun op =>
      let g := { packet1 with route := [BitVec.ofNat 16 (0x2000 * op + 127)] }
      let b := { buf1 with mode := 0, ops := [] }
      let e := g.route.headD 0
      128 * (47 / 24) + bitsOf e 0 7 == 255 && bitsOf e 13 3 == op && !(bufS b []).inGuard && decide (mget 0 (bufS b []).coll.aborted g.handle ≤ g.seq) &&
        !(bufS b []).staleHandle g.handle && decide (0 < g.left ∧ g.left ≤ 8 ∧ 0 < g.chunks.length ∧ g.chunks.length ≤ 16) && g.mode == 0 &&
        (bufS b []).liveBuf 255 == some b && b.takes g && decide (g.seq < mget 0 (bufS b [(256, 2)]).coll.aborted g.handle)) = true ∧
    ([3, 0].all fun m =>
      let b := { buf1 with mode := m }
      (bufS b []).liveBuf (128 * 1 + 127) == some b && (mget [] b.ops 0).length == b.n) = true := by
  refine ⟨by decide, by decide, by decide, by decide +kernel, by decide +kernel, by decide +kernel, by decide⟩

/-- A transaction that waits for its answer at port 47, sent whole. -/
def outTrans : Outgoing := ⟨9, 0, 1, 0, .trans 2, 5, 0, 0, [], 64, 64, none⟩

/-- Port 47 down, idle with nothing to send, between frames and at the boundary of one, parking, parked, waking and out of budget; a frame replayed three and four times; an
answered transaction; the last beat of a guard, in slot 1 and in slot 0, the first of a slot and of a data window; the commit's beat. -/
theorem test_meets_PortsAndCircuitsFollowTheTable :
    (((circS 0 fun p => { p with health := .down }).portAt 47).health = .down ∧ (circS 0 id).boot.state ≠ 8 ∧
      (let x := (circS (65536 * 0x80) id).portAt 47
       x.winStart + 65536 * x.window ≤ 65536 * 0x80) ∧
      (let x := (circS 1024 fun p => { p with idle := 1024 }).portAt 47
       x.width = .awake ∧ x.waiting = 0 ∧ x.health ≠ .down ∧ x.idle ≠ 0 ∧ x.busyAt + x.idle ≤ 1024 ∧
         ({ x with width := .parking } : Port).noticeFrame (4 * 1024) = none ∧
         ({ x with width := .parking, frameEnd := 4096 } : Port).noticeFrame (4 * 1024) = some 4096) ∧
      ((circS 0 fun p => { p with width := .parked }).portAt 47).width = .parked ∧
      (let x := (circS 1 fun p => { p with width := .parking, announced := true, change := 4 }).portAt 47
       x.announced = true ∧ x.change ≤ 4 * 1 ∧ x.width = .parking) ∧
      (let x := (circS 1800 fun p => { p with width := .waking, announced := true, change := 7200 }).portAt 47
       x.announced = true ∧ x.change ≤ 4 * 1800 ∧ x.width = .waking ∧ x.attempt + 1800 ≤ 1800 ∧ x.missed = false)) ∧
    (let x := (circS 0 fun p => { p with retry := [⟨1, 5, false, [], 3, []⟩, ⟨2, 5, false, [], 4, []⟩] }).portAt 47
     x.retry.find? (fun f => f.seq == 1) = some ⟨1, 5, false, [], 3, []⟩ ∧ 3 < 4 ∧ x.retry.find? (fun f => f.seq == 2) = some ⟨2, 5, false, [], 4, []⟩) ∧
    (let x := (circS 0 fun p => { p with queues := [(5, [outTrans])] }).portAt 47
     (x.queues.flatMap Prod.snd).find? (fun o => o.id == 9 && o.sent == o.bytes) = some outTrans ∧ outTrans.kind = .trans 2 ∧
       (withAccs State.reset [load0]).accAt 2 = some load0 ∧ load0.agent ≠ .peer) ∧
    (let s := circS 13749 id
     s.circ.joined = true ∧ s.circ.active.slotAt s.beat = (1, 1249) ∧ wordOpen (s.circ.active.word 1 47) = true ∧ (s.portAt 47).health ≠ .down ∧
       (circS 1249 id).circ.active.slotAt (circS 1249 id).beat = (0, 1249) ∧ wordOpen ((circS 1249 id).circ.active.word 0 47) = true) ∧
    (State.reset.circ.joined = false ∧ State.reset.anyPlaced = false ∧ (4095 : Nat) < 4096) ∧
    ((circS 12500 id).circ.active.slotAt (circS 12500 id).beat = (1, 0)) ∧
    (let s := circS 1258 id
     s.circ.active.slotAt s.beat = (0, 1258) ∧ wordOpen (s.circ.active.word 0 47) = true ∧ (s.portAt 47).lit = false ∧ (s.portAt 47).counted = false ∧
       (let u := circS 1258 fun p => { p with lit := true, frameEnd := 5032 }
        (u.portAt 47).lit = true ∧ u.circ.outOfTime = false ∧ (u.portAt 47).boundary (4 * u.beat) < 4 * u.beat + 4 ∧
          (u.portAt 47).retry.find? (fun f => f.again && f.peer == 5) = none ∧ wordPeer (u.circ.active.word 0 47) = 5 ∧
          [⟨0, 5, true, [], 0, []⟩].find? (fun f : FecFrame => f.again && f.peer == 5) = some ⟨0, 5, true, [], 0, []⟩)) ∧
    (let s : State := { circS 25000 id with circ := { (circS 0 id).circ with commit := some (CTable.default, 1) } }
     s.circ.commit = some (CTable.default, 1) ∧ s.circ.active.epoch + 1 * s.circ.active.period ≤ s.beat) := by
  refine ⟨by decide, by decide, by decide, by decide, by decide, by decide, by decide +kernel, by decide⟩

/-- A waking port without budget: 2,500 beats outside the guards of a package in no domain. -/
theorem test_meets_PortsAndCircuitsFollowTheTable_budget : 2500 ≤ ({ State.reset with beat := 2500 } : State).dataBeats 0 2500 ∧
    ({ Port.rest with width := .waking } : Port).announced = false ∧ ({ Port.rest with width := .waking } : Port).missed = false ∧
    4 * (2500 + 1) ≤ ({ Port.rest with width := .waking, announced := true, change := 10004 } : Port).change := by
  have len : ∀ n a, (upFrom a n).length = n := by
    intro n
    induction n with
    | zero => intro a; rfl
    | succ n ih => intro a; simp [upFrom, ih]
  refine ⟨?_, rfl, rfl, by decide⟩
  simp [State.dataBeats, show State.reset.circ.joined = false from rfl, len]

/-- A package with features 5 and 6 and a session. -/
def migS (f : Mig → Mig) : State := { feat State.reset 0x60 with mig := f Mig.rest }
/-- A record of these words in a session under key 0, sealed as the session's key seals it. -/
def rec1 (words : List Word) : StateRec :=
  let r : StateRec := ⟨0, 1, 8 * words.length, words, 0⟩
  { r with gcm := Config.sealTag 0 r.session r.seq r.sealed }
/-- A granule record of zeros at 0x400000, sealed so. -/
def gran1 : GranuleRec :=
  let g : GranuleRec := ⟨0, 1, 0x400000, List.replicate 64 0, List.replicate 4096 0, 0⟩
  { g with gcm := Config.sealTag 0 g.session g.seq g.words }

/-- An idle engine for sending and for receiving; a pass at its last entry with no block read and with 63, and one under an abort with records
unacknowledged, with nothing left, and with a granule begun; an import under way; a session that a false and a sealed record reach; an import. -/
theorem test_meets_MigrationMovesGranulesAndTasks :
    ((migS id).feature 5 = true ∧ (migS id).boot.state ≠ 8 ∧ (migS id).mig.busy = false ∧ (migS id).mig.recv = false ∧ (migS id).mig.go = false ∧ (migS id).feature 6 = true ∧ (migS id).mig.aborted = false ∧
      (migS fun m => { m with recv := true }).mig.recv = true ∧ bitsOf (0xFFFFFFFF : Word) 32 32 = 0 ∧
      (0xFFFFFFFF : Word).setWidth 32 ≠ (migS id).mig.msess) ∧
    ([(0, true), (63, true), (0, false), (63, false)].all fun (k, full) =>
      let s : State := { migS fun m => { m with
          busy := true, full := full, key := some 0, mcount := 3, pos := 3, taken := some true, part := List.replicate k Blk.zero } with
        mem := { Mem.rest.write 48 (leBytes 0x400000 8) with keys := [(0, some 0)] } }
      s.mig.busy && !s.mig.recv && !s.mig.go && !s.mig.over && s.listEntry s.mig.pos == some (0x400000, .hbm 0) &&
        (s.mig.full || s.mig.taken.getD (s.mem.takeDirty (.hbm 0)).1) && decide (s.mig.part.length < 64) && s.mig.pending == []) = true ∧
    ((migS fun m => { m with busy := true, pending := [(1, 0)] }).mig.pending ≠ [] ∧ (migS fun m => { m with busy := true }).mig.taken = none ∧
      (let m := (migS fun m => { m with busy := true, taken := some true }).mig
       m.taken ≠ none ∧ m.pos ≤ m.mcount) ∧ (migS fun m => { m with busy := true, go := true }).mig.go = true) ∧
    (let s := migS fun m => { m with busy := true, recv := true, key := some 0 }
     s.mig.genuine 1 1 [] 0 = false ∧ s.mig.stale 1 = false ∧ (s.onMig fun m => { m with high := 1, seen := [1] }).mig.stale 1 = true) ∧
    (let s := (migS fun m => { m with busy := true, recv := true, key := some 0 }).onOwner 0 fun o =>
        { o with live := true, ranges := [(0, ⟨0x400000, 4096, 0, 0x13D⟩)] }
     let u : State := s.onMig fun m => m.accept 1
     gran1.tags.length = 64 ∧ gran1.data.length = 4096 ∧ (match u.granulePlaces 0x400000 with
       | some ls => ls.length == 64
       | none => false) = true) := by
  refine ⟨by decide, by decide +kernel, by decide, by decide, List.length_replicate, List.length_replicate, ?_⟩
  decide +kernel
/-- The records that their session's key has sealed are genuine. -/
theorem test_meets_MigrationMovesGranulesAndTasks_sealed :
    (migS fun m => { m with key := some 0 }).mig.genuine gran1.session gran1.seq gran1.words gran1.gcm = true ∧
    (let s := migS fun m => { m with go := true, imp := true, key := some 0 }
     ∀ k, s.mig.genuine (rec1 k).session (rec1 k).seq (rec1 k).sealed (rec1 k).gcm = true ∧ s.mig.stale (rec1 k).seq = false) := by
  have h : ∀ x : BitVec 128, (x == x) = true := fun x => by simp
  exact ⟨h _, fun k => ⟨h _, rfl⟩⟩
/-- What is enciphered twice under one number is itself. -/
theorem cryptWords_cryptWords (k : BitVec 256) (n : W32) (q : Nat) (l : List Word) : cryptWords k n q (cryptWords k n q l) = l := by
  apply List.ext_getElem?
  intro i
  cases h : l[i]? <;> simp [cryptWords, List.getElem?_zipIdx, h]
/-- Records whose words decipher to a record of type 1 and to the end record. -/
theorem test_meets_MigrationMovesGranulesAndTasks_kinds :
    (typedOf (cryptWords 0 0 1 (rec1 (cryptWords 0 0 1 [0x0001000000000000, 0])).words)).kind ≠ 0xFFFF ∧
    (typedOf (cryptWords 0 0 1 (rec1 (cryptWords 0 0 1 [0xFFFF000000000000, 0])).words)).kind = 0xFFFF := by
  simp only [rec1, cryptWords_cryptWords]
  decide
/-- A task in slot 0 of die 0 with a committed buffer, in the timetable. -/
theorem test_meets_MigrationMovesGranulesAndTasks_export :
    (let s : State := { slotS id id with
        boot := (feat State.reset 0x60).boot, mig := { Mig.rest with key := some 0 }
        tasks := [(1, some { entry1 .pending with slot := some 0 })] }
     s.boot.state ≠ 8 ∧ s.feature 5 = true ∧ s.feature 6 = true ∧ s.mig.key = some 0 ∧
       ∃ c, s.exportable = some (1, { entry1 .pending with slot := some 0 }, c) ∧ c.core.pl.lease = none) :=
  ⟨by decide, by decide, by decide, by decide, _, rfl, rfl⟩

/-- The words of a launch packet of slice 2 after slice 1, with this number and no descriptor, and what they say. -/
def launchWs (seq : Nat) : List Word := [0x0100000000000000, BitVec.ofNat 64 seq, 0x200000001, 0, 0, 0, 0, 0]
def launch7 : Launch := ⟨1, 0, 7, 2, 1, 0, 0, []⟩

/-- Operation and recovery; the last nonce word and the last byte of the window; a verification and an install under way; a critical
temperature of the last mortise; a registered node, with a new and an old number; a packet whose prior slice has left and one whose slice has
not; one whose tasks are posted, with four and with five posts of the beat at their die. -/
theorem test_meets_FleetOperationsComplete :
    (let s : State := { State.reset with fleet := { Fleet.rest with qgo := true } }
     s.fleet.qgo = true ∧ (5 : Nat) < 6) ∧
    (let s : State := { State.reset with boot := { Boot.rest with state := 8 } }
     s.boot.state = 8 ∧ s.fleet.upStatus ≠ .busy ∧ 2 ^ 24 - 1 + ([1] : List Byte).length ≤ 2 ^ 24) ∧
    (let s (i : Bool) : State := { State.reset with fleet := { Fleet.rest with upStatus := .busy, installing := i } }
     (s false).fleet.upStatus = .busy ∧ (s false).fleet.installing = false ∧ (s true).fleet.installing = true) ∧
    ({ Fleet.rest with upStatus := .verified } : Fleet).upStatus = .verified ∧ ((27 : Nat) < 28 ∧ 4 * Fleet.rest.tcrit ≤ 420) ∧
    (let s : State := { State.reset with node := { Node.rest with regs := [(0, 1)], lastSeq := 7 } }
     s.node.pending = none ∧ s.node.inbox = [] ∧ s.node.from_ (.endpoint 1) = true ∧ s.node.from_ (.package 1) = false ∧
       launchOf (launchWs 7) = some launch7 ∧ s.node.lastSeq ≤ launch7.seq ∧ launch7.prior ≠ 0 ∧
       launchOf (launchWs 6) = some { launch7 with seq := 6 } ∧ ({ launch7 with seq := 6 } : Launch).seq < s.node.lastSeq ∧
       launchOf [0x0200000000000000, 7, 0x200000001, 0, 0, 0, 0, 0] = none) ∧
    (let s : State := { State.reset with node := { Node.rest with pending := some launch7 } }
     s.node.pending = some launch7 ∧ s.node.inbox = [] ∧ s.node.rows = none ∧ s.sliceOn launch7.prior = false ∧ launch7.descs.length ≤ 4) ∧
    (∀ d, (State.reset.dieAt d).posts = 0) ∧
    (let s : State := { cs id with node := { Node.rest with pending := some launch7 } }
     (s.onTask 1 fun x => { x with slice := 1, core := some 0, st := .running }).sliceOn launch7.prior = true) ∧
    (let s (k : Nat) : State := { State.reset.onDie 0 fun d => { d with posts := k } with
        node := { Node.rest with pending := some { launch7 with descs := [[]] }, rows := some [0] } }
     (s 4).node.rows = some [0] ∧ ((s 4).dieAt (descDie [])).posts ≤ 4 ∧ 4 < ((s 5).dieAt (descDie [])).posts) :=
  ⟨by decide, by decide, by decide, by decide, by decide, by decide, by decide, fun _ => rfl, by decide, by decide⟩

/-- A store of 8 bytes to the last valid word of the local window, a cas in die shared memory and an atomic in HBM of owner 0. -/
theorem test_meets_StoresWriteExactlyTheirBytes :
    let a : Access := { load0 with op := .store 8 5, loc := .scr 0 504 }
    let b : Access := { load0 with op := .cas 8 false 1 0, loc := .dsm 7 (2 ^ 26 - 8) }
    let c : Access := { load0 with op := .amo 0 4 true 1, loc := .hbm 60 }
    let s : State := { withAccs (scrS id) [a, b, c] with
      mem := { (scrS id).mem with keys := [(0, some 0), (blkOf b.loc, some 0)] } }
    (s.accAt 2 = some a ∧ s.accAt 3 = some b ∧ s.accAt 4 = some c) ∧ [a, b, c].all (fun x =>
      x.agent == .c && x.orig == none && !s.isCell (blkOf x.loc) && !mget false s.mem.bad (blkOf x.loc) && pocOf s.placing x.loc != 20000 &&
        tagOk (s.feature 1) (mget 0 s.mem.tags (blkOf x.loc)) &&
        (isScrBlk (blkOf x.loc) || mget none s.mem.keys (blkOf x.loc) == some (s.keyOf x.owner) && mget none s.mem.tweaks (blkOf x.loc) == none) &&
        (!isScrBlk (blkOf x.loc) || s.mem.allValid (blkOf x.loc) (inBlk x.loc) 8)) = true ∧ s.scrAccepts a 504 8 0 = none ∧
    inBlk a.loc + 8 ≤ 64 ∧ inBlk b.loc + 8 ≤ 64 ∧ inBlk c.loc + 4 ≤ 64 := by decide +kernel

/-- The state at reset meets the form that every step keeps, and its step, which begins the next beat, answers a next state. -/
theorem test_meets_EveryStepKeepsStorageCanonical : Canonical State.reset ∧ ∃ t, step State.reset = .next t :=
  ⟨(by decide : Memory.wf State.reset.mem = true), _, rfl⟩

/-! ## Single steps, with values from the spec's own examples and tables or computed from them by hand -/

/-- The state after an instruction. -/
def run (i : Instr) (s : State) : State :=
  match exec i s with
  | .next t => t
  | _ => s
/-- What register r holds once the results under way are in place. -/
def out (r : Nat) (t : State) : Word := ((t.here.c.pend.filter fun p => p.reg == r).getLast?.map Pend.value).getD (mget 0 t.here.c.regs r)
/-- The cause and the pc of a trap just taken. -/
def trap (t : State) : Option (Nat × Nat) := if t.here.c.hlevel then some (t.here.tr.tcause.toNat % 256, t.here.tr.tpc.toNat) else none
/-- R form on x3, x1, x2. -/
def r312 : RForm := ⟨3, 1, 2, false, false⟩
/-- x1 and x2. -/
def x12 (a b : Word) : State := cs (xs [(1, a), (2, b)])

theorem test_add_wraps : out 3 (run (.add r312) (x12 0xFFFFFFFFFFFFFFFF 2)) = 1 := by decide
theorem test_sub_order : out 3 (run (.sub r312) (x12 2 5)) = 0xFFFFFFFFFFFFFFFD := by decide
theorem test_mulh_signed : out 3 (run (.mulh r312) (x12 0xFFFFFFFFFFFFFFFF 2)) = 0xFFFFFFFFFFFFFFFF := by decide
theorem test_mulhn_unsigned : out 3 (run (.mulhn r312) (x12 0xFFFFFFFFFFFFFFFF 2)) = 1 := by decide
/-- R237's example. -/
theorem test_div_truncates : out 3 (run (.div r312) (x12 (-7) 2)) = -3 := by decide
/-- R237's example. -/
theorem test_rem_takes_the_sign_of_its_dividend : out 3 (run (.rem r312) (x12 (-7) 2)) = -1 := by decide
/-- R237's example. -/
theorem test_divn_unsigned : out 3 (run (.divn r312) (x12 0xFFFFFFFFFFFFFFF9 2)) = 0x7FFFFFFFFFFFFFFC := by decide
/-- R237's example. -/
theorem test_remn_unsigned : out 3 (run (.remn r312) (x12 0xFFFFFFFFFFFFFFF9 2)) = 1 := by decide
/-- R237: the most negative number by -1. -/
theorem test_rem_overflow : out 3 (run (.rem r312) (x12 0x8000000000000000 (-1))) = 0 := by decide
theorem test_andn_negates_the_second : out 3 (run (.andn r312) (x12 0xFF 0x0F)) = 0xF0 := by decide
theorem test_sra_copies_the_sign : out 3 (run (.sra r312) (x12 0x8000000000000000 63)) = 0xFFFFFFFFFFFFFFFF := by decide
theorem test_min_is_signed : out 3 (run (.min_ r312) (x12 (-1) 1)) = -1 := by decide
theorem test_minn_is_unsigned : out 3 (run (.minn r312) (x12 (-1) 1)) = 1 := by decide
theorem test_clz_of_zero : out 3 (run (.clz ⟨3, 1, false⟩) (x12 0 0)) = 64 := by decide
theorem test_ctz_of_the_top_bit : out 3 (run (.ctz ⟨3, 1, false⟩) (x12 0x8000000000000000 0)) = 63 := by decide
theorem test_popc : out 3 (run (.popc ⟨3, 1, false⟩) (x12 0xF000000000000001 0)) = 5 := by decide
/-- R239: 8 times x2 is added. -/
theorem test_adds_scales_the_second : out 3 (run (.adds r312 3) (x12 0x100 5)) = 0x128 := by decide
theorem test_sel_takes_the_second_on_zero : out 3 (run (.sel r312) (x12 7 9)) = 9 := by decide
theorem test_sel_takes_the_first_otherwise : out 3 (run (.sel r312) (cs (xs [(1, 7), (2, 9), (3, 1)]))) = 7 := by decide
/-- R240: ltn against -1 fails for all ones alone. -/
theorem test_cmpi_ltn_all_ones : out 3 (run (.cmpi ⟨3, 1, false, 4, -1⟩) (x12 0xFFFFFFFFFFFFFFFF 0)) = 0 := by decide
theorem test_cmpi_lt_is_signed : out 3 (run (.cmpi ⟨3, 1, false, 2, 0⟩) (x12 (-1) 0)) = 1 := by decide
/-- R242's example. -/
theorem test_addi_100 : out 3 (run (.addi ⟨3, 0, false, 100⟩) (cs id)) = 100 := by decide
/-- R242: a negative immediate keeps the high bits. -/
theorem test_andi_negative : out 3 (run (.andi ⟨3, 1, false, -16⟩) (x12 0xFFFFFFFFFFFFFFFF 0)) = 0xFFFFFFFFFFFFFFF0 := by decide
/-- R243's example. -/
theorem test_movh : out 5 (run (.movh 5 0x12345) (cs id)) = 0x12345000 := by decide
/-- R243's example. -/
theorem test_ori_completes_movh : out 5 (run (.ori ⟨5, 5, false, 0x678⟩) (cs (xs [(5, 0x12345000)]))) = 0x12345678 := by decide
/-- R244's example. -/
theorem test_ext_signed : out 6 (run (.ext_ ⟨6, 7, false, 8, 15, true⟩) (cs (xs [(7, 0xABCD12)]))) = 0xFFFFFFFFFFFFABCD := by decide
theorem test_ins_keeps_other_bits : out 6 (run (.ins ⟨6, 7, false, 8, 7, false⟩) (cs (xs [(6, 0x111111), (7, 0xFFEE)]))) = 0x11EE11 := by decide
/-- R248: a taken branch leaves one beat empty. -/
theorem test_br_taken : (run (.br ⟨2, 1, false, -1⟩) (cs (ctl fun c => { c with pc := 10, regs := [(1, -1)] }))).here.c.pc = 9 ∧
    (run (.br ⟨2, 1, false, -1⟩) (cs (ctl fun c => { c with pc := 10, regs := [(1, -1)] }))).here.c.ready = 2 := by decide
theorem test_br_not_taken : (run (.br ⟨4, 1, false, -1⟩) (cs (ctl fun c => { c with pc := 10 }))).here.c.pc = 11 := by decide
/-- R246: a count of 1 falls through, and 0 is left. -/
theorem test_loop_ends : (run (.loop 1 (-5)) (cs (ctl fun c => { c with pc := 10, regs := [(1, 1)] }))).here.c.pc = 11 ∧
    out 1 (run (.loop 1 (-5)) (cs (ctl fun c => { c with pc := 10, regs := [(1, 1)] }))) = 0 := by decide
/-- R247: the link is the word after. -/
theorem test_jal_links : (run (.jal 20) (cs (ctl fun c => { c with pc := 10 }))).here.c.pc = 30 ∧
    out 31 (run (.jal 20) (cs (ctl fun c => { c with pc := 10 }))) = 11 := by decide
/-- R247: 16,384 is past the last word; instruction range (R446). -/
theorem test_jr_out_of_range : trap (run (.jr ⟨1, false⟩) (withHandler (cs (ctl fun c => { c with pc := 10, regs := [(1, 16384)] })))) = some (0x22, 10) := by decide
/-- The example below R16: core 162 under owner 0. -/
theorem test_coreid_of_core_162 :
    out 3 (run (.csrr 3 0) { (State.reset.setTask 1 (some { fetchTask with core := some 162, die := 6 })).onCore 162 fun c =>
      { c with pl := { c.pl with task := some 1, phase := .running } } with turn := ⟨[], 162, .c⟩ }) = 0xA2D2 := by decide
/-- R252: the binding ends, and the entries stay. -/
theorem test_chdrop_keeps_entries : (run (.chdrop 32) (cs chans)).queueOf 0 32 = none ∧ (run (.chdrop 32) (cs chans)).entries 0 (.result 3) = [7, 9] := by
  decide
theorem test_chlvl_counts : out 3 (run (.chlvl 3 32) (cs chans)) = 2 := by decide

/-! Memory -/

/-- The local word at 0x40 holds this; x1 is its address, x2 and x3 the operands. -/
def wordS (v : Nat) (b d : Word) : State :=
  let s := scrS fun c => xs [(1, 0x40), (2, b), (3, d)] c
  { s with mem := s.mem.write (2 ^ 41 + 0x40) (leBytes v 8) }
/-- The access that an instruction has put into its queue, performed: its result, and the word at 0x40. -/
def done (t : State) : Option (Res × Nat) := (t.perform 2 |>.accAt 2).map fun a => (a.res, (t.perform 2).wordAt 0 (.scr 0 0x40) 8)

/-- R256: bytes extend with their sign. -/
theorem test_ld_i8_extends : done (run (.ldI8 ⟨3, 1, false, 0⟩) (wordS 0x1234FF 0 0)) = some (.val (-1), 0x1234FF) := by decide +kernel
theorem test_ld_b16_extends_with_zeros : done (run (.ldB16 ⟨3, 1, false, 2⟩) (wordS 0xFF340000 0 0)) = some (.val 0xFF34, 0xFF340000) := by decide +kernel
theorem test_ld_n32_extends_with_zeros : done (run (.ldN32 ⟨3, 1, false, 4⟩) (wordS 0xFFFFFFFE00000000 0 0)) = some (.val 0xFFFFFFFE, 0xFFFFFFFE00000000) := by
  decide +kernel
/-- R256: four bytes are stored, and the next four stay. -/
theorem test_st_i32_is_narrow : (done (run (.stI32 ⟨2, 1, false, 0⟩) (wordS 0x1111111122222222 0xAAAAAAAABBBBBBBB 0))).map Prod.snd = some 0x11111111BBBBBBBB := by
  decide +kernel
/-- R106's example: the old value comes back, and 12 is the sum. -/
theorem test_amo_add : done (run (.amoI64 ⟨4, 1, 2, false, false⟩ 0 0) (wordS 10 2 0)) = some (.val 10, 12) := by decide +kernel
/-- R215: operation 6 is the unsigned maximum. -/
theorem test_amo_maxn : done (run (.amoN32 ⟨4, 1, 2, false, false⟩ 6 0) (wordS 0xFFFFFFFF 1 0)) = some (.val 0xFFFFFFFF, 0xFFFFFFFF) := by decide +kernel
/-- The example below R271: success. -/
theorem test_cas_succeeds : done (run (.casI64 ⟨3, 1, 2, false, false⟩ 0) (wordS 7 9 7)) = some (.val 7, 9) := by decide +kernel
/-- The example below R271: failure. -/
theorem test_cas_fails : done (run (.casI64 ⟨3, 1, 2, false, false⟩ 0) (wordS 7 9 8)) = some (.val 7, 7) := by decide +kernel
/-- R272: the counter wraps. -/
theorem test_sqadd_wraps : (done (run (.sqadd ⟨1, 2, false, false⟩ 0) (wordS (2 ^ 64 - 1) 2 0))).map Prod.snd = some 1 := by decide +kernel
/-- R257: a misaligned store is taken precisely, with the cause of R446 and the address. -/
theorem test_store_misaligned : trap (run (.stI64 ⟨2, 1, false, 4⟩) (withHandler (wordS 0 0 0))) = some (0x04, 0) ∧
    (run (.stI64 ⟨2, 1, false, 4⟩) (withHandler (wordS 0 0 0))).here.tr.taddr = 0x44 := by decide +kernel
/-- The example below R110: the second of two copies completes generation 5. -/
theorem test_sync_word_counts :
    let s : State := { scrS id with mem := (scrS id).mem.write (2 ^ 41) (leBytes 8192 4 ++ leBytes 4096 4 ++ leBytes 5 4 ++ leBytes 0 4) }
    (s.syncArrive 0 0 4096).syncWords 0 0 = [8192, 0, 6, 0] := by decide +kernel
/-- The examples below R105. -/
theorem test_homes : homeOf Placing.rest 0xC000005000 = some (32 * (2 * 6 + 1) + 2, 0) ∧
    (homeOf Placing.rest 0x1A00005000).map Prod.fst = some (32 * 1 + 2) := by decide +kernel

/-! Numbers and vectors -/

/-- The example below R76: 0x1B is 0.375, 24 units of 2^-6, and 0.375 is written 0x23. -/
theorem test_ds8 : ds8Units 0x1B = 24 ∧
    (encDs8 0 false 3 (-3)).1 = 0x23 ∧ (encDs8 0 false 1 (-1)).1 = 0x17 ∧ (encDs8 0 false 3 (-2)).1 = 0x12 := by decide +kernel
/-- The example below R91. -/
theorem test_quantise : selectScale .e4 (some (1000, 0)) = 129 ∧ (roundTo .e4 0 ((Val.ofInt 1000).scale (-2))).1 = 0x78 ∧
    (roundTo .e4 0 ((Val.ofInt (-3)).scale (-2))).1 = 0xB4 := by decide +kernel
/-- binary32: 1 + 2 is 3; a half unit rounds to even; the largest number doubled is infinite with overflow and inexact (R77, R81). -/
theorem test_f32_add : fpAdd .f32 0x3F800000 0x40000000 = (0x40400000, 0) ∧ fpAdd .f32 0x3F800000 0x33800000 = (0x3F800000, 1) ∧
    fpAdd .f32 0x7F7FFFFF 0x7F7FFFFF = (0x7F800000, 5) := by decide +kernel
/-- R298: 0 times infinity in a fused sum is invalid, with a quiet NaN too. -/
theorem test_fma_invalid : fFma .f32 0 0x7F800000 0x7FC00000 = (0x7FC00000, 16) := by decide +kernel

/-- Weight columns of 0.5 and of 0.75 in DS8, as the example below R86 has them. -/
def macJob : MacJob :=
  let blk (c : Byte) : Option Blk := some ⟨BitVec.ofNat 512 (leNat (List.replicate 64 c)), 0x087F⟩
  ⟨0, 0, 0, 1, 0, 2, 0, [], 0, (upFrom 0 8).map (fun u => (u, if u < 4 then blk 0x17 else blk 0x12)), 0, 0, 0⟩
/-- A row of ones in E4M3, its third block of scale t. -/
def ones (t : Tag) : Vec := ⟨BitVec.ofNat 2048 (leNat (List.replicate 256 0x38)), 0x057F#16 ++ t ++ 0x057F#16 ++ 0x057F#16⟩
/-- The example below R86: 128 and 192, and with the third block doubled 160 and 240. -/
theorem test_mmac_outputs : macOut macJob [ones 0x057F] 0 0 = (0x43000000, 0) ∧ macOut macJob [ones 0x057F] 1 0 = (0x43400000, 0) ∧
    macOut macJob [ones 0x0580] 0 0 = (0x43200000, 0) ∧ macOut macJob [ones 0x0580] 1 0 = (0x43700000, 0) := by decide +kernel

/-- A at work with v1, v2 and v3 of these lanes of 32 bits (R27: base 0). -/
def vecS (l : List (List Nat)) : State :=
  cs (fun c => { c with ve := { c.ve with v := (upFrom 1 l.length).zip (l.map fun x => ⟨ofLanes 32 x, 0⟩) } }) .a
/-- Lane 0 of what the last micro-order will write to v3, with its flags. -/
def lane0 (t : State) : Option (Nat × BitVec 5) :=
  t.here.ve.jobs.getLast?.bind fun j => match j.work with
    | .arith (.v 3 x :: _) => some (bitsOf x.data 0 32, j.flags)
    | _ => none
/-- A form on v3, v1, v2 without a guard. -/
def a312 : AForm := ⟨3, 1, 2, 7, false, 0⟩

/-- R297: bytes wrap apart. -/
theorem test_vadd_i8 : lane0 (run (.vaddI8 a312) (vecS [[0x7FFF00FF], [0x01010101]])) = some (0x80000100, 0) := by decide +kernel
/-- R297: bits 31 to 5 of a shift are ignored. -/
theorem test_vsra : lane0 (run (.vsra a312) (vecS [[0x80000000], [0x24]])) = some (0xF8000000, 0) := by decide +kernel
/-- R297: the upper bound holds where the bounds cross. -/
theorem test_vclamp_crossed : lane0 (run (.vclampI32 a312) (vecS [[9], [4], [5]])) = some (4, 0) := by decide +kernel
/-- R298: the difference of product and d, once rounded. -/
theorem test_vfms : lane0 (run (.vfmsF32 a312) (vecS [[0x40000000], [0x40400000], [0x41200000]])) = some (0x40800000, 0) := by decide +kernel
/-- R299: -0 lies below +0. -/
theorem test_vmin_zeros : fpMinMax .f32 false 0 0x80000000 = (0x80000000, 0) := by decide +kernel
/-- R300: all ones, and guard g3 of v3. -/
theorem test_vcmp_writes_a_guard :
    ((run (.vcmpLtI32 a312) (vecS [[0xFFFFFFFF], [1]])).here.ve.jobs.getLast?.map fun j => match j.work with
      | .arith [.v 3 x, .g g b] => (bitsOf x.data 0 32, bitsOf x.data 32 32, g, b)
      | _ => (0, 0, 0, false)) = some (0xFFFFFFFF, 0, 3, true) := by decide +kernel

/-! The device -/

/-- The example below R50: of three ready entries of one frame the one of the lower tick comes first, then the older. -/
theorem test_placement_order :
    let e (tick order : Nat) (mask : BitVec 24) : Task := { entry1 .ready with rframe := 5, roffset := tick, order := order, mask := mask }
    let s := ((State.reset.setTask 1 (some (e 100 1 3))).setTask 2 (some (e 100 2 3))).setTask 3 (some (e 50 3 2))
    (s.firstEntry 0).map (fun x => (x.1, x.2.1)) = some (3, 1) := by decide +kernel
/-- The example of 06_conveyor.md: on beat 64,059 slot 5 of strand 0 stands at position 0, 8 beats later at 8 and 16 later at 16. -/
theorem test_slot_5 : slotNow 0 0 64059 = 5 ∧ slotNow 0 1 64067 = 5 ∧ slotNow 0 2 64075 = 5 := by decide
/-- That example: an add of lanes of 2 to lanes of 1 gives lanes of 3. -/
theorem test_station_adds :
    let ones : Blk := ⟨BitVec.ofNat 512 (leNat ((List.replicate 16 [1, 0, 0, 0]).flatten)), 0x0200⟩
    let twos : Blk := ⟨BitVec.ofNat 512 (leNat ((List.replicate 16 [2, 0, 0, 0]).flatten)), 0x0200⟩
    (addPay (entry 3 0 0) [ones] [twos]).map (fun x => (x.1.headD Blk.zero).nat 60 4) = some 3 := by decide +kernel

end Sys2Proof.Tests
end

/-!
The step and the beat counter (01_machine.md R37). An event on the agenda is executed as the meaning of its row; the beat rises
where a beat starts, and nowhere else within the end of one beat and the start of the next: every act that either of them makes
leaves the counter alone, one lemma for each function of the model.
-/

namespace Sys2Proof.Machine

/-! ## Folds -/

/-- A fold of acts that leave the beat alone leaves it alone. -/
@[simp] theorem foldl_beat {α : Type} (f : State → α → State) (l : List α) (s : State) (h : ∀ t a, (f t a).beat = t.beat) :
    (l.foldl f s).beat = s.beat :=
  List.foldlRecOn (motive := fun t => t.beat = s.beat) l f rfl fun t ht a _ => (h t a).trans ht

/-! ## Updates whose contents are large

The equations of Laws/State.lean hold by unfolding, so a simp step by one of them leaves the kernel to compare a state with its
update, and where the update writes computed contents it evaluates them. The same equations proved by an opaque term are rewritten
by, and the contents are never looked at. -/

section
variable (s : State)

theorem beat_onMem (f : Mem → Mem) : (s.onMem f).beat = s.beat := (rfl)
theorem beat_onAcc (a : Nat) (f : Access → Access) : (s.onAcc a f).beat = s.beat := (rfl)
theorem beat_onTask (t : Nat) (f : Task → Task) : (s.onTask t f).beat = s.beat := (rfl)
theorem beat_onCore (n : Nat) (f : Core → Core) : (s.onCore n f).beat = s.beat := (rfl)
theorem beat_finish (a : Nat) (r : Res) : (s.finish a r).beat = s.beat := (rfl)

end

/-! ## Error counters, warnings and waiters -/

section
variable (s : State)

@[simp] theorem countCorr_beat (l : Loc) : (s.countCorr l).beat = s.beat := rfl
@[simp] theorem countUncorr_beat (l : Loc) : (s.countUncorr l).beat = s.beat := (rfl)
@[simp] theorem countBad_beat (c : BitVec 8) (l : Loc) : (s.countBad c l).beat = s.beat := by
  unfold State.countBad; split <;> rfl
@[simp] theorem noteLookup_beat (o va : Nat) : (s.noteLookup o va).beat = s.beat := by
  unfold State.noteLookup; split <;> rfl
@[simp] theorem noteCause_beat (o va : Nat) (c : BitVec 8) : (s.noteCause o va c).beat = s.beat := by
  unfold State.noteCause; split <;> simp
@[simp] theorem logInbound_beat (d : Nat) (a : Access) (c : BitVec 8) : (s.logInbound d a c).beat = s.beat := rfl
@[simp] theorem warnAt_beat (n : Nat) (l : Loc) (w : Nat) : (s.warnAt n l w).beat = s.beat := by
  unfold State.warnAt; repeat' split
  all_goals rfl
@[simp] theorem warnPieces_beat (n : Nat) (l : List (Loc × Nat)) : (s.warnPieces n l).beat = s.beat := by
  induction l with
  | nil => rfl
  | cons e t ih => unfold State.warnPieces; split <;> simp [ih]
@[simp] theorem endWait_beat (a : Nat) (x : Access) (w : Nat) (r : Res) : (s.endWait a x w r).beat = s.beat := by
  unfold State.endWait; split <;> simp
@[simp] theorem wakeOne_beat (wake : Bool) (a : Nat) : (s.wakeOne wake a).beat = s.beat := by
  unfold State.wakeOne; repeat' split
  all_goals simp
@[simp] theorem unpark_beat (poc : Nat) (l : List Nat) : (s.unpark poc l).beat = s.beat := rfl
@[simp] theorem wakeAll_beat (wake : Bool) (l : List Nat) : (s.wakeAll wake l).beat = s.beat := by simp [State.wakeAll]
@[simp] theorem touch_beat (b : Nat) : (s.touch b).beat = s.beat := by
  unfold State.touch; dsimp only
  refine Eq.trans (foldl_beat _ _ _ ?_) (by simp)
  exact fun _ _ => rfl
@[simp] theorem wakeAt_beat (l : Loc) (n : Nat) : (s.wakeAt l n).beat = s.beat := by simp [State.wakeAt]

end

/-! ## Future cells -/

section
variable (s : State)

@[simp] theorem answerCell_beat (b : Nat) (r : Access → Res) : (s.answerCell b r).beat = s.beat := by
  simp only [State.answerCell, onMem_beat]
  exact foldl_beat _ _ _ fun t a => by split <;> simp
@[simp] theorem revertCell_beat (b : Nat) : (s.revertCell b).beat = s.beat := by
  unfold State.revertCell; split <;> simp
@[simp] theorem launchEval_beat (a : Access) (b : Blk) : (s.launchEval a b).beat = s.beat := (rfl)
@[simp] theorem cellLoad_beat (n : Nat) (a : Access) : (s.cellLoad n a).beat = s.beat := by
  simp only [State.cellLoad, apply_ite State.beat, beat_finish, launchEval_beat, beat_onAcc, beat_onMem, revertCell_beat, ite_self]

end

/-! ## Writes of the device, pins and slots -/

section
variable (s : State)

@[simp] theorem enterWq_beat (l : Loc) (cls : Nat) (bs : List Nat) : (s.enterWq l cls bs).beat = s.beat := by
  unfold State.enterWq; split <;> rfl
@[simp] theorem devWrite_beat (p n v : Nat) : (s.devWrite p n v).beat = s.beat := by
  unfold State.devWrite; dsimp only; split <;> simp
@[simp] theorem writeArea_beat (key : BitVec 512) (lo n : Nat) (cells : List Host.Cell) :
    (s.writeArea key lo n cells).beat = s.beat := by simp [State.writeArea]
@[simp] theorem setPins_beat (p : Nat) (f : Nat → Nat) : (s.setPins p f).beat = s.beat := by
  unfold State.setPins; split <;> simp
@[simp] theorem addPins_beat (ps : List Nat) : (s.addPins ps).beat = s.beat := by simp [State.addPins]
@[simp] theorem dropPins_beat (ps : List Nat) : (s.dropPins ps).beat = s.beat := by simp [State.dropPins]
@[simp] theorem putVec_beat (n o : Nat) (x : Vec) : (s.putVec n o x).beat = s.beat := by simp [State.putVec]
@[simp] theorem landSpill_beat (n k : Nat) (x : Vec) : (s.landSpill n k x).beat = s.beat := by
  unfold State.landSpill; repeat' split
  all_goals simp
@[simp] theorem pushWake_beat (n q : Nat) (w : Word) : (s.pushWake n q w).beat = s.beat := rfl
@[simp] theorem gateNow_beat (n : Nat) : (s.gateNow n).beat = s.beat := by unfold State.gateNow; split <;> rfl
@[simp] theorem takeSlot_beat (t k : Nat) : (s.takeSlot t k).beat = s.beat := by
  unfold State.takeSlot; split <;> simp
@[simp] theorem markNeg_beat (n h src ix : Nat) (c : BitVec 8) : (s.markNeg n h src ix c).beat = s.beat := rfl

end

/-! ## Accesses at their place -/

section
variable (s : State)

@[simp] theorem putSync_beat (n o target count gen fl : Nat) : (s.putSync n o target count gen fl).beat = s.beat := by
  simp only [State.putSync, apply_ite State.beat, touch_beat, beat_onMem, countUncorr_beat, ite_self]
@[simp] theorem syncArrive_beat (c o n : Nat) : (s.syncArrive c o n).beat = s.beat := by
  simp only [State.syncArrive, apply_ite State.beat, putSync_beat, ite_self]
@[simp] theorem syncFail_beat (c o : Nat) : (s.syncFail c o).beat = s.beat := by simp [State.syncFail]
@[simp] theorem refuse_beat (id : Nat) (a : Access) (c : BitVec 8) : (s.refuse id a c).beat = s.beat := by
  unfold State.refuse; dsimp only; split <;> simp
@[simp] theorem unitFlags_beat (id poc : Nat) (fl : Flags) : (s.unitFlags id poc fl).beat = s.beat := (rfl)
@[simp] theorem uninit_beat (a : Access) (w : Nat) : (s.uninit a w).2.beat = s.beat := by
  unfold State.uninit; dsimp only; repeat' split
  all_goals rfl
/-- A read leaves the beat alone where what it does with the block read does. -/
@[simp] theorem readAt_beat (id : Nat) (a : Access) (w : Nat) (cell : Bool) (k : Blk → State → State)
    (h : ∀ x t, (k x t).beat = t.beat) : (s.readAt id a w cell k).beat = s.beat := by
  unfold State.readAt; dsimp only; repeat' split
  all_goals simp [h]
@[simp] theorem waitAt_beat (id : Nat) (a : Access) (w : Nat) (sx : Bool) (b : Word) (watch : Bool) (x : Blk) :
    (s.waitAt id a w sx b watch x).beat = s.beat := by
  unfold State.waitAt; dsimp only; split <;> simp
/-- A write leaves the beat alone where what it does, when it is not refused, does. -/
@[simp] theorem modify_beat (id : Nat) (a : Access) (n : Nat) (tagged : Bool) (k : State → State)
    (h : ∀ t, (k t).beat = t.beat) : (s.modify id a n tagged k).beat = s.beat := by
  unfold State.modify; split <;> simp [h]
@[simp] theorem putWord_beat (a : Access) (w v : Nat) : (s.putWord a w v).beat = s.beat := by simp [State.putWord]
@[simp] theorem landBlk_beat (a : Access) (lo n : Nat) (x : Blk) : (s.landBlk a lo n x).beat = s.beat := by
  unfold State.landBlk; split <;> simp
@[simp] theorem fillAt_beat (id : Nat) (a : Access) : (s.fillAt id a).beat = s.beat := by
  unfold State.fillAt; dsimp only; repeat' split
  all_goals simp only [beat_finish, countBad_beat, warnPieces_beat]
@[simp] theorem performHere_beat (id : Nat) : (s.performHere id).beat = s.beat := by
  simp only [State.performHere]
  split
  · rfl
  · rename_i a _
    cases a.op with
    | swinit t => dsimp only; split <;> simp only [modify_beat, putSync_beat, beat_finish, implies_true]
    | bemsg v => dsimp only; split <;> simp only [apply_ite State.beat, beat_onCore, beat_finish, ite_self]
    | redChunk c =>
      dsimp only; repeat' split
      all_goals simp only [refuse_beat, countBad_beat, beat_finish, foldl_beat, touch_beat, beat_onMem, implies_true]
    | _ =>
      simp only [readAt_beat, modify_beat, apply_ite State.beat, beat_finish, waitAt_beat, beat_onAcc, countUncorr_beat,
        putWord_beat, unitFlags_beat, refuse_beat, wakeAt_beat, touch_beat, beat_onMem, beat_onTask, answerCell_beat,
        landSpill_beat, fillAt_beat, landBlk_beat, implies_true, ite_self]
@[simp] theorem performAt_beat (id : Nat) : (s.performAt id).beat = s.beat := by
  unfold State.performAt; repeat' split
  all_goals simp
@[simp] theorem noteLanding_beat (n o k : Nat) : (s.noteLanding n o k).beat = s.beat := rfl
@[simp] theorem countArrivals_beat : s.countArrivals.beat = s.beat := by
  rw [State.countArrivals, ← beat_onMem s fun m => { m with landed := [] }]
  generalize s.onMem _ = t
  induction s.mem.landed generalizing t with
  | nil => rfl
  | cons e l ih => rw [List.foldl_cons, ih, syncArrive_beat]
@[simp] theorem countLanding_beat (id : Nat) : (s.countLanding id).beat = s.beat := by
  unfold State.countLanding; repeat' split
  all_goals simp

end

/-! ## Enqueues of a peer -/

section
variable (s : State)

@[simp] theorem refusePeer_beat (a : Access) (c : BitVec 8) : (s.refusePeer a c).beat = s.beat := by simp [State.refusePeer]
@[simp] theorem failEnq_beat (f : EnqueueFlit) : (s.failEnq f).beat = s.beat := by
  unfold State.failEnq; repeat' split
  all_goals simp
@[simp] theorem recordRefusal_beat (a : Access) (c : BitVec 8) : (s.recordRefusal a c).beat = s.beat := by
  unfold State.recordRefusal; split <;> simp
@[simp] theorem setOut_beat (l : List Access) : (s.setOut l).beat = s.beat := by
  induction l generalizing s with
  | nil => rfl
  | cons a t ih => simp [State.setOut, ih]
@[simp] theorem noteLaunch_beat (f : EnqueueFlit) : (s.noteLaunch f).beat = s.beat := by
  unfold State.noteLaunch; dsimp only; repeat' split
  all_goals simp
@[simp] theorem performEnq_beat (id : Nat) (a : Access) (f : EnqueueFlit) : (s.performEnq id a f).beat = s.beat := by
  unfold State.performEnq; dsimp only; repeat' split
  all_goals simp
@[simp] theorem enqNext_beat (id : Nat) : (s.enqNext id).beat = s.beat := by
  unfold State.enqNext; dsimp only; repeat' split
  all_goals simp
@[simp] theorem perform_beat (id : Nat) : (s.perform id).beat = s.beat := by
  unfold State.perform; repeat' split
  all_goals simp

end

/-! ## The modules and the jobs of the engines -/

section
variable (s : State)

@[simp] theorem linkFail_beat (id : Nat) : (s.linkFail id).beat = s.beat := rfl
@[simp] theorem dropUnit_beat (u : FUnit) : (s.dropUnit u).beat = s.beat := by cases u <;> rfl
@[simp] theorem enterModule_beat (k : Nat) (up : Bool) (us : List FUnit) : (s.enterModule k up us).beat = s.beat := by
  unfold State.enterModule; split <;> simp
@[simp] theorem onJob_beat (n id : Nat) (f : Job → Job) : (s.onJob n id f).beat = s.beat := rfl
@[simp] theorem dropJob_beat (n id : Nat) : (s.dropJob n id).beat = s.beat := rfl
@[simp] theorem endJob_beat (n : Nat) (j : Job) : (s.endJob n j).beat = s.beat := by
  unfold State.endJob; dsimp only; split <;> simp
@[simp] theorem addAcc_beat (a : Access) : (s.addAcc a).beat = s.beat := rfl
@[simp] theorem walkFault_beat (n : Nat) (e : Stream) (f : EngFault) (step : BitVec 13) :
    (s.walkFault n e f step).beat = s.beat := rfl
@[simp] theorem dropAccs_beat (n id : Nat) : (s.dropAccs n id).beat = s.beat := rfl
@[simp] theorem loadFault_beat (n : Nat) (j : Job) (c : BitVec 8) (va : Nat) : (s.loadFault n j c va).beat = s.beat := by
  unfold State.loadFault; dsimp only; repeat' split
  all_goals simp
@[simp] theorem lEnd_beat (n : Nat) (j : Job) : (s.lEnd n j).beat = s.beat := by
  unfold State.lEnd; dsimp only; repeat' split
  all_goals simp
@[simp] theorem aEnd_beat (n : Nat) (j : Job) (ws : List AWrite) : (s.aEnd n j ws).beat = s.beat := by
  unfold State.aEnd; dsimp only; split <;> simp

end

/-! ## The arrays and tiles -/

section
variable (s : State)

@[simp] theorem enterRows_beat (n id k : Nat) : (s.enterRows n id k).beat = s.beat := by
  induction k generalizing s with
  | zero => rfl
  | succ k ih =>
    unfold State.enterRows; dsimp only; repeat' split
    all_goals simp [ih]
@[simp] theorem arrayRows_beat (n : Nat) : (s.arrayRows n).beat = s.beat :=
  foldl_beat _ _ _ fun t j => by split <;> simp
@[simp] theorem retWrite_beat (n : Nat) (b : Base) (va : Nat) (l : Loc) (x : Blk) : (s.retWrite n b va l x).beat = s.beat := by
  simp [State.retWrite]
@[simp] theorem retRow_beat (n : Nat) (j : Job) (tile : Nat) (nest : BitVec 256) (fmt mode : Nat) (b : Base) (r : Nat) :
    (s.retRow n j tile nest fmt mode b r).beat = s.beat := by
  simp only [State.retRow, onJob_beat]
  exact foldl_beat _ _ _ fun t e => by split <;> simp
@[simp] theorem retStep_beat (n : Nat) (j : Job) (t : Nat) (nest : BitVec 256) (f m : Nat) (clr : Bool) (b : Base) (r : Nat) :
    (s.retStep n j t nest f m clr b r).beat = s.beat := by
  unfold State.retStep; dsimp only; split <;> simp
@[simp] theorem retireRows_beat (n : Nat) : (s.retireRows n).beat = s.beat := by
  refine foldl_beat _ _ _ fun t j => ?_
  repeat' split
  all_goals simp
@[simp] theorem mEnd_beat (n : Nat) (j : Job) : (s.mEnd n j).beat = s.beat := by
  unfold State.mEnd; dsimp only; split <;> simp

end

/-! ## Copies -/

section
variable (s : State)

@[simp] theorem enqueueSend_beat (p : Nat) (o : Outgoing) : (s.enqueueSend p o).beat = s.beat := rfl
@[simp] theorem onX_beat (n id : Nat) (f : XWork → XWork) : (s.onX n id f).beat = s.beat := rfl
@[simp] theorem xFault_beat (n id pos va : Nat) (c : BitVec 8) : (s.xFault n id pos va c).beat = s.beat := by
  unfold State.xFault; split <;> rfl
@[simp] theorem badTile_beat (n id : Nat) (x : XWork) (pos : Nat) : (s.badTile n id x pos).beat = s.beat := by
  simp [State.badTile]
@[simp] theorem onQueued_beat (f : Outgoing → Outgoing) : (s.onQueued f).beat = s.beat := rfl
@[simp] theorem onSends_beat (n id : Nat) (f : Outgoing → Outgoing) : (s.onSends n id f).beat = s.beat := rfl
@[simp] theorem xLand_beat (n id : Nat) (x : XWork) (pos : Nat) (b : Blk) : (s.xLand n id x pos b).beat = s.beat := by
  unfold State.xLand; dsimp only; repeat' split
  all_goals simp
@[simp] theorem xContribute_beat (n id : Nat) (x : XWork) : (s.xContribute n id x).beat = s.beat := by
  unfold State.xContribute; dsimp only; repeat' split
  all_goals simp
@[simp] theorem xRead_beat (n id pos va : Nat) (r : Res) : (s.xRead n id pos va r).beat = s.beat := by
  unfold State.xRead; dsimp only; repeat' split
  all_goals simp
@[simp] theorem xWrote_beat (n id pos : Nat) (r : Res) (fl : Flags) : (s.xWrote n id pos r fl).beat = s.beat := rfl
@[simp] theorem xEnd_beat (n : Nat) (j : Job) (x : XWork) : (s.xEnd n j x).beat = s.beat := by
  unfold State.xEnd; dsimp only; repeat' split
  all_goals simp

end

/-! ## Completions -/

section
variable (s : State)

@[simp] theorem servePushes_beat (k : Nat) : (State.servePushes k s).beat = s.beat := by
  induction k generalizing s with
  | zero => rfl
  | succ k ih =>
    unfold State.servePushes; repeat' split
    all_goals simp [ih]
@[simp] theorem answer_beat (no : Nat) (l : List Byte) : (s.answer no l).beat = s.beat := rfl
@[simp] theorem hostDone_beat (a : Access) : (s.hostDone a).beat = s.beat := by
  unfold State.hostDone; dsimp only; repeat' split
  all_goals simp
@[simp] theorem stationDone_beat (a : Access) : (s.stationDone a).beat = s.beat := by
  unfold State.stationDone; split <;> rfl
@[simp] theorem collWrite_beat (k off : Nat) (op : AOp) (sync : Option Nat) : (s.collWrite k off op sync).beat = s.beat := by
  unfold State.collWrite; split
  · rfl
  · split <;> rfl
@[simp] theorem freeBuf_beat (k : Nat) (b : Buf) : (s.freeBuf k b).beat = s.beat := by
  simp [State.freeBuf, apply_ite State.beat]
@[simp] theorem pushRun_beat (k fuel : Nat) : (s.pushRun k fuel).beat = s.beat := by
  induction fuel generalizing s with
  | zero => rfl
  | succ fuel ih =>
    unfold State.pushRun; repeat' split
    all_goals simp [ih]
@[simp] theorem endRun_beat (k status : Nat) : (s.endRun k status).beat = s.beat := by
  unfold State.endRun; repeat' split
  all_goals simp
@[simp] theorem checkRun_beat (k : Nat) : (s.checkRun k).beat = s.beat := by
  unfold State.checkRun; repeat' split
  all_goals simp
@[simp] theorem collDone_beat (a : Access) : (s.collDone a).beat = s.beat := by
  unfold State.collDone; split <;> simp
@[simp] theorem postedFault_beat (n task h src ix : Nat) (e : Hist) : (s.postedFault n task h src ix e).beat = s.beat := by
  unfold State.postedFault; dsimp only; repeat' split
  all_goals simp
@[simp] theorem cDone_beat (id : Nat) (a : Access) : (s.cDone id a).beat = s.beat := by
  unfold State.cDone; dsimp only; repeat' split
  all_goals simp
@[simp] theorem peerDone_beat (id : Nat) (a : Access) : (s.peerDone id a).beat = s.beat := by
  unfold State.peerDone; split <;> rfl
@[simp] theorem tellPeer_beat (a : Access) : (s.tellPeer a).beat = s.beat := rfl
@[simp] theorem complete_beat (id : Nat) (a : Access) : (s.complete id a).beat = s.beat := by
  unfold State.complete; dsimp only; repeat' split
  all_goals simp
@[simp] theorem serveNow_beat (id : Nat) : (s.serveNow id).beat = s.beat := by simp [State.serveNow]
@[simp] theorem force_beat (id : Nat) (a : Access) : (s.force id a).beat = s.beat := by
  unfold State.force; dsimp only; repeat' split
  all_goals simp
@[simp] theorem forceDeposits_beat : s.forceDeposits.beat = s.beat := by
  refine foldl_beat _ _ _ fun t id => ?_
  dsimp only; repeat' split
  all_goals simp
@[simp] theorem finishJob_beat (n : Nat) (j : Job) : (s.finishJob n j).beat = s.beat := by
  unfold State.finishJob; repeat' split
  all_goals simp

end

/-! ## Tasks, posts and pre-emptions -/

section
variable (s : State)

@[simp] theorem restretch_beat : s.restretch.beat = s.beat := rfl
@[simp] theorem noteConds_beat (o : Nat) (core : Option Nat) (ws : List Word) (k : Nat) :
    (s.noteConds o core ws k).beat = s.beat := by
  unfold State.noteConds; dsimp only; repeat' split
  all_goals simp
@[simp] theorem offerDesc_beat (die : Nat) (ws : List Word) (o : Nat) (core : Option Nat) (slice : Nat) (box : Option Nat) :
    (s.offerDesc die ws o core slice box).2.beat = s.beat := by
  unfold State.offerDesc; dsimp only; repeat' split
  all_goals simp
@[simp] theorem postDesc_beat (die : Nat) (ws : List Word) (o : Nat) (core : Option Nat) (slice : Nat) (box : Option Nat) :
    (s.postDesc die ws o core slice box).2.beat = s.beat := by simp [State.postDesc]
@[simp] theorem windowPost_beat (die dest o : Nat) (ws : List Word) : (s.windowPost die dest o ws).beat = s.beat := by
  simp [State.windowPost]
@[simp] theorem servePosts_beat (dest : Nat) : (s.servePosts dest).beat = s.beat := by simp [State.servePosts]
@[simp] theorem askSlot_beat (t : Nat) : (s.askSlot t).beat = s.beat := by
  unfold State.askSlot; split
  · rfl
  · split
    · rfl
    · split <;> simp
@[simp] theorem requestPreempt_beat (n : Nat) : (s.requestPreempt n).beat = s.beat := by
  unfold State.requestPreempt; split <;> simp
@[simp] theorem soilUnits_beat (t : State) : (s.soilUnits t).beat = t.beat := by
  refine foldl_beat _ _ _ fun u e => ?_
  dsimp only; repeat' split
  all_goals rfl

end

/-! ## Stations -/

section
variable (s : State)

@[simp] theorem snap_beat (ek beat : Nat) (w : BitVec 128) (acts : List Nat) : (s.snap ek beat w acts).beat = s.beat := rfl
@[simp] theorem carryRead_beat (strand mort key act : Nat) : (s.carryRead strand mort key act).beat = s.beat := by
  unfold State.carryRead; dsimp only; split <;> simp
@[simp] theorem stationReads_beat : s.stationReads.beat = s.beat := by
  unfold State.stationReads; dsimp only
  rw [foldl_beat _ _ _ fun t i => by split <;> simp, foldl_beat _ _ _ fun t ek => by split <;> simp]
@[simp] theorem setThermal_beat (f : Fleet) : (s.setThermal f).beat = s.beat := by
  simp [State.setThermal, apply_ite State.beat]

end

/-! ## The end of a beat and the start of the next -/

section
variable (s : State)

@[simp] theorem onCores_beat (f : Core → Core) : (s.onCores f).beat = s.beat := foldl_beat _ _ _ fun _ _ => rfl
@[simp] theorem arithDue_beat (n : Nat) : (s.arithDue n).beat = s.beat := by simp [State.arithDue]
@[simp] theorem countHeld_beat : s.countHeld.beat = s.beat := by
  unfold State.countHeld; repeat' split
  all_goals simp
@[simp] theorem upset_beat : s.upset.beat = s.beat := by unfold State.upset; split <;> rfl
@[simp] theorem sense_beat : s.sense.beat = s.beat := by unfold State.sense; dsimp only; split <;> simp
@[simp] theorem endBeat_beat : s.endBeat.beat = s.beat := by simp [State.endBeat]
/-- The start of a beat is where the beat counter rises (R37). -/
@[simp] theorem startBeat_beat : s.startBeat.beat = s.beat + 1 := by
  have posts (t : State) : ((List.range 8).foldl (fun t d => t.onDie d fun x => { x with posts := x.posts - 4 }) t).beat = t.beat :=
    foldl_beat _ _ _ fun _ _ => rfl
  simp [State.startBeat, posts]
@[simp] theorem tick_beat : s.tick.beat = s.beat + 1 := by simp [State.tick]

end

/-! ## The step -/

@[simp] theorem marked_next (s t : State) : s.marked (.next t) = .next (s.soilUnits t) := rfl

/-- With an empty agenda the step is the next beat. -/
theorem step_of_empty {s : State} (h : s.turn.agenda = []) : step s = .next (s.soilUnits s.tick) := by
  simp [step, h]

/-- With a move first on the agenda the step is that move, taken off it. -/
theorem step_of_cons {s : State} {m : Move} {l : List Move} (h : s.turn.agenda = m :: l) :
    step s = s.marked ({ s with turn := { s.turn with agenda := l } }.move m) := by
  simp [step, h]

/-- What a transition of the agenda does is the meaning of its row of the opcode table. -/
theorem exec_rowOf (e : Ev) (s : State) : exec (Safety.rowOf e) s = e.run s := by cases e <;> rfl

/-- Settles O5: on an empty agenda the step is the tick, whose start of a beat alone raises the counter; an event's move is the
meaning of its row. -/
theorem stepMakesTheDevicesTransitions : Obligations.StepMakesTheDevicesTransitions := by
  intro s
  constructor
  · intro h
    exact ⟨_, step_of_empty h, by simp⟩
  · intro e l h
    rw [step_of_cons h, exec_rowOf]
    rfl

end Sys2Proof.Machine

/-!
Sources of C (01_machine.md R25, 08_timing.md R183, 11_ins_scalar.md R233): what a register, settled or in a shadow, and a channel read
as.
-/

namespace Sys2Proof.Machine

/-- A queue of a core other than a wake queue, once replaced, holds what it was replaced by: only a wake queue takes an entry on its
own, that of a fired watch (R278). -/
theorem entries_setEntries_same (s : State) (n : Nat) (q : Queue) (l : List Word) (h : ∀ j, q ≠ .wakeQ j) :
    (s.setEntries n q l).entries n q = l := by
  cases q with
  | wakeQ j => exact absurd rfl (h j)
  | _ => simp [State.entries, State.setEntries]

/-- A channel that holds an entry reads as its head, which only a pop takes (R233). -/
theorem readSrc_of_entries {s : State} {f : BitVec 6} {q : Queue} {w : Word} {t : List Word} (pop : Bool) (hf : chanField f = true)
    (hq : s.queueOf s.turn.core f = some q) (he : s.entries s.turn.core q = w :: t) :
    s.readSrc f pop = (w, if pop then s.setEntries s.turn.core q t else s) := by
  simp [State.readSrc, hf, hq, he]

/-- A field that names no channel reads its register (R233). -/
theorem readSrc_of_reg {s : State} {f : BitVec 6} (pop : Bool) (hf : chanField f = false) :
    s.readSrc f pop = s.readReg (fieldNo f) := by
  simp [State.readSrc, hf]

@[simp] theorem readReg_zero (s : State) : s.readReg 0 = (0, s) := by simp [State.readReg]

/-- A register without a result on its way reads as its value (R183). -/
theorem readReg_settled {s : State} {r : Nat} (hr : r ≠ 0) (h : ∀ p ∈ s.here.c.pend, p.reg ≠ r) :
    s.readReg r = (mget 0 s.here.c.regs r, s) := by
  have hn : (s.here.c.pend.filter fun p => p.reg == r) = [] := by simpa [List.filter_eq_nil_iff] using h
  simp [State.readReg, hr, hn]

/-- A register in a shadow reads as its old value or as the latest result on its way, by a free pick (R183, log 6). -/
theorem readReg_shadowed {s : State} {r : Nat} {p : Pend} (hr : r ≠ 0)
    (h : (s.here.c.pend.filter fun p => p.reg == r).getLast? = some p) :
    s.readReg r = (if Config.pickNew s.free then p.value else mget 0 s.here.c.regs r, { s with free := s.free + 1 }) := by
  simp [State.readReg, hr, h]

/-- Settles O11: a source is a register, read by its shadow, or a channel, read at its head. -/
theorem sourcesReadRegistersAndChannels : Obligations.SourcesReadRegistersAndChannels := by
  intro s f pop
  refine ⟨fun hf h0 => ?_, fun hf h0 hp => ?_, fun p hf h0 hp => ?_, fun q w t hf hq he => ?_⟩
  · rw [readSrc_of_reg pop hf, h0, readReg_zero]
  · rw [readSrc_of_reg pop hf, readReg_settled h0 hp]
  · rw [readSrc_of_reg pop hf, readReg_shadowed h0 hp]
    refine ⟨?_, rfl⟩
    cases Config.pickNew s.free with
    | true => exact .inr rfl
    | false => exact .inl rfl
  · rw [readSrc_of_entries pop hf hq he]
    refine ⟨rfl, fun hp => by simp [hp], fun hp hw => ?_⟩
    rw [if_pos hp]
    exact entries_setEntries_same s _ q t hw

end Sys2Proof.Machine

/-!
Destinations of C (01_machine.md R25, 08_timing.md R180, 11_ins_scalar.md R235): when a result leaves its shadow, and when a reserved push
enters its feed side.
-/

namespace Sys2Proof.Machine

/-! ## Results of C (R180, R235) -/

theorem writeDst_zero {s : State} {d : BitVec 6} (lat : Nat) (v : Word) (hd : chanField d = false) (h0 : fieldNo d = 0) :
    s.writeDst d lat v = s := by
  simp [State.writeDst, hd, h0]

/-- A result of latency 1 is written at once. -/
theorem writeDst_now {s : State} {d : BitVec 6} {lat : Nat} (v : Word) (hd : chanField d = false) (h0 : fieldNo d ≠ 0) (hl : lat ≤ 1) :
    s.writeDst d lat v = s.onCtl fun c => { c with regs := mset 0 c.regs (fieldNo d) v } := by
  simp [State.writeDst, State.setReg, hd, h0, hl]

/-- A result of a longer latency goes into the shadow. -/
theorem writeDst_later {s : State} {d : BitVec 6} {lat : Nat} (v : Word) (hd : chanField d = false) (h0 : fieldNo d ≠ 0) (hl : 1 < lat) :
    s.writeDst d lat v = s.onCtl fun c => { c with pend := c.pend ++ [⟨fieldNo d, v, s.beat + lat⟩] } := by
  simp [State.writeDst, hd, h0, Nat.not_le.2 hl]

/-- A channel bound to a feed side takes a reserved push. -/
theorem writeDst_push {s : State} {d : BitVec 6} {e : Nat} (lat : Nat) (v : Word) (hd : chanField d = true)
    (hq : s.queueOf s.turn.core d = some (.feed e)) :
    s.writeDst d lat v = s.onCtl fun c => { c with pushes := c.pushes ++ [⟨e, v, s.beat + lat⟩] } := by
  simp [State.writeDst, hd, hq]

/-- Results landing in other registers leave a register alone. -/
theorem mget_landed_other (l : List Pend) (m : SMap Word) (r : Nat) (h : ∀ p ∈ l, p.reg ≠ r) :
    mget 0 (l.foldl (fun m p => mset 0 m p.reg p.value) m) r = mget 0 m r :=
  List.foldlRecOn (motive := fun t => mget 0 t r = mget 0 m r) l _ rfl fun t ht p hp =>
    (mget_mset_other 0 t p.value (h p hp).symm).trans ht

/-- A result that enters the shadow of a register without another leaves the register alone until it is due, and is then its value
(R180). -/
theorem land_shadow (c : Ctl) (r : Nat) (v : Word) (due b : Nat) (h : ∀ p ∈ c.pend, p.reg ≠ r) :
    mget 0 (({ c with pend := c.pend ++ [⟨r, v, due⟩] } : Ctl).land b).regs r = if due ≤ b then v else mget 0 c.regs r := by
  have hl : ∀ p ∈ c.pend.filter (fun p => decide (p.due ≤ b)), p.reg ≠ r := fun p hp => h p (List.mem_filter.1 hp).1
  by_cases hb : due ≤ b
  · simp [Ctl.land, hb]
  · simpa [Ctl.land, hb] using mget_landed_other _ c.regs r hl

/-- What the pushes of a list leave in a feed side: its own words, in their order. -/
theorem mget_enterFeeds (l : List Push) (m : SMap (List Word)) (e : Nat) :
    mget [] (l.foldl (fun m p => mset [] m p.feed (mget [] m p.feed ++ [p.value])) m) e =
      mget [] m e ++ (l.filter fun p => p.feed == e).map Push.value := by
  induction l generalizing m with
  | nil => simp
  | cons p t ih =>
    rw [List.foldl_cons, ih, mget_mset]
    by_cases h : e = p.feed
    · subst h; simp
    · simp [h, Ne.symm h]

/-- Behind other pushes, a push enters where it is due and no earlier one of its feed side waits (R235). -/
theorem duePushes_append (b : Nat) (held : List Nat) (l : List Push) (p : Push) :
    (duePushes b held (l ++ [p])).1 = (duePushes b held l).1 ++
      if p.due ≤ b ∧ p.feed ∉ held ∧ ∀ q ∈ l, q.feed = p.feed → q.due ≤ b then [p] else [] := by
  induction l generalizing held with
  | nil => by_cases h : p.due ≤ b ∧ p.feed ∉ held <;> simp [duePushes, h]
  | cons q t ih =>
    by_cases hq : q.due ≤ b ∧ q.feed ∉ held
    · simp [duePushes, hq, ih]
    · have hw : (p.due ≤ b ∧ p.feed ∉ q.feed :: held ∧ ∀ x ∈ t, x.feed = p.feed → x.due ≤ b) ↔
          p.due ≤ b ∧ p.feed ∉ held ∧ ∀ x ∈ q :: t, x.feed = p.feed → x.due ≤ b := by
        simp only [List.mem_cons, not_or, forall_eq_or_imp]
        grind
      rw [if_congr hw.symm rfl rfl]
      simp [duePushes, hq, ih]

/-- Where every push of a feed side is due and none is held back, they all enter. -/
theorem duePushes_all (b e : Nat) (held : List Nat) (l : List Push) (he : e ∉ held) (h : ∀ p ∈ l, p.feed = e → p.due ≤ b) :
    (duePushes b held l).1.filter (fun p => p.feed == e) = l.filter fun p => p.feed == e := by
  induction l generalizing held with
  | nil => rfl
  | cons p t ih =>
    have ht := fun q hq => h q (List.mem_cons_of_mem _ hq)
    by_cases hp : p.due ≤ b ∧ p.feed ∉ held
    · simp [duePushes, hp, List.filter_cons, ih held he ht]
    · have hne : p.feed ≠ e := fun hf => hp ⟨h p (List.mem_cons_self ..) hf, hf ▸ he⟩
      simp [duePushes, hp, hne, ih (p.feed :: held) (by simp [he, hne.symm]) ht]

/-- What a feed side holds once the pushes of a beat have entered. -/
theorem enterPushes_side (c : Core) (b e : Nat) : mget [] (c.enterPushes b).ch.feeds e =
    mget [] c.ch.feeds e ++ ((duePushes b [] c.c.pushes).1.filter fun p => p.feed == e).map Push.value :=
  mget_enterFeeds ..

/-- A push that is not due, or waits behind an earlier one of its feed side, changes no feed side (R235). -/
theorem enterPushes_waits (c : Core) (b e due : Nat) (v : Word)
    (h : b < due ∨ ∃ p ∈ c.c.pushes, p.feed = e ∧ b < p.due) :
    mget [] (({ c with c := { c.c with pushes := c.c.pushes ++ [⟨e, v, due⟩] } } : Core).enterPushes b).ch.feeds e =
      mget [] (c.enterPushes b).ch.feeds e := by
  have hw : ¬(due ≤ b ∧ e ∉ ([] : List Nat) ∧ ∀ p ∈ c.c.pushes, p.feed = e → p.due ≤ b) := by
    rintro ⟨hd, -, hl⟩
    rcases h with h | ⟨p, hp, hf, hb⟩
    · omega
    · have := hl p hp hf; omega
  rw [enterPushes_side, enterPushes_side]
  simp only [duePushes_append, if_neg hw, List.append_nil]

/-- A push that is due, with every earlier one of its feed side, is the last word that enters it (R235). -/
theorem enterPushes_enters (c : Core) (b e due : Nat) (v : Word) (hd : due ≤ b)
    (h : ∀ p ∈ c.c.pushes, p.feed = e → p.due ≤ b) :
    mget [] (({ c with c := { c.c with pushes := c.c.pushes ++ [⟨e, v, due⟩] } } : Core).enterPushes b).ch.feeds e =
      mget [] c.ch.feeds e ++ (c.c.pushes.filter fun p => p.feed == e).map Push.value ++ [v] := by
  have hw : due ≤ b ∧ e ∉ ([] : List Nat) ∧ ∀ p ∈ c.c.pushes, p.feed = e → p.due ≤ b := ⟨hd, by simp, h⟩
  rw [enterPushes_side]
  simp only [duePushes_append, if_pos hw, List.filter_append, duePushes_all b e [] c.c.pushes (by simp) h]
  simp

/-- Settles O12: a result is discarded, written, put into the shadow or reserved as a push, by its destination and latency; the shadow
ends by land_shadow, and the push enters by enterPushes_waits and enterPushes_enters. -/
theorem destinationsTakeResultsAfterTheirShadow : Obligations.DestinationsTakeResultsAfterTheirShadow := by
  intro s d lat v
  refine ⟨writeDst_zero lat v, fun hd h0 hl => ?_, fun hd h0 hl => ?_, fun e hd hq => ?_⟩
  · rw [writeDst_now v hd h0 hl, onCtl_here, mget_mset_same]
  · rw [writeDst_later v hd h0 hl, onCtl_here]
    refine ⟨rfl, fun hp => ⟨fun b hb => ?_, ?_⟩⟩
    · rw [land_shadow _ _ _ _ _ hp, if_neg (by omega)]
    · rw [land_shadow _ _ _ _ _ hp, if_pos (Nat.le_refl _)]
  · rw [writeDst_push lat v hd hq, onCtl_here]
    refine ⟨rfl, fun b => ⟨fun h => enterPushes_waits _ _ _ _ _ (h.imp id ?_), fun hb h => enterPushes_enters _ _ _ _ _ hb ?_⟩⟩
    · rintro ⟨p, hp, hb⟩
      obtain ⟨hp, hf⟩ := List.mem_filter.1 hp
      exact ⟨p, hp, by simpa using hf, hb⟩
    · exact fun p hp hf => h p (List.mem_filter.2 ⟨hp, by simpa using hf⟩)

end Sys2Proof.Machine

/-!
Lane-wise results of A (01_machine.md R26, 13_ins_vector.md R297).
-/

namespace Sys2Proof.Machine

open Sys2Proof.Safety

/-! ## Lane-wise results (R26, R297) -/

/-- The operation of two vectors lane by lane has one result for each lane. -/
theorem zipLanes_length (w : Nat) (op : Nat → Nat → Nat × Flags) (a b : Vec) :
    (List.zipWith op (lanesOf w a) (lanesOf w b)).length = 2048 / w := by
  simp [lanesOf_length]

/-- Its result m is that of lanes m. -/
theorem zipLanes_getD (w : Nat) (op : Nat → Nat → Nat × Flags) (a b : Vec) (m : Nat) (h : m < 2048 / w) :
    (List.zipWith op (lanesOf w a) (lanesOf w b)).getD m (0, 0) = op (bitsOf a.data (w * m) w) (bitsOf b.data (w * m) w) := by
  simp [List.getD_eq_getElem?_getD, lanesOf, h]

/-- Settles O40: the result of each lane is the operation on that lane, and laneRes_spec says what a result made of lanes holds. -/
theorem lanesAreComputedOneByOne : Obligations.LanesAreComputedOneByOne := by
  intro f _ op a b
  have hlen := zipLanes_length f.w op a b
  obtain ⟨x, fl, hr, hlanes, hflags, htags⟩ := laneRes_spec f (List.zipWith op (lanesOf f.w a) (lanesOf f.w b))
    (by rw [hlen]; exact Nat.mul_div_le 2048 f.w)
  refine ⟨x, fl, hr, fun m hm => ?_, fun m hm => ?_, htags⟩
  · rw [hlanes m (hlen.symm ▸ hm), zipLanes_getD _ _ _ _ _ hm]
  · refine hflags _ ?_
    rw [← zipLanes_getD f.w op a b m hm, List.getD_eq_getElem _ _ (hlen.symm ▸ hm)]
    exact List.getElem_mem _

end Sys2Proof.Machine

/-!
A stream's move as a step (01_machine.md R17 to R19, 10_encodings.md R222, 20_drv_traps.md R440, R457): what is fetched and issued, and what
marking the changed units of context leaves alone.
-/

namespace Sys2Proof.Machine

/-! ## Dirty bits (R457) -/

/-- All of t that a step's dirty bits leave alone: besides them, v is t. -/
structure OnlySoiled (t v : State) : Prop where
  cores : v.cores = t.cores
  mem : v.mem = t.mem
  accs : v.accs = t.accs
  tasks : v.tasks = t.tasks
  turn : v.turn = t.turn
  beat : v.beat = t.beat
  bufs : ∀ d k, (mget Slot.rest (v.dieAt d).slots k).buf0 = (mget Slot.rest (t.dieAt d).slots k).buf0 ∧
    (mget Slot.rest (v.dieAt d).slots k).buf1 = (mget Slot.rest (t.dieAt d).slots k).buf1

/-- A slot changed in its dirty bits only leaves the state so. -/
theorem onlySoiled_onSlot {t v : State} (h : OnlySoiled t v) (d k : Nat) (f : Slot → Slot)
    (hf : ∀ x, (f x).buf0 = x.buf0 ∧ (f x).buf1 = x.buf1) :
    OnlySoiled t (v.onDie d fun x => { x with slots := mmod Slot.rest x.slots k f }) where
  cores := h.cores
  mem := h.mem
  accs := h.accs
  tasks := h.tasks
  turn := h.turn
  beat := h.beat
  bufs e j := by
    rw [dieAt_onDie]
    split
    · rename_i he
      subst he
      obtain ⟨h0, h1⟩ := h.bufs e j
      by_cases hj : j = k
      · subst hj
        obtain ⟨f0, f1⟩ := hf (mget Slot.rest (v.dieAt e).slots j)
        exact ⟨by rw [mget_mmod_same, f0, h0], by rw [mget_mmod_same, f1, h1]⟩
      · exact ⟨by rw [mget_mmod_other _ _ _ hj, h0], by rw [mget_mmod_other _ _ _ hj, h1]⟩
    · exact h.bufs e j

/-- A step's marking changes dirty bits only. -/
theorem soilUnits_onlySoiled (s t : State) : OnlySoiled t (s.soilUnits t) := by
  refine List.foldlRecOn (motive := OnlySoiled t) t.cores _ ⟨rfl, rfl, rfl, rfl, rfl, rfl, fun _ _ => ⟨rfl, rfl⟩⟩ fun u hu e _ => ?_
  dsimp only
  split
  · split
    · exact onlySoiled_onSlot hu _ _ _ fun _ => ⟨rfl, rfl⟩
    · exact hu
  · exact hu

/-! ## The move of a stream (R17 to R19, R222, R440) -/

section
variable (s : State) (n : Nat) (st : Stream)

theorem beginC_coreAt : (s.beginC n).coreAt n = { s.coreAt n with c := (s.coreAt n).c.settle } := by
  have h : (s.onCore n fun c => { c with c := c.c.settle }).coreAt n = { s.coreAt n with c := (s.coreAt n).c.settle } :=
    coreAt_onCore_same ..
  unfold State.beginC
  dsimp only
  split <;> exact h

theorem beginC_dieAt (d : Nat) : (s.beginC n).dieAt d = s.dieAt d := by
  unfold State.beginC
  dsimp only
  split <;> rfl

/-- At the start of a move of C, the wait of a handler's entry ends. -/
theorem beginC_settling : ((s.beginC n).coreAt n).c.settling = false := by
  rw [beginC_coreAt]
  rfl

/-- A pending event is taken in the move behind that of C. -/
theorem beginC_agenda : (s.beginC n).turn.agenda =
    if (s.coreAt n).tr.events = [] then s.turn.agenda else .event (.eventTaken n) :: s.turn.agenda := by
  have h : ((s.onCore n fun c => { c with c := c.c.settle }).coreAt n).tr.events = (s.coreAt n).tr.events := by
    rw [coreAt_onCore_same]
  unfold State.beginC
  dsimp only
  rw [h]
  split <;> rfl

/-- What a stream fetches does not depend on whether C has begun its move. -/
theorem fetchWord_beginC : (s.beginC n).fetchWord n st = s.fetchWord n st := by
  cases st <;> simp only [State.fetchWord, beginC_coreAt, beginC_dieAt] <;> rfl

/-- An engine always finds a word; C finds none past the end of handler memory only. -/
theorem stream_c_of_fetchWord_none (h : s.fetchWord n st = none) : st = .c := by
  cases st with
  | c => rfl
  | _ => cases h

theorem issue_of_decodes {w : W32} {i : Instr} (hw : s.fetchWord n st = some w) (hi : Sys2Proof.decode st w = some i) :
    s.issue n st = exec i s := by
  simp [State.issue, hw, hi]

theorem issue_of_illegal {w : W32} (hw : s.fetchWord n st = some w) (hi : Sys2Proof.decode st w = none) :
    s.issue n st = .next (if st = .c then s.trapAt 0x20 0 else s.stopHere (.of 0x21)) := by
  cases st <;> simp [State.issue, hw, hi]

theorem issue_of_outside (hw : s.fetchWord n st = none) : s.issue n st = .next (s.trapAt 0x22 0) := by
  simp [State.issue, hw]

/-- A stream that may not issue leaves the machine as it is. -/
theorem streamMove_held (h : (s.turnTo n st).mayIssue n st = false) : s.streamMove n st = .next (s.turnTo n st) := by
  simp [State.streamMove, h]

/-- One that may, issues what it fetches. -/
theorem streamMove_issues (h : (s.turnTo n st).mayIssue n st = true) :
    s.streamMove n st = (if st = .c then (s.turnTo n st).beginC n else s.turnTo n st).issue n st := by
  cases st <;> simp [State.streamMove, h]

end

/-- Behind a retirement that a pre-emption waits for, M may not issue (R326). -/
theorem mayIssue_of_gate {s : State} {n : Nat} (h : (s.coreAt n).mx.gate = true) : s.mayIssue n .m = false := by
  simp [State.mayIssue, h]

/-- Settles O4: a stream's move is held, or issues the word it fetches, decoded, illegal or missing; and marking a step's result
changes dirty bits only. -/
theorem stepRunsTheDecodedInstruction : Obligations.StepRunsTheDecodedInstruction := by
  intro s n st l h u
  have hf : (if st = .c then u.beginC n else u).fetchWord n st = u.fetchWord n st := by
    split
    · exact fetchWord_beginC u n st
    · rfl
  have hstep : step s = s.marked (({ s with turn := { s.turn with agenda := l } } : State).streamMove n st) := step_of_cons h
  have held (hm : u.mayIssue n st = false) : step s = s.marked (.next u) :=
    hstep.trans (congrArg s.marked (streamMove_held _ n st hm))
  have issues (hm : u.mayIssue n st = true) : step s = s.marked ((if st = .c then u.beginC n else u).issue n st) :=
    hstep.trans (congrArg s.marked (streamMove_issues _ n st hm))
  refine ⟨held, mayIssue_of_gate, fun w i hm hw hi => ?_, fun w hm hw hi => ?_, fun hm hw => ?_,
    beginC_settling u n, beginC_agenda u n, fun t => ?_⟩
  · rw [issues hm, issue_of_decodes _ _ _ (hf.trans hw) hi]
  · rw [issues hm, issue_of_illegal _ _ _ (hf.trans hw) hi]
    by_cases hc : st = .c <;> simp [hc]
  · have hc := stream_c_of_fetchWord_none u n st hw
    refine ⟨hc, ?_⟩
    rw [issues hm, issue_of_outside _ _ _ (hf.trans hw), if_pos hc]
  · obtain ⟨hcores, hmem, haccs, htasks, hturn, hbeat, hbufs⟩ := soilUnits_onlySoiled s t
    exact ⟨_, marked_next s t, hcores, hmem, haccs, htasks, hturn, hbeat, hbufs⟩

end Sys2Proof.Machine

/-!
Engine control by C (02_execution.md R51, R53; 15_ins_fabric_system.md R363 to R365): streams that start, are joined, stop and start anew.
-/

namespace Sys2Proof.Machine

open Sys2Proof.Safety

/-! ## Stops that are reported (R22) -/

/-- Where none of the named streams is stopped, there is no engine fault to report. -/
theorem engineReport_none {s : State} {l : List Stream} (h : ∀ e ∈ l, (s.here.eng e).state ≠ .stopped) : s.engineReport l = none := by
  have hf : s.here.firstStopped l = none := by
    refine List.foldlRecOn (motive := fun b => b = none) l _ rfl fun b hb e he => ?_
    subst hb
    have hne := h e he
    dsimp only
    split
    · contradiction
    · rfl
  simp [State.engineReport, hf]

/-! ## Idle pairs (R53) -/

@[simp] theorem dropPairs_eng (c : Core) (e : Stream) : c.dropPairs.eng e = c.eng e := by
  unfold Core.dropPairs Core.eng
  dsimp only
  split <;> split <;> rfl

/-- A change of engines leaves the jobs of a core alone. -/
theorem foldl_onEng_jobs (f : Eng → Eng) (l : List Stream) (c : Core) : (l.foldl (fun k e => k.onEng e f) c).ve.jobs = c.ve.jobs :=
  List.foldlRecOn (motive := fun k : Core => k.ve.jobs = c.ve.jobs) l _ rfl fun _ hk _ _ => hk

/-- A change of engines leaves the control stream alone. -/
theorem foldl_onEng_c (f : Eng → Eng) (l : List Stream) (c : Core) : (l.foldl (fun k e => k.onEng e f) c).c = c.c :=
  List.foldlRecOn (motive := fun k : Core => k.c = c.c) l _ rfl fun _ hk _ _ => hk

theorem ordersOut_foldl_onEng (f : Eng → Eng) (l : List Stream) (c : Core) (e : Stream) :
    (l.foldl (fun k e => k.onEng e f) c).ordersOut e = c.ordersOut e := by
  simp only [Core.ordersOut, foldl_onEng_jobs]

@[simp] theorem advance_eng (s : State) (e : Stream) : s.advance.here.eng e = s.here.eng e := by
  simp [State.advance, Core.eng]

/-! ## The four instructions -/

theorem fork_completes {s : State} {o : SForm} {m : BitVec 5} (hi : Issues s [(o.a, o.p), (o.b, o.q)] [] none)
    (hidle : ∀ e ∈ maskStreams m, (s.here.eng e).state = .idle) :
    let a := s.readSrc o.a o.p
    let b := a.2.readSrc o.b o.q
    forkOk m a.1 b.1 = true → s.engineReport (maskStreams m) = none →
    exec (.fork o m) s = .next (b.2.onHere fun c =>
      (maskStreams m).foldl (fun k e => k.startEng e (forkBase a.1 b.1 e) s.beat) { c with ve := c.ve.setPairs m b.1 }).advance := by
  intro a b hok hrep
  have hany : ((maskStreams m).any fun e => (s.here.eng e).state != .idle) = false := by
    simpa [List.any_eq_false] using hidle
  simp only [exec_fork, execFork, hrep, hany, cIssue_next hi]
  simp [a, b, hok]

theorem rdv_completes {s : State} {m : BitVec 5} (hn : NotLast s)
    (hrest : ∀ e ∈ maskStreams m, (s.here.eng e).state = .idle ∨ (s.here.eng e).state = .done) :
    exec (.rdv m) s = .next (s.onHere fun c => ((maskStreams m).foldl
      (fun k e => k.onEng e fun g => { g with state := .idle }) c).dropPairs).advance := by
  have hrep : s.engineReport (maskStreams m) = none := engineReport_none fun e he => by
    rcases hrest e he with h | h <;> simp [h]
  rw [exec_rdv, execRdv, hrep]
  refine (if_neg ?_).trans (cIssue_next (issues_none hn) _)
  simp only [Bool.not_eq_true', Bool.not_eq_false, List.all_eq_true]
  intro e he
  rcases hrest e he with h | h <;> simp [h]

theorem ebase_completes {s : State} {o : OForm} {m : BitVec 5} {e : Stream} (he : maskStreams m = [e])
    (hi : Issues s [(o.a, o.p)] [] none) (hz : bitsOf (s.readSrc o.a o.p).1 13 51 = 0) (hst : (s.here.eng e).state ≠ .stopped)
    (hout : s.here.ordersOut e = false) :
    exec (.ebase o m) s = .next ((s.readSrc o.a o.p).2.onHere fun c =>
      c.startEng e ((s.readSrc o.a o.p).1.extractLsb' 0 13) s.beat).advance := by
  simp [execEbase, he, cIssue_next hi, hz, hst, hout]

/-- A stream that estop names, before its micro-orders are complete. -/
def Eng.close (g : Eng) : Eng := { g with closing := true, markers := [] }

/-- A stream that estop has stopped. -/
def Eng.quit (g : Eng) : Eng := { g with state := .idle, closing := false, fault := none, prefx := none, pushing := [] }

/-- The state in which estop has named its streams. -/
def State.closed (s : State) (m : BitVec 5) : State :=
  s.onHere fun c => (maskStreams m).foldl (fun k e => k.onEng e Eng.close) c

/-- The state that estop leaves. -/
def State.quitted (s : State) (m : BitVec 5) : State :=
  (s.closed m).onHere fun c => ((maskStreams m).foldl (fun k e => k.onEng e Eng.quit) c).dropPairs

theorem estop_completes {s : State} {m : BitVec 5} (hn : NotLast s) (hout : ∀ e ∈ maskStreams m, s.here.ordersOut e = false) :
    exec (.estop m) s = .next (s.quitted m).advance := by
  have hnext : s.hasNext = true := by simp only [State.hasNext, NotLast] at *; exact decide_eq_true (by omega)
  have hn' : NotLast (s.closed m) := by
    simpa [NotLast, State.closed, foldl_onEng_c] using hn
  have hany : ((maskStreams m).any (s.closed m).here.ordersOut) = false := by
    simpa [List.any_eq_false, State.closed, ordersOut_foldl_onEng] using hout
  refine (if_neg (by simp [hnext])).trans ((if_neg ?_).trans (cIssue_next (issues_none hn') _))
  exact ne_true_of_eq_false hany

/-- Settles O25: with its conditions met, each of the four instructions has its effect; what estop leaves of a named stream is read off
the changes of the engines. -/
theorem engineControlStartsAndStopsStreams : Obligations.EngineControlStartsAndStopsStreams := by
  intro s
  refine ⟨fun o m hi hidle => fork_completes hi hidle, fun m hn hrest => rdv_completes hn hrest, fun m hn hout => ?_,
    fun o m e he hi hz hst hout => ebase_completes he hi hz hst hout⟩
  refine ⟨s.quitted m, estop_completes hn hout, fun e he => ?_, rfl⟩
  have hg : (s.quitted m).here.eng e = ((s.here.eng e).close).quit := by
    simp [State.quitted, State.closed, eng_foldl_onEng _ _ _ _ (maskStreams_nodup m), he]
  rw [hg]
  exact ⟨rfl, rfl, rfl⟩

end Sys2Proof.Machine

/-!
Engine control words (01_machine.md R19, R20, R27; 10_encodings.md R232; 13_ins_vector.md R313, R314): the tokens that wait for a micro-order,
the loop, and the mark at the end of a table.
-/

namespace Sys2Proof.Machine

/-- The tokens of tok wait for the micro-order that follows, whose turn is next on the same beat (R232, R314). -/
theorem tok_completes (a b c : BitVec 6) {s : State} (h : s.eng.step ≠ 8191) (hb : s.nextBars = false) :
    let t := s.onEng fun g => { g with prefx := some (a, b, c), step := g.step + 1 }
    exec (.tok a b c) s = .next { t with turn := { t.turn with agenda := .stream t.turn.core t.turn.stream :: t.turn.agenda } } :=
  (if_neg h).trans (if_neg (ne_true_of_eq_false hb))

/-- The count of a loop level as rloop finds it: loaded where the level is not armed (R313). -/
def Eng.loopCount (g : Eng) (lev : Bool) (n : Nat) : Nat :=
  if (if lev then g.arm1 else g.arm0) then (if lev then g.lc1 else g.lc0) else n

/-- A loop level counted down: it stays armed while the count before was not zero (R313). -/
def Eng.countDown (g : Eng) (lev : Bool) (lc rb : Nat) : Eng :=
  if lev then { g with lc1 := lc - 1, arm1 := decide (0 < lc), rb := rb } else { g with lc0 := lc - 1, arm0 := decide (0 < lc), rb := rb }

/-- The rotating base behind rloop: that of L, A and S falls by one modulo 40 (R27). -/
def Eng.rotated (g : Eng) (e : Stream) : Nat := if e = .m ∨ e = .x then g.rb else (g.rb + 39) % 40

/-- rloop counts its level down, rotates, and goes to its target while the count was not zero (R313). -/
theorem rloop_completes (t : BitVec 13) (lev : Bool) (n : BitVec 12) (s : State) :
    let lc := s.eng.loopCount lev n.toNat
    let u := s.onEng fun _ => s.eng.countDown lev lc (s.eng.rotated s.turn.stream)
    exec (.rloop t lev n) s =
      if 0 < lc then .next (u.onEng fun g => { g with state := .running, step := t, ready := s.beat + 1 }) else .next u.stepOn := by
  intro lc u
  have hg : (if s.turn.stream = .m ∨ s.turn.stream = .x then (s.eng.loop lev n.toNat).1
      else { (s.eng.loop lev n.toNat).1 with rb := ((s.eng.loop lev n.toNat).1.rb + 39) % 40 }) =
      s.eng.countDown lev lc (s.eng.rotated s.turn.stream) := by
    cases lev <;> simp only [Eng.loop, Eng.countDown, Eng.rotated, lc, Eng.loopCount] <;> split <;> rfl
  have ha : (s.eng.loop lev n.toNat).2 = decide (0 < lc) := rfl
  rw [exec_rloop, execRloop]
  simp only [hg, ha, decide_eq_true_eq]
  rfl

/-- The mark ends the stream once its micro-orders are complete and its pushes made (R19, R20). -/
theorem tableEnd_completes {s : State} (ho : s.here.ordersOut s.turn.stream = false) (hp : s.eng.pushing = []) :
    exec .tableEnd s = .next (s.onEng fun g => { g with state := .done }) := by
  simp [execTableEnd, ho, hp]

/-- Settles O37, word by word: the tokens wait, the loop counts down, the mark ends the stream. -/
theorem engineControlWordsComplete : Obligations.EngineControlWordsComplete :=
  ⟨fun a b c _ h hb => tok_completes a b c h hb, rloop_completes, fun _ ho hp => tableEnd_completes ho hp⟩

end Sys2Proof.Machine

/-!
A micro-orders that wait or stop their stream (01_machine.md R20, R22; 13_ins_vector.md R285): the conditions of an A micro-order name no
uncorrectable block, so a stop counts no error and changes nothing but its stream.
-/

namespace Sys2Proof.Machine

open Sys2Proof.Safety

/-! ## Stops (R20, R22, R443) -/

/-- A stop for any cause but an uncorrectable block changes the stream's engine only. -/
theorem stopHere_eq {s : State} {f : EngFault} (h : f.cause ≠ 0x08) : s.stopHere f = s.onHere fun c =>
    (c.stopEng s.turn.stream f s.eng.step s.eng.step s.engWord s.beat).onEng s.turn.stream fun g => { g with prefx := s.eng.prefx } := by
  simp only [State.stopHere, State.countBad, if_neg h]

/-- A stream that was not stopped then keeps its step, the tokens that wait for it, and the fault for C. -/
theorem stopHere_eng {s : State} {f : EngFault} (h : f.cause ≠ 0x08) (hs : s.eng.state ≠ .stopped) :
    (s.stopHere f).eng = { s.eng with
      state := .stopped
      fault := some ⟨f.cause, s.eng.step, s.eng.step, w64 f.addr, s.engWord.setWidth 64, w64 f.walk, s.beat⟩ } := by
  rw [stopHere_eq h]
  simp only [State.eng, onHere_here, onHere_turn, eng_onEng_same, Core.stopEng] at *
  rw [if_neg hs]

theorem onHere_sameRest (s : State) (f : Core → Core) : SameRest s (s.onHere f) := by
  constructor
  case bytes => exact fun _ => rfl
  case dies => exact fun _ => rfl
  all_goals rfl

/-! ## The conditions of an A micro-order (R285, R286) -/

/-- What a condition says is no fault of an uncorrectable block. -/
def Ask.Clean (a : Ask) : Prop := ∀ f, a = .fault f → f.cause ≠ 0x08

@[simp] theorem clean_ok : Ask.ok.Clean := nofun
@[simp] theorem clean_stall : Ask.stall.Clean := nofun
@[simp] theorem clean_fault (f : EngFault) : (Ask.fault f).Clean ↔ f.cause ≠ 0x08 :=
  ⟨fun h => h f rfl, fun h _ e => Ask.fault.inj e ▸ h⟩

theorem Ask.Clean.and {a b : Ask} (ha : a.Clean) (hb : b.Clean) : (a.and b).Clean := by
  cases a with
  | ok => exact hb
  | _ => exact ha

theorem clean_ite {c : Prop} [Decidable c] {a b : Ask} (ha : a.Clean) (hb : b.Clean) : (if c then a else b).Clean := by
  split <;> assumption

theorem portsAsk_clean (s : State) (before : List Nat) (srcs : List ASrc) : (s.portsAsk before srcs).Clean := by
  induction srcs generalizing before with
  | nil => exact clean_ok
  | cons c t ih =>
    refine clean_ite (ih before) (clean_ite clean_stall (clean_ite ?_ (clean_ite (clean_ite ?_ clean_stall) (clean_ite ?_ (ih _)))))
    all_goals simp [EngFault.of]

theorem dstAsk_clean (s : State) (d m : Nat) : (s.dstAsk d m).Clean :=
  clean_ite clean_ok (clean_ite (by simp [EngFault.of]) (clean_ite clean_ok (clean_ite clean_stall clean_ok)))

theorem shadowAsk_clean (s : State) (rs : List Nat) (u : AUse) (gs : List Nat) : (s.shadowAsk rs u gs).Clean :=
  clean_ite (by simp [EngFault.of]) clean_ok

/-- What a micro-order makes is no fault of an uncorrectable block. -/
def MakeClean (r : AMake) : Prop := ∀ c, r = .error c → c ≠ 0x08

@[simp] theorem makeClean_ok (x : Vec × Flags × List AWrite) : MakeClean (.ok x) := nofun
@[simp] theorem makeClean_error (c : BitVec 8) : MakeClean (.error c) ↔ c ≠ 0x08 :=
  ⟨fun h => h c rfl, fun h _ e => Except.error.inj e ▸ h⟩

/-- The conditions of an A micro-order are clean where what it makes is. -/
theorem aAsk_clean (s : State) (d m : Nat) (g : BitVec 3) (sense : Bool) (srcs : List ASrc) (u : AUse) (gw : Option Nat)
    {run : List Opnd → Qs → Nat → AMake} (h : ∀ l q n, MakeClean (run l q n)) : (s.aAsk d m g sense srcs u gw run).Clean := by
  have hlent : (if (s.aRegs srcs d).any s.here.pl.lent.contains then Ask.fault (.of 0x4A) else .ok).Clean :=
    clean_ite (by simp [EngFault.of]) clean_ok
  have hports := hlent.and (portsAsk_clean s [] srcs)
  have hshadow := shadowAsk_clean s
  unfold State.aAsk
  refine clean_ite (hports.and (hshadow _ _ _)) (Ask.Clean.and ((hports.and (dstAsk_clean s d m)).and (hshadow _ _ _))
    (clean_ite (by simp [EngFault.of, causeBadTag]) ?_))
  split
  · rename_i c hr
    exact (clean_fault _).2 (h _ _ _ c hr)
  · exact clean_ok

/-! ## What the forms make (R297 to R311)

A form fails with cause 0x21 on operands amiss, 0x15 on a format and 0x16 on a quantiser state. -/

/-- What a form makes is clean. -/
def RunClean (f : VecForm) : Prop := ∀ l q n, MakeClean (f.run l q n)

theorem laneRes_clean (f : Sfx) (l : List (Nat × Flags)) : MakeClean (laneRes f l) := makeClean_ok _

theorem elemRes_clean (f : NFmt) (l : List (Nat × Flags)) (ts : List Tag) : MakeClean (elemRes f l ts) := makeClean_ok _

section
variable (f : Sfx) (lat : Nat)

@[simp] theorem lanes2_clean (op : Nat → Nat → Nat × Flags) (o : AForm) : RunClean (lanes2 f lat op o) := by
  intro l q n
  dsimp only [lanes2]
  split
  · exact laneRes_clean _ _
  · simp

@[simp] theorem lanes3_clean (op : Nat → Nat → Nat → Nat × Flags) (o : AForm) : RunClean (lanes3 f lat op o) := by
  intro l q n
  dsimp only [lanes3]
  split
  · exact laneRes_clean _ _
  · simp

@[simp] theorem lanesAll_clean (op : List Nat → List (Nat × Flags)) (o : AUForm) : RunClean (lanesAll f lat op o) := by
  intro l q n
  dsimp only [lanesAll]
  split
  · exact laneRes_clean _ _
  · simp

@[simp] theorem lanes1_clean (op : Nat → Nat × Flags) (o : AUForm) : RunClean (lanes1 f lat op o) :=
  lanesAll_clean f lat _ o

@[simp] theorem compareForm_clean (s : State) (rel : Nat → Nat → Bool × Flags) (o : AForm) :
    RunClean (compareForm s f lat rel o) := by
  intro l q n
  dsimp only [compareForm]
  split <;> simp

@[simp] theorem permForm_clean (o : AForm) : RunClean (permForm f o) := by
  intro l q n
  dsimp only [permForm]
  split
  · exact laneRes_clean _ _
  · simp

end

theorem cvtRun_clean (src t : NFmt) (mode : Nat) (o : Opnd) : MakeClean (cvtRun src t mode o) := by
  unfold cvtRun
  dsimp only
  split
  · simp
  · exact elemRes_clean _ _ _

theorem qcvtRun_clean (src t : NFmt) (mode : Nat) (q : Qs) (o : Opnd) : MakeClean (qcvtRun src t mode q o) := by
  unfold qcvtRun
  dsimp only
  split
  · simp
  · exact elemRes_clean _ _ _

theorem qmaxRun_clean (src t : NFmt) (free : Nat) (o : Opnd) : MakeClean (qmaxRun src t free o) := makeClean_ok _

theorem dqRun_clean (t : NFmt) (n : Nat) (o : Opnd) : MakeClean (dqRun t n o) := by
  unfold dqRun
  dsimp only
  split
  · simp
  · split
    · exact elemRes_clean _ _ _
    · simp

@[simp] theorem convertForm_clean (t : NFmt) (o : AUForm) (m : BitVec 2) (f : BitVec 4) : RunClean (convertForm t o m f) := by
  intro l q n
  dsimp only [convertForm]
  split
  · exact cvtRun_clean _ _ _ _
  · simp

@[simp] theorem quantForm_clean (t : NFmt) (o : AUForm) (m : BitVec 2) (src : NFmt) : RunClean (quantForm t o m src) := by
  intro l q n
  dsimp only [quantForm]
  split
  · exact qcvtRun_clean _ _ _ _ _
  · simp

/-- No A micro-order makes a fault of an uncorrectable block. -/
theorem vectorForm_clean {s : State} {i : Instr} {f : VecForm} (h : vectorForm s i = some f) : RunClean f := by
  cases i <;> simp only [vectorForm, Option.some.injEq, reduceCtorEq] at h <;> subst h
  case vqmax o t c =>
    intro l q n
    dsimp only
    split
    · exact qmaxRun_clean _ _ _ _
    · simp
  case vdq o t =>
    intro l q n
    dsimp only
    split
    · exact dqRun_clean _ _ _
    · simp
  all_goals simp

/-- Settles O44: an A micro-order is moIssue, which waits where its tokens are not met or its conditions say to wait, and otherwise stops
its stream; that stop is clean, so it changes the engine only. -/
theorem microOrdersWaitOrStopTheirStream : Obligations.MicroOrdersWaitOrStopTheirStream := by
  intro i f s hf
  rw [vectorForm_issue s i f hf, aIssue]
  refine ⟨fun h => moIssue_waits (h.imp id .inl) _ _, fun hr => ⟨fun ha => moIssue_held hr _ _ ha, fun x hx hs => ?_⟩⟩
  have hc : x.cause ≠ 0x08 := aAsk_clean _ _ _ _ _ _ _ _ (vectorForm_clean hf) x hx
  refine ⟨s.stopHere x, moIssue_fault hr _ _ hx, stopHere_eng hc hs, ?_⟩
  rw [stopHere_eq hc]
  simp only [onHere_here]
  refine ⟨?_, ?_, ?_, ?_, onHere_sameRest _ _⟩
  all_goals simp [Core.stopEng, Core.onEng]

end Sys2Proof.Machine

/-!
The micro-orders of M (08_timing.md R189, R190; 14_ins_matrix_copy.md R316 to R324): what each issues once its tokens are met. Taking the
pop bits leaves what their own conditions ask about alone.
-/

namespace Sys2Proof.Machine

open Sys2Proof.Safety

/-! ## Conditions asked as the pops leave them -/

section
variable (s : State) (k : BitVec 4)

theorem popped_tileBusy (tile : Nat) (reads : Bool) : (s.popped k).here.tileBusy tile reads = s.here.tileBusy tile reads := by
  simp only [Core.tileBusy, popped_jobs]

theorem popped_placed (n : Nat) : ((s.popped k).coreAt n).pl = (s.coreAt n).pl := by
  by_cases h : n = s.turn.core
  · subst h; exact popped_pl s k
  · rw [popped_other s k n h]

theorem popped_engReach (n : Nat) (e : Stream) (b : Base) (write : Bool) (off : Int) (len : Nat) (out : BitVec 8) :
    (s.popped k).engReach n e b write off len out = s.engReach n e b write off len out := by
  have hr : (s.popped k).inRegion = s.inRegion := by
    funext n o len
    simp only [State.inRegion, popped_placed]
  unfold State.engReach
  rw [hr]

theorem popped_retCheck (j : BitVec 256) (fmt : Nat) : (s.popped k).retCheck j fmt = s.retCheck j fmt := by
  simp only [State.retCheck, popped_baseHere, popped_turn, popped_engReach]

end

/-! ## mmac (R189, R190, R317) -/

section
variable {s : State} (e : BitVec 6) (p t : BitVec 3) (r : BitVec 8) (o : BitVec 6)

/-- Before its stamp, mmac waits with M running. -/
theorem mmac_waits (h : s.beat < s.macStamp o) :
    exec (.mmac e p t r o) s = .next ((s.onEng fun g => { g with state := .running }).onHere fun c =>
      c.onMat fun m => { m with reached := some (s.here.mx.reached.getD s.beat) }) :=
  if_pos h

/-- The state in which mmac of a stamp that has come starts. -/
def State.macReached (s : State) : State := s.onHere fun c => c.onMat fun m => { m with reached := none }

/-- The job of an mmac that starts, with its tokens taken, and the array occupied. -/
def State.macIssue (s : State) (e : BitVec 6) (stamp ix : Nat) (j : MacJob) : State :=
  let u := s.onHere fun c => c.takePrefix .m
  (u.addJob { u.job 0 e.toNat (stamp + rowBeat j.mode (j.rows - 1) + 24) [] 0 (.mmac j) with ix := ix }).onHere fun c =>
    { c.onMat fun m => { m with occEnd := stamp + occupancy j.mode j.rows } with c := { c.c with tlIx := c.c.tlIx + 1 } }

/-- An mmac whose checks pass issues its job and takes the rows of this beat. -/
theorem mmac_issues {j : MacJob} (hs : s.macStamp o ≤ s.beat)
    (hj : s.macReached.macStart e p t r (s.macStamp o) (s.here.mx.reached.getD s.beat) = .ok j) :
    let y := (s.macReached.macIssue e (s.macStamp o) s.here.c.tlIx j).enterRows s.turn.core s.nextId 2
    exec (.mmac e p t r o) s = .next (if y.eng.state = .stopped then y else y.stepOn) := by
  have hix : (s.macReached.onHere fun c => c.takePrefix .m).here.c.tlIx = s.here.c.tlIx := by
    simp [State.macReached, Core.onMat]
  rw [exec_mmac, execMmac]
  dsimp only
  rw [if_neg (Nat.not_lt.2 hs)]
  rw [State.macReached] at hj hix
  rw [hj]
  dsimp only
  rw [hix]
  rfl

end

/-! ## The other micro-orders of M (R319 to R323) -/

section
variable {s : State} (e : BitVec 6)

theorem mclr_issues (t : BitVec 3) (h : EngineReady s 0 e.toNat) (hb : s.here.tileBusy t.toNat true = false) :
    exec (.mclr e t) s = .next ((taken s 0).addJob ((taken s 0).job 0 e.toNat (s.beat + 2) [] 0 (.mclr t.toNat))).stepOn := by
  rw [exec_mclr, execMclr]
  exact moIssue_next h _ _ (if_neg (by simp [popped_tileBusy, hb]))

theorem mret_issues (n : BitVec 4) (t f : BitVec 3) (m : BitVec 2) (c : Bool) (h : EngineReady s 0 e.toNat)
    (hb : s.here.tileBusy t.toNat false = false) (hc : s.here.mx.convBusy ≤ s.beat)
    (hr : s.retCheck (mget 0 s.here.ve.nests n.toNat) f.toNat = none) :
    let j := mget 0 s.here.ve.nests n.toNat
    let u := taken s 0
    let b := u.baseHere (nestBase j)
    let w := u.job 0 e.toNat (s.beat + 256) [b.uid] 0 (.mret t.toNat j f.toNat m.toNat c b)
    let v := (u.addJob w).retRow s.turn.core w t.toNat j f.toNat m.toNat b 0
    exec (.mret e n t f m c) s = .next (v.onHere fun k => k.onMat fun x =>
      { x with convBusy := v.beat + 256, gate := x.gate || (v.canPreempt v.turn.core && v.rdepth v.turn.core != 0) }).stepOn := by
  rw [exec_mret, execMret]
  refine moIssue_next h _ _ ?_
  simp only [popped_tileBusy, popped_retCheck, popped_beat, popped_mx, hb, hr, decide_eq_false (Nat.not_lt.2 hc), Bool.or_self,
    Bool.false_eq_true, if_false]

theorem mwsel_issues (w : BitVec 4) (h : EngineReady s 0 e.toNat) :
    exec (.mwsel e w) s = .next (((taken s 0).onHere fun c =>
      c.onMat fun m => { m with sel := some (w.toNat, s.beat) }).tokenUp e.toNat).stepOn := by
  rw [exec_mwsel, execMwsel]
  exact moIssue_next h _ _ rfl

theorem mstampAbs_issues {v : Word} {l : List Word} (h : EngineReady s 0 e.toNat) (hf : mget [] s.here.ch.feeds 3 = v :: l) :
    exec (.mstampAbs e) s = .next (((taken s 0).onHere fun c =>
      { c with ch := { c.ch with feeds := mset [] c.ch.feeds 3 l }, tr := { c.tr with mbase := v } }).tokenUp e.toNat).stepOn := by
  have ht : mget [] (taken s 0).here.ch.feeds 3 = v :: l := by rw [taken_ch, hf]
  rw [exec_mstampAbs, execMstampAbs, moIssue_next h _ _ (by simp [hf])]
  dsimp only
  rw [ht]
  rfl

theorem mstampAdd_issues (b : BitVec 19) (h : EngineReady s 0 e.toNat) :
    exec (.mstampAdd e b) s = .next (((taken s 0).onHere fun c =>
      { c with tr := { c.tr with mbase := c.tr.mbase + b.setWidth 64 } }).tokenUp e.toNat).stepOn := by
  rw [exec_mstampAdd, execMstampAdd]
  exact moIssue_next h _ _ rfl

theorem mnop_issues (h : EngineReady s 0 e.toNat) :
    exec (.mnop e) s = .next ((taken s 0).addJob ((taken s 0).job 0 e.toNat s.beat [] 0 .plain)).stepOn := by
  rw [exec_mnop, execMnop]
  exact moIssue_next h _ _ rfl

end

/-- Settles O42, micro-order by micro-order: mmac before its stamp and on it, and each of the others where its tokens and its own conditions
are met. -/
theorem matrixMicroOrdersComplete : Obligations.MatrixMicroOrdersComplete := by
  intro s
  refine ⟨fun e p t r o j => ⟨mmac_waits e p t r o, fun hs hj => ?_⟩, fun e t => mclr_issues e t,
    fun e n t f m c h hb hc hr => mret_issues e n t f m c h hb hc hr, fun e w => mwsel_issues e w,
    fun e v l h hf => mstampAbs_issues e h hf, fun e b => mstampAdd_issues e b, fun e => mnop_issues e⟩
  exact ⟨_, rfl, mmac_issues e p t r o hs hj⟩

end Sys2Proof.Machine

/-!
A placement that is no loading (02_execution.md R42; 20_drv_traps.md R454, R458): placing a task drops the pins of its conditions before the
header of its context slot is read, and a pinned page entry may lie in that header.
-/

namespace Sys2Proof.Machine

open Sys2Proof.Safety

/-- On a beat without evaluators and outside a stretch, a die places its first ready entry (R48). -/
theorem placement_places {s : State} {d k n : Nat} {x : Task} (he : (s.dieAt d).evalq = []) (hs : s.frame.stretch = false)
    (hf : s.firstEntry d = some (k, n, x)) : exec (.placement d) s = .next (s.placeTask k n).restretch := by
  simp [execPlacement, he, hs, hf]

@[simp] theorem restretch_coreAt (s : State) (n : Nat) : s.restretch.coreAt n = s.coreAt n := rfl

/-- A ready entry with context slot 0, one condition of which is led by the page entry at HBM address 2^24 and pins it. -/
def pinningEntry : Task :=
  { fetchTask with
    st := .ready, row := some 0, core := none, slot := some 0
    conds := [{ va := 2 ^ 22, loc := .hbm 0, thresh := 0, pin := 2 ^ 24 }] }

/-- That entry as task 1 of die 0, whose slot 0 lies at 2^24 too: the header's commit code is 3, so it names no buffer. As a control word,
the same bits are a pin count of 0xC00. -/
def pinnedHeader : State :=
  { (State.reset.setTask 1 (some pinningEntry)).onDie 0 fun d => { d with cxbase := 2 ^ 24 } with
    mem := { Mem.rest.write (2 ^ 24) (leBytes (3 * 2 ^ 62) 8) with keys := [(2 ^ 24 / 64, some 0)] } }

/-- No context of the entry is saved, and it is the first to be placed, on core 0. -/
theorem pinnedHeader_before :
    pinnedHeader.committed pinningEntry = none ∧ pinnedHeader.firstEntry 0 = some (1, 0, pinningEntry) := by decide +kernel

/-- Once the pin is dropped, the count is 0xBFF and the commit code 2: the header names buffer 1. -/
theorem pinnedHeader_dropped : (pinnedHeader.dropPins [2 ^ 24]).committed pinningEntry = some 1 := by decide +kernel

/-- So the placement restores that buffer. -/
theorem pinnedHeader_restores : ((pinnedHeader.placeTask 1 0).coreAt 0).pl.phase = .restoring := by decide +kernel

/-- Refutes O49, in its clause of placement: the premise reads the slot's header as it stands, and the placement reads it behind the drop
of the pins, which in pinnedHeader turns commit code 3 into 2; core 0 is then restoring, not loading. -/
theorem not_timetablesPlaceAndRetireTasks : ¬ Obligations.TimetablesPlaceAndRetireTasks := by
  intro h
  obtain ⟨-, -, -, -, hplace, -⟩ := h pinnedHeader
  obtain ⟨hc, hf⟩ := pinnedHeader_before
  obtain ⟨t, ht, -, hphase, -⟩ := hplace 0 1 0 pinningEntry rfl rfl hf rfl hc
  have hr : (t.coreAt 0).pl.phase = .restoring := by
    rw [← Host.Outcome.next.inj ((placement_places rfl rfl hf).symm.trans ht), restretch_coreAt]
    exact pinnedHeader_restores
  rw [hr] at hphase
  cases hphase

end Sys2Proof.Machine

/-!
The state at reset (02_execution.md R45, R59; 19_drv_launch.md R405, R406, R412, R436, R437; 21_fleet.md R466, R470): a part that no table lists
reads as it rests.
-/

namespace Sys2Proof.Machine

@[simp] theorem reset_coreAt (n : Nat) : State.reset.coreAt n = Core.rest := rfl
@[simp] theorem reset_ownerAt (o : Nat) : State.reset.ownerAt o = Owner.rest := rfl
@[simp] theorem reset_groupAt (g : Nat) : State.reset.groupAt g = Group.rest := rfl
@[simp] theorem reset_moduleAt (k : Nat) : State.reset.moduleAt k = Module.rest := rfl
@[simp] theorem reset_portAt (p : Nat) : State.reset.portAt p = Port.rest := rfl

/-- The health word of a module that has seen nothing holds its threshold and its window (R436). -/
theorem rest_health : Module.rest.health = 0x0000000000084000 := by decide
/-- The port words of a port that has seen nothing hold the reset values of their tables (R437, R470). -/
theorem rest_portWords : Port.rest.word 0 = 0x0000000010080000 ∧ Port.rest.word 2 = 0x0000000001000000 := by decide
/-- The feature words and the boot status as BAR0 shows them at reset: features are offered, none is accepted, and go is clear (R405, R412). -/
theorem reset_bar0 : State.reset.bar0 0x1000 = 0x1FF ∧ State.reset.bar0 0x1008 = 0 ∧ State.reset.bar0 0x1010 = 0 ∧ State.reset.bar0 0 = 0 := by
  decide
/-- The limits of power and temperature at reset (R466). -/
theorem reset_powerRead : State.reset.powerRead 0x800 = 0x00003E805F690000 := by decide

/-- Settles O58: each core, owner, group, module and port rests, and the words that the host and the power registers show are those of their
tables. -/
theorem resetLeavesTheSpecsValues : Obligations.ResetLeavesTheSpecsValues := by
  obtain ⟨hoffered, haccepted, hstatus, hlive⟩ := reset_bar0
  refine ⟨rfl, rfl, fun n r => ?_, hoffered, haccepted, hstatus, hlive, fun i _ => ?_, fun o => ?_, rfl, rfl, rfl, rfl, fun g => ?_, fun k => ?_,
    fun p => ?_, reset_powerRead, rfl⟩
  · rw [reset_coreAt]
    exact ⟨rfl, rfl, rfl, rfl⟩
  · exact mget_nil 0 i
  · rw [reset_ownerAt]; rfl
  · rw [reset_groupAt]; rfl
  · rw [reset_moduleAt, rest_health]
  · rw [reset_portAt]
    exact rest_portWords

end Sys2Proof.Machine

/-!
Groups (02_execution.md R59 to R61; 12_ins_memory_sync.md R281 to R283): the answers of a join in the order of their checks, and what a
gbar does by its member's arrival.
-/

namespace Sys2Proof.Machine

open Sys2Proof.Safety

/-! ## Joining (R281) -/

/-- A join of a task, its checks one behind the other. -/
theorem join_of_task {s : State} {t : Nat} {y : Task} (a : Word) (hy : s.taskAt t = some y) :
    let id := handleId a.toNat
    let g := s.groupAt id
    s.join t a =
      if 2 ^ 20 ≤ a.toNat then (neg64 6, s)
      else if t ∈ g.members then (neg64 5, s)
      else if 4 ≤ y.groups.length then (neg64 3, s)
      else if g.st = .quarantine then (neg64 2, s)
      else if g.inc.toNat ≠ a.toNat % 256 then (neg64 1, s)
      else if g.st = .live ∧ g.owner ≠ y.owner then (neg64 4, s)
      else (w64 (g.members.length + 1),
        (s.setGroup id { g with st := .live, members := g.members ++ [t], owner := y.owner }).onTask t fun z =>
          { z with groups := z.groups ++ [a.toNat] }) := by
  simp only [State.join, hy, List.contains_eq_mem, decide_eq_true_eq]

/-! ## The barrier (R61, R283) -/

theorem tryBarrier_of_arrived {s : State} {g : Nat} (hm : (s.groupAt g).members ≠ [])
    (ha : (s.arrivals g).length = (s.groupAt g).members.length) :
    s.tryBarrier g = (s.setGroup g { s.groupAt g with gen := (s.groupAt g).gen + 1 }).passAll g := by
  simp [State.tryBarrier, hm, ha]

/-- A queue of a core replaced leaves the control stream of every core. -/
theorem setEntries_coreAt_c (s : State) (n m : Nat) (q : Queue) (l : List Word) : ((s.setEntries n q l).coreAt m).c = (s.coreAt m).c := by
  cases q with
  | copyOut k => rfl
  | _ =>
    simp only [State.setEntries, coreAt_onCore]
    split
    · subst m
      repeat' split
      all_goals rfl
    · rfl

/-- The control stream of the core that passes (R61). -/
theorem passBarrier_c (s : State) (n g : Nat) (f : BitVec 6) (pop : Bool) :
    ((s.passBarrier n g f pop).coreAt n).c = { (s.coreAt n).c.landed 0 with
      epoch := (s.coreAt n).c.epoch + 1, pc := (s.coreAt n).c.pc + 1, ready := s.beat + 1, issued := true, evOk := true, cwait := none } := by
  unfold State.passBarrier
  repeat' split
  all_goals simp [setEntries_coreAt_c]

section
variable {s : State} {o : OForm} (hi : Issues s [(o.a, o.p)] [] none)
include hi

theorem gleave_completes :
    let a := s.readSrc o.a o.p
    let t := s.taskNo s.turn.core
    exec (.gleave o) s = .next (if s.isMember t a.1.toNat then a.2.leaveGroup t (handleId a.1.toNat) else a.2).advance := by
  rw [exec_gleave, execGleave, cIssue_next hi]

/-- A gbar of no member traps. -/
theorem gbar_of_stranger (hm : s.isMember (s.taskNo s.turn.core) (s.readSrc o.a o.p).1.toNat = false) :
    exec (.gbar o) s = .next (s.trapAt 0x47 0) := by
  rw [exec_gbar, execGbar, cIssue_next hi]
  simp only [hm, Bool.not_false, if_true]

/-- A gbar of a member that has arrived passes once its generation has ended. -/
theorem gbar_of_arrived {n : Nat} (hm : s.isMember (s.taskNo s.turn.core) (s.readSrc o.a o.p).1.toNat = true)
    (ha : s.arrival (s.taskNo s.turn.core) (handleId (s.readSrc o.a o.p).1.toNat) = some n) :
    let g := handleId (s.readSrc o.a o.p).1.toNat
    exec (.gbar o) s = .next (if (s.groupAt g).gen = n then s.atBarrier g o else s.passBarrier s.turn.core g o.a o.p) := by
  rw [exec_gbar, execGbar, cIssue_next hi]
  simp only [hm, ha, Bool.not_true, Bool.false_eq_true, if_false]

/-- A gbar of a member with nothing outstanding arrives at the open generation and waits. -/
theorem gbar_arrives (hm : s.isMember (s.taskNo s.turn.core) (s.readSrc o.a o.p).1.toNat = true)
    (ha : s.arrival (s.taskNo s.turn.core) (handleId (s.readSrc o.a o.p).1.toNat) = none) (hl : s.loadsOut s.turn.core = 0)
    (hst : s.storesOut s.turn.core = 0) (hp : s.takePending ⟨0, 0, s.here.c.cpIx, false⟩ = none) :
    let g := handleId (s.readSrc o.a o.p).1.toNat
    exec (.gbar o) s = .next (((s.onTask (s.taskNo s.turn.core) fun x =>
      { x with arrived := x.arrived ++ [(g, (s.groupAt g).gen)] }).atBarrier g o).tryBarrier g) := by
  rw [exec_gbar, execGbar, cIssue_next hi]
  simp only [hm, ha, hl, hst, hp, Bool.not_true, Bool.false_eq_true, if_false, ne_eq, not_true_eq_false, or_self]

end

/-- Settles O24: a join's answers stand in the order of its checks, a member leaves, and a gbar goes by its membership and its arrival. -/
theorem groupsAreJoinedLeftAndMet : Obligations.GroupsAreJoinedLeftAndMet := by
  refine ⟨fun o s hi => ?_, fun s t y a hy => ?_, fun s g hm ha => tryBarrier_of_arrived hm ha, fun s n g f pop => ?_,
    fun o s hi => ⟨fun hm => ?_, fun hm => ?_, gbar_of_stranger hi, gbar_arrives hi, fun n hm ha => ⟨fun hg => ?_, fun hg => ?_⟩⟩⟩
  · rw [exec_gjoin, execGjoin, cIssue_next hi]
  · have hj := join_of_task a hy
    intro g code
    refine ⟨fun hbits => hj.trans (if_pos hbits), fun hbits => ?_⟩
    replace hj := hj.trans (if_neg (Nat.not_le.2 hbits))
    refine ⟨fun hmem => hj.trans (if_pos hmem), fun hmem => ?_⟩
    replace hj := hj.trans (if_neg hmem)
    refine ⟨fun hfour => hj.trans (if_pos hfour), fun hfour => ?_⟩
    replace hj := hj.trans (if_neg (Nat.not_le.2 hfour))
    refine ⟨fun hq => hj.trans (if_pos hq), fun hq => ?_⟩
    replace hj := hj.trans (if_neg hq)
    refine ⟨fun hinc => hj.trans (if_pos hinc), fun hinc => ?_⟩
    replace hj := hj.trans (if_neg (not_not_intro hinc))
    refine ⟨fun hlive hother => hj.trans (if_pos ⟨hlive, hother⟩), fun hown => ?_⟩
    rw [hj.trans (if_neg fun h => h.2 (hown h.1))]
    simp [w64, g]
  · rw [passBarrier_c]
    exact ⟨rfl, rfl, rfl, rfl⟩
  · rw [gleave_completes hi, if_pos hm]
  · rw [gleave_completes hi, if_neg (ne_true_of_eq_false hm)]
  · rw [gbar_of_arrived hi hm ha, if_pos hg]
  · rw [gbar_of_arrived hi hm ha, if_neg hg]

end Sys2Proof.Machine

/-!
The end of a task (02_execution.md R57, R58; 15_ins_fabric_system.md R367, R368): what halt, tail and ppoint leave. A task that tails lets its
ports go first, and nothing that it lets go behind them binds a port again or changes which core moves.
-/

namespace Sys2Proof.Machine

open Sys2Proof.Safety

/-! ## The core that moves and the ports of every core -/

/-- The core that moves, and the ports of each core. -/
def State.ports (s : State) : Nat × (Nat → SMap InPort × SMap OutPort) :=
  (s.turn.core, fun n => ((s.coreAt n).ve.ins, (s.coreAt n).ve.outs))

/-- A fold of acts that leave the ports alone leaves them alone. -/
theorem foldl_ports {α : Type} (f : State → α → State) (l : List α) (s : State) (h : ∀ t a, (f t a).ports = t.ports) :
    (l.foldl f s).ports = s.ports :=
  List.foldlRecOn (motive := fun t => t.ports = s.ports) l f rfl fun t ht a _ => (h t a).trans ht

section
variable (s : State)

/-- An update of a core that leaves its ports alone. -/
@[simp] theorem onCore_ports (n : Nat) {f : Core → Core} (hi : ∀ c, (f c).ve.ins = c.ve.ins) (ho : ∀ c, (f c).ve.outs = c.ve.outs) :
    (s.onCore n f).ports = s.ports := by
  refine Prod.ext rfl (funext fun m => ?_)
  simp only [State.ports, coreAt_onCore]
  split
  · subst m; rw [hi, ho]
  · rfl

@[simp] theorem onMem_ports (f : Mem → Mem) : (s.onMem f).ports = s.ports := (rfl)
@[simp] theorem onDie_ports (d : Nat) (f : Die → Die) : (s.onDie d f).ports = s.ports := (rfl)
@[simp] theorem onTask_ports (t : Nat) (f : Task → Task) : (s.onTask t f).ports = s.ports := (rfl)
@[simp] theorem onAcc_ports (a : Nat) (f : Access → Access) : (s.onAcc a f).ports = s.ports := (rfl)
@[simp] theorem setAcc_ports (a : Nat) (x : Option Access) : (s.setAcc a x).ports = s.ports := (rfl)
@[simp] theorem onOwner_ports (o : Nat) (f : Owner → Owner) : (s.onOwner o f).ports = s.ports := (rfl)
@[simp] theorem setGroup_ports (g : Nat) (x : Group) : (s.setGroup g x).ports = s.ports := (rfl)
@[simp] theorem onConv_ports (f : Conv → Conv) : (s.onConv f).ports = s.ports := (rfl)
@[simp] theorem finish_ports (a : Nat) (r : Res) : (s.finish a r).ports = s.ports := (rfl)
@[simp] theorem countUncorr_ports (l : Loc) : (s.countUncorr l).ports = s.ports := (rfl)
@[simp] theorem unpark_ports (poc : Nat) (l : List Nat) : (s.unpark poc l).ports = s.ports := (rfl)

/-! ### Waiters, cells and pins -/

@[simp] theorem countBad_ports (c : BitVec 8) (l : Loc) : (s.countBad c l).ports = s.ports := by
  unfold State.countBad; split <;> simp
@[simp] theorem warnAt_ports (n : Nat) (l : Loc) (w : Nat) : (s.warnAt n l w).ports = s.ports := by
  unfold State.warnAt; repeat' split
  all_goals simp [Core.countWarn]
@[simp] theorem endWait_ports (a : Nat) (x : Access) (w : Nat) (r : Res) : (s.endWait a x w r).ports = s.ports := by
  unfold State.endWait; split <;> simp
@[simp] theorem wakeOne_ports (wake : Bool) (a : Nat) : (s.wakeOne wake a).ports = s.ports := by
  unfold State.wakeOne; repeat' split
  all_goals simp
@[simp] theorem wakeAll_ports (wake : Bool) (l : List Nat) : (s.wakeAll wake l).ports = s.ports :=
  foldl_ports _ _ _ fun _ _ => by simp
@[simp] theorem touch_ports (b : Nat) : (s.touch b).ports = s.ports := by
  unfold State.touch
  rw [foldl_ports _ _ _ fun _ _ => onDie_ports .., foldl_ports _ _ _ fun _ _ => endWait_ports .., wakeAll_ports, unpark_ports]
@[simp] theorem answerCell_ports (b : Nat) (r : Access → Res) : (s.answerCell b r).ports = s.ports := by
  rw [State.answerCell, onMem_ports]
  exact foldl_ports _ _ _ fun _ _ => by split <;> simp
@[simp] theorem revertCell_ports (b : Nat) : (s.revertCell b).ports = s.ports := by
  unfold State.revertCell; split <;> simp
@[simp] theorem enterWq_ports (l : Loc) (cls : Nat) (bs : List Nat) : (s.enterWq l cls bs).ports = s.ports := by
  unfold State.enterWq; split <;> simp
@[simp] theorem devWrite_ports (p n v : Nat) : (s.devWrite p n v).ports = s.ports := by
  unfold State.devWrite; dsimp only; split <;> simp
@[simp] theorem setPins_ports (p : Nat) (f : Nat → Nat) : (s.setPins p f).ports = s.ports := by
  unfold State.setPins; split <;> simp
@[simp] theorem dropPins_ports (ps : List Nat) : (s.dropPins ps).ports = s.ports := foldl_ports _ _ _ fun _ _ => setPins_ports ..

/-! ### Watches, channels and leases -/

@[simp] theorem pushWake_ports (n q : Nat) (w : Word) : (s.pushWake n q w).ports = s.ports := by
  refine onCore_ports s n (fun c => ?_) fun c => ?_
  all_goals split <;> rfl
@[simp] theorem fireWatches_ports (n : Nat) : (s.fireWatches n).ports = s.ports := by
  refine foldl_ports _ _ _ fun _ _ => ?_
  repeat' split
  all_goals simp
@[simp] theorem unbindChan_ports (n c : Nat) : (s.unbindChan n c).ports = s.ports := by
  unfold State.unbindChan
  dsimp only
  split <;> simp [State.dropCopyOut]
@[simp] theorem unbindAll_ports (n : Nat) (only : Bool) : (s.unbindAll n only).ports = s.ports := by
  refine foldl_ports _ _ _ fun _ _ => ?_
  repeat' split
  all_goals simp
@[simp] theorem putVec_ports (n o : Nat) (x : Vec) : (s.putVec n o x).ports = s.ports := foldl_ports _ _ _ fun _ _ => by simp
@[simp] theorem landSpill_ports (n k : Nat) (x : Vec) : (s.landSpill n k x).ports = s.ports := by
  unfold State.landSpill
  repeat' split
  all_goals simp
@[simp] theorem unlend_ports (l : Lease) : (s.unlend l).ports = s.ports := by simp [State.unlend]
@[simp] theorem revokeLease_ports (n : Nat) : (s.revokeLease n).ports = s.ports := by
  unfold State.revokeLease
  repeat' split
  · rfl
  · rfl
  · simp only [unlend_ports, onCore_ports, implies_true]
    refine (foldl_ports _ _ _ fun _ _ => putVec_ports ..).trans (foldl_ports _ _ _ fun _ _ => ?_)
    repeat' split
    all_goals simp
@[simp] theorem revokeLent_ports (n : Nat) : (s.revokeLent n).ports = s.ports := foldl_ports _ _ _ fun _ _ => revokeLease_ports ..
@[simp] theorem endLease_ports (n : Nat) : (s.endLease n).ports = s.ports := by
  unfold State.endLease
  split
  · rfl
  · dsimp only
    split <;> simp

/-! ### Bases, groups and evaluators -/

@[simp] theorem unbindBase_ports (n b : Nat) : (s.unbindBase n b).ports = s.ports := by
  refine onCore_ports s n (fun c => ?_) fun c => ?_
  all_goals dsimp only; split <;> rfl
@[simp] theorem unbindBases_ports (n : Nat) : (s.unbindBases n).ports = s.ports := by
  simp only [State.unbindBases, State.dropTiles, onCore_ports, dropPins_ports, implies_true]
  exact foldl_ports _ _ _ fun _ _ => unbindBase_ports ..
@[simp] theorem setEntries_ports (n : Nat) (q : Queue) (l : List Word) : (s.setEntries n q l).ports = s.ports := by
  cases q with
  | copyOut k => rfl
  | wakeQ j =>
    refine onCore_ports s n (fun c => ?_) fun c => ?_
    all_goals repeat' split
    all_goals rfl
  | _ => simp [State.setEntries]
@[simp] theorem passBarrier_ports (n g : Nat) (f : BitVec 6) (pop : Bool) : (s.passBarrier n g f pop).ports = s.ports := by
  unfold State.passBarrier
  dsimp only
  simp only [onCore_ports, onTask_ports, implies_true]
  repeat' split
  all_goals simp
@[simp] theorem tryBarrier_ports (g : Nat) : (s.tryBarrier g).ports = s.ports := by
  unfold State.tryBarrier
  dsimp only
  split
  · refine (foldl_ports _ _ _ fun _ _ => ?_).trans (setGroup_ports ..)
    repeat' split
    all_goals simp
  · rfl
@[simp] theorem leaveGroup_ports (t g : Nat) : (s.leaveGroup t g).ports = s.ports := by
  unfold State.leaveGroup
  dsimp only
  repeat' split
  all_goals simp
@[simp] theorem leaveGroups_ports (t : Nat) : (s.leaveGroups t).ports = s.ports := by
  unfold State.leaveGroups
  split
  · exact foldl_ports _ _ _ fun _ _ => leaveGroup_ports ..
  · rfl
@[simp] theorem endEval_ports (t : Nat) : (s.endEval t).ports = s.ports := by
  unfold State.endEval
  dsimp only
  repeat' split
  all_goals simp

end

/-- A core that is released has no ports, and the same core moves (R57). -/
theorem releaseCore_ports (s : State) (n : Nat) :
    (s.releaseCore n).turn.core = s.turn.core ∧ ((s.releaseCore n).coreAt n).ve.ins = [] ∧ ((s.releaseCore n).coreAt n).ve.outs = [] := by
  have hbehind : (s.releaseCore n).ports =
      ((((((s.fireWatches n).unbindAll n false).revokeLent n).endLease n).unbindBases n).onCore n Core.unbindPorts).ports := by
    rw [State.releaseCore, endEval_ports, leaveGroups_ports]
  have hbefore : (((((s.fireWatches n).unbindAll n false).revokeLent n).endLease n).unbindBases n).ports = s.ports := by
    rw [unbindBases_ports, endLease_ports, revokeLent_ports, unbindAll_ports, fireWatches_ports]
  generalize ((((s.fireWatches n).unbindAll n false).revokeLent n).endLease n).unbindBases n = u at hbehind hbefore
  generalize s.releaseCore n = v at hbehind ⊢
  have hports := congrFun (congrArg Prod.snd hbehind) n
  simp only [State.ports, coreAt_onCore_same, Prod.mk.injEq] at hports
  exact ⟨(congrArg Prod.fst hbehind).trans (congrArg Prod.fst hbefore), hports⟩

/-! ## halt, tail and ppoint -/

section
variable {s : State}

/-- The fence of a task with nothing incomplete and nothing pending goes on (R193). -/
theorem fence_next (k : State → Out)
    (hq : s.quietBefore ((s.inWait.map CWait.acc).getD s.nextId) ((s.inWait.map CWait.since).getD s.beat) = true)
    (hp : s.takePending ⟨0, 0, 0, true⟩ = none) (hf : s.here.cr.fflags &&& s.here.cr.fenable = 0) : s.fence k = k s := by
  have hw : s.quietBefore (s.inWait.getD ⟨s.here.c.pc.toNat, s.beat, s.nextId, none, none, none⟩).acc
      (s.inWait.getD ⟨s.here.c.pc.toNat, s.beat, s.nextId, none, none, none⟩).since = true := by
    cases hi : s.inWait <;> simpa [hi] using hq
  simp [State.fence, hw, hp, hf]

theorem halt_completes (hr : s.here.enginesRest = true) (he : s.engineReport [.l, .a, .s, .m, .x] = none)
    (hp : s.takePending ⟨0, 0, 0, true⟩ = none) (hf : s.here.cr.fflags &&& s.here.cr.fenable = 0) (hev : s.here.tr.events = [])
    (hq : s.quietBefore ((s.inWait.map CWait.acc).getD s.nextId) ((s.inWait.map CWait.since).getD s.beat) = true) :
    exec .halt s = .next s.drainTask := by
  simp [execHalt, hr, he, fence_next _ hq hp hf, State.eventFirst, hev]

theorem tail_completes (hr : s.here.enginesRest = true) (he : s.engineReport [.l, .a, .s, .m, .x] = none)
    (hp : s.takePending ⟨0, 0, 0, true⟩ = none) (hf : s.here.cr.fflags &&& s.here.cr.fenable = 0) (hev : s.here.tr.events = [])
    (hl : s.loadsLeft = false) (hn : s.trackerNeed ≤ 8) (ht : s.here.pl.tailed = none) : exec .tail s = .next s.tailTask := by
  simp [execTail, hr, he, hp, hf, hl, Nat.not_lt.2 hn, ht, State.eventFirst, hev]

/-- The core that tailTask leaves: free, without ports, tracking its task (R57). -/
theorem tailTask_here (s : State) : s.tailTask.here.pl.task = none ∧ s.tailTask.here.pl.phase = .free ∧ s.tailTask.here.ve.ins = [] ∧
    s.tailTask.here.ve.outs = [] ∧ s.tailTask.here.pl.tailed = some (s.taskNo s.turn.core) := by
  obtain ⟨hturn, hins, houts⟩ := releaseCore_ports s s.turn.core
  simp only [State.tailTask, here_onCore, onTask_turn, hturn, if_true, onTask_coreAt]
  generalize (s.releaseCore s.turn.core).coreAt s.turn.core = c at hins houts
  exact ⟨rfl, rfl, hins, houts, trivial⟩

theorem ppoint_completes (m : BitVec 8) (hn : NotLast s) :
    exec (.ppoint m) s = .next (if s.canPreempt s.turn.core then s.advance.beginSave s.turn.core m else s.advance) := by
  rw [exec_ppoint, execPpoint, cIssue_next (issues_none hn)]

end

/-- The core that begins to save (R326, R456). -/
theorem beginSave_pl (s : State) (n : Nat) (m : BitVec 8) :
    ((s.beginSave n m).coreAt n).pl = { (s.coreAt n).pl with phase := .saving, saveMask := m, saveBeat := none, preempt := false } := by
  simp [State.beginSave]

/-- Settles O27: each of the three completes by its own effect; tailTask_here says what a tail leaves of its core. -/
theorem tasksEndByHaltAndTail : Obligations.TasksEndByHaltAndTail := by
  intro s
  refine ⟨fun hr he hp hf hev => ⟨fun hq => ⟨halt_completes hr he hp hf hev hq, ?_⟩,
    fun hl hn ht => ⟨tail_completes hr he hp hf hev hl hn ht, tailTask_here s⟩⟩, fun m hn => ⟨fun hc => ?_, fun hc => ⟨?_, ?_⟩⟩⟩
  · simp only [State.drainTask, onHere_here]
  · rw [ppoint_completes m hn, if_neg (ne_true_of_eq_false hc)]
  · rw [ppoint_completes m hn, if_pos hc]
  · have hpl : (s.advance.beginSave s.turn.core m).here.pl = _ := beginSave_pl s.advance s.turn.core m
    rw [hpl]
    exact ⟨rfl, rfl⟩

end Sys2Proof.Machine

/-!
Slots, parcels and claims (06_conveyor.md R139, R148, R151 to R156; 02_execution.md R59): each transition of a station that is no act of an
entry, with its conditions met.
-/

namespace Sys2Proof.Machine

@[simp] theorem slot_putSlot_same (c : Conv) (key : Nat) (x : CSlot) : (c.putSlot key x).slot key = x := mget_mset_same ..

@[simp] theorem mget_bump_same (hi : Nat) (m : SMap Nat) (k : Nat) : mget 0 (bump hi m k) k = min hi (mget 0 m k + 1) := mget_mmod_same ..

/-- The places of the stations: a strand and a mortise. -/
theorem station_inside {st m : Nat} (hst : st < 16) (hm : m < 28) : ¬(16 ≤ st ∨ 28 ≤ m) := by omega

/-! ## The slot and the entry at a station (R139, R140) -/

/-- The slot now at a station. -/
abbrev State.slotAt (s : State) (st m : Nat) : CSlot := s.conv.slot (s.keyNow st m)
/-- The table key of the entry for that slot. -/
abbrev State.entryKeyAt (s : State) (st m : Nat) : Nat := entryKey st m (s.keyNow st m % 64)
/-- The entry for that slot. -/
abbrev State.entryAt (s : State) (st m : Nat) : SEntry := mget SEntry.rest s.conv.tables (s.entryKeyAt st m)

/-! ## Installations (R148) -/

/-- The one installation, once due, is the entry in force, from its first act. -/
theorem entryFor_single {c : Conv} {i : Install} {ek beat : Nat} (hi : c.installs = [i]) (hk : i.key = ek) (hd : 64 * i.rot ≤ beat) :
    c.entryFor ek beat = (i.entry, 0) := by
  simp [Conv.entryFor, inForce, hi, hk, hd]

/-! ## Room at a destination (R152, R154) -/

/-- What enters a module leaves the conveyor alone. -/
theorem enterModule_conv (s : State) (k : Nat) (up : Bool) (us : List FUnit) : (s.enterModule k up us).conv = s.conv := by
  unfold State.enterModule
  split
  · exact List.foldlRecOn (motive := fun t => t.conv = s.conv) us State.dropUnit rfl fun t ht u _ => by cases u <;> exact ht
  · rfl

theorem foldl_rows (l : List Parcel) : l.foldl (fun n p => n + p.rows) 0 = (l.map Parcel.rows).sum := by
  rw [List.sum_eq_foldl, List.foldl_map]

/-- The destination refuses the slot now there: another slot that it has refused is first, its buffer has no room, or its module is in a
retrain (R154, R390). -/
def State.refusesSlot (s : State) (st m : Nat) : Bool :=
  let x := s.slotAt st m
  let training := (s.moduleAt (linkKey m st)).retrainTill.isSome
  let held := (mget [] s.conv.rows (linkKey m st)).filter fun e => training || s.holdsRows e
  (mget [] s.conv.blocked (blockKey st x.src x.dst)).head?.any (· != s.keyNow st m) ||
    decide (64 < held.foldl (fun n e => n + e.2) 0 + x.parcels.foldl (fun n p => n + p.rows) 0) || training

/-- A destination that refuses nothing and holds nothing, outside a retrain, has room for 64 rows. -/
theorem refusesSlot_room {s : State} {st m : Nat}
    (hb : mget [] s.conv.blocked (blockKey st (s.slotAt st m).src (s.slotAt st m).dst) = [])
    (hr : mget [] s.conv.rows (linkKey m st) = []) (hn : ((s.slotAt st m).parcels.map Parcel.rows).sum ≤ 64)
    (ht : (s.moduleAt (linkKey m st)).retrainTill = none) : s.refusesSlot st m = false := by
  simp [State.refusesSlot, hb, hr, ht, foldl_rows, hn]

/-- A destination refuses more rows than its buffer has, and every slot in a retrain. -/
theorem refusesSlot_full {s : State} {st m : Nat}
    (h : 64 < ((s.slotAt st m).parcels.map Parcel.rows).sum ∨ (s.moduleAt (linkKey m st)).retrainTill ≠ none) :
    s.refusesSlot st m = true := by
  simp only [State.refusesSlot, foldl_rows, Bool.or_eq_true, decide_eq_true_eq]
  rcases h with h | h
  · exact .inl (.inr (Nat.lt_add_left _ h))
  · exact .inr (Option.isSome_iff_ne_none.2 h)

section
variable {s : State} {st m : Nat} (hst : st < 16) (hm : m < 28)
include hst hm

theorem hand_takes_effect {i : Install} (hi : s.conv.installs = [i]) (hk : i.key = s.entryKeyAt st m)
    (hd : 64 * i.rot ≤ s.beat) : ∃ t : State, exec (.handTakesEffect st m) s = .next t ∧
      mget SEntry.rest t.conv.tables (s.entryKeyAt st m) = ⟨i.entry, 0⟩ ∧ t.conv.installs = [] := by
  refine ⟨_, if_neg (station_inside hst hm), ?_⟩
  have hany : s.conv.installs.any (fun i => i.key == s.entryKeyAt st m && decide (64 * i.rot ≤ s.beat)) = true := by
    simp [hi, hk, hd]
  simp only [hany, if_true, entryFor_single hi hk hd]
  split <;> simp [Conv.emptyStale, Conv.putSlot, hi, hk, hd]

/-! ## Claims (R148, R153) -/

theorem hand_withholds (h : s.conv.withheld (s.keyNow st m) (s.beat / 64) = true) : ∃ t : State, exec (.handWithhold st m) s = .next t ∧
    t.conv.slot (s.keyNow st m) = { s.slotAt st m with claimer := none } :=
  ⟨_, (if_neg (station_inside hst hm)).trans (if_pos h), slot_putSlot_same ..⟩

theorem parcels_board {d : Nat} (hb : s.conv.boardable st m = some d) (hx : (s.slotAt st m).cls = .empty)
    (ho : s.conv.open_ (s.keyNow st m) (s.beat / 64) = true)
    (hc : (s.slotAt st m).claimer = none ∨ (s.slotAt st m).claimer = some m) :
    ∃ t : State, exec (.parcelBoard st m) s = .next t ∧
      mget [] t.conv.queues (28 * m + d) = (takeRows 8 (mget [] s.conv.queues (28 * m + d))).2 ∧
      t.conv.slot (s.keyNow st m) = { CSlot.rest with
        cls := .parcels, src := posOf m, dst := posOf d, parcels := (takeRows 8 (mget [] s.conv.queues (28 * m + d))).1 } := by
  have hfree : ¬((s.slotAt st m).cls ≠ .empty ∨ (!s.conv.open_ (s.keyNow st m) (s.beat / 64)) = true ∨
      ((s.slotAt st m).claimer != none && (s.slotAt st m).claimer != some m) = true) := by
    rcases hc with hc | hc <;> simp [hx, ho, hc]
  rw [exec_parcelBoard, execParcelBoard, if_neg (station_inside hst hm)]
  simp only [hb, if_neg hfree]
  exact ⟨_, rfl, mget_mset_same .., by simp [Conv.slot, Conv.putSlot]⟩

/-- The first arrival of an open slot that nothing claims is watched. -/
theorem claim_watches (hw : s.conv.waitingFor st m ≠ []) (ho : s.conv.open_ (s.keyNow st m) (s.beat / 64) = true)
    (hc : (s.slotAt st m).claimer = none) (hn : mget none s.conv.watch (linkKey m st) = none) :
    ∃ t : State, exec (.slotClaim st m) s = .next t ∧
      mget none t.conv.watch (linkKey m st) = some ⟨s.keyNow st m, s.beat, false⟩ ∧ t.conv.slots = s.conv.slots := by
  rw [exec_slotClaim, execSlotClaim, if_neg (station_inside hst hm)]
  simp only [hn, hc, ho, bne_iff_ne.2 hw, beq_self_eq_true, Bool.and_self, if_true]
  exact ⟨_, rfl, by simp, rfl⟩

/-- A later arrival of a watched slot claims it. -/
theorem claim_claims {b : Nat} (hw : s.conv.waitingFor st m ≠ []) (ho : s.conv.open_ (s.keyNow st m) (s.beat / 64) = true)
    (hc : (s.slotAt st m).claimer = none) (hn : mget none s.conv.watch (linkKey m st) = some ⟨s.keyNow st m, b, false⟩)
    (hb : b < s.beat) :
    ∃ t : State, exec (.slotClaim st m) s = .next t ∧
      t.conv.slot (s.keyNow st m) = { s.slotAt st m with claimer := some m } ∧
      mget none t.conv.watch (linkKey m st) = some ⟨s.keyNow st m, b, true⟩ := by
  rw [exec_slotClaim, execSlotClaim, if_neg (station_inside hst hm)]
  simp only [hn, hc, ho, bne_iff_ne.2 hw, beq_self_eq_true, Bool.and_self, Bool.not_true, Bool.false_eq_true, ne_eq, not_true_eq_false,
    Nat.not_le.2 hb, or_self, if_true, if_false]
  exact ⟨_, rfl, by simp [Conv.slot, Conv.putSlot], by simp [Conv.putSlot]⟩

/-! ## Parcels (R152, R154) -/

/-- A destination with room takes the parcels of a slot. -/
theorem parcels_delivered (hx : (s.slotAt st m).cls = .parcels) (hd : (s.slotAt st m).dst = posOf m)
    (hr : s.refusesSlot st m = false) :
    ∃ t : State, exec (.parcelDelivery st m) s = .next t ∧
      t.conv.slot (s.keyNow st m) = { CSlot.rest with claimer := (s.slotAt st m).claimer } := by
  refine ⟨_, (if_neg (station_inside hst hm)).trans ((if_neg ?_).trans (if_neg (ne_true_of_eq_false hr))), ?_⟩
  · simp [hx, hd]
  · rw [enterModule_conv]
    simp [Conv.slot, Conv.putSlot, CSlot.emptied]

/-- A destination that refuses a slot for the first time sets full, and the slot is then among those that it has refused. -/
theorem parcels_refused (hx : (s.slotAt st m).cls = .parcels) (hd : (s.slotAt st m).dst = posOf m)
    (hb : mget [] s.conv.blocked (blockKey st (s.slotAt st m).src (s.slotAt st m).dst) = [])
    (hr : s.refusesSlot st m = true) :
    ∃ t : State, exec (.parcelDelivery st m) s = .next t ∧
      t.conv.slot (s.keyNow st m) = { s.slotAt st m with full := true } ∧
      mget [] t.conv.blocked (blockKey st (s.slotAt st m).src (s.slotAt st m).dst) = [s.keyNow st m] := by
  refine ⟨_, (if_neg (station_inside hst hm)).trans ((if_neg ?_).trans (if_pos hr)), ?_, ?_⟩
  · simp [hx, hd]
  · simp [Conv.slot, Conv.putSlot]
  · simp [hb]

theorem full_slot_returns (hx : (s.slotAt st m).cls = .parcels) (hs : (s.slotAt st m).src = posOf m)
    (hf : (s.slotAt st m).full = true) : ∃ t : State, exec (.fullSlotReturn st m) s = .next t ∧
      t.conv.slot (s.keyNow st m) = { s.slotAt st m with full := false } :=
  ⟨_, (if_neg (station_inside hst hm)).trans (if_pos ⟨hx, hs, hf⟩), slot_putSlot_same ..⟩

/-! ## Headers (R139) -/

theorem header_passes {n : BitVec 256} (h : headerOk ((s.slotAt st m).header ^^^ n) = true) :
    exec (.headerError st ⟨m, n⟩) s = .next s :=
  (if_neg (station_inside hst hm)).trans (if_pos h)

theorem header_loses {n : BitVec 256} (h : headerOk ((s.slotAt st m).header ^^^ n) = false) :
    ∃ t : State, exec (.headerError st ⟨m, n⟩) s = .next t ∧
      t.conv.slot (s.keyNow st m) = { CSlot.rest with claimer := (s.slotAt st m).claimer } ∧
      mget 0 t.conv.hdrerr (linkKey m st) = min 255 (mget 0 s.conv.hdrerr (linkKey m st) + 1) :=
  ⟨_, (if_neg (station_inside hst hm)).trans (if_neg (ne_true_of_eq_false h)), slot_putSlot_same .., mget_bump_same ..⟩

end

/-! ## Quarantine (R59) -/

theorem quarantine_ends {s : State} {g : Nat} (hq : (s.groupAt g).st = .quarantine) (hl : (s.groupAt g).left + s.quarantine ≤ s.beat)
    (hh : mget [] s.conv.hands (g * 256 + ((s.groupAt g).inc - 1).toNat) = []) : ∃ t : State, exec (.groupQuarantineEnd g) s = .next t ∧
      (t.groupAt g).st = .free ∧ (t.groupAt g).members = [] ∧ (t.groupAt g).inc = (s.groupAt g).inc := by
  refine ⟨_, if_pos ?_, ?_⟩
  · simp only [hq, hl, Conv.holdsHand, hh]
    rfl
  · simp

end Sys2Proof.Machine

/-!
Acts of a station (06_conveyor.md R142 to R146): what each operation makes of the slot and of the state, and what the station then leaves.
-/

namespace Sys2Proof.Machine

/-! ## Deposits (R143) -/

section
variable (s : State)

/-- The blocks of a deposit set out under numbers that follow one another, and storage waits for them. -/
theorem deposits_set_out (w : BitVec 128) (st m id a : Nat) (l : List Blk) (n : Nat) :
    let t := (List.range n).foldl (fun u i => u.depositBlk w st m id i (a + 64 * i) (l.getD i Blk.zero)) s
    t.nextId = s.nextId + n ∧ t.mem = s.mem ∧
      ∀ k < n, (t.accAt (s.nextId + k)).map (fun a => (a.loc, a.op, a.stage)) =
        some (entLoc w m (a + 64 * k), .wblk 0 64 (l.getD k Blk.zero), .queued) := by
  induction n with
  | zero => simp
  | succ n ih =>
    obtain ⟨hid, hmem, hacc⟩ := ih
    simp only [List.range_succ, List.foldl_append, List.foldl_cons, List.foldl_nil]
    generalize (List.range n).foldl (fun u i => u.depositBlk w st m id i (a + 64 * i) (l.getD i Blk.zero)) s = u at hid hmem hacc
    refine ⟨?_, hmem, fun k hk => ?_⟩
    · rw [← Nat.add_assoc, ← hid]; rfl
    · rcases Nat.lt_succ_iff_lt_or_eq.1 hk with hk | rfl
      · have hne : s.nextId + k ≠ u.nextId := by omega
        exact (congrArg _ (accAt_setAcc_other u.fresh.2 _ _ _ hne)).trans (hacc k hk)
      · simp [State.depositBlk, ← hid]

/-- A deposit to memory: block k of what it makes sets out for its place (R143). -/
theorem deposit_to_memory {w : BitVec 128} (st m act id : Nat) {p : List Blk} (hk : entKind w ≠ 3) :
    let t := (s.deposit w st m act id p).2
    t.mem = s.mem ∧ ∀ k b, (takePay w p).1[k]? = some b → (t.accAt (s.nextId + k)).map (fun a => (a.loc, a.op, a.stage)) =
      some (entLoc w m (entAddr w act + 64 * k), .wblk 0 64 b, .queued) := by
  obtain ⟨-, hmem, hacc⟩ := deposits_set_out s w st m id (entAddr w act) (takePay w p).1 (takePay w p).1.length
  simp only [State.deposit, if_neg hk]
  refine ⟨hmem, fun k b hb => ?_⟩
  obtain ⟨hlt, -⟩ := List.getElem?_eq_some_iff.1 hb
  rw [hacc k hlt, List.getD_eq_getElem?_getD, hb]
  rfl

/-- A copy output that is bound and has room takes the payload's first word (R143). -/
theorem deposit_to_copy {w : BitVec 128} {st m : Nat} (act id : Nat) (p : List Blk) (hk : entKind w = 3)
    (hb : (mget none (s.dieAt m).binders st).isSome = true) (hl : (mget [] (s.dieAt m).copies st).length < 16) :
    s.deposit w st m act id p = (0, s.onDie m fun d =>
      { d with copies := mset [] d.copies st (mget [] d.copies st ++ [(p.headD Blk.zero).word 0]) }) := by
  have hroom : ¬((mget none (s.dieAt m).binders st).isNone = true ∨ 16 ≤ (mget [] (s.dieAt m).copies st).length) := by
    simpa [Option.isSome_iff_ne_none] using ⟨Option.isSome_iff_ne_none.1 hb, hl⟩
  simp only [State.deposit, if_pos hk, State.pushCopy, if_neg hroom]

/-! ## The operations (R142 to R145) -/

theorem actLoad_empty {w : BitVec 128} {ek act : Nat} {x : CSlot} (m : Nat) (hx : x.cls = .empty) :
    s.actLoad w ek m act x = ⟨{ x with
      cls := .hand, handle := entHandle w, mode := entMode w, src := posOf m
      error := (s.readFor ek act).1 || (loadPay w (s.readFor ek act).2).isNone
      pay := (loadPay w (s.readFor ek act).2).getD [] }, 0, s⟩ :=
  if_neg (not_not_intro hx)

theorem actLoad_hand {w : BitVec 128} {ek act : Nat} {x : CSlot} (m : Nat) (hx : x.cls = .hand) :
    s.actLoad w ek m act x = ⟨{ x with error := true }, 0, s⟩ :=
  if_pos (by simp [hx])

theorem actAdd_read {w : BitVec 128} {ek act : Nat} {x : CSlot} {l p : List Blk} {sat : Bool} {fl : Flags} (hr : s.readFor ek act = (false, l))
    (hm : x.mode = entMode w) (hp : addPay w x.pay l = some (p, sat, fl)) :
    s.actAdd w ek act x = ⟨{ x with pay := p, sat := x.sat || sat, fp := x.fp ||| fl }, 0, s⟩ := by
  simp [State.actAdd, hr, hm, hp]

theorem actAdd_failed {w : BitVec 128} {ek act : Nat} {x : CSlot} {l : List Blk} (hr : s.readFor ek act = (true, l)) :
    s.actAdd w ek act x = ⟨{ x with error := true }, 0, s⟩ := by
  simp [State.actAdd, hr]

/-- A deposit of a sound slot leaves the slot as it is. -/
theorem actDeposit_sound {w : BitVec 128} {st m : Nat} {take : Bool} {x : CSlot} (act id : Nat) (hm : take = true → x.mode = entMode w)
    (hd : entKind w ≠ 3 → s.behindDown st m = false) (hn : notChunk w x.pay = false) (he : x.error = false) :
    s.actDeposit w st m act id take x = ⟨x, (s.deposit w st m act id x.pay).1, (s.deposit w st m act id x.pay).2⟩ := by
  have hbad : ((take && x.mode != entMode w) || (entKind w != 3 && s.behindDown st m) || notChunk w x.pay) = false := by
    simpa [hn] using ⟨hm, hd⟩
  simp only [State.actDeposit, hbad, he, Bool.false_eq_true, if_false]

theorem actDeposit_claimer (w : BitVec 128) (st m act id : Nat) (take : Bool) (x : CSlot) :
    (s.actDeposit w st m act id take x).slot.claimer = x.claimer := by
  unfold State.actDeposit
  dsimp only
  repeat' split
  all_goals rfl

end

/-! ## What a station leaves -/

section
variable (s : State) (st m : Nat)

/-- The act of an operation on the slot now at a station. -/
def State.actNow (op : Nat) : Act :=
  match op with
  | 1 => s.fresh.2.actLoad (s.entryAt st m).word (s.entryKeyAt st m) m (s.entryAt st m).act (s.slotAt st m)
  | 3 => s.fresh.2.actAdd (s.entryAt st m).word (s.entryKeyAt st m) (s.entryAt st m).act (s.slotAt st m)
  | _ => s.fresh.2.actDeposit (s.entryAt st m).word st m (s.entryAt st m).act s.nextId (op == 4) (s.slotAt st m)

/-- What a station leaves of an act: the slot, the entry moved on, and the flag of a raising entry due. -/
def State.leaveAct (op : Nat) (a : Act) : State :=
  let e := s.entryAt st m
  let u := if entReads e.word then a.state.countBuf e.word m e.act else a.state
  let t := u.onConv fun c =>
    { c.putSlot (s.keyNow st m) (if op = 4 then a.slot.emptied else a.slot) with
      tables := mset SEntry.rest c.tables (s.entryKeyAt st m) e.advance }
  if entRaise e.word then
    t.onDie m fun d => { d with flagsDue := d.flagsDue ++ [⟨s.beat + 32, entFlag e.word, s.nextId, raiseBits a.slot a.flags⟩] }
  else t

theorem leaveAct_slot (op : Nat) (a : Act) :
    (s.leaveAct st m op a).conv.slot (s.keyNow st m) = if op = 4 then a.slot.emptied else a.slot := by
  unfold State.leaveAct
  dsimp only
  split <;> simp [Conv.slot, Conv.putSlot]

theorem leaveAct_entry (op : Nat) (a : Act) :
    mget SEntry.rest (s.leaveAct st m op a).conv.tables (s.entryKeyAt st m) = (s.entryAt st m).advance := by
  unfold State.leaveAct
  dsimp only
  split <;> simp

theorem leaveAct_copies (op : Nat) (a : Act) (hr : entReads (s.entryAt st m).word = false) :
    ((s.leaveAct st m op a).dieAt m).copies = (a.state.dieAt m).copies := by
  unfold State.leaveAct
  simp only [hr, Bool.false_eq_true, if_false]
  split <;> simp

theorem leaveAct_stored (op : Nat) (a : Act) (hr : entReads (s.entryAt st m).word = false) :
    (s.leaveAct st m op a).mem = a.state.mem ∧ (s.leaveAct st m op a).accs = a.state.accs := by
  unfold State.leaveAct
  simp only [hr, Bool.false_eq_true, if_false]
  split <;> simp

variable {s st m}

/-- A station whose entry is of an operation acts by it on an empty slot, or on a hand of the entry's handle. -/
theorem station_acts {op : Nat} {i : Instr} (hi : exec i s = .next (s.station st m op)) (hst : st < 16) (hm : m < 24)
    (h0 : op ≠ 0) (hop : entOp (s.entryAt st m).word = op)
    (hx : (s.slotAt st m).cls = .empty ∧ op = 1 ∨ (s.slotAt st m).cls = .hand ∧ (s.slotAt st m).handle = entHandle (s.entryAt st m).word) :
    exec i s = .next (s.leaveAct st m op (s.actNow st m op)) := by
  have hin : ¬(16 ≤ st ∨ 24 ≤ m) := by omega
  have hacts : ¬(entOp (s.entryAt st m).word ≠ op ∨ op = 0 ∨ (s.slotAt st m).cls = .parcels ∨
      ((s.slotAt st m).cls = .empty ∧ op ≠ 1)) := by
    rcases hx with ⟨hx, hl⟩ | ⟨hx, -⟩
    · simp [hop, hx, hl]
    · simp [hop, h0, hx]
  have hown : ¬((s.slotAt st m).cls = .hand ∧ (s.slotAt st m).handle ≠ entHandle (s.entryAt st m).word) := by
    rcases hx with ⟨hx, -⟩ | ⟨-, hx⟩ <;> simp [hx]
  exact hi.trans (congrArg _ ((if_neg hin).trans ((if_neg hacts).trans (if_neg hown))))

/-- A hand of another handle is emptied as stale (R148, R150). -/
theorem station_of_stale {op : Nat} {i : Instr} (hi : exec i s = .next (s.station st m op)) (hst : st < 16) (hm : m < 24)
    (h0 : op ≠ 0) (hop : entOp (s.entryAt st m).word = op)
    (hx : (s.slotAt st m).cls = .hand) (hh : (s.slotAt st m).handle ≠ entHandle (s.entryAt st m).word) :
    exec i s = .next (s.onConv fun c => c.emptyStale (s.keyNow st m) (linkKey m st)) := by
  have hin : ¬(16 ≤ st ∨ 24 ≤ m) := by omega
  have hacts : ¬(entOp (s.entryAt st m).word ≠ op ∨ op = 0 ∨ (s.slotAt st m).cls = .parcels ∨
      ((s.slotAt st m).cls = .empty ∧ op ≠ 1)) := by
    simp [hop, h0, hx]
  exact hi.trans (congrArg _ ((if_neg hin).trans ((if_neg hacts).trans (if_pos ⟨hx, hh⟩))))

theorem actNow_deposit {op : Nat} (ho : op = 2 ∨ op = 4) : s.actNow st m op =
    s.fresh.2.actDeposit (s.entryAt st m).word st m (s.entryAt st m).act s.nextId (op == 4) (s.slotAt st m) := by
  rcases ho with rfl | rfl <;> rfl

/-! ## Loads, adds, copies and takes (R142 to R145) -/

section
variable (hst : st < 16) (hm : m < 24)
include hst hm

/-- A load fills an empty slot as a hand of its handle, with the error bit where its read failed or is not of its mode's shape. -/
theorem load_fills (hop : entOp (s.entryAt st m).word = 1) (hx : (s.slotAt st m).cls = .empty) :
    let w := (s.entryAt st m).word
    let r := s.readFor (s.entryKeyAt st m) (s.entryAt st m).act
    ∃ t : State, exec (.stationLoad st m) s = .next t ∧
      mget SEntry.rest t.conv.tables (s.entryKeyAt st m) = (s.entryAt st m).advance ∧
      t.conv.slot (s.keyNow st m) = { s.slotAt st m with
        cls := .hand, handle := entHandle w, mode := entMode w, src := posOf m, error := r.1 || (loadPay w r.2).isNone
        pay := (loadPay w r.2).getD [] } := by
  refine ⟨_, station_acts rfl hst hm (by decide) hop (.inl ⟨hx, rfl⟩), leaveAct_entry .., ?_⟩
  rw [leaveAct_slot, State.actNow, actLoad_empty _ _ hx]
  rfl

theorem load_fails {l : List Blk} (hop : entOp (s.entryAt st m).word = 1) (hx : (s.slotAt st m).cls = .empty)
    (hr : s.readFor (s.entryKeyAt st m) (s.entryAt st m).act = (true, l)) :
    ∃ t : State, exec (.stationLoad st m) s = .next t ∧ (t.conv.slot (s.keyNow st m)).cls = .hand ∧
      (t.conv.slot (s.keyNow st m)).handle = entHandle (s.entryAt st m).word ∧ (t.conv.slot (s.keyNow st m)).error = true := by
  obtain ⟨t, ht, -, hslot⟩ := load_fills hst hm hop hx
  refine ⟨t, ht, ?_⟩
  rw [hslot, hr]
  exact ⟨rfl, rfl, rfl⟩

theorem load_reads {l p : List Blk} (hop : entOp (s.entryAt st m).word = 1) (hx : (s.slotAt st m).cls = .empty)
    (hr : s.readFor (s.entryKeyAt st m) (s.entryAt st m).act = (false, l)) (hp : loadPay (s.entryAt st m).word l = some p) :
    ∃ t : State, exec (.stationLoad st m) s = .next t ∧
      mget SEntry.rest t.conv.tables (s.entryKeyAt st m) = (s.entryAt st m).advance ∧
      t.conv.slot (s.keyNow st m) = { s.slotAt st m with
        cls := .hand, handle := entHandle (s.entryAt st m).word, mode := entMode (s.entryAt st m).word, src := posOf m, error := false
        pay := p } := by
  obtain ⟨t, ht, hentry, hslot⟩ := load_fills hst hm hop hx
  refine ⟨t, ht, hentry, ?_⟩
  rw [hslot, hr, hp]
  rfl

/-- A load that finds a hand of its handle sets the error bit. -/
theorem load_meets_hand (hop : entOp (s.entryAt st m).word = 1) (hx : (s.slotAt st m).cls = .hand)
    (hh : (s.slotAt st m).handle = entHandle (s.entryAt st m).word) :
    ∃ t : State, exec (.stationLoad st m) s = .next t ∧
      mget SEntry.rest t.conv.tables (s.entryKeyAt st m) = (s.entryAt st m).advance ∧
      t.conv.slot (s.keyNow st m) = { s.slotAt st m with error := true } := by
  refine ⟨_, station_acts rfl hst hm (by decide) hop (.inr ⟨hx, hh⟩), leaveAct_entry .., ?_⟩
  rw [leaveAct_slot, State.actNow, actLoad_hand _ _ hx]
  rfl

/-- An add moves its entry on and leaves the slot that its act gives. -/
theorem add_acts (hop : entOp (s.entryAt st m).word = 3) (hx : (s.slotAt st m).cls = .hand)
    (hh : (s.slotAt st m).handle = entHandle (s.entryAt st m).word) :
    ∃ t : State, exec (.stationAdd st m) s = .next t ∧
      mget SEntry.rest t.conv.tables (s.entryKeyAt st m) = (s.entryAt st m).advance ∧
      t.conv.slot (s.keyNow st m) =
        (s.fresh.2.actAdd (s.entryAt st m).word (s.entryKeyAt st m) (s.entryAt st m).act (s.slotAt st m)).slot :=
  ⟨_, station_acts rfl hst hm (by decide) hop (.inr ⟨hx, hh⟩), leaveAct_entry .., leaveAct_slot ..⟩

theorem add_reads {l p : List Blk} {sat : Bool} {fl : Flags} (hop : entOp (s.entryAt st m).word = 3) (hx : (s.slotAt st m).cls = .hand)
    (hh : (s.slotAt st m).handle = entHandle (s.entryAt st m).word) (hmode : (s.slotAt st m).mode = entMode (s.entryAt st m).word)
    (hr : s.readFor (s.entryKeyAt st m) (s.entryAt st m).act = (false, l))
    (hp : addPay (s.entryAt st m).word (s.slotAt st m).pay l = some (p, sat, fl)) :
    ∃ t : State, exec (.stationAdd st m) s = .next t ∧
      mget SEntry.rest t.conv.tables (s.entryKeyAt st m) = (s.entryAt st m).advance ∧
      t.conv.slot (s.keyNow st m) =
        { s.slotAt st m with pay := p, sat := (s.slotAt st m).sat || sat, fp := (s.slotAt st m).fp ||| fl } := by
  obtain ⟨t, ht, hentry, hslot⟩ := add_acts hst hm hop hx hh
  exact ⟨t, ht, hentry, hslot.trans (congrArg Act.slot (actAdd_read s.fresh.2 hr hmode hp))⟩

theorem add_fails {l : List Blk} (hop : entOp (s.entryAt st m).word = 3) (hx : (s.slotAt st m).cls = .hand)
    (hh : (s.slotAt st m).handle = entHandle (s.entryAt st m).word)
    (hr : s.readFor (s.entryKeyAt st m) (s.entryAt st m).act = (true, l)) :
    ∃ t : State, exec (.stationAdd st m) s = .next t ∧ t.conv.slot (s.keyNow st m) = { s.slotAt st m with error := true } := by
  obtain ⟨t, ht, -, hslot⟩ := add_acts hst hm hop hx hh
  exact ⟨t, ht, hslot.trans (congrArg Act.slot (actAdd_failed s.fresh.2 hr))⟩

/-- A copy of a sound slot to a copy output with room leaves the slot and pushes the payload's first word. -/
theorem copy_pushes (hop : entOp (s.entryAt st m).word = 2) (hx : (s.slotAt st m).cls = .hand)
    (hh : (s.slotAt st m).handle = entHandle (s.entryAt st m).word) (he : (s.slotAt st m).error = false)
    (hk : entKind (s.entryAt st m).word = 3) (hn : notChunk (s.entryAt st m).word (s.slotAt st m).pay = false)
    (hb : (mget none (s.dieAt m).binders st).isSome = true) (hl : (mget [] (s.dieAt m).copies st).length < 16) :
    ∃ t : State, exec (.stationCopy st m) s = .next t ∧ t.conv.slot (s.keyNow st m) = s.slotAt st m ∧
      mget SEntry.rest t.conv.tables (s.entryKeyAt st m) = (s.entryAt st m).advance ∧
      mget [] (t.dieAt m).copies st = mget [] (s.dieAt m).copies st ++ [((s.slotAt st m).pay.headD Blk.zero).word 0] := by
  have hr : entReads (s.entryAt st m).word = false := by simp [entReads, hop]
  have ha : s.actNow st m 2 = _ := (actNow_deposit (.inl rfl)).trans (actDeposit_sound _ _ _ nofun (absurd hk) hn he)
  refine ⟨_, station_acts rfl hst hm (by decide) hop (.inr ⟨hx, hh⟩), ?_, leaveAct_entry .., ?_⟩
  · rw [leaveAct_slot, ha]
    rfl
  · rw [leaveAct_copies _ _ _ _ _ hr, ha, deposit_to_copy s.fresh.2 _ _ _ hk hb hl]
    simp

/-- A take leaves the slot empty but for a claim. -/
theorem take_empties (hop : entOp (s.entryAt st m).word = 4) (hx : (s.slotAt st m).cls = .hand)
    (hh : (s.slotAt st m).handle = entHandle (s.entryAt st m).word) :
    ∃ t : State, exec (.stationTake st m) s = .next t ∧
      t.conv.slot (s.keyNow st m) = { CSlot.rest with claimer := (s.slotAt st m).claimer } ∧
      mget SEntry.rest t.conv.tables (s.entryKeyAt st m) = (s.entryAt st m).advance := by
  refine ⟨_, station_acts rfl hst hm (by decide) hop (.inr ⟨hx, hh⟩), ?_, leaveAct_entry ..⟩
  rw [leaveAct_slot, if_pos rfl, CSlot.emptied, actNow_deposit (.inr rfl), actDeposit_claimer]

/-- A copy or a take of a sound slot to memory sends what it makes to its place, and storage waits for it. -/
theorem station_deposits {op : Nat} {i : Instr} (hi : exec i s = .next (s.station st m op)) (ho : op = 2 ∨ op = 4)
    (hop : entOp (s.entryAt st m).word = op) (hx : (s.slotAt st m).cls = .hand)
    (hh : (s.slotAt st m).handle = entHandle (s.entryAt st m).word) (hmode : (s.slotAt st m).mode = entMode (s.entryAt st m).word)
    (he : (s.slotAt st m).error = false) (hk : entKind (s.entryAt st m).word ≠ 3) (hd : s.behindDown st m = false)
    (hn : notChunk (s.entryAt st m).word (s.slotAt st m).pay = false) :
    let w := (s.entryAt st m).word
    ∃ t : State, exec i s = .next t ∧ t.mem = s.mem ∧ ∀ k b, (takePay w (s.slotAt st m).pay).1[k]? = some b →
      (t.accAt (s.nextId + 1 + k)).map (fun a => (a.loc, a.op, a.stage)) =
        some (entLoc w m (entAddr w (s.entryAt st m).act + 64 * k), .wblk 0 64 b, .queued) := by
  have hr : entReads (s.entryAt st m).word = false := by rcases ho with rfl | rfl <;> simp [entReads, hop]
  have ha := (actNow_deposit ho).trans (actDeposit_sound _ _ _ (fun _ => hmode) (fun _ => hd) hn he)
  obtain ⟨hmem, haccs⟩ := leaveAct_stored s st m op (s.actNow st m op) hr
  obtain ⟨hdmem, hdacc⟩ := deposit_to_memory s.fresh.2 st m (s.entryAt st m).act s.nextId (p := (s.slotAt st m).pay) hk
  refine ⟨_, station_acts hi hst hm (by omega) hop (.inr ⟨hx, hh⟩), ?_, fun k b hb => ?_⟩
  · rw [hmem, ha]
    exact hdmem
  · rw [State.accAt, haccs, ha]
    exact hdacc k b hb

end

/-- A flag that is raised holds one more count and the bits of the act (R146). -/
theorem flag_raise (f : FlagDue) (l : SMap Word) :
    mget 0 ([f].foldl (fun m e => mmod 0 m e.flag fun w => (w + 0x100000000) ||| e.bits) l) f.flag = (mget 0 l f.flag + 0x100000000) ||| f.bits := by
  rw [List.foldl_cons, List.foldl_nil, mget_mmod_same]

/-- The one flag of a die, once due, is raised and waits no more. -/
theorem flags_raised {f : FlagDue} (hf : (s.dieAt m).flagsDue = [f]) (hd : f.due ≤ s.beat) :
    ∃ t : State, exec (.stationFlagRaise m) s = .next t ∧
      mget 0 (t.dieAt m).sflags f.flag = (mget 0 (s.dieAt m).sflags f.flag + 0x100000000) ||| f.bits ∧ (t.dieAt m).flagsDue = [] := by
  have hnow : (s.dieAt m).flagsDue.filter (fun e => decide (e.due ≤ s.beat)) = [f] := by simp [hf, hd]
  have hlater : (s.dieAt m).flagsDue.filter (fun e => !decide (e.due ≤ s.beat)) = [] := by simp [hf, hd]
  refine ⟨_, rfl, ?_⟩
  rw [hnow, dieAt_onDie_same]
  exact ⟨flag_raise f _, hlater⟩

end

/-- A copy or a take is its station's act of that operation. -/
theorem exec_of_deposit {s : State} {st m op : Nat} {i : Instr} (h : (op, i) ∈ [(2, Instr.stationCopy st m), (4, .stationTake st m)]) :
    (op = 2 ∨ op = 4) ∧ exec i s = .next (s.station st m op) := by
  simp only [List.mem_cons, Prod.mk.injEq, List.not_mem_nil, or_false] at h
  rcases h with ⟨rfl, rfl⟩ | ⟨rfl, rfl⟩
  · exact ⟨.inl rfl, rfl⟩
  · exact ⟨.inr rfl, rfl⟩

/-- Each of the four transitions is its station's act of that operation. -/
theorem exec_of_act {s : State} {st m op : Nat} {i : Instr}
    (h : (op, i) ∈ [(1, Instr.stationLoad st m), (2, .stationCopy st m), (3, .stationAdd st m), (4, .stationTake st m)]) :
    op ≠ 0 ∧ exec i s = .next (s.station st m op) := by
  simp only [List.mem_cons, Prod.mk.injEq, List.not_mem_nil, or_false] at h
  rcases h with ⟨rfl, rfl⟩ | ⟨rfl, rfl⟩ | ⟨rfl, rfl⟩ | ⟨rfl, rfl⟩
  all_goals exact ⟨by decide, rfl⟩

/-- Settles O52, transition by transition: the acts of the entry for the slot now at the station, then what every station does. -/
theorem stationsActOnSlots : Obligations.StationsActOnSlots := by
  intro s st m hst hm
  refine ⟨fun hm => ⟨fun hop => ⟨fun _ => load_fails hst hm hop, fun _ _ => load_reads hst hm hop, load_meets_hand hst hm hop⟩,
      fun _ _ _ _ => add_reads hst hm, fun _ => add_fails hst hm, copy_pushes hst hm, take_empties hst hm, fun op i hi => ?_, fun op i hi => ?_,
      fun _ => flags_raised⟩,
    fun _ => hand_takes_effect hst hm, hand_withholds hst hm, fun _ => parcels_board hst hm,
    fun hw ho hc => ⟨claim_watches hst hm hw ho hc, fun _ => claim_claims hst hm hw ho hc⟩,
    fun hx hd hb => ⟨fun hr hn ht => parcels_delivered hst hm hx hd (refusesSlot_room hb hr hn ht),
      fun h => parcels_refused hst hm hx hd hb (refusesSlot_full h)⟩,
    full_slot_returns hst hm, fun _ => ⟨header_passes hst hm, header_loses hst hm⟩, fun _ => quarantine_ends⟩
  · obtain ⟨ho, hexec⟩ := exec_of_deposit hi
    exact station_deposits hst hm hexec ho
  · obtain ⟨h0, hexec⟩ := exec_of_act hi
    exact station_of_stale hexec hst hm h0

end Sys2Proof.Machine

namespace Sys2Proof.Machine

open Sys2Proof Sys2Proof.Safety

/-! ## What storage holds, in canonical form (R66, R70, R100) -/

/-- What storage holds, without the queues, waiters, flags, counters and logs of its points of coherence. -/
def Mem.contents (m : Mem) : Mem :=
  { Mem.rest with
    bytes := m.bytes, tags := m.tags, keys := m.keys, tweaks := m.tweaks, areas := m.areas, bad := m.bad, valid := m.valid
    dirty := m.dirty }

/-- What all storage of the package holds. -/
@[simp] abbrev State.stored (s : State) : Mem := s.mem.contents

/-- What all storage of the package holds is in canonical form. -/
@[simp] abbrev State.sound (s : State) : Prop := Memory.wf s.stored = true

/-- Where an outcome is a next state, its storage is in canonical form. -/
def SoundOut (o : Out) : Prop := ∀ t, o = .next t → t.sound

/-- The canonical form is a matter of what storage holds alone. -/
theorem sound_iff_canonical (s : State) : s.sound ↔ Canonical s := Iff.rfl

@[simp] theorem soundOut_next (t : State) : SoundOut (.next t) ↔ t.sound := ⟨fun h => h t rfl, fun h u e => by cases e; exact h⟩

theorem soundOut_ite {c : Prop} [Decidable c] {a b : Out} (ha : SoundOut a) (hb : SoundOut b) : SoundOut (if c then a else b) := by
  split <;> assumption

@[simp] theorem foldl_mem {α : Type} (f : State → α → State) (l : List α) (s : State) (h : ∀ t a, (f t a).mem = t.mem) :
    (l.foldl f s).mem = s.mem :=
  List.foldlRecOn (motive := fun t => t.mem = s.mem) l f rfl fun t ht a _ => (h t a).trans ht

@[simp] theorem foldl_stored {α : Type} (f : State → α → State) (l : List α) (s : State)
    (h : ∀ t a, (f t a).stored = t.stored) : (l.foldl f s).stored = s.stored :=
  List.foldlRecOn (motive := fun t => t.stored = s.stored) l f rfl fun t ht a _ => (h t a).trans ht

@[simp] theorem foldl_sound {α : Type} (f : State → α → State) (l : List α) (s : State) (hs : s.sound)
    (h : ∀ t a, t.sound → (f t a).sound) : (l.foldl f s).sound :=
  List.foldlRecOn (motive := State.sound) l f hs fun t ht a _ => h t a ht

/-- The queues, waiters, flags, counters and logs are no part of what storage holds. -/
@[simp] theorem contents_of_fields (m : Mem) (fl : SMap (BitVec 5)) (wa ce ba : SMap (List Nat)) (wq : SMap (List WEntry))
    (co un ul : SMap Nat) (ds : SMap Word) (la : SMap Nat) (se : List Nat) :
    (Mem.mk m.bytes m.tags m.keys m.tweaks m.areas m.bad m.valid m.dirty fl wa ce ba wq co un ul ds la se).contents = m.contents :=
  (rfl)

@[simp] theorem patchBlk_sound (m : Mem) (key : BitVec 512) (b k n v : Nat) (h : Memory.wf m.contents = true) :
    Memory.wf (m.patchBlk key b k n v).contents = true := memoryWf_patchBlk m key b k n v h

@[simp] theorem putBlk_sound (m : Mem) (key : BitVec 512) (b : Nat) (x : Blk) (h : Memory.wf m.contents = true) :
    Memory.wf (m.putBlk key b x).contents = true := memoryWf_putBlk m key b x h

/-! Rewriting rules for storage that are not definitional, so that the kernel compares no two states to use one. -/

theorem mem_onMem (s : State) (f : Mem → Mem) : (s.onMem f).mem = f s.mem := (rfl)
theorem mem_onAcc (s : State) (a : Nat) (f : Access → Access) : (s.onAcc a f).mem = s.mem := (rfl)
theorem mem_onTask (s : State) (a : Nat) (f : Task → Task) : (s.onTask a f).mem = s.mem := (rfl)
theorem mem_onCore (s : State) (n : Nat) (f : Core → Core) : (s.onCore n f).mem = s.mem := (rfl)
theorem mem_finish (s : State) (a : Nat) (r : Res) : (s.finish a r).mem = s.mem := (rfl)
theorem mem_onConv (s : State) (f : Conv → Conv) : (s.onConv f).mem = s.mem := (rfl)

/-! ## Draws -/

section
variable (s : State)

@[simp] theorem draw_mem : (s.draw).2.mem = s.mem := rfl

end

/-! ## Counters and records of translation -/

section
variable (s : State)

@[simp] theorem countCorr_stored (l : Loc) : (s.countCorr l).stored = s.stored := rfl

@[simp] theorem countUncorr_stored (l : Loc) : (s.countUncorr l).stored = s.stored := (rfl)

@[simp] theorem countBad_stored (c : BitVec 8) (l : Loc) : (s.countBad c l).stored = s.stored := by
  unfold State.countBad; split <;> rfl

@[simp] theorem noteLookup_stored (o va : Nat) : (s.noteLookup o va).stored = s.stored := by
  unfold State.noteLookup; split <;> rfl

@[simp] theorem noteCause_stored (o va : Nat) (c : BitVec 8) : (s.noteCause o va c).stored = s.stored := by
  unfold State.noteCause; split <;> simp

end

/-! ## Waiters, write-back, service cells and pins -/

section
variable (s : State)

@[simp] theorem logInbound_mem (d : Nat) (a : Access) (cause : BitVec 8) : (s.logInbound d a cause).mem = s.mem := rfl

@[simp] theorem logHost_mem (r : List Word) : (s.logHost r).mem = s.mem := rfl

@[simp] theorem noService_mem (off : Nat) : (s.noService off).mem = s.mem := rfl

@[simp] theorem warnAt_mem (n : Nat) (l : Loc) (w : Nat) : (s.warnAt n l w).mem = s.mem := by
  unfold State.warnAt; repeat' split
  all_goals rfl

@[simp] theorem warnPieces_mem (n : Nat) (l : List (Loc × Nat)) : (s.warnPieces n l).mem = s.mem := by
  induction l with
  | nil => rfl
  | cons e t ih => unfold State.warnPieces; split <;> simp [ih]

@[simp] theorem endWait_stored (a : Nat) (x : Access) (w : Nat) (r : Res) : (s.endWait a x w r).stored = s.stored := by
  unfold State.endWait; split <;> simp

@[simp] theorem wakeOne_stored (wake : Bool) (a : Nat) : (s.wakeOne wake a).stored = s.stored := by
  unfold State.wakeOne; repeat' split
  all_goals simp

@[simp] theorem unpark_stored (poc : Nat) (l : List Nat) : (s.unpark poc l).stored = s.stored := rfl

@[simp] theorem wakeAll_stored (wake : Bool) (l : List Nat) : (s.wakeAll wake l).stored = s.stored := by simp [State.wakeAll]

@[simp] theorem touch_stored (b : Nat) : (s.touch b).stored = s.stored := by
  unfold State.touch; dsimp only
  refine (foldl_stored _ _ _ ?_).trans (by simp)
  exact fun _ _ => rfl

@[simp] theorem wakeAt_stored (l : Loc) (n : Nat) : (s.wakeAt l n).stored = s.stored := by simp [State.wakeAt]

@[simp] theorem answerCell_stored (b : Nat) (r : Access → Res) : (s.answerCell b r).stored = s.stored :=
  foldl_stored _ _ _ fun t a => by split <;> rfl

@[simp] theorem revertCell_sound (b : Nat) (h : s.sound) : (s.revertCell b).sound := by
  unfold State.revertCell; split <;> simp [h]

@[simp] theorem launchEval_mem (a : Access) (b : Blk) : (s.launchEval a b).mem = s.mem := (rfl)

@[simp] theorem cellLoad_sound (n : Nat) (a : Access) (h : s.sound) : (s.cellLoad n a).sound := by
  unfold State.cellLoad; dsimp only; repeat' split
  all_goals simp only [State.sound, State.stored, mem_finish, launchEval_mem, mem_onAcc, mem_onMem, revertCell_sound,
    contents_of_fields, putBlk_sound, h]

@[simp] theorem enterWq_stored (l : Loc) (cls : Nat) (bs : List Nat) : (s.enterWq l cls bs).stored = s.stored := by
  unfold State.enterWq; split <;> rfl

@[simp] theorem devWrite_sound (p n v : Nat) (h : s.sound) : (s.devWrite p n v).sound := by
  unfold State.devWrite; dsimp only; split <;> simp [h]

@[simp] theorem writeArea_sound (key : BitVec 512) (lo n : Nat) (cells : List Host.Cell) (h : s.sound)
    (hc : tableIn 0 (64 * n) cells = true) :
    (s.writeArea key lo n cells).sound := by
  refine foldl_sound _ _ _ (memoryWf_putArea _ key lo n cells h hc) fun t b ht => ?_
  rw [State.sound, touch_stored]; exact ht

@[simp] theorem setPins_sound (pin : Nat) (f : Nat → Nat) (h : s.sound) : (s.setPins pin f).sound := by
  unfold State.setPins; split <;> simp [h]

@[simp] theorem addPins_sound (ps : List Nat) (h : s.sound) : (s.addPins ps).sound :=
  foldl_sound _ _ _ h fun t p ht => setPins_sound t p _ ht

@[simp] theorem dropPins_sound (ps : List Nat) (h : s.sound) : (s.dropPins ps).sound :=
  foldl_sound _ _ _ h fun t p ht => setPins_sound t p _ ht

end

/-! ## Barriers, leases, context slots, traps and the ends of tasks -/

section
variable (s : State)

@[simp] theorem setEntries_mem (n : Nat) (q : Queue) (l : List Word) : (s.setEntries n q l).mem = s.mem := by
  unfold State.setEntries; split <;> rfl

@[simp] theorem passBarrier_mem (n g : Nat) (f : BitVec 6) (pop : Bool) : (s.passBarrier n g f pop).mem = s.mem := by
  unfold State.passBarrier; repeat' split
  all_goals simp

@[simp] theorem passAll_mem (g : Nat) : (s.passAll g).mem = s.mem :=
  foldl_mem _ _ _ fun t e => by repeat' split
                                all_goals simp

@[simp] theorem tryBarrier_mem (g : Nat) : (s.tryBarrier g).mem = s.mem := by
  unfold State.tryBarrier; dsimp only; split <;> simp

@[simp] theorem leaveGroup_mem (t g : Nat) : (s.leaveGroup t g).mem = s.mem := by
  unfold State.leaveGroup; dsimp only; repeat' split
  all_goals simp

@[simp] theorem leaveGroups_mem (t : Nat) : (s.leaveGroups t).mem = s.mem := by
  unfold State.leaveGroups; split <;> simp

@[simp] theorem putVec_sound (n o : Nat) (x : Vec) (h : s.sound) : (s.putVec n o x).sound :=
  foldl_sound _ _ _ h fun t q ht => by simp [ht]

@[simp] theorem landSpill_sound (n k : Nat) (x : Vec) (h : s.sound) : (s.landSpill n k x).sound := by
  unfold State.landSpill; repeat' split
  all_goals simp [h]

@[simp] theorem unlend_mem (l : Lease) : (s.unlend l).mem = s.mem := rfl

@[simp] theorem revokeLease_sound (n : Nat) (h : s.sound) : (s.revokeLease n).sound := by
  unfold State.revokeLease; repeat' split
  · exact h
  · exact h
  · dsimp only
    simp only [State.sound, State.stored, unlend_mem, mem_onCore]
    refine foldl_sound _ _ _ (foldl_sound _ _ _ h fun t a ht => ?_) fun t e ht => putVec_sound t _ _ _ ht
    repeat' split
    all_goals simp [ht]

@[simp] theorem revokeLent_sound (n : Nat) (h : s.sound) : (s.revokeLent n).sound :=
  foldl_sound _ _ _ h fun t m ht => revokeLease_sound t m ht

@[simp] theorem endLease_mem (n : Nat) : (s.endLease n).mem = s.mem := by
  unfold State.endLease; repeat' split
  all_goals rfl

@[simp] theorem pushWake_mem (n q : Nat) (w : Word) : (s.pushWake n q w).mem = s.mem := rfl

@[simp] theorem fireWatches_stored (n : Nat) : (s.fireWatches n).stored = s.stored := by
  refine foldl_stored _ _ _ fun t e => ?_
  dsimp only; repeat' split
  all_goals simp

@[simp] theorem dropCopyOut_mem (die strand : Nat) : (s.dropCopyOut die strand).mem = s.mem := rfl

@[simp] theorem unbindChan_mem (n c : Nat) : (s.unbindChan n c).mem = s.mem := by
  unfold State.unbindChan; split <;> rfl

@[simp] theorem unbindAll_mem (n : Nat) (copiesOnly : Bool) : (s.unbindAll n copiesOnly).mem = s.mem := by
  refine foldl_mem _ _ _ fun t e => ?_
  repeat' split
  all_goals simp

@[simp] theorem unbindBase_mem (n b : Nat) : (s.unbindBase n b).mem = s.mem := rfl

@[simp] theorem dropTiles_sound (n : Nat) (h : s.sound) : (s.dropTiles n).sound := by simp [State.dropTiles, h]

@[simp] theorem unbindBases_sound (n : Nat) (h : s.sound) : (s.unbindBases n).sound := by
  have bases : ((List.range 16).foldl (fun t b => t.unbindBase n b) s).mem = s.mem := foldl_mem _ _ _ fun _ _ => rfl
  exact dropTiles_sound _ n (by simpa [bases] using h)

@[simp] theorem endEval_sound (t : Nat) (h : s.sound) : (s.endEval t).sound := by
  unfold State.endEval; dsimp only; repeat' split
  all_goals simp [h]

@[simp] theorem slipRecord_mem (t how : Nat) : (s.slipRecord t how).mem = s.mem := by
  unfold State.slipRecord; repeat' split
  all_goals rfl

@[simp] theorem gateNow_mem (n : Nat) : (s.gateNow n).mem = s.mem := by
  unfold State.gateNow; split <;> rfl

@[simp] theorem takeSlot_sound (t k : Nat) (h : s.sound) : (s.takeSlot t k).sound := by
  unfold State.takeSlot; split
  · exact h
  · refine writeArea_sound _ _ _ _ _ (writeArea_sound _ _ _ _ _ (writeArea_sound _ _ _ _ _ ?_ ?_) rfl) rfl
    · exact h
    · exact tableIn_cellTable _ _

@[simp] theorem grantSlot_sound (die : Nat) (h : s.sound) : (s.grantSlot die).sound := by
  unfold State.grantSlot; split
  · dsimp only; split <;> simp [h]
  · exact h

@[simp] theorem grantSlots_sound (die n : Nat) (h : s.sound) : (s.grantSlots die n).sound := by
  induction n generalizing s with
  | zero => exact h
  | succ n ih =>
    unfold State.grantSlots; split
    · exact ih _ (grantSlot_sound s die h)
    · exact h

@[simp] theorem freeSlot_sound (t : Nat) (h : s.sound) : (s.freeSlot t).sound := by
  unfold State.freeSlot; repeat' split
  all_goals simp [h]

@[simp] theorem stopEngines_mem (n : Nat) : (s.stopEngines n).mem = s.mem := rfl

@[simp] theorem releaseCore_sound (n : Nat) (h : s.sound) : (s.releaseCore n).sound := by
  unfold State.releaseCore; dsimp only
  refine endEval_sound _ _ ?_
  simp only [State.sound, State.stored, leaveGroups_mem, mem_onCore]
  refine unbindBases_sound _ n ?_
  simp only [State.sound, State.stored, endLease_mem]
  exact revokeLent_sound _ n (by simpa using h)

@[simp] theorem abandonPins_mem (n : Nat) : (s.abandonPins n).mem = s.mem := rfl

@[simp] theorem reapLimbo_sound (h : s.sound) : s.reapLimbo.sound := by
  unfold State.reapLimbo; dsimp only; split
  · exact h
  · exact foldl_sound _ _ _ h fun t e ht => dropPins_sound t _ ht

@[simp] theorem withdrawWait_stored (n : Nat) : (s.withdrawWait n).stored = s.stored := by
  unfold State.withdrawWait; dsimp only; repeat' split
  all_goals simp

@[simp] theorem logTrap_mem (n reason : Nat) (hcause : BitVec 8) (tcause : Word) (report : List Word) :
    (s.logTrap n reason hcause tcause report).mem = s.mem := rfl

@[simp] theorem failTask_sound (n : Nat) (h : s.sound) : (s.failTask n).sound := by
  unfold State.failTask; dsimp only
  refine reapLimbo_sound _ ?_
  simp only [State.sound, State.stored, mem_onCore, setTask_mem, stopEngines_mem]
  refine freeSlot_sound _ _ (releaseCore_sound _ n ?_)
  simpa using h

@[simp] theorem enterTrap_sound (n : Nat) (r : Report) (h : s.sound) : (s.enterTrap n r).sound := by
  unfold State.enterTrap; dsimp only; repeat' split
  all_goals simp [h]

@[simp] theorem trapAt_sound (cause : BitVec 8) (addr : Nat) (h : s.sound) : (s.trapAt cause addr).sound := by
  simp [State.trapAt, h]

@[simp] theorem leaveTrap_sound (n : Nat) (h : s.sound) : (s.leaveTrap n).sound := by
  unfold State.leaveTrap; dsimp only; split <;> simp [h]

end

/-! ## Operands and the issue of the control stream -/

section
variable (s : State)

@[simp] theorem readReg_mem (r : Nat) : (s.readReg r).2.mem = s.mem := by
  unfold State.readReg; repeat' split
  all_goals rfl

@[simp] theorem readSrc_mem (f : BitVec 6) (pop : Bool) : (s.readSrc f pop).2.mem = s.mem := by
  unfold State.readSrc; repeat' split
  all_goals simp

@[simp] theorem setReg_mem (r : Nat) (v : Word) : (s.setReg r v).mem = s.mem := by
  unfold State.setReg; split <;> rfl

@[simp] theorem writeDst_mem (d : BitVec 6) (lat : Nat) (v : Word) : (s.writeDst d lat v).mem = s.mem := by
  unfold State.writeDst; repeat' split
  all_goals simp

@[simp] theorem advance_mem : (s.advance).mem = s.mem := rfl

@[simp] theorem goto_mem (t : Nat) : (s.goto t).mem = s.mem := rfl

@[simp] theorem stalled_mem (ev : Bool) : (s.stalled ev).mem = s.mem := rfl

/-- An instruction leaves storage canonical where its effect, if it issues, does. -/
theorem cIssue_sound (srcs : List Src) (regs : List (BitVec 6)) (dst : Option (BitVec 6)) (k : State → State) (h : s.sound)
    (hk : (k s).sound) : SoundOut (cIssue s srcs regs dst k) := by
  unfold cIssue; repeat' split
  · exact (soundOut_next _).2 (trapAt_sound s _ _ h)
  · exact (soundOut_next _).2 h
  · exact (soundOut_next _).2 hk
  · exact (soundOut_next _).2 (trapAt_sound s _ _ h)

theorem alu2_sound (lat : Nat) (f : Word → Word → Word) (o : RForm) (h : s.sound) : SoundOut (alu2 lat f o s) :=
  cIssue_sound s _ _ _ _ h (by simpa using h)

theorem alu1_sound (lat : Nat) (f : Word → Word) (d a : BitVec 6) (p : Bool) (h : s.sound) : SoundOut (alu1 lat f d a p s) :=
  cIssue_sound s _ _ _ _ h (by simpa using h)

@[simp] theorem readDst_mem (d : BitVec 6) : (s.readDst d).2.mem = s.mem := by
  unfold State.readDst; split <;> simp

end

/-! ## Accesses of the control stream -/

section
variable (s : State)

@[simp] theorem memTrap_sound (e : MemFault) (h : s.sound) : (s.memTrap e).sound := by
  unfold State.memTrap; split <;> simp [h]

@[simp] theorem warn_mem (l : Loc) (w : Nat) : (s.warn l w).mem = s.mem := by simp [State.warn]

@[simp] theorem addHist_mem (n source : Nat) (wher issue : Nat) (ix addr : Nat) :
    (s.addHist n source wher issue ix addr).2.mem = s.mem := rfl

@[simp] theorem markNeg_mem (n h : Nat) (src ix : Nat) (cause : BitVec 8) : (s.markNeg n h src ix cause).mem = s.mem := rfl

@[simp] theorem commitC_mem (a : Access) (posted : Bool) : (s.commitC a posted).2.mem = s.mem := by
  unfold State.commitC; dsimp only; split <;> simp

/-- Reading sources one after another leaves storage alone. -/
theorem foldl_readSrc_mem (l : List Src) (acc : List Word × State) :
    (l.foldl (fun (acc : List Word × State) x => let v := acc.2.readSrc x.1 x.2; (acc.1 ++ [v.1], v.2)) acc).2.mem = acc.2.mem := by
  induction l generalizing acc with
  | nil => rfl
  | cons x l ih => rw [List.foldl_cons, ih]; exact readSrc_mem acc.2 x.1 x.2

/-- An access that issues leaves storage canonical: it only joins its queue. -/
theorem cAccessIssue_sound (srcs : List Src) (regs : List (BitVec 6)) (ds : Option (BitVec 6)) (lq sq posted : Bool)
    (chk : List Word → State → Except MemFault (Loc × Nat × Nat)) (mk : List Word → Loc → State → Access) (h : s.sound) :
    SoundOut (cAccessIssue s srcs regs ds lq sq posted chk mk) := by
  unfold cAccessIssue; split
  · exact (soundOut_next _).2 (trapAt_sound s _ _ h)
  · refine cIssue_sound s _ _ _ _ h ?_
    dsimp only; repeat' split
    all_goals simp [h, foldl_readSrc_mem]

end

/-! ## Fences and regions of the scratchpad -/

section
variable (s : State)

theorem execQalign_sound (h : s.sound) : SoundOut (execQalign s) := by
  refine cIssue_sound s _ _ _ _ h ?_
  simpa using h

/-- A fault that is taken is no longer pending; storage is as before. -/
theorem takePending_mem {v : Cover} {r : Report} {t : State} (ht : s.takePending v = some (r, t)) : t.mem = s.mem := by
  unfold State.takePending at ht; dsimp only at ht
  repeat' split at ht
  all_goals simp only [Option.some.injEq, Prod.mk.injEq, reduceCtorEq] at ht
  all_goals obtain ⟨-, rfl⟩ := ht; rfl

theorem enterTrap_takePending_sound {v : Cover} {r : Report} {t : State} (h : s.sound) (ht : s.takePending v = some (r, t))
    (n : Nat) :
    (t.enterTrap n r).sound :=
  enterTrap_sound t n r (by rwa [State.sound, State.stored, takePending_mem s ht])

theorem execWait_sound (l st c t : BitVec 5) (h : s.sound) : SoundOut (execWait l st c t s) := by
  unfold execWait; repeat' split
  · simpa using h
  · exact (soundOut_next _).2 (enterTrap_takePending_sound s h ‹_› _)
  · exact cIssue_sound s _ _ _ _ h h

/-- A tfence leaves storage canonical where what follows it does. -/
theorem fence_sound (k : State → Out) (h : s.sound) (hk : SoundOut (k s)) : SoundOut (s.fence k) := by
  unfold State.fence; dsimp only; repeat' split
  · simpa using h
  · exact (soundOut_next _).2 (enterTrap_takePending_sound s h ‹_› _)
  · simp [h]
  · exact hk

theorem execTfence_sound (h : s.sound) : SoundOut (execTfence s) := fence_sound s _ h (cIssue_sound s _ _ _ _ h h)

theorem execMfence_sound (m : BitVec 5) (h : s.sound) : SoundOut (execMfence m s) := by
  unfold execMfence; split
  · simpa using h
  · exact cIssue_sound s _ _ _ _ h h

theorem execMjoin_sound (h : s.sound) : SoundOut (execMjoin s) := by
  unfold execMjoin; dsimp only; repeat' split
  · simp [h]
  · simpa using h
  · exact cIssue_sound s _ _ _ _ h h

/-- A new region has its valid bits and tags cleared (R100). -/
@[simp] theorem openRegion_sound (k o n : Nat) (h : s.sound) : (s.openRegion k o n).sound := by
  obtain ⟨h1, h2, h3, h4, h5, h6, h7⟩ := (memoryWf_iff s.mem).1 h
  exact (memoryWf_iff _).2 ⟨h1, mwf_mclear 0 _ _ _ h2, h3, h4, mwf_mclear false _ _ _ h5, h6, h7⟩

@[simp] theorem spalResult_sound (n : Nat) (h : s.sound) : (s.spalResult n).2.sound := by
  unfold State.spalResult; dsimp only; repeat' split
  all_goals simp [h]

theorem execSpal_sound (o : UForm) (h : s.sound) : SoundOut (execSpal o s) := by
  unfold execSpal; split
  · simp [h]
  · refine cIssue_sound s _ _ _ _ h ?_
    dsimp only; split
    · simpa using spalResult_sound (s.readSrc o.a o.p).2 (s.readSrc o.a o.p).1.toNat (by simpa using h)
    · simpa using h

theorem execSpfree_sound (o : OForm) (h : s.sound) : SoundOut (execSpfree o s) := by
  refine cIssue_sound s _ _ _ _ h ?_
  dsimp only; repeat' split
  all_goals simp [h]

end

/-! ## Waits, groups and barriers -/

section
variable (s : State)

@[simp] theorem enterWait_mem (id : Nat) : (s.enterWait id).mem = s.mem := rfl

theorem resumeWait_sound (w : CWait) (k : Word → State → State) (h : s.sound) (hk : ∀ v, (k v s).sound) :
    SoundOut (s.resumeWait w k) := by
  unfold State.resumeWait; repeat' split
  · exact (soundOut_next _).2 (trapAt_sound s _ _ h)
  · exact (soundOut_next _).2 (hk _)
  · exact (soundOut_next _).2 h

@[simp] theorem popSrcs_mem (srcs : List Src) : (s.popSrcs srcs).mem = s.mem :=
  foldl_mem _ _ _ fun t x => by split <;> simp

theorem doWaddr_sound (w : Nat) (o : RForm) (h : s.sound) : SoundOut (doWaddr w o s) := by
  unfold doWaddr; repeat' split
  · exact cIssue_sound s _ _ _ _ h (trapAt_sound s _ _ h)
  · exact cAccessIssue_sound s _ _ _ _ _ _ _ _ h
  · simp [h]
  · exact resumeWait_sound s _ _ h fun v => by simpa using h
  · refine cIssue_sound s _ _ _ _ h ?_
    dsimp only; repeat' split
    all_goals simp [h]

theorem execSqwait_sound (o : SForm) (h : s.sound) : SoundOut (execSqwait o s) := by
  unfold execSqwait; split
  · exact resumeWait_sound s _ _ h fun v => by simpa using h
  · refine cIssue_sound s _ _ _ _ h ?_
    dsimp only; repeat' split
    all_goals simp [h]

@[simp] theorem holdSwait_mem : (s.holdSwait).mem = s.mem := rfl

theorem execSwait_sound (o : SForm) (h : s.sound) : SoundOut (execSwait o s) := by
  refine cIssue_sound s _ _ _ _ h ?_
  dsimp only; repeat' split
  all_goals simp [h]

@[simp] theorem join_mem (t : Nat) (a : Word) : (s.join t a).2.mem = s.mem := by
  unfold State.join; dsimp only; repeat' split
  all_goals simp

theorem execGjoin_sound (o : UForm) (h : s.sound) : SoundOut (execGjoin o s) := by
  refine cIssue_sound s _ _ _ _ h ?_
  simpa using h

theorem execGleave_sound (o : OForm) (h : s.sound) : SoundOut (execGleave o s) := by
  refine cIssue_sound s _ _ _ _ h ?_
  dsimp only; split <;> simpa using h

@[simp] theorem atBarrier_mem (g : Nat) (o : OForm) : (s.atBarrier g o).mem = s.mem := rfl

theorem execGbar_sound (o : OForm) (h : s.sound) : SoundOut (execGbar o s) := by
  refine cIssue_sound s _ _ _ _ h ?_
  dsimp only; repeat' split
  · simp [h]
  · simpa using h
  · simpa using h
  · simpa using h
  · exact enterTrap_takePending_sound s h ‹_› _
  · simpa using h

end

/-! ## Control registers, engines and the control of tasks -/

section
variable (s : State)

@[simp] theorem badCsr_mem : (s.badCsr).mem = s.mem := rfl

@[simp] theorem writeVlend_sound (v : BitVec 16) (h : s.sound) : (s.writeVlend v).sound := by
  unfold State.writeVlend; split
  · exact h
  · refine foldl_sound _ _ _ h fun t m ht => ?_
    repeat' split
    all_goals simp [ht]

@[simp] theorem csrPut_sound (n : Nat) (v sets clears : Word) (h : s.sound) : (s.csrPut n v sets clears).sound := by
  unfold State.csrPut; dsimp only; repeat' split
  all_goals simp [h]

theorem execCsrr_sound (d : BitVec 6) (n : BitVec 7) (h : s.sound) : SoundOut (execCsrr d n s) := by
  refine cIssue_sound s _ _ _ _ h ?_
  simpa using h

theorem doCsr_sound (f : Word → Word → Word) (g k : Word → Word) (o : KForm) (h : s.sound) : SoundOut (doCsr f g k o s) := by
  unfold doCsr; dsimp only; repeat' split
  · simp [h]
  · simp [h]
  · refine cIssue_sound s _ _ _ _ h ?_
    simp [h]

theorem execFork_sound (o : SForm) (m : BitVec 5) (h : s.sound) : SoundOut (execFork o m s) := by
  unfold execFork; repeat' split
  · simp [h]
  · simp [h]
  · refine cIssue_sound s _ _ _ _ h ?_
    dsimp only; split <;> simp [h]

theorem execRdv_sound (m : BitVec 5) (h : s.sound) : SoundOut (execRdv m s) := by
  unfold execRdv; dsimp only; repeat' split
  · simpa using h
  · simp [h]
  · exact cIssue_sound s _ _ _ _ h h

theorem execEstop_sound (m : BitVec 5) (h : s.sound) : SoundOut (execEstop m s) := by
  unfold execEstop; dsimp only; repeat' split
  · simp [h]
  · simpa using h
  · exact cIssue_sound _ _ _ _ _ h h

theorem execEbase_sound (o : OForm) (m : BitVec 5) (h : s.sound) : SoundOut (execEbase o m s) := by
  unfold execEbase; split
  · refine cIssue_sound s _ _ _ _ h ?_
    dsimp only; repeat' split
    all_goals simp [h]
  · simp [h]

@[simp] theorem drainTask_sound (h : s.sound) : (s.drainTask).sound := by simp [State.drainTask, h]

theorem execHalt_sound (h : s.sound) : SoundOut (execHalt s) := by
  unfold execHalt; repeat' split
  · simpa using h
  · simp [h]
  · refine fence_sound s _ h ?_
    split <;> simp [h]

@[simp] theorem tailTask_sound (h : s.sound) : (s.tailTask).sound := by simp [State.tailTask, h]

theorem execTail_sound (h : s.sound) : SoundOut (execTail s) := by
  unfold execTail; dsimp only; repeat' split
  · simpa using h
  · simp [h]
  · simpa using h
  · exact (soundOut_next _).2 (enterTrap_takePending_sound s h ‹_› _)
  · simp [h]
  · simpa using h
  · simp [h]

@[simp] theorem beginSave_mem (n : Nat) (mask : BitVec 8) : (s.beginSave n mask).mem = s.mem := rfl

theorem execPpoint_sound (m : BitVec 8) (h : s.sound) : SoundOut (execPpoint m s) := by
  refine cIssue_sound s _ _ _ _ h ?_
  split
  all_goals simp [h]

@[simp] theorem execSysc_sound (c : BitVec 20) (h : s.sound) : SoundOut (execSysc c s) := by
  unfold execSysc; split <;> simp [h]

@[simp] theorem execBrk_sound (c : BitVec 20) (h : s.sound) : SoundOut (execBrk c s) := by simp [execBrk, h]

@[simp] theorem execEret_sound (h : s.sound) : SoundOut (execEret s) := by
  unfold execEret; repeat' split
  all_goals simp [h]

end

/-! ## Posts, leases and moves between tiles -/

section
variable (s : State)

@[simp] theorem badOperand_sound (h : s.sound) : (s.badOperand).sound := by simp [State.badOperand, h]

@[simp] theorem countFound_stored (ls : List Loc) : (s.countFound ls).stored = s.stored := by
  unfold State.countFound; split <;> simp

theorem execPost_sound (o : UForm) (h : s.sound) : SoundOut (execPost o s) := by
  unfold execPost; split
  · simp [h]
  · refine cIssue_sound s _ _ _ _ h ?_
    dsimp only; repeat' split
    all_goals simp [h]

theorem execSfwait_sound (o : RForm) (h : s.sound) : SoundOut (execSfwait o s) := by
  refine cIssue_sound s _ _ _ _ h ?_
  dsimp only; repeat' split
  all_goals simp [h]

theorem execBemsg_sound (o : RForm) (h : s.sound) : SoundOut (execBemsg o s) := by
  unfold execBemsg; repeat' split
  · simp [h]
  · refine cIssue_sound s _ _ _ _ h ?_
    dsimp only; repeat' split
    all_goals simp [h]

theorem execFdown_sound (o : RForm) (h : s.sound) : SoundOut (execFdown o s) := by
  unfold execFdown; repeat' split
  · simp [h]
  · simp [h]
  · refine cIssue_sound s _ _ _ _ h ?_
    dsimp only; repeat' split
    all_goals simp [h]

theorem execFup_sound (o : RForm) (h : s.sound) : SoundOut (execFup o s) := by
  unfold execFup; repeat' split
  · simp [h]
  · simp [h]
  · refine cIssue_sound s _ _ _ _ h ?_
    dsimp only; repeat' split
    all_goals simp [h]

@[simp] theorem leaseResult_mem (a b : Word) : (s.leaseResult a b).2.mem = s.mem := by
  unfold State.leaseResult; dsimp only; repeat' split
  all_goals simp

theorem execLease_sound (o : RForm) (h : s.sound) : SoundOut (execLease o s) := by
  unfold execLease; repeat' split
  · simp [h]
  · refine cIssue_sound s _ _ _ _ h ?_
    simpa using h

theorem execSpill_sound (o : VForm) (h : s.sound) : SoundOut (execSpill o s) := by
  unfold execSpill; repeat' split
  · simp [h]
  · refine cIssue_sound s _ _ _ _ h ?_
    dsimp only; repeat' split
    all_goals simp [h]

theorem execFill_sound (o : VForm) (h : s.sound) : SoundOut (execFill o s) := by
  unfold execFill; repeat' split
  · simp [h]
  · refine cIssue_sound s _ _ _ _ h ?_
    dsimp only; repeat' split
    all_goals simp [h]

theorem execUnlease_sound (o : OForm) (h : s.sound) : SoundOut (execUnlease o s) := by
  unfold execUnlease; repeat' split
  · simp [h]
  · refine cIssue_sound s _ _ _ _ h ?_
    dsimp only; repeat' split
    all_goals simp [h]

end

/-! ## The dealer of the conveyor -/

section
variable (s : State)

@[simp] theorem warnRec_mem (ea n : Nat) : (s.warnRec ea n).mem = s.mem := by simp [State.warnRec]

/-- The lookup of the record's pieces gets a name before the cases: the kernel must not run it to compare two goals. -/
theorem execDeal_sound (o : UForm) (h : s.sound) : SoundOut (execDeal o s) := by
  unfold execDeal; split
  · simp [h]
  · refine cIssue_sound s _ _ _ _ h ((soundOut_next _).1 ?_)
    obtain ⟨found, hf⟩ : ∃ f, f = State.localPieces s := ⟨_, rfl⟩
    rw [← hf]; dsimp only; repeat' split
    all_goals simp only [soundOut_next, State.sound, State.stored, memTrap_sound, advance_mem, writeDst_mem, mem_onConv,
      warnRec_mem, readSrc_mem, h]

theorem execUndeal_sound (o : RForm) (h : s.sound) : SoundOut (execUndeal o s) := by
  unfold execUndeal; repeat' split
  · simp [h]
  · refine cIssue_sound s _ _ _ _ h ?_
    dsimp only; repeat' split
    all_goals simp [h]

theorem execStset_sound (o : RForm) (h : s.sound) : SoundOut (execStset o s) := by
  unfold execStset; repeat' split
  · simp [h]
  · refine cIssue_sound s _ _ _ _ h ?_
    dsimp only; repeat' split
    all_goals simp only [State.sound, State.stored, memTrap_sound, advance_mem, writeDst_mem, mem_onConv, warnRec_mem, readSrc_mem, h]

theorem execStclr_sound (o : UForm) (h : s.sound) : SoundOut (execStclr o s) := by
  unfold execStclr; repeat' split
  · simp [h]
  · refine cIssue_sound s _ _ _ _ h ?_
    dsimp only; repeat' split
    all_goals simp only [State.sound, State.stored, memTrap_sound, advance_mem, writeDst_mem, mem_onConv, warnRec_mem, readSrc_mem, h]

theorem execHand_sound (o : UForm) (h : s.sound) : SoundOut (execHand o s) := by
  refine cIssue_sound s _ _ _ _ h ?_
  dsimp only; repeat' split
  all_goals simp [h]

end

/-! ## Circuits and tile bases -/

section
variable (s : State)

theorem execCtab_sound (o : UForm) (h : s.sound) : SoundOut (execCtab o s) := by
  unfold execCtab; repeat' split
  · simp [h]
  · simp [h]
  · refine cIssue_sound s _ _ _ _ h ?_
    dsimp only; repeat' split
    all_goals simp [h]

theorem execRcirc_sound (o : UForm) (h : s.sound) : SoundOut (execRcirc o s) := by
  unfold execRcirc; repeat' split
  · simp [h]
  · simp [h]
  · refine cIssue_sound s _ _ _ _ h ?_
    dsimp only; repeat' split
    all_goals simp [h]

theorem execCgen_sound (o : UForm) (h : s.sound) : SoundOut (execCgen o s) := by
  unfold execCgen; repeat' split
  · simp [h]
  · refine cIssue_sound s _ _ _ _ h ?_
    dsimp only; repeat' split
    all_goals simp [h]

@[simp] theorem bindBase_sound (n k : Nat) (b : Base) (pins : List Nat) (h : s.sound) : (s.bindBase n k b pins).sound := by
  simp [State.bindBase, h]

theorem execTbind_sound (n : BitVec 4) (r : BitVec 2) (o : SForm) (h : s.sound) : SoundOut (execTbind n r o s) := by
  refine cIssue_sound s _ _ _ _ h ?_
  dsimp only; repeat' split
  all_goals simp [h]

theorem execTunbind_sound (n : BitVec 4) (h : s.sound) : SoundOut (execTunbind n s) := by
  refine cIssue_sound s _ _ _ _ h ?_
  simpa using h

end

/-! ## Accesses performed at their points of coherence -/

section
variable (s : State)

@[simp] theorem putSync_sound (n o target count gen fl : Nat) (h : s.sound) : (s.putSync n o target count gen fl).sound := by
  unfold State.putSync; dsimp only; split <;> simp [h]

@[simp] theorem syncArrive_sound (c o n : Nat) (h : s.sound) : (s.syncArrive c o n).sound := by
  simp only [State.syncArrive]; split
  all_goals simp only [State.sound, State.stored, putSync_sound, h]

@[simp] theorem syncFail_sound (c o : Nat) (h : s.sound) : (s.syncFail c o).sound := by simp [State.syncFail, h]

@[simp] theorem refuse_sound (id : Nat) (a : Access) (cause : BitVec 8) (h : s.sound) : (s.refuse id a cause).sound := by
  unfold State.refuse; split <;> simp [h]

@[simp] theorem unitFlags_stored (id poc : Nat) (fl : Flags) : (s.unitFlags id poc fl).stored = s.stored := by
  unfold State.unitFlags; split <;> rfl

@[simp] theorem uninit_mem (a : Access) (w : Nat) : (s.uninit a w).2.mem = s.mem := by
  unfold State.uninit; dsimp only; repeat' split
  all_goals simp

/-- A read leaves storage canonical where what it does with the block read does. -/
@[simp] theorem readAt_sound (id : Nat) (a : Access) (w : Nat) (cell : Bool) (k : Blk → State → State) (h : s.sound)
    (hk : ∀ x t, t.sound → (k x t).sound) : (s.readAt id a w cell k).sound := by
  unfold State.readAt; dsimp only; repeat' split
  all_goals simp_all

@[simp] theorem waitAt_stored (id : Nat) (a : Access) (w : Nat) (sx : Bool) (b : Word) (watch : Bool) (x : Blk) :
    (s.waitAt id a w sx b watch x).stored = s.stored := by
  unfold State.waitAt; dsimp only; split <;> rfl

/-- A write leaves storage canonical where what it does, when it is not refused, does. -/
@[simp] theorem modify_sound (id : Nat) (a : Access) (n : Nat) (tagged : Bool) (k : State → State) (h : s.sound)
    (hk : ∀ t, t.sound → (k t).sound) : (s.modify id a n tagged k).sound := by
  unfold State.modify; split <;> simp_all

@[simp] theorem putWord_sound (a : Access) (w v : Nat) (h : s.sound) : (s.putWord a w v).sound := by
  simp [State.putWord, h]

@[simp] theorem landBlk_sound (a : Access) (lo n : Nat) (x : Blk) (h : s.sound) : (s.landBlk a lo n x).sound := by
  unfold State.landBlk; split <;> simp [h]

@[simp] theorem fillAt_stored (id : Nat) (a : Access) : (s.fillAt id a).stored = s.stored := by
  unfold State.fillAt; dsimp only; repeat' split
  all_goals simp only [State.stored, mem_finish, countBad_stored, warnPieces_mem]

@[simp] theorem performHere_sound (id : Nat) (h : s.sound) : (s.performHere id).sound := by
  simp only [State.performHere]
  split
  · exact h
  · rename_i a _
    cases a.op with
    | sqwait t => exact readAt_sound s id a _ _ _ h fun x t ht => by split <;> simp [ht]
    | cas w sx v c => exact modify_sound s id a _ _ _ h fun t ht => by split <;> simp [ht]
    | red op x => exact modify_sound s id a _ _ _ h fun t ht => by split <;> simp [ht]
    | redChunk c =>
      dsimp only; repeat' split
      all_goals simp_all
    | _ =>
      dsimp only; repeat' split
      all_goals simp_all

/-- Tweaks told from another block's number leave the tables canonical. -/
@[simp] theorem retweak_sound (m : Mem) (b t u : Nat) (h : Memory.wf m.contents = true) :
    Memory.wf (m.retweak b t u).contents = true := by
  rw [memoryWf_iff] at h ⊢
  simp only [Mem.contents, Mem.retweak] at h ⊢
  obtain ⟨h1, h2, h3, h4, h5, h6, h7⟩ := h
  exact ⟨h1, h2, h3, h4, h5, h6,
    List.foldlRecOn (motive := fun l => mwf none l = true) _ _ h7 fun l hl i _ => mwf_mset none l _ _ hl⟩

@[simp] theorem performAt_sound (id : Nat) (h : s.sound) : (s.performAt id).sound := by
  unfold State.performAt; repeat' split
  · exact retweak_sound _ _ _ _ (performHere_sound _ id (retweak_sound _ _ _ _ h))
  · simp [h]
  · exact h

@[simp] theorem noteLanding_stored (n o k : Nat) : (s.noteLanding n o k).stored = s.stored := rfl

@[simp] theorem countArrivals_sound (h : s.sound) : s.countArrivals.sound := by
  have start : (s.onMem fun m => { m with landed := [] }).sound := by simpa using h
  rw [State.countArrivals]
  generalize s.onMem _ = t at start ⊢
  induction s.mem.landed generalizing t with
  | nil => exact start
  | cons e l ih => rw [List.foldl_cons]; exact ih _ (syncArrive_sound t _ _ _ start)

@[simp] theorem countLanding_stored (id : Nat) : (s.countLanding id).stored = s.stored := by
  unfold State.countLanding; repeat' split
  all_goals rfl

@[simp] theorem refusePeer_stored (a : Access) (cause : BitVec 8) : (s.refusePeer a cause).stored = s.stored := by
  simp [State.refusePeer]

@[simp] theorem failEnq_sound (f : EnqueueFlit) (h : s.sound) : (s.failEnq f).sound := by
  unfold State.failEnq; repeat' split
  all_goals simp [h]

@[simp] theorem recordRefusal_stored (a : Access) (c : BitVec 8) : (s.recordRefusal a c).stored = s.stored := by
  unfold State.recordRefusal; split <;> simp

@[simp] theorem setOut_mem (l : List Access) : (s.setOut l).mem = s.mem := by
  induction l generalizing s with
  | nil => rfl
  | cons a t ih => simp [State.setOut, ih]

@[simp] theorem noteLaunch_mem (f : EnqueueFlit) : (s.noteLaunch f).mem = s.mem := by
  unfold State.noteLaunch; dsimp only; repeat' split
  all_goals simp

@[simp] theorem performEnq_sound (id : Nat) (a : Access) (f : EnqueueFlit) (h : s.sound) : (s.performEnq id a f).sound := by
  unfold State.performEnq; repeat' split
  all_goals simp [h]

@[simp] theorem enqNext_mem (id : Nat) : (s.enqNext id).mem = s.mem := by
  unfold State.enqNext; dsimp only; repeat' split
  all_goals simp

@[simp] theorem perform_sound (id : Nat) (h : s.sound) : (s.perform id).sound := by
  unfold State.perform; repeat' split
  all_goals simp [h]

@[simp] theorem execHomeSliceOperation_sound (id : Nat) (h : s.sound) : SoundOut (execHomeSliceOperation id s) := by
  unfold execHomeSliceOperation; repeat' split
  all_goals simp [h]

@[simp] theorem execHomeSliceLoad_sound (id : Nat) (h : s.sound) : SoundOut (execHomeSliceLoad id s) := by
  unfold execHomeSliceLoad; repeat' split
  all_goals simp [h]

@[simp] theorem execWriteBack_sound (slice : Nat) (h : s.sound) : SoundOut (execWriteBack slice s) := by simp [execWriteBack, h]

@[simp] theorem execBankOperation_sound (die bank : Nat) (h : s.sound) : SoundOut (execBankOperation die bank s) := by
  unfold execBankOperation; dsimp only; repeat' split
  all_goals simp [h]

end

/-! ## Links between dies -/

section
variable (s : State)

@[simp] theorem linkFail_mem (id : Nat) : (s.linkFail id).mem = s.mem := rfl

@[simp] theorem dropUnit_mem (a : FUnit) : (s.dropUnit a).mem = s.mem := by
  unfold State.dropUnit; split <;> rfl

@[simp] theorem enterModule_mem (k : Nat) (up : Bool) (us : List FUnit) : (s.enterModule k up us).mem = s.mem := by
  unfold State.enterModule; split <;> simp

@[simp] theorem handOn_mem (mort : Nat) (up : Bool) (u : FUnit) : (s.handOn mort up u).mem = s.mem := by
  unfold State.handOn; repeat' split
  all_goals rfl

@[simp] theorem execUcieFlitReceived_sound (mort strand : Nat) (up crcOk : Bool) (h : s.sound) :
    SoundOut (execUcieFlitReceived mort strand up crcOk s) := by
  unfold execUcieFlitReceived; dsimp only; repeat' split
  all_goals simp [h]

@[simp] theorem execRetryTimeout_sound (mort strand : Nat) (up : Bool) (h : s.sound) :
    SoundOut (execRetryTimeout mort strand up s) := by
  unfold execRetryTimeout; dsimp only; split <;> simp [h]

@[simp] theorem execModuleRetrainRequest_sound (mort strand : Nat) (h : s.sound) :
    SoundOut (execModuleRetrainRequest mort strand s) := by
  unfold execModuleRetrainRequest; split <;> simp [h]

@[simp] theorem execModuleRetrainEnd_sound (mort strand : Nat) (lo hi : Bool) (h : s.sound) :
    SoundOut (execModuleRetrainEnd mort strand lo hi s) := by
  unfold execModuleRetrainEnd; dsimp only; repeat' split
  all_goals simp [h]

@[simp] theorem execModuleWindowBoundary_sound (mort strand : Nat) (h : s.sound) :
    SoundOut (execModuleWindowBoundary mort strand s) := by
  unfold execModuleWindowBoundary; dsimp only; split <;> simp [h]

end

/-! ## Micro-orders -/

section
variable (s : State)

@[simp] theorem onEng_mem (f : Eng → Eng) : (s.onEng f).mem = s.mem := rfl

@[simp] theorem stopHere_stored (f : EngFault) : (s.stopHere f).stored = s.stored := by simp [State.stopHere]

@[simp] theorem stepOn_mem : (s.stepOn).mem = s.mem := by
  unfold State.stepOn; split <;> rfl

/-- A micro-order leaves storage canonical where its effect does. -/
theorem moIssue_sound (k : BitVec 4) (tok : Nat) (ask : State → Ask) (eff : State → State) (h : s.sound)
    (he : ∀ t, t.sound → (eff t).sound) : SoundOut (moIssue k tok ask eff s) := by
  unfold moIssue; dsimp only; repeat' split
  · simpa using h
  · simpa using h
  · simpa using h
  · have ht : (s.onHere fun c => (c.takePrefix s.turn.stream).takePops s.turn.stream k).sound := h
    simpa using he _ ht

@[simp] theorem addJob_mem (j : Job) : (s.addJob j).mem = s.mem := rfl

@[simp] theorem onJob_mem (n id : Nat) (f : Job → Job) : (s.onJob n id f).mem = s.mem := rfl

@[simp] theorem dropJob_mem (n id : Nat) : (s.dropJob n id).mem = s.mem := rfl

@[simp] theorem endJob_mem (n : Nat) (j : Job) : (s.endJob n j).mem = s.mem := by
  unfold State.endJob; dsimp only; split <;> simp

@[simp] theorem addAcc_mem (a : Access) : (s.addAcc a).mem = s.mem := rfl

@[simp] theorem execTok_sound (a b c : BitVec 6) (h : s.sound) : SoundOut (execTok a b c s) := by
  unfold execTok; repeat' split
  all_goals simp [h]

@[simp] theorem execRloop_sound (t : BitVec 13) (lev : Bool) (n : BitVec 12) (h : s.sound) : SoundOut (execRloop t lev n s) := by
  unfold execRloop; dsimp only; split <;> simp [h]

@[simp] theorem execTableEnd_sound (h : s.sound) : SoundOut (execTableEnd s) := by
  unfold execTableEnd; split <;> simp [h]

@[simp] theorem reapBases_sound (n : Nat) (h : s.sound) : (s.reapBases n).sound := by
  unfold State.reapBases; extract_lets c free t
  have ht : t.sound := foldl_sound _ _ _ h fun t b ht => dropPins_sound t _ ht
  split
  · exact ht
  · exact ht

end

/-! ## L and S micro-orders -/

section
variable (s : State)

@[simp] theorem pick_mem {α : Type} (old : α) (new : Option α) : (s.pick old new).2.mem = s.mem := by
  unfold State.pick; split <;> rfl

@[simp] theorem aReg_mem (r : Nat) : (s.aReg r).2.mem = s.mem := by simp [State.aReg]

@[simp] theorem readIssue_mem (t : BitVec 4) (k off nb : Nat) (w : Work) : (s.readIssue t k off nb w).mem = s.mem := by
  unfold State.readIssue; dsimp only; split
  · rfl
  · refine (foldl_mem _ _ _ ?_).trans rfl
    exact fun t e => rfl

theorem execLglob_sound (o : GForm) (h : s.sound) : SoundOut (execLglob o s) :=
  moIssue_sound s _ _ _ _ h fun t ht => by simpa using ht

theorem execLbc_sound (o : GForm) (h : s.sound) : SoundOut (execLbc o s) :=
  moIssue_sound s _ _ _ _ h fun t ht => by simpa using ht

theorem execLnest_sound (n b : BitVec 4) (o : BitVec 14) (k : BitVec 4) (h : s.sound) : SoundOut (execLnest n b o k s) :=
  moIssue_sound s _ _ _ _ h fun t ht => by simpa using ht

theorem execLport_sound (p : BitVec 3) (n : BitVec 4) (c : Bool) (k : BitVec 4) (h : s.sound) : SoundOut (execLport p n c k s) :=
  moIssue_sound s _ _ _ _ h fun t ht => by simpa using ht

@[simp] theorem walkFault_mem (n : Nat) (e : Stream) (f : EngFault) (step : BitVec 13) : (s.walkFault n e f step).mem = s.mem := rfl

theorem execPortWalkFetch_sound (n p : Nat) (h : s.sound) : SoundOut (execPortWalkFetch n p s) := by
  unfold execPortWalkFetch; dsimp only; repeat' split
  · exact (soundOut_next _).2 h
  · simpa using h
  · simp [h]
  · refine (soundOut_next _).2 ?_
    rw [State.sound, State.stored, foldl_mem _ _ _ fun t e => addAcc_mem t _]; exact h

@[simp] theorem writeVec_mem (n : Nat) (mk : Nat → State → Job) (va : Nat) (b : Base) (step : BitVec 13) (x : Vec) :
    (s.writeVec n mk va b step x).mem = s.mem := by
  unfold State.writeVec; dsimp only
  refine (foldl_mem _ _ _ ?_).trans rfl
  exact fun t e => rfl

theorem execSglob_sound (o : GForm) (h : s.sound) : SoundOut (execSglob o s) := by
  refine moIssue_sound s _ _ _ _ h fun t ht => ?_
  dsimp only; split
  · exact ht
  · simpa using ht

theorem execSport_sound (p : BitVec 3) (n k : BitVec 4) (h : s.sound) : SoundOut (execSport p n k s) :=
  moIssue_sound s _ _ _ _ h fun t ht => by simpa using ht

@[simp] theorem execPortDrain_sound (n p : Nat) (h : s.sound) : SoundOut (execPortDrain n p s) := by
  unfold execPortDrain; dsimp only; repeat' split
  all_goals simp [h]

@[simp] theorem dropAccs_mem (n id : Nat) : (s.dropAccs n id).mem = s.mem := rfl

@[simp] theorem loadFault_mem (n : Nat) (j : Job) (cause : BitVec 8) (va : Nat) : (s.loadFault n j cause va).mem = s.mem := by
  unfold State.loadFault; dsimp only; repeat' split
  all_goals simp

@[simp] theorem lEnd_mem (n : Nat) (j : Job) : (s.lEnd n j).mem = s.mem := by
  unfold State.lEnd; dsimp only; repeat' split
  all_goals simp

end

/-! ## A micro-orders -/

section
variable (s : State)

@[simp] theorem aGuard_mem (g : Nat) : (s.aGuard g).2.mem = s.mem := by
  unfold State.aGuard; split <;> simp

@[simp] theorem aQs_mem : (s.aQs).2.mem = s.mem := by simp [State.aQs]

@[simp] theorem takeSrc_mem (c : ASrc) : (s.takeSrc c).2.mem = s.mem := by
  unfold State.takeSrc; split <;> simp

@[simp] theorem takeSrcs_mem (l : List ASrc) : (s.takeSrcs l).2.mem = s.mem := by
  induction l generalizing s with
  | nil => rfl
  | cons c t ih => simp [State.takeSrcs, ih]

@[simp] theorem guardOn_mem (g : BitVec 3) (sense : Bool) : (s.guardOn g sense).2.mem = s.mem := by
  unfold State.guardOn; split <;> simp

@[simp] theorem aInputs_mem (srcs : List ASrc) (u : AUse) : (s.aInputs srcs u).2.2.2.mem = s.mem := by
  unfold State.aInputs; dsimp only; split <;> simp

@[simp] theorem aEffect_mem (d m : Nat) (g : BitVec 3) (sense : Bool) (k : BitVec 4) (lat : Nat) (srcs : List ASrc) (u : AUse)
    (run : List Opnd → Qs → Nat → AMake) : (s.aEffect d m g sense k lat srcs u run).mem = s.mem := by
  unfold State.aEffect; dsimp only; repeat' split
  all_goals simp

theorem aIssue_sound (d m : Nat) (g : BitVec 3) (sense : Bool) (k : BitVec 4) (lat : Nat) (srcs : List ASrc) (u : AUse)
    (gw : Option Nat) (run : List Opnd → Qs → Nat → AMake) (h : s.sound) :
    SoundOut (aIssue d m g sense k lat srcs u gw run s) :=
  moIssue_sound s _ _ _ _ h fun t ht => by simpa using ht

/-- An A micro-order of the table leaves storage canonical. -/
theorem vectorForm_sound {i : Instr} {f : VecForm} (hf : vectorForm s i = some f) (h : s.sound) : SoundOut (exec i s) := by
  rw [vectorForm_issue s i f hf]; exact aIssue_sound s _ _ _ _ _ _ _ _ _ _ h

/-- A scalar access of the table leaves storage canonical. -/
theorem scalarAccess_sound {i : Instr} {f : AccForm} (hf : scalarAccess i = some f) (h : s.sound) : SoundOut (exec i s) := by
  rw [scalarAccess_form i f hf]; exact cAccessIssue_sound s _ _ _ _ _ _ _ _ h

theorem execGop_sound (op : BitVec 2) (w x y k : BitVec 4) (h : s.sound) : SoundOut (execGop op w x y k s) := by
  unfold execGop
  refine moIssue_sound s _ _ _ _ h fun t ht => ?_
  dsimp only; split <;> simpa using ht

end

/-! ## M micro-orders -/

section
variable (s : State)

@[simp] theorem enterRows_mem (n id k : Nat) : (s.enterRows n id k).mem = s.mem := by
  induction k generalizing s with
  | zero => rfl
  | succ k ih =>
    unfold State.enterRows; dsimp only; repeat' split
    all_goals simp [ih]

@[simp] theorem execMmac_sound (e : BitVec 6) (p t : BitVec 3) (r : BitVec 8) (o : BitVec 6) (h : s.sound) :
    SoundOut (execMmac e p t r o s) := by
  unfold execMmac; dsimp only; repeat' split
  all_goals simp [h]

@[simp] theorem tokenUp_mem (e : Nat) : (s.tokenUp e).mem = s.mem := by
  unfold State.tokenUp; split <;> rfl

theorem execMclr_sound (e : BitVec 6) (t : BitVec 3) (h : s.sound) : SoundOut (execMclr e t s) :=
  moIssue_sound s _ _ _ _ h fun t ht => by simpa using ht

theorem execMwsel_sound (e : BitVec 6) (w : BitVec 4) (h : s.sound) : SoundOut (execMwsel e w s) :=
  moIssue_sound s _ _ _ _ h fun t ht => by simpa using ht

theorem execMstampAbs_sound (e : BitVec 6) (h : s.sound) : SoundOut (execMstampAbs e s) :=
  moIssue_sound s _ _ _ _ h fun t ht => by simpa using ht

theorem execMstampAdd_sound (e : BitVec 6) (b : BitVec 19) (h : s.sound) : SoundOut (execMstampAdd e b s) :=
  moIssue_sound s _ _ _ _ h fun t ht => by simpa using ht

theorem execMnop_sound (e : BitVec 6) (h : s.sound) : SoundOut (execMnop e s) :=
  moIssue_sound s _ _ _ _ h fun t ht => by simpa using ht

@[simp] theorem retWrite_sound (n : Nat) (b : Base) (va : Nat) (l : Loc) (x : Blk) (h : s.sound) :
    (s.retWrite n b va l x).sound := by
  simp [State.retWrite, h]

@[simp] theorem retRow_sound (n : Nat) (j : Job) (tile : Nat) (nest : BitVec 256) (fmt mode : Nat) (b : Base) (r : Nat)
    (h : s.sound) :
    (s.retRow n j tile nest fmt mode b r).sound := by
  simp only [State.retRow, State.sound, State.stored, onJob_mem]
  exact foldl_sound _ _ _ h fun t e ht => by split <;> simp [ht]

theorem execMret_sound (e : BitVec 6) (n : BitVec 4) (t f : BitVec 3) (m : BitVec 2) (c : Bool) (h : s.sound) :
    SoundOut (execMret e n t f m c s) := by
  unfold execMret; extract_lets j
  refine moIssue_sound s _ _ _ _ h fun t ht => ?_
  simp [ht]

@[simp] theorem retStep_sound (n : Nat) (j : Job) (t : Nat) (nest : BitVec 256) (f m : Nat) (clr : Bool) (b : Base) (r : Nat)
    (h : s.sound) : (s.retStep n j t nest f m clr b r).sound := by
  unfold State.retStep; split <;> simp [h]

@[simp] theorem retireRows_sound (n : Nat) (h : s.sound) : (s.retireRows n).sound := by
  refine foldl_sound _ _ _ h fun t j ht => ?_
  repeat' split
  all_goals simp [ht]

@[simp] theorem arrayRows_mem (n : Nat) : (s.arrayRows n).mem = s.mem :=
  foldl_mem _ _ _ fun t j => by split <;> simp

@[simp] theorem mEnd_mem (n : Nat) (j : Job) : (s.mEnd n j).mem = s.mem := by
  unfold State.mEnd; split <;> simp

end

/-! ## X micro-orders -/

section
variable (s : State)

@[simp] theorem enqueueSend_mem (port : Nat) (o : Outgoing) : (s.enqueueSend port o).mem = s.mem := rfl

@[simp] theorem installBuf_sound (d : List Word) (q : Base) (h : s.sound) : (s.installBuf d q).sound := by
  simp [State.installBuf, h]

@[simp] theorem beginLoad_sound (n w : Nat) (src : Base) (d : List Word) (h : s.sound) : (s.beginLoad n w src d).sound := by
  simp [State.beginLoad, h]

@[simp] theorem onX_mem (n id : Nat) (f : XWork → XWork) : (s.onX n id f).mem = s.mem := rfl

@[simp] theorem xPackets_mem (n id k : Nat) : (s.xPackets n id k).mem = s.mem := by
  induction k generalizing s with
  | zero => rfl
  | succ k ih =>
    unfold State.xPackets; dsimp only; repeat' split
    all_goals simp [ih]

/-- Issuing an X micro-order joins a job, a send or a load of a tile, and at most places a buffer's contribution. -/
@[simp] theorem xStart_sound (kind : Nat) (o : XOForm) (h : s.sound) : (s.xStart kind o).sound := by
  refine (soundOut_next _).1 ?_
  unfold State.xStart; split
  · exact (soundOut_next _).2 h
  · obtain ⟨base, hb⟩ : ∃ f, f = State.baseHere := ⟨_, rfl⟩
    rw [← hb]
    extract_lets n s1 p q via first uses bytes note
    split
    next r t u hu =>
      have h1 : s1.mem = s.mem := by rw [show s1 = s.warn _ _ from rfl, warn_mem]
      have hm : u.mem = s.mem := by
        by_cases hk : kind = 4
        · rw [if_pos hk] at hu
          rw [← (Prod.mk.inj hu).2, h1]
        · rw [if_neg hk] at hu
          rw [show u = (t, u).2 from rfl, ← hu, addHist_mem, h1]
      extract_lets x id j u1 u2
      have h2 : SoundOut (.next u2) := by
        rw [soundOut_next, State.sound, State.stored, onCtl_mem, addJob_mem, hm]; exact h
      clear_value u2
      split
      · exact (soundOut_next _).2 (beginLoad_sound u2 _ _ _ _ ((soundOut_next _).1 h2))
      · rw [soundOut_next, State.sound, State.stored, xPackets_mem]; split
        · exact installBuf_sound u2 _ _ ((soundOut_next _).1 h2)
        · exact (soundOut_next _).1 h2
      · split
        · exact h2
        · exact (soundOut_next _).2 ((soundOut_next u2).1 h2)
      · split
        · exact h2
        · exact (soundOut_next _).2 ((soundOut_next u2).1 h2)
      · exact h2

theorem xIssue_sound (kind : Nat) (o : XOForm) (h : s.sound) : SoundOut (xIssue kind o s) :=
  moIssue_sound s _ _ _ _ h fun t ht => xStart_sound t kind o ht

@[simp] theorem installFirst_sound (o : XOForm) (h : s.sound) : (s.installFirst o).sound := by
  unfold State.installFirst; repeat' split
  all_goals simp [h]

theorem execXcoll_sound (o : XOForm) (h : s.sound) : SoundOut (execXcoll o s) := by
  unfold execXcoll; split
  · exact xIssue_sound s _ o h
  split
  · split
    · simp [h]
    · exact xIssue_sound s _ o h
  · exact xIssue_sound s _ o h

@[simp] theorem xFault_mem (n id : Nat) (pos va : Nat) (cause : BitVec 8) : (s.xFault n id pos va cause).mem = s.mem := by
  unfold State.xFault; split <;> rfl

@[simp] theorem badTile_mem (n id : Nat) (x : XWork) (pos : Nat) : (s.badTile n id x pos).mem = s.mem := by simp [State.badTile]

@[simp] theorem warnIndex_mem (n id : Nat) (x : XWork) (pos : Nat) : (s.warnIndex n id x pos).mem = s.mem := by
  unfold State.warnIndex; dsimp only; repeat' split
  all_goals simp

@[simp] theorem xPut_stored (n id pos : Nat) (fresh : Bool) : (s.xPut n id pos fresh).stored = s.stored := by
  unfold State.xPut; dsimp only; repeat' split
  all_goals simp

@[simp] theorem xSteps_sound (n k : Nat) (h : s.sound) : (s.xSteps n k).sound := by
  induction k generalizing s with
  | zero => exact h
  | succ k ih =>
    unfold State.xSteps; split
    · exact h
    · split
      · exact h
      · extract_lets again t
        have ht : t.sound := by
          simp only [t]; split
          · exact beginLoad_sound s _ _ _ _ h
          · exact h
        clear_value again t
        split
        · exact h
        split
        · simpa using h
        split
        · simpa using ht
        split
        · exact ih _ (by simpa using ht)
        · exact ih _ (by simpa using ht)

@[simp] theorem xStore_mem (n id : Nat) (x : XWork) (o : XOut) (op : AOp) : (s.xStore n id x o op).mem = s.mem := rfl

@[simp] theorem onQueued_mem (f : Outgoing → Outgoing) : (s.onQueued f).mem = s.mem := rfl

@[simp] theorem onSends_mem (n id : Nat) (f : Outgoing → Outgoing) : (s.onSends n id f).mem = s.mem := rfl

@[simp] theorem xSendBlock_mem (n id : Nat) (x : XWork) (o : XOut) (b : Blk) : (s.xSendBlock n id x o b).mem = s.mem := rfl

@[simp] theorem xEmit_mem (n id k : Nat) : (s.xEmit n id k).mem = s.mem := by
  induction k generalizing s with
  | zero => rfl
  | succ k ih =>
    unfold State.xEmit; split
    · rfl
    split
    · rfl
    extract_lets p b gone
    have hg (t : State) : (gone t).mem = t.mem := onX_mem _ _ _ _
    clear_value gone
    repeat' split
    all_goals simp [ih, hg]

@[simp] theorem xLand_sound (n id : Nat) (x : XWork) (pos : Nat) (b : Blk) (h : s.sound) : (s.xLand n id x pos b).sound := by
  unfold State.xLand; dsimp only; repeat' split
  all_goals simp [h]

@[simp] theorem xContribute_mem (n id : Nat) (x : XWork) : (s.xContribute n id x).mem = s.mem := by
  unfold State.xContribute; dsimp only; repeat' split
  all_goals simp

@[simp] theorem xWalk_sound (n : Nat) (h : s.sound) : (s.xWalk n).sound := by
  unfold State.xWalk; extract_lets t u
  have ht : t.sound := xSteps_sound s n 4 h
  have hu : u.mem = t.mem := by simp only [u]; split <;> simp
  rw [State.sound, State.stored, foldl_mem (fun v (j : Job) => v.xPackets n j.id 32) _ u fun v j => xPackets_mem v n j.id 32, hu]
  exact ht

@[simp] theorem xRead_sound (n id pos va : Nat) (r : Res) (h : s.sound) : (s.xRead n id pos va r).sound := by
  unfold State.xRead; dsimp only; repeat' split
  all_goals simp [h]

@[simp] theorem xWrote_mem (n id pos : Nat) (r : Res) (fl : Flags) : (s.xWrote n id pos r fl).mem = s.mem := rfl

@[simp] theorem xEnd_mem (n : Nat) (j : Job) (x : XWork) : (s.xEnd n j x).mem = s.mem := by
  unfold State.xEnd; repeat' split
  all_goals simp

@[simp] theorem dropSends_mem (n id : Nat) : (s.dropSends n id).mem = s.mem := rfl

@[simp] theorem xAbandon_mem (n : Nat) : (s.xAbandon n).mem = s.mem := by
  unfold State.xAbandon; dsimp only; split
  · exact foldl_mem _ _ _ fun t j => (dropJob_mem _ _ _).trans (dropSends_mem _ _ _)
  · rfl

end

/-! ## Peers, the host and collectives -/

section
variable (s : State)

@[simp] theorem servePushes_mem (k : Nat) : (State.servePushes k s).mem = s.mem := by
  induction k generalizing s with
  | zero => rfl
  | succ k ih =>
    unfold State.servePushes; repeat' split
    all_goals simp [ih]

@[simp] theorem answer_mem (no : Nat) (l : List Byte) : (s.answer no l).mem = s.mem := rfl

@[simp] theorem hostDone_mem (a : Access) : (s.hostDone a).mem = s.mem := by
  unfold State.hostDone; dsimp only; repeat' split
  all_goals simp

@[simp] theorem stationDone_mem (a : Access) : (s.stationDone a).mem = s.mem := by
  unfold State.stationDone; split <;> rfl

@[simp] theorem failBuf_mem (k : Nat) : (s.failBuf k).mem = s.mem := by
  unfold State.failBuf; split <;> rfl

@[simp] theorem collWrite_mem (k off : Nat) (op : AOp) (sync : Option Nat) : (s.collWrite k off op sync).mem = s.mem := by
  unfold State.collWrite; dsimp only; repeat' split
  all_goals simp

@[simp] theorem freeBuf_sound (k : Nat) (b : Buf) (h : s.sound) : (s.freeBuf k b).sound := by
  unfold State.freeBuf; dsimp only; repeat' split
  all_goals simp [h]

@[simp] theorem pushRun_sound (k fuel : Nat) (h : s.sound) : (s.pushRun k fuel).sound := by
  induction fuel generalizing s with
  | zero => exact h
  | succ fuel ih =>
    unfold State.pushRun; repeat' split
    all_goals simp [ih, h]

@[simp] theorem endRun_sound (k status : Nat) (h : s.sound) : (s.endRun k status).sound := by
  unfold State.endRun; repeat' split
  all_goals simp [h]

@[simp] theorem checkRun_sound (k : Nat) (h : s.sound) : (s.checkRun k).sound := by
  unfold State.checkRun; repeat' split
  all_goals simp [h]

@[simp] theorem collDone_sound (a : Access) (h : s.sound) : (s.collDone a).sound := by
  unfold State.collDone; split <;> simp [h]

end

/-! ## The flow of an access -/

section
variable (s : State)

@[simp] theorem arrive_sound (id : Nat) (a : Access) (h : s.sound) : (s.arrive id a).sound := by
  unfold State.arrive; repeat' split
  all_goals simp [h]

@[simp] theorem depart_sound (id : Nat) (a : Access) (h : s.sound) : (s.depart id a).sound := by
  unfold State.depart; dsimp only; repeat' split
  all_goals simp [h]

@[simp] theorem reply_mem (id : Nat) (a : Access) : (s.reply id a).mem = s.mem := by simp [State.reply]

@[simp] theorem warnLaden_mem (a : Access) : (s.warnLaden a).mem = s.mem := by
  unfold State.warnLaden; repeat' split
  all_goals simp

@[simp] theorem release_sound (id : Nat) (h : s.sound) : (s.release id).sound := by
  unfold State.release; repeat' split
  all_goals simp [h]

@[simp] theorem postedFault_mem (n task : Nat) (h src ix : Nat) (e : Hist) : (s.postedFault n task h src ix e).mem = s.mem := by
  unfold State.postedFault; repeat' split
  all_goals rfl

@[simp] theorem cDone_mem (id : Nat) (a : Access) : (s.cDone id a).mem = s.mem := by
  unfold State.cDone; repeat' split
  all_goals rfl

@[simp] theorem peerDone_mem (id : Nat) (a : Access) : (s.peerDone id a).mem = s.mem := by
  unfold State.peerDone; split <;> rfl

@[simp] theorem tellPeer_mem (a : Access) : (s.tellPeer a).mem = s.mem := rfl

@[simp] theorem complete_sound (id : Nat) (a : Access) (h : s.sound) : (s.complete id a).sound := by
  unfold State.complete; dsimp only; repeat' split
  all_goals simp [h]

@[simp] theorem execAccessCompletion_sound (id : Nat) (h : s.sound) : SoundOut (execAccessCompletion id s) := by
  unfold execAccessCompletion; repeat' split
  all_goals simp [h]

@[simp] theorem serveNow_sound (id : Nat) (h : s.sound) : (s.serveNow id).sound := by simp [State.serveNow, h]

@[simp] theorem force_sound (id : Nat) (a : Access) (h : s.sound) : (s.force id a).sound := by
  unfold State.force; dsimp only; repeat' split
  · exact h
  · exact h
  · refine serveNow_sound _ id ?_
    rw [State.sound, enterWq_stored]
    exact foldl_sound _ _ _ h fun t k ht => serveNow_sound t k ht

@[simp] theorem forceDeposits_sound (h : s.sound) : s.forceDeposits.sound := by
  refine foldl_sound _ _ _ h fun t id ht => ?_
  dsimp only; repeat' split
  · exact complete_sound _ _ _ (force_sound _ _ _ ht)
  · exact force_sound _ _ _ ht
  · exact ht

@[simp] theorem aEnd_mem (n : Nat) (j : Job) (ws : List AWrite) : (s.aEnd n j ws).mem = s.mem := by
  unfold State.aEnd; dsimp only; split <;> simp

@[simp] theorem finishJob_mem (n : Nat) (j : Job) : (s.finishJob n j).mem = s.mem := by
  unfold State.finishJob; repeat' split
  all_goals simp

@[simp] theorem execEngineCompletion_sound (core job : Nat) (h : s.sound) : SoundOut (execEngineCompletion core job s) := by
  unfold execEngineCompletion; repeat' split
  all_goals simp [h]

end

/-! ## Tasks -/

section
variable (s : State)

@[simp] theorem countHbm_stored (p n : Nat) : (s.countHbm p n).stored = s.stored := by
  unfold State.countHbm; split <;> rfl

@[simp] theorem restretch_mem : (s.restretch).mem = s.mem := rfl

@[simp] theorem noteConds_stored (owner : Nat) (core : Option Nat) (ws : List Word) (k : Nat) :
    (s.noteConds owner core ws k).stored = s.stored := by
  unfold State.noteConds; dsimp only; repeat' split
  all_goals simp

@[simp] theorem offerDesc_sound (die : Nat) (ws : List Word) (o : Nat) (core : Option Nat) (slice : Nat) (box : Option Nat)
    (h : s.sound) :
    (s.offerDesc die ws o core slice box).2.sound := by
  have pinned (ps : List Nat) : s.fresh.2.addPins ps |>.sound := addPins_sound _ ps h
  unfold State.offerDesc; dsimp only; repeat' split
  all_goals simp_all

@[simp] theorem postDesc_sound (die : Nat) (ws : List Word) (owner : Nat) (core : Option Nat) (slice : Nat) (box : Option Nat)
    (h : s.sound) : (s.postDesc die ws owner core slice box).2.sound := by
  simp [State.postDesc, h]

@[simp] theorem execTimetablePost_sound (id : Nat) (h : s.sound) : SoundOut (execTimetablePost id s) := by
  unfold execTimetablePost; repeat' split
  all_goals simp [h]

@[simp] theorem condLooks_stored (t : Task) : (s.condLooks t).stored = s.stored :=
  foldl_stored _ _ _ fun u c => by split <;> simp

@[simp] theorem evaluate_stored (id : Nat) : (s.evaluate id).stored = s.stored := by
  unfold State.evaluate; repeat' split
  · rfl
  · rfl
  · rfl
  · exact condLooks_stored _ _
  · rfl

@[simp] theorem releaseEntry_stored (id : Nat) : (s.releaseEntry id).stored = s.stored := by
  unfold State.releaseEntry; repeat' split
  · rfl
  · exact evaluate_stored _ _
  · rfl

theorem execReleaseTick_sound (die : Nat) (h : s.sound) : SoundOut (execReleaseTick die s) := by
  refine (soundOut_next _).2 ?_
  rw [State.sound, foldl_stored _ _ _ fun t id => releaseEntry_stored t id]; exact h

theorem execCounterReport_sound (die : Nat) (h : s.sound) : SoundOut (execCounterReport die s) := by
  refine (soundOut_next _).2 ?_
  rw [State.sound, foldl_stored _ _ _ fun t id => evaluate_stored t id]; exact h

@[simp] theorem askSlot_sound (t : Nat) (h : s.sound) : (s.askSlot t).sound := by
  unfold State.askSlot; repeat' split
  all_goals simp [h]

/-- A scratchpad whose words are no longer valid (R100). -/
theorem clearValid_sound (k n : Nat) (h : s.sound) : (s.onMem fun m => { m with valid := mclear m.valid k n }).sound := by
  obtain ⟨h1, h2, h3, h4, h5, h6, h7⟩ := (memoryWf_iff s.mem).1 h
  exact (memoryWf_iff _).2 ⟨h1, h2, h3, h4, mwf_mclear false _ _ _ h5, h6, h7⟩

@[simp] theorem placeTask_sound (t n : Nat) (h : s.sound) : (s.placeTask t n).sound := by
  unfold State.placeTask; split
  · exact h
  extract_lets t1 t2 t3 t4 head due t5
  have h1 : t1.sound := dropPins_sound s _ h
  have h2 : t2.sound := clearValid_sound _ _ _ (dropTiles_sound t1 n h1)
  have h3 : t3.sound := by rw [State.sound, State.stored, mem_onTask]; exact h2
  have h4 : t4.sound := by
    simp only [t4]; split
    · rw [State.sound, countHbm_stored]; exact h3
    · exact h3
  split
  · refine foldl_sound _ _ _ ?_ fun u k hu => ?_
    · rw [State.sound, State.stored, mem_onCore]; exact h4
    · rw [State.sound, State.stored, tryBarrier_mem]; exact hu
  · have h5 : t5.sound := by rw [State.sound, State.stored, mem_onCore]; exact h4
    split
    · exact askSlot_sound t5 t h5
    · exact h5

theorem execPlacement_sound (die : Nat) (h : s.sound) : SoundOut (execPlacement die s) := by
  unfold execPlacement; extract_lets ev
  clear_value ev
  split
  · refine (soundOut_next _).2 ?_
    rw [State.sound, State.stored, restretch_mem]; exact placeTask_sound _ _ _ h
  · split
    · exact (soundOut_next _).2 h
    · split
      · refine (soundOut_next _).2 ?_
        rw [State.sound, State.stored, restretch_mem]; exact placeTask_sound _ _ _ h
      · exact (soundOut_next _).2 h

@[simp] theorem loadFailed_sound (n : Nat) (h : s.sound) : (s.loadFailed n).sound := by simp [State.loadFailed, h]

@[simp] theorem execOverlayLoadDone_sound (core : Nat) (h : s.sound) : SoundOut (execOverlayLoadDone core s) := by
  unfold execOverlayLoadDone; dsimp only; repeat' split
  all_goals simp [h]

@[simp] theorem execFrameBarrier_sound (h : s.sound) : SoundOut (execFrameBarrier s) := by
  unfold execFrameBarrier; split <;> simp [h]

@[simp] theorem execPowerHoldEnd_sound (h : s.sound) : SoundOut (execPowerHoldEnd s) := by
  unfold execPowerHoldEnd; split <;> simp [h]

@[simp] theorem execDeadlinePassed_sound (task : Nat) (h : s.sound) : SoundOut (execDeadlinePassed task s) := by
  unfold execDeadlinePassed; repeat' split
  all_goals simp [h]

@[simp] theorem logTail_mem (n : Nat) (x : Task) (b : BitVec 8 × Word × Word) : (s.logTail n x b).mem = s.mem := rfl

@[simp] theorem execTaskRetire_sound (task : Nat) (h : s.sound) : SoundOut (execTaskRetire task s) := by
  unfold execTaskRetire; repeat' split
  all_goals simp [h]

@[simp] theorem launch_sound (n : Nat) (w0 w1 : Word) (h : s.sound) : (s.launch n w0 w1).2.sound := by
  unfold State.launch; dsimp only; repeat' split
  all_goals simp [h]

@[simp] theorem mailLoop_sound (n k : Nat) (h : s.sound) : (s.mailLoop n k).sound := by
  induction k generalizing s with
  | zero => exact h
  | succ k ih =>
    unfold State.mailLoop; repeat' split
    all_goals simp [ih, h]

end

/-! ## Contexts saved and restored -/

section
variable (s : State)

@[simp] theorem requestPreempt_sound (n : Nat) (h : s.sound) : (s.requestPreempt n).sound := by
  unfold State.requestPreempt; split <;> simp [h]

@[simp] theorem preemptSlice_sound (slice : Nat) (h : s.sound) : (s.preemptSlice slice).sound := by
  refine foldl_sound _ _ _ h fun t e ht => ?_
  repeat' split
  all_goals simp [ht]

@[simp] theorem execPreemptRequest_sound (die core : Nat) (h : s.sound) : SoundOut (execPreemptRequest die core s) := by
  unfold execPreemptRequest; repeat' split
  all_goals simp [h]

@[simp] theorem execPreemptCancel_sound (die core : Nat) (h : s.sound) : SoundOut (execPreemptCancel die core s) := by
  unfold execPreemptCancel; repeat' split
  all_goals simp [h]

@[simp] theorem execDriverInterrupt_sound (die core : Nat) (data : W32) (h : s.sound) :
    SoundOut (execDriverInterrupt die core data s) := by
  unfold execDriverInterrupt; dsimp only; repeat' split
  all_goals simp [h]

@[simp] theorem execEventTaken_sound (core : Nat) (h : s.sound) : SoundOut (execEventTaken core s) := by
  unfold execEventTaken; dsimp only; repeat' split
  all_goals simp [h]

@[simp] theorem execPreemptAtRetirement_sound (core : Nat) (h : s.sound) : SoundOut (execPreemptAtRetirement core s) := by
  unfold execPreemptAtRetirement; dsimp only; split <;> simp [h]

@[simp] theorem withdrawLoads_stored (n : Nat) : (s.withdrawLoads n).stored = s.stored := by
  refine foldl_stored _ _ _ fun t e => ?_
  split
  · extract_lets load b q q1 u
    split
    · rw [State.stored, mem_onAcc]
      exact (unpark_stored u _ _).trans (by rw [State.stored, mem_onMem]; exact contents_of_fields ..)
    · rfl
  · rfl

@[simp] theorem soilUnits_mem (t : State) : (s.soilUnits t).mem = t.mem := by
  refine foldl_mem _ _ _ fun u e => ?_
  dsimp only; repeat' split
  all_goals rfl

theorem unitRuns_tableIn (x : Ctx) (u : Nat) (hx : mwf 0 x.bytes = true) :
    ∀ e ∈ x.unitRuns u, tableIn 0 (64 * (e.2.1 / 64)) e.2.2 = true := by
  unfold Ctx.unitRuns; repeat' split
  · simp only [List.forall_mem_cons]
    exact ⟨tableIn_mslice _ _ _ _ hx, tableIn_cellTable _ _, tableIn_cellTable _ _, nofun⟩
  · simpa using tableIn_cellTable _ _
  · simpa using tableIn_cellTable _ _
  · simpa using tableIn_cellTable _ _
  · nofun

@[simp] theorem writeUnit_sound (owner p : Nat) (x : Ctx) (u : Nat) (h : s.sound) (hx : mwf 0 x.bytes = true) :
    (s.writeUnit owner p x u).sound := by
  have runs : ((x.unitRuns u).foldl
      (fun t e => t.writeArea (s.keyOf owner) ((p + e.1) / 64) (e.2.1 / 64) e.2.2) s).sound :=
    List.foldlRecOn (motive := State.sound) _ _ h fun t ht e he => writeArea_sound t _ _ _ _ ht (unitRuns_tableIn x u hx e he)
  unfold State.writeUnit; dsimp only; split
  · exact writeArea_sound _ _ _ _ _ runs rfl
  · exact runs

@[simp] theorem storeUnits_sound (die k b owner : Nat) (x : Ctx) (us : List Nat) (h : s.sound) (hx : mwf 0 x.bytes = true) :
    (s.storeUnits die k b owner x us).sound :=
  foldl_sound _ us s h fun t _ ht => writeUnit_sound t _ _ _ _ ht hx

@[simp] theorem readCtx_stored (n : Nat) (gs : List Nat) : (s.readCtx n gs).2.stored = s.stored := by simp [State.readCtx]

/-- The bytes of a context as a save reads it are a canonical table. -/
theorem mwf_readCtx (n : Nat) (gs : List Nat) (h : s.sound) : mwf 0 (s.readCtx n gs).1.bytes = true := by
  have hb : mwf 0 (s.context n).bytes = true :=
    ((tableIn_iff 0 _ _).1 (tableIn_mslice 0 _ _ _ ((memoryWf_iff s.mem).1 h).1)).1
  exact List.foldlRecOn (motive := fun m : List Host.Cell => mwf 0 m = true) _ _ hb fun m hm e _ => mwf_msetList 0 _ m _ hm

theorem execContextSave_sound (core : Nat) (h : s.sound) : SoundOut (execContextSave core s) := by
  unfold execContextSave; split
  · exact (soundOut_next _).2 h
  extract_lets t u
  have ht : t.sound := by rw [State.sound, withdrawLoads_stored]; exact h
  split
  · exact (soundOut_next _).2 ht
  have hu : u.sound := by
    rw [State.sound, State.stored, mem_onCore, soilUnits_mem]
    refine revokeLease_sound _ _ (revokeLent_sound _ _ ?_)
    rw [State.sound, State.stored, unbindAll_mem]; simpa using ht
  split
  · extract_lets v us w r
    have hv : v.sound := by rw [State.sound, countHbm_stored]; exact hu
    have hw : w.sound := by rw [State.sound, State.stored, mem_onCore]; exact hv
    have hr : r.2.sound := by rw [State.sound, readCtx_stored]; exact hw
    exact (soundOut_next _).2 (storeUnits_sound _ _ _ _ _ _ _ hr (mwf_readCtx w _ _ hw))
  · exact (soundOut_next _).2 hu

@[simp] theorem leaveCore_sound (n : Nat) (h : s.sound) : (s.leaveCore n).sound := by simp [State.leaveCore, h]

theorem execSaveCommit_sound (core : Nat) (h : s.sound) : SoundOut (execSaveCommit core s) := by
  unfold execSaveCommit; repeat' split
  · exact (soundOut_next _).2 h
  · extract_lets w slot ctx t commit u
    have hu : u.sound := devWrite_sound _ _ _ _ (devWrite_sound _ _ _ _ h)
    refine (soundOut_next _).2 ?_
    rw [State.sound, State.stored, restretch_mem]; exact leaveCore_sound u core hu
  · exact (soundOut_next _).2 h

@[simp] theorem execContextSlotAcquire_sound (die : Nat) (h : s.sound) : SoundOut (execContextSlotAcquire die s) := by
  simp [execContextSlotAcquire, h]

@[simp] theorem followSends_mem (t n : Nat) : (s.followSends t n).mem = s.mem := by
  unfold State.followSends; extract_lets u kept
  refine (foldl_mem _ _ _ fun v j => ?_).trans (onQueued_mem s _)
  repeat' split
  · exact onX_mem _ _ _ _
  · rfl
  · rfl

@[simp] theorem reissue_mem (t n : Nat) : (s.reissue t n).mem = s.mem := rfl

theorem tableIn_mset {α : Type} [DecidableEq α] (d : α) (n : Nat) (m : SMap α) (k : Nat) (v : α) (h : tableIn d n m = true)
    (hk : k < n) : tableIn d n (mset d m k v) = true :=
  tableIn_foldSet d n (fun _ => v) [k] m h fun _ he => by rwa [List.mem_singleton.1 he]

/-- A table of words read from bytes is canonical, with its keys in range. -/
theorem tableIn_wordTable (w n k : Nat) (l : List Host.Cell) : tableIn 0 n (wordTable w n k l) = true := by
  refine List.foldlRecOn (motive := fun m : SMap (BitVec w) => tableIn 0 n m = true) _ _ rfl fun m hm e _ => ?_
  dsimp only; split
  · exact tableIn_mset 0 n m _ _ hm ‹_›
  · exact hm

/-- A table of bits read from bytes is canonical, with its keys in range. -/
theorem tableIn_bitTable (n : Nat) (l : List Host.Cell) : tableIn false n (bitTable n l) = true := by
  refine List.foldlRecOn (motive := fun m : SMap Bool => tableIn false n m = true) _ _ rfl fun m hm e _ => ?_
  split
  · exact tableIn_mset false n m _ _ hm ‹_›
  · exact hm

/-- A scratchpad restored from a buffer of a context slot (R458). -/
theorem restoreScratch_sound (n owner a b : Nat) (c : Core) (h : s.sound) :
    (s.onMem fun m =>
      { m with bytes := msplice m.bytes (scrBase n) (2 ^ 22) (s.bufCtx owner a b c).bytes
               tags := msplice m.tags (scrBase n / 64) (2 ^ 16) (s.bufCtx owner a b c).tags
               valid := msplice m.valid (scrBase n / 4) (2 ^ 20) (s.bufCtx owner a b c).valid
               bad := mclear m.bad (scrBase n / 64) (2 ^ 16) }).sound := by
  obtain ⟨h1, h2, h3, h4, h5, h6, h7⟩ := (memoryWf_iff s.mem).1 h
  have hb : tableIn 0 (2 ^ 22) (s.bufCtx owner a b c).bytes = true := tableIn_areaBytes s.mem _ _ _ h
  exact (memoryWf_iff _).2 ⟨mwf_msplice 0 _ _ _ _ h1 hb, mwf_msplice 0 _ _ _ _ h2 (tableIn_wordTable 16 _ 2 _), h3,
    mwf_mclear false _ _ _ h4, mwf_msplice false _ _ _ _ h5 (tableIn_bitTable _ _), h6, h7⟩

theorem execRestoreDone_sound (core : Nat) (h : s.sound) : SoundOut (execRestoreDone core s) := by
  unfold execRestoreDone; split
  · exact (soundOut_next _).2 h
  split
  · exact (soundOut_next _).2 (loadFailed_sound s core h)
  next x k a hx =>
    extract_lets b
    split
    · exact (soundOut_next _).2 (loadFailed_sound s core h)
    next c hc =>
      split
      · simp [h]
      · extract_lets d ctx t u mark
        have ht : t.sound := restoreScratch_sound s core x.owner a b c h
        refine (soundOut_next _).2 ?_
        rw [State.sound, State.stored, gateNow_mem, followSends_mem, reissue_mem]; exact ht

theorem execCheckpointWriteback_sound (core unit_ : Nat) (h : s.sound) : SoundOut (execCheckpointWriteback core unit_ s) := by
  unfold execCheckpointWriteback; split
  · exact (soundOut_next _).2 h
  split
  · exact (soundOut_next _).2 h
  extract_lets b r
  have hr : r.2.sound := by rw [State.sound, readCtx_stored]; exact h
  split
  · exact (soundOut_next _).2 h
  · exact (soundOut_next _).2 (storeUnits_sound _ _ _ _ _ _ _ hr (mwf_readCtx s _ _ h))

@[simp] theorem dropWithdrawn_mem (t : Nat) : (s.dropWithdrawn t).mem = s.mem := rfl

@[simp] theorem watchEnd_sound (n reason : Nat) (h : s.sound) : (s.watchEnd n reason).sound := by simp [State.watchEnd, h]

@[simp] theorem execWatchdogStall_sound (core : Nat) (h : s.sound) : SoundOut (execWatchdogStall core s) := by
  unfold execWatchdogStall; dsimp only; repeat' split
  all_goals simp [h]

@[simp] theorem execWatchdogLate_sound (core : Nat) (h : s.sound) : SoundOut (execWatchdogLate core s) := by
  unfold execWatchdogLate; dsimp only; repeat' split
  all_goals simp [h]

theorem execWatchdogSave_sound (core : Nat) (h : s.sound) : SoundOut (execWatchdogSave core s) := by
  unfold execWatchdogSave; extract_lets d
  split
  · split
    · exact (soundOut_next _).2 h
    extract_lets t u
    have ht : t.sound := by rw [State.sound, State.stored, dropWithdrawn_mem]; exact devWrite_sound s _ _ _ h
    have hu : u.sound := by rw [State.sound, State.stored, onDie_mem]; exact ht
    clear_value u
    split
    · extract_lets slot ctx w
      have hw : w.sound := addPins_sound _ _ (dropPins_sound _ _ (by rw [State.sound, State.stored, onDie_mem]; exact hu))
      refine (soundOut_next _).2 ?_
      rw [State.sound, State.stored, restretch_mem]
      exact leaveCore_sound _ core (by rw [State.sound, State.stored, logTrap_mem]; exact hw)
    · refine (soundOut_next _).2 ?_
      rw [State.sound, State.stored, restretch_mem]
      exact failTask_sound _ core (by rw [State.sound, State.stored, logTrap_mem]; exact hu)
  · exact (soundOut_next _).2 h

end

/-! ## Boot and the commands of the driver -/

section
variable (s : State)

@[simp] theorem measure_mem (i : Nat) (d : List Byte) : (s.measure i d).mem = s.mem := rfl

@[simp] theorem bootTo_mem (state error : Nat) : (s.bootTo state error).mem = s.mem := rfl

@[simp] theorem romStart_mem : (s.romStart).mem = s.mem := by simp [State.romStart]

theorem execPowerOn_sound (b : Bundle) : SoundOut (execPowerOn b s) := by
  refine (soundOut_next _).2 ?_
  rw [State.sound, State.stored, romStart_mem]; exact memoryWf_reset

theorem execFunctionLevelReset_sound : SoundOut (execFunctionLevelReset s) := by
  refine (soundOut_next _).2 ?_
  rw [State.sound, State.stored, romStart_mem]; exact memoryWf_reset

@[simp] theorem execBundleVerified_sound (h : s.sound) : SoundOut (execBundleVerified s) := by
  unfold execBundleVerified; dsimp only; repeat' split
  all_goals simp [h]

theorem execLinkHbmTrainingDone_sound (ok : Bool) (h : s.sound) : SoundOut (execLinkHbmTrainingDone ok s) := by
  unfold execLinkHbmTrainingDone; repeat' split
  · simpa using h
  · simpa using h
  · refine (soundOut_next _).2 ?_
    obtain ⟨h1, h2, h3, h4, h5, h6, h7⟩ := (memoryWf_iff s.mem).1 h
    exact (memoryWf_iff _).2 ⟨mwf_clearHbm 0 _ _ h1, mwf_clearHbm 0 _ _ h2, mwf_clearHbm none _ _ h3, mwf_clearHbm false _ _ h4,
      h5, h6, mwf_clearHbm none _ _ h7⟩

@[simp] theorem execFeatureGo_sound (h : s.sound) : SoundOut (execFeatureGo s) := by
  unfold execFeatureGo; repeat' split
  all_goals simp [h]

@[simp] theorem execKeyInstall_sound (owner : Nat) (w : Word) (h : s.sound) : SoundOut (execKeyInstall owner w s) := by
  unfold execKeyInstall; repeat' split
  all_goals simp [h]

@[simp] theorem execOctlWrite_sound (owner : Nat) (w : Word) (h : s.sound) : SoundOut (execOctlWrite owner w s) := by
  unfold execOctlWrite; dsimp only; repeat' split
  all_goals simp [h]

@[simp] theorem cmdDone_mem (r : Nat) : (s.cmdDone r).mem = s.mem := rfl

/-- A command leaves storage canonical where what it does when it is taken does. -/
theorem command_sound (n : Nat) (k : State → State) (h : s.sound) (hk : (k s).sound) : (s.command n k).sound := by
  unfold State.command; repeat' split
  · simpa using h
  · simpa using h
  · exact hk

theorem execRegisterImage_sound (h : s.sound) : SoundOut (execRegisterImage s) := by
  refine (soundOut_next _).2 (command_sound s _ _ h ?_)
  dsimp only; split <;> simp [h]

theorem execUnregisterImage_sound (h : s.sound) : SoundOut (execUnregisterImage s) := by
  refine (soundOut_next _).2 (command_sound s _ _ h ?_)
  dsimp only; split <;> simp [h]

theorem execUnmap_sound (h : s.sound) : SoundOut (execUnmap s) := by
  refine (soundOut_next _).2 (command_sound s _ _ h ?_)
  dsimp only; repeat' split
  all_goals simp [h]

@[simp] theorem execUnmapPinsDropped_sound (h : s.sound) : SoundOut (execUnmapPinsDropped s) := by
  unfold execUnmapPinsDropped; split <;> simp [h]

theorem execUndealCommand_sound (h : s.sound) : SoundOut (execUndealCommand s) := by
  refine (soundOut_next _).2 (command_sound s _ _ h ?_)
  dsimp only; split <;> simp [h]

theorem execCommitSvn_sound (h : s.sound) : SoundOut (execCommitSvn s) := by
  refine (soundOut_next _).2 (command_sound s _ _ h ?_)
  dsimp only; repeat' split
  all_goals simp [h]

@[simp] theorem setRow_sound (n r : Nat) (x : Row) (h : s.sound) (hx : rowWf x = true) : (s.setRow n r x).sound := by
  exact canonical_setRow s n r x h hx

@[simp] theorem copyRows_sound (hs rs hd rd k : Nat) (h : s.sound) : (s.copyRows hs rs hd rd k).1.sound :=
  canonical_copyRows k s hs rs hd rd h

theorem execRelocate_sound (h : s.sound) : SoundOut (execRelocate s) := by
  refine (soundOut_next _).2 (command_sound s _ _ h ?_)
  dsimp only; split <;> simp [h]

@[simp] theorem retable_sound (t : Placing) (h : s.sound) : (s.retable t).sound :=
  (sound_iff_canonical _).2 (canonical_retable s t h)

@[simp] theorem reroute_stored (t u : Placing) : (s.reroute t u).stored = s.stored := rfl

theorem execTableRewriteCommit_sound (h : s.sound) : SoundOut (execTableRewriteCommit s) := by
  unfold execTableRewriteCommit; dsimp only; repeat' split
  · simpa using h
  · simpa using h
  · simpa using h
  · exact (soundOut_next _).2 (retable_sound _ _ (by simpa using h))

@[simp] theorem execTableRewriteDrained_sound (h : s.sound) : SoundOut (execTableRewriteDrained s) := by
  unfold execTableRewriteDrained; dsimp only; split <;> simp [h]

/-- Unmarking granules one after another leaves their table canonical. -/
theorem mwf_unmarked (l : List (Nat × Nat)) (m : SMap Bool) (h : mwf false m = true) :
    mwf false (l.foldl (fun d e => mset false d e.2 false) m) = true :=
  List.foldlRecOn (motive := fun d => mwf false d = true) l _ h fun d hd _ _ => mwf_mset false d _ _ hd

theorem execDirtySnapshot_sound (slice : Nat) (w : Word) (h : s.sound) : SoundOut (execDirtySnapshot slice w s) := by
  unfold execDirtySnapshot; repeat' split
  · simpa using h
  · simpa using h
  · extract_lets gs v
    clear_value gs v
    obtain ⟨h1, h2, h3, h4, h5, h6, h7⟩ := (memoryWf_iff s.mem).1 h
    exact (soundOut_next _).2 ((memoryWf_iff _).2 ⟨h1, h2, h3, h4, h5, mwf_unmarked _ _ h6, h7⟩)

@[simp] theorem execHvecWrite_sound (die : Nat) (w : Word) (h : s.sound) : SoundOut (execHvecWrite die w s) := by
  unfold execHvecWrite; dsimp only; repeat' split
  all_goals simp [h]

end

/-! ## Host requests -/

section
variable (s : State)

@[simp] theorem ownerWrite_sound (o a : Nat) (w : Word) (h : s.sound) : SoundOut (s.ownerWrite o a w) := by
  unfold State.ownerWrite; dsimp only; repeat' split
  all_goals simp [h]

@[simp] theorem unsupported_mem (kind off len : Nat) (answered : Bool) : (s.unsupported kind off len answered).mem = s.mem := by
  unfold State.unsupported; split <;> rfl

@[simp] theorem noteHost_stored (off n : Nat) (r : Right) : (s.noteHost off n r).stored = s.stored := by
  unfold State.noteHost; dsimp only; repeat' split
  all_goals simp

@[simp] theorem sendParts_mem (o : Nat) (op : Nat → AOp) (l : List Loc) (i : Nat) : (s.sendParts o op l i).mem = s.mem := by
  induction l generalizing s i with
  | nil => rfl
  | cons x l ih => simp [State.sendParts, ih]

@[simp] theorem sendRequest_mem (o off n : Nat) (op : Nat → AOp) (ls : List Loc) : (s.sendRequest o off n op ls).mem = s.mem := by
  unfold State.sendRequest; split
  · simp
  · exact sendParts_mem _ _ _ _ _

theorem execHostRead_sound (off len : Nat) (h : s.sound) : SoundOut (execHostRead off len s) := by
  unfold execHostRead; dsimp only; repeat' split
  all_goals simp [h]

theorem execHostWrite_sound (off : Nat) (data : HostData) (h : s.sound) : SoundOut (execHostWrite off data s) := by
  unfold execHostWrite; dsimp only; repeat' split
  all_goals simp [h]

theorem execHostAtomicop_sound (off width : Nat) (op : HostAtomic) (b cmp : Word) (h : s.sound) :
    SoundOut (execHostAtomicop off width op b cmp s) := by
  unfold execHostAtomicop; dsimp only; repeat' split
  all_goals simp [h]

theorem execMailboxPush_sound (core : Nat) (w : Word) (h : s.sound) : SoundOut (execMailboxPush core w s) := by
  unfold execMailboxPush; repeat' split
  all_goals simp [h]

@[simp] theorem windowPost_sound (die dest o : Nat) (ws : List Word) (h : s.sound) : (s.windowPost die dest o ws).sound := by
  simp [State.windowPost, h]

@[simp] theorem servePosts_sound (dest : Nat) (h : s.sound) : (s.servePosts dest).sound :=
  foldl_sound _ _ _ h fun t e ht => windowPost_sound t e.1 dest e.2.1 e.2.2 ht

@[simp] theorem execPostPortPost_sound (die : Nat) (w : Word) (h : s.sound) : SoundOut (execPostPortPost die w s) := by
  unfold execPostPortPost; dsimp only; repeat' split
  all_goals simp [h]

end

/-! ## Stations of the conveyor -/

section
variable (s : State)

@[simp] theorem execHandTakesEffect_sound (strand mort : Nat) (h : s.sound) : SoundOut (execHandTakesEffect strand mort s) := by
  unfold execHandTakesEffect; split <;> simp [h]

@[simp] theorem snap_mem (ek beat : Nat) (w : BitVec 128) (acts : List Nat) : (s.snap ek beat w acts).mem = s.mem := rfl

@[simp] theorem carryRead_mem (strand mort : Nat) (key act : Nat) : (s.carryRead strand mort key act).mem = s.mem := by
  unfold State.carryRead; split <;> simp

@[simp] theorem stationReads_mem : s.stationReads.mem = s.mem := by
  unfold State.stationReads; dsimp only
  rw [foldl_mem _ _ _ fun t i => by split <;> simp, foldl_mem _ _ _ fun t ek => by split <;> simp]

@[simp] theorem depositBlk_mem (w : BitVec 128) (strand mort : Nat) (id i off : Nat) (b : Blk) :
    (s.depositBlk w strand mort id i off b).mem = s.mem := rfl

@[simp] theorem pushCopy_mem (strand mort : Nat) (w : Word) : (s.pushCopy strand mort w).mem = s.mem := by
  unfold State.pushCopy; dsimp only; split <;> simp

@[simp] theorem deposit_mem (w : BitVec 128) (strand mort act id : Nat) (p : List Blk) :
    (s.deposit w strand mort act id p).2.mem = s.mem := by
  unfold State.deposit; split
  · exact pushCopy_mem _ _ _ _
  · exact foldl_mem _ _ _ fun t i => depositBlk_mem t _ _ _ _ _ _ _

@[simp] theorem countBuf_stored (w : BitVec 128) (mort act : Nat) : (s.countBuf w mort act).stored = s.stored := by
  unfold State.countBuf; dsimp only; split <;> simp

@[simp] theorem actLoad_mem (w : BitVec 128) (ek mort act : Nat) (x : CSlot) : (s.actLoad w ek mort act x).state.mem = s.mem := by
  unfold State.actLoad; split <;> rfl

@[simp] theorem actAdd_mem (w : BitVec 128) (ek act : Nat) (x : CSlot) : (s.actAdd w ek act x).state.mem = s.mem := by
  unfold State.actAdd; dsimp only; split <;> rfl

@[simp] theorem actDeposit_mem (w : BitVec 128) (strand mort act id : Nat) (take : Bool) (x : CSlot) :
    (s.actDeposit w strand mort act id take x).state.mem = s.mem := by
  unfold State.actDeposit; extract_lets bad y
  split
  · rfl
  · exact deposit_mem _ _ _ _ _ _ _

@[simp] theorem station_sound (strand mort op : Nat) (h : s.sound) : (s.station strand mort op).sound := by
  unfold State.station; split
  · exact h
  extract_lets key ek e x
  split
  · exact h
  split
  · exact h
  split
  next t id u hu =>
    have hu : u.mem = s.mem := by rw [show u = (id, u).2 from rfl, ← hu]; rfl
    extract_lets a v t
    have ha : a.state.mem = s.mem := by simp only [a]; split <;> simp [hu]
    have hv : v.stored = s.stored := by
      simp only [v]; split
      · rw [countBuf_stored, State.stored, ha]
      · rw [State.stored, ha]
    have ht : t.sound := by rw [State.sound, show t.stored = v.stored from rfl, hv]; exact h
    split
    · exact ht
    · exact ht

theorem execStationLoad_sound (strand mort : Nat) (h : s.sound) : SoundOut (execStationLoad strand mort s) :=
  (soundOut_next _).2 (station_sound s strand mort 1 h)

theorem execStationCopy_sound (strand mort : Nat) (h : s.sound) : SoundOut (execStationCopy strand mort s) :=
  (soundOut_next _).2 (station_sound s strand mort 2 h)

theorem execStationAdd_sound (strand mort : Nat) (h : s.sound) : SoundOut (execStationAdd strand mort s) :=
  (soundOut_next _).2 (station_sound s strand mort 3 h)

theorem execStationTake_sound (strand mort : Nat) (h : s.sound) : SoundOut (execStationTake strand mort s) :=
  (soundOut_next _).2 (station_sound s strand mort 4 h)

@[simp] theorem execStationFlagRaise_sound (die : Nat) (h : s.sound) : SoundOut (execStationFlagRaise die s) := by
  simp [execStationFlagRaise, h]

@[simp] theorem execHeaderError_sound (strand : Nat) (e : HeaderNoise) (h : s.sound) : SoundOut (execHeaderError strand e s) := by
  unfold execHeaderError; dsimp only; repeat' split
  all_goals simp [h]

@[simp] theorem execHandWithhold_sound (strand mort : Nat) (h : s.sound) : SoundOut (execHandWithhold strand mort s) := by
  unfold execHandWithhold; dsimp only; repeat' split
  all_goals simp [h]

@[simp] theorem execParcelBoard_sound (strand mort : Nat) (h : s.sound) : SoundOut (execParcelBoard strand mort s) := by
  unfold execParcelBoard; dsimp only; repeat' split
  all_goals simp [h]

@[simp] theorem execSlotClaim_sound (strand mort : Nat) (h : s.sound) : SoundOut (execSlotClaim strand mort s) := by
  unfold execSlotClaim; dsimp only; repeat' split
  all_goals simp [h]

@[simp] theorem execParcelDelivery_sound (strand mort : Nat) (h : s.sound) : SoundOut (execParcelDelivery strand mort s) := by
  unfold execParcelDelivery; dsimp only; repeat' split
  all_goals simp [h]

@[simp] theorem execFullSlotReturn_sound (strand mort : Nat) (h : s.sound) : SoundOut (execFullSlotReturn strand mort s) := by
  unfold execFullSlotReturn; dsimp only; repeat' split
  all_goals simp [h]

@[simp] theorem execGroupQuarantineEnd_sound (gid : Nat) (h : s.sound) : SoundOut (execGroupQuarantineEnd gid s) := by
  unfold execGroupQuarantineEnd; dsimp only; split <;> simp [h]

end

/-! ## Ports and circuits -/

section
variable (s : State)

@[simp] theorem onPorts_mem (f : Port → Port) : (s.onPorts f).mem = s.mem := foldl_mem _ _ _ fun _ _ => rfl

theorem execDomainJoin_sound (pkg time : Nat) (h : s.sound) : SoundOut (execDomainJoin pkg time s) := by
  unfold execDomainJoin; split <;> simpa using h

theorem execCircuitSlotStart_sound (h : s.sound) : SoundOut (execCircuitSlotStart s) := by
  unfold execCircuitSlotStart; dsimp only; split <;> simpa using h

@[simp] theorem dropOut_mem (o : Outgoing) (send trans : BitVec 8) : (s.dropOut o send trans).mem = s.mem := by
  unfold State.dropOut; repeat' split
  all_goals rfl

@[simp] theorem flushPort_mem (p : Nat) (test : Outgoing → Bool) (send trans : BitVec 8) :
    (s.flushPort p test send trans).mem = s.mem := by
  simp [State.flushPort]

@[simp] theorem rerouteTrans_mem (p : Nat) : (s.rerouteTrans p).mem = s.mem := by
  unfold State.rerouteTrans; extract_lets lost moved t u
  have hu : u.mem = t.mem := foldl_mem _ _ _ fun v o => by split <;> rfl
  rw [flushPort_mem, hu, onPort_mem]

theorem execCircuitCommit_sound (h : s.sound) : SoundOut (execCircuitCommit s) := by
  unfold execCircuitCommit; split
  · exact (soundOut_next _).2 h
  · extract_lets old changed t u
    split
    · exact (soundOut_next _).2 h
    · have hu : u.mem = t.mem := foldl_mem _ _ _ fun v p => by rw [flushPort_mem, onPort_mem]
      have ht : t.sound := h
      refine (soundOut_next _).2 ?_
      rw [State.sound, State.stored, foldl_mem _ _ _ fun v p => rerouteTrans_mem v p, hu]; exact ht

@[simp] theorem portDown_mem (p : Nat) : (s.portDown p).mem = s.mem := by
  unfold State.portDown; split <;> simp

@[simp] theorem noteOffset_mem (off : Int) : (s.noteOffset off).mem = s.mem := by
  unfold State.noteOffset; dsimp only; repeat' split
  all_goals simp

@[simp] theorem noteFlight_mem (p flight : Nat) : (s.noteFlight p flight).mem = s.mem := by
  unfold State.noteFlight; split <;> simp

@[simp] theorem execControlFrame_sound (g : ControlInfo) (h : s.sound) : SoundOut (execControlFrame g s) := by
  unfold execControlFrame; dsimp only; repeat' split
  all_goals simp [h]

@[simp] theorem execDataWindowOpen_sound (port : Nat) (h : s.sound) : SoundOut (execDataWindowOpen port s) := by
  unfold execDataWindowOpen; dsimp only; repeat' split
  all_goals simp [h]

@[simp] theorem execFrameReplayRequest_sound (port seq : Nat) (h : s.sound) : SoundOut (execFrameReplayRequest port seq s) := by
  unfold execFrameReplayRequest; repeat' split
  all_goals simp [h]

@[simp] theorem execFecFrameUncorrectable_sound (port seq : Nat) (h : s.sound) :
    SoundOut (execFecFrameUncorrectable port seq s) := by
  unfold execFecFrameUncorrectable; dsimp only; repeat' split
  all_goals simp [h]

@[simp] theorem execSendAccepted_sound (port id : Nat) (bytes code : Nat) (h : s.sound) :
    SoundOut (execSendAccepted port id bytes code s) := by
  unfold execSendAccepted; dsimp only; repeat' split
  all_goals simp [h]

@[simp] theorem execPortReopen_sound (port : Nat) (h : s.sound) : SoundOut (execPortReopen port s) := by
  unfold execPortReopen; repeat' split
  all_goals simp [h]

@[simp] theorem execPortHealthWindow_sound (port : Nat) (h : s.sound) : SoundOut (execPortHealthWindow port s) := by
  unfold execPortHealthWindow; dsimp only; split <;> simp [h]

@[simp] theorem execPortPark_sound (port : Nat) (h : s.sound) : SoundOut (execPortPark port s) := by
  unfold execPortPark; repeat' split
  all_goals simp [h]

@[simp] theorem execPortWake_sound (port : Nat) (h : s.sound) : SoundOut (execPortWake port s) := by
  unfold execPortWake; repeat' split
  all_goals simp [h]

@[simp] theorem execPortIdleTimeout_sound (port : Nat) (h : s.sound) : SoundOut (execPortIdleTimeout port s) := by
  unfold execPortIdleTimeout; dsimp only; split <;> simp [h]

@[simp] theorem execWidthChangeBoundary_sound (port : Nat) (h : s.sound) : SoundOut (execWidthChangeBoundary port s) := by
  unfold execWidthChangeBoundary; dsimp only; repeat' split
  all_goals simp [h]

@[simp] theorem execWavelengthRelockDone_sound (port : Nat) (h : s.sound) : SoundOut (execWavelengthRelockDone port s) := by
  unfold execWavelengthRelockDone; dsimp only; split <;> simp [h]

@[simp] theorem execWakeBudgetExpired_sound (port : Nat) (h : s.sound) : SoundOut (execWakeBudgetExpired port s) := by
  unfold execWakeBudgetExpired; dsimp only; split <;> simp [h]

@[simp] theorem guardDrop_mem (port : Nat) : (s.guardDrop port).mem = s.mem := rfl

@[simp] theorem execTransactionFlit_sound (t : Transaction) (h : s.sound) : SoundOut (execTransactionFlit t s) := by
  unfold execTransactionFlit; dsimp only; repeat' split
  all_goals simp [h]

@[simp] theorem takeBlock_stored (f : SendFlit) : (s.takeBlock f).stored = s.stored := by
  unfold State.takeBlock; dsimp only; split <;> simp

@[simp] theorem takeEnqueue_sound (f : EnqueueFlit) (h : s.sound) : (s.takeEnqueue f).sound := by
  unfold State.takeEnqueue; dsimp only; repeat' split
  all_goals simp [h]

@[simp] theorem execSendDataFlit_sound (f : SendData) (h : s.sound) : SoundOut (execSendDataFlit f s) := by
  unfold execSendDataFlit; repeat' split
  all_goals simp [h]

@[simp] theorem dropPacket_mem : (s.dropPacket).mem = s.mem := rfl

@[simp] theorem putChunk_sound (k c : Nat) (x : Chunk) (h : s.sound) : (s.putChunk k c x).sound := by
  unfold State.putChunk; repeat' split
  all_goals simp [h]

@[simp] theorem execSweepAdd_sound (die stage chunk : Nat) (h : s.sound) : SoundOut (execSweepAdd die stage chunk s) := by
  unfold execSweepAdd; dsimp only; repeat' split
  all_goals simp [h]

@[simp] theorem addOperands_mem (k : Nat) (g : CollPacket) : (s.addOperands k g).mem = s.mem := rfl

@[simp] theorem depositPacket_sound (k : Nat) (g : CollPacket) (h : s.sound) : (s.depositPacket k g).sound :=
  foldl_sound _ _ _ h fun t _ ht => putChunk_sound t _ _ _ ht

@[simp] theorem forward_mem (port : Nat) (g : CollPacket) : (s.forward port g).mem = s.mem := by
  unfold State.forward; dsimp only; repeat' split
  all_goals simp

theorem execCollectivePacket_sound (port : Nat) (g : CollPacket) (h : s.sound) : SoundOut (execCollectivePacket port g s) := by
  unfold execCollectivePacket; extract_lets die e op k rest bad
  clear_value op
  repeat' with_reducible refine soundOut_ite ?_ ?_
  · exact (soundOut_next _).2 h
  · simpa using h
  · simpa using h
  · refine (soundOut_next _).2 ?_
    split <;> simpa using h
  · simpa using h
  · split
    · simpa using h
    · refine soundOut_ite ?_ ?_
      · simpa using h
      · split <;> simp [h]

@[simp] theorem abortRun_sound (handle seq : Nat) (h : s.sound) : (s.abortRun handle seq).sound := by
  unfold State.abortRun; extract_lets t old u run
  refine foldl_sound _ _ _ (foldl_sound _ _ _ h fun v p hv => ?_) fun v k hv => endRun_sound v k 1 hv
  refine foldl_sound _ _ _ hv fun v o hv => ?_
  rw [State.sound, State.stored, dropPacket_mem]; split
  · exact hv
  · rw [onX_mem]; exact hv

theorem execCollectiveAbort_sound (handle seq : Nat) (h : s.sound) : SoundOut (execCollectiveAbort handle seq s) :=
  (soundOut_next _).2 (foldl_sound _ _ _ (abortRun_sound s _ _ h) fun t k ht => preemptSlice_sound t k ht)

theorem execAbortFlit_sound (f : AbortFrom) (seq : Nat) (h : s.sound) : SoundOut (execAbortFlit f seq s) := by
  unfold execAbortFlit; repeat' split
  all_goals simp [h]

end

/-! ## Launches, migration and attestation -/

section
variable (s : State)

@[simp] theorem dropLaunch_mem : (s.dropLaunch).mem = s.mem := rfl

@[simp] theorem takeLaunch_sound (src : LaunchSrc) (ws : List Word) (h : s.sound) : (s.takeLaunch src ws).sound := by
  unfold State.takeLaunch; split
  · simpa using h
  · split
    · simpa using h
    · exact preemptSlice_sound _ _ h

@[simp] theorem serveLaunches_sound (k : Nat) (h : s.sound) : (State.serveLaunches k s).sound := by
  induction k generalizing s with
  | zero => exact h
  | succ k ih =>
    unfold State.serveLaunches; split
    · exact ih _ (takeLaunch_sound _ _ _ h)
    · exact h

theorem execLaunchPacket_sound (g : LaunchMsg) (h : s.sound) : SoundOut (execLaunchPacket g s) :=
  (soundOut_next _).2 (serveLaunches_sound _ _ h)

/-- Descriptors posted one after another leave storage canonical. -/
theorem postAll_sound (owner slice : Nat) (l : List (List Word)) {r : List Nat × State} (h : s.sound)
    (hr : s.postAll owner slice l = .ok r) : r.2.sound := by
  induction l generalizing s r with
  | nil => cases hr; exact h
  | cons d rest ih =>
    have hd := postDesc_sound s (descDie d) d owner none slice none h
    unfold State.postAll at hr; dsimp only at hr; repeat' split at hr
    · cases hr
    · cases hr
    · next rows u hu =>
        cases hr
        have hv := ih _ hd hu
        exact hv
    · cases hr

@[simp] theorem endLaunch_sound (g : Launch) (status : Nat) (rows : List Nat) (h : s.sound) :
    (s.endLaunch g status rows).sound := by
  unfold State.endLaunch; extract_lets gangs u
  refine serveLaunches_sound _ _ ?_
  split <;> exact h

theorem execSliceSetAside_sound (h : s.sound) : SoundOut (execSliceSetAside s) := by
  unfold execSliceSetAside; split
  · exact (soundOut_next _).2 (serveLaunches_sound _ _ h)
  · next g _ =>
      extract_lets full src t owned posted
      have ht : t.sound := h
      split
      · refine (soundOut_next _).2 ?_
        split
        · exact h
        · exact endLaunch_sound s _ _ _ h
      · split
        · exact (soundOut_next _).2 h
        · rcases hp : posted with e | ⟨rows, u⟩
          · exact (soundOut_next _).2 (endLaunch_sound t _ _ _ ht)
          · have hv : u.sound := by
              simp only [posted] at hp; split at hp
              · exact postAll_sound t _ _ _ ht hp
              · cases hp
            refine (soundOut_next _).2 ?_
            split
            · exact hv
            · exact endLaunch_sound u _ _ _ hv

@[simp] theorem openExchange_mem (slice : Nat) : (s.openExchange slice).mem = s.mem := rfl

@[simp] theorem setThermal_sound (f : Fleet) (h : s.sound) : (s.setThermal f).sound := by
  unfold State.setThermal; dsimp only; split
  · rw [State.sound, State.stored, restretch_mem]; exact foldl_sound _ _ _ h fun t n ht => requestPreempt_sound t n ht
  · exact h

@[simp] theorem execThermalChange_sound (mort temp : Nat) (h : s.sound) : SoundOut (execThermalChange mort temp s) := by
  unfold execThermalChange; split <;> simp [h]

@[simp] theorem endPass_mem : (s.endPass).mem = s.mem := by
  unfold State.endPass; split <;> rfl

@[simp] theorem readPart_stored (l : Loc) (n : Nat) : (s.readPart l n).stored = s.stored := by
  refine foldl_stored _ _ _ fun t i => ?_
  dsimp only; split <;> simp

@[simp] theorem passEntry_sound (h : s.sound) : s.passEntry.sound := by
  have clean (l : Loc) : State.sound { s with mem := (s.mem.takeDirty l).2 } := memoryWf_takeDirty _ _ h
  unfold State.passEntry; repeat' split
  · simpa using h
  · exact h
  all_goals dsimp only
  all_goals repeat' split
  all_goals simp [clean, h]

theorem execMigrationPass_sound (h : s.sound) : SoundOut (execMigrationPass s) := by
  unfold execMigrationPass; repeat' split
  all_goals simp [h]

@[simp] theorem execRecordAck_sound (seq : Nat) (h : s.sound) : SoundOut (execRecordAck seq s) := by simp [execRecordAck, h]

@[simp] theorem execMigrationReceive_sound (h : s.sound) : SoundOut (execMigrationReceive s) := by
  unfold execMigrationReceive; repeat' split
  all_goals simp [h]

@[simp] theorem migDone_mem (r : Nat) : (s.migDone r).mem = s.mem := rfl

@[simp] theorem execMigrationAbort_sound (h : s.sound) : SoundOut (execMigrationAbort s) := by
  unfold execMigrationAbort; repeat' split
  all_goals simp [h]

@[simp] theorem execSessionKeyInstall_sound (w : Word) (h : s.sound) : SoundOut (execSessionKeyInstall w s) := by
  unfold execSessionKeyInstall; repeat' split
  all_goals simp [h]

@[simp] theorem execMsessWrite_sound (w : Word) (h : s.sound) : SoundOut (execMsessWrite w s) := by
  unfold execMsessWrite; repeat' split
  all_goals simp [h]

@[simp] theorem noteGranule_stored (va : Nat) : (s.noteGranule va).stored = s.stored := by
  unfold State.noteGranule; repeat' split
  all_goals simp

@[simp] theorem execGranuleRecord_sound (g : GranuleRec) (h : s.sound) : SoundOut (execGranuleRecord g s) := by
  unfold execGranuleRecord; dsimp only; repeat' split
  all_goals simp [h]

@[simp] theorem execTaskExport_sound (h : s.sound) : SoundOut (execTaskExport s) := by
  unfold execTaskExport; repeat' split
  all_goals simp [h]

@[simp] theorem execTaskImport_sound (h : s.sound) : SoundOut (execTaskImport s) := by
  unfold execTaskImport; repeat' split
  all_goals simp [h]

/-- A run of steps that may fail leaves storage canonical where each step that answers does. -/
theorem foldl_some_sound {α β : Type} (f : Option (α × State) → β → Option (α × State)) (l : List β)
    (hn : ∀ p, f none p = none) (hf : ∀ a p r, a.2.sound → f (some a) p = some r → r.2.sound)
    {a r : α × State} (ha : a.2.sound) (hr : l.foldl f (some a) = some r) : r.2.sound := by
  induction l generalizing a with
  | nil => cases hr; exact ha
  | cons p l ih =>
    rw [List.foldl_cons] at hr
    cases hp : f (some a) p with
    | none => rw [hp, List.foldl_fixed' hn] at hr; cases hr
    | some b => rw [hp] at hr; exact ih (hf a p b ha hp) hr

theorem importBases_sound (owner : Nat) (l : List (List Word)) {r : SMap Base × State} (h : s.sound)
    (hr : s.importBases owner l = some r) : r.2.sound := by
  refine foldl_some_sound _ l (fun _ => rfl) (fun a p r ha hp => ?_) h hr
  dsimp only at hp; split at hp
  · cases hp
  · cases hp; simp [ha]

theorem importTiles_sound (owner : Nat) (l : List (List Word)) {r : SMap WTile × State} (h : s.sound)
    (hr : s.importTiles owner l = some r) : r.2.sound := by
  refine foldl_some_sound _ l (fun _ => rfl) (fun a p r ha hp => ?_) h hr
  dsimp only at hp; repeat' split at hp
  all_goals cases hp
  all_goals simp [ha]

/-- Regions taken from a record keep the bytes of a context a canonical table. -/
theorem mwf_takeRegions (rs : List (Nat × Nat)) (c : Ctx) (l : List Word) (h : mwf 0 c.bytes = true) :
    mwf 0 (c.takeRegions rs l).bytes = true := by
  induction rs generalizing c l with
  | nil => exact h
  | cons r rs ih => exact ih _ _ (mwf_msetList 0 _ _ _ h)

theorem mwf_take (c : Ctx) (k now kind : Nat) (l : List Word) (h : mwf 0 c.bytes = true) :
    mwf 0 (c.take k now kind l).bytes = true := by
  unfold Ctx.take; split
  case h_7 => exact mwf_takeRegions _ _ _ h
  all_goals exact h

theorem mwf_importCtx (rs : List TypedRec) (bases : SMap Base) (tiles : SMap WTile) :
    mwf 0 (s.importCtx rs bases tiles).bytes = true :=
  List.foldlRecOn (motive := fun c : Ctx => mwf 0 c.bytes = true) rs _ rfl fun c hc _ _ => mwf_take c _ _ _ _ hc

@[simp] theorem importEnd_sound (last : TypedRec) (h : s.sound) : (s.importEnd last).sound := by
  unfold State.importEnd
  generalize List.range 1600 = us
  extract_lets m ws entry
  split
  · simpa using h
  split
  · split
    · simpa using h
    split
    · simpa using h
    split
    · simpa using h
    next bases u hb =>
      have hu : u.sound := importBases_sound s _ _ h hb
      split
      · simpa using h
      next tiles v hv =>
        have hw : v.sound := importTiles_sound u _ _ hu hv
        extract_lets c x
        have hc : mwf 0 c.bytes = true := mwf_importCtx v _ _ _
        split
        next r w z hz =>
          have hz : z.sound := by rw [show z = (w, z).2 from rfl, ← hz]; exact hw
          extract_lets z1 z2 a
          have h1 : z1.sound := takeSlot_sound _ _ _ (by rw [State.sound, State.stored, setTask_mem]; exact addPins_sound z _ hz)
          have h2 : z2.sound := by rw [State.sound, State.stored, onDie_mem]; exact storeUnits_sound z1 _ _ _ _ _ _ h1 hc
          rw [State.sound, State.stored, migDone_mem]
          exact devWrite_sound _ _ _ _ (devWrite_sound _ _ _ _ h2)
  · simpa using h

theorem execTypedStateRecord_sound (g : StateRec) (h : s.sound) : SoundOut (execTypedStateRecord g s) := by
  unfold execTypedStateRecord; repeat' split
  · exact (soundOut_next _).2 h
  · exact (soundOut_next _).2 h
  · exact (soundOut_next _).2 h
  · dsimp only; split
    · exact (soundOut_next _).2 (importEnd_sound _ _ h)
    · exact (soundOut_next _).2 h

@[simp] theorem execNonceWrite_sound (i : Nat) (w : Word) (h : s.sound) : SoundOut (execNonceWrite i w s) := by
  unfold execNonceWrite; split <;> simp [h]

@[simp] theorem execQuote_sound (h : s.sound) : SoundOut (execQuote s) := by simp [execQuote, h]

@[simp] theorem execQuoteSigned_sound (h : s.sound) : SoundOut (execQuoteSigned s) := by
  unfold execQuoteSigned; split <;> simp [h]

@[simp] theorem execUpdateVerify_sound (h : s.sound) : SoundOut (execUpdateVerify s) := by
  unfold execUpdateVerify; split <;> simp [h]

@[simp] theorem execUpdateVerifyDone_sound (h : s.sound) : SoundOut (execUpdateVerifyDone s) := by
  unfold execUpdateVerifyDone; split <;> simp [h]

@[simp] theorem execUpdateInstall_sound (h : s.sound) : SoundOut (execUpdateInstall s) := by
  unfold execUpdateInstall; split <;> simp [h]

@[simp] theorem execUpdateInstallDone_sound (ok : Bool) (h : s.sound) : SoundOut (execUpdateInstallDone ok s) := by
  unfold execUpdateInstallDone; repeat' split
  all_goals simp [h]

@[simp] theorem execUploadWindowWrite_sound (off : Nat) (bytes : List Byte) (h : s.sound) :
    SoundOut (execUploadWindowWrite off bytes s) := by
  unfold execUploadWindowWrite; split <;> simp [h]

end

/-! ## Register writes -/

section
variable (s : State)

theorem andThen_sound (o : Out) (k : State → Out) (ho : SoundOut o) (hk : ∀ t, t.sound → SoundOut (k t)) :
    SoundOut (andThen o k) := by
  cases o with
  | next t => exact hk t (ho t rfl)
  | _ => exact fun _ e => nomatch e

theorem onBit_sound (b : Bool) (f : State → Out) (h : s.sound) (hf : SoundOut (f s)) : SoundOut (onBit b f s) := by
  unfold onBit; split
  · exact hf
  · exact (soundOut_next _).2 h

theorem bootWrite_sound (a : Nat) (w : Word) (h : s.sound) : SoundOut (s.bootWrite a w) := by
  unfold State.bootWrite; repeat' split
  · exact execNonceWrite_sound _ _ _ h
  · exact onBit_sound _ _ _ h (execQuote_sound s h)
  · exact andThen_sound _ _ (onBit_sound _ _ _ h (execUpdateVerify_sound s h)) fun t ht =>
      onBit_sound _ _ _ ht (execUpdateInstall_sound t ht)
  · exact (soundOut_next _).2 h
  · exact (soundOut_next _).2 h

theorem featureWrite_sound (a : Nat) (w : Word) (h : s.sound) : SoundOut (s.featureWrite a w) := by
  unfold State.featureWrite; repeat' split
  case isFalse.isFalse.isTrue => exact onBit_sound _ _ _ h (execFeatureGo_sound s h)
  all_goals exact (soundOut_next _).2 h

theorem cmdWrite_sound (a : Nat) (w : Word) (h : s.sound) : SoundOut (s.cmdWrite a w) := by
  unfold State.cmdWrite; repeat' with_reducible refine soundOut_ite ?_ ?_
  · exact execRegisterImage_sound s h
  · exact execUnregisterImage_sound s h
  · exact execUnmap_sound s h
  · exact execRelocate_sound s h
  · exact execUndealCommand_sound s h
  · exact execCommitSvn_sound s h
  all_goals exact (soundOut_next _).2 h

theorem tableWrite_sound (a : Nat) (w : Word) (h : s.sound) : SoundOut (s.tableWrite a w) := by
  unfold State.tableWrite; dsimp only; repeat' with_reducible refine soundOut_ite ?_ ?_
  · exact onBit_sound _ _ _ h (execTableRewriteCommit_sound s h)
  all_goals exact (soundOut_next _).2 h

@[simp] theorem cxWrite_sound (d : Nat) (w : Word) (h : s.sound) : (s.cxWrite d w).sound := by
  unfold State.cxWrite; dsimp only; split
  · exact h
  · exact grantSlots_sound _ _ _ h

theorem reqWrite_sound (d : Nat) (w : Word) (h : s.sound) : SoundOut (s.reqWrite d w) := by
  unfold State.reqWrite; dsimp only; split
  · exact (soundOut_next _).2 h
  · refine andThen_sound _ _ (andThen_sound _ _ (onBit_sound _ _ _ h (execPreemptCancel_sound _ _ _ h)) fun t ht => ?_)
      fun t ht => ?_
    · exact onBit_sound _ _ _ ht (execPreemptRequest_sound t _ _ ht)
    · exact onBit_sound _ _ _ ht (execDriverInterrupt_sound t _ _ _ ht)

@[simp] theorem errorWrite_stored (key : Nat) (w : Word) : (s.errorWrite key w).stored = s.stored := rfl

@[simp] theorem flagWrite_stored (poc : Nat) (w : Word) : (s.flagWrite poc w).stored = s.stored := rfl

@[simp] theorem dmapWrite_mem (d a : Nat) (w : Word) : (s.dmapWrite d a w).mem = s.mem := by
  unfold State.dmapWrite; dsimp only; split <;> simp

theorem dieWrite_sound (d a : Nat) (w : Word) (h : s.sound) : SoundOut (s.dieWrite d a w) := by
  unfold State.dieWrite; repeat' with_reducible refine soundOut_ite ?_ ?_
  · simpa using h
  · exact execPostPortPost_sound s _ _ h
  · simpa using h
  · simpa using h
  · exact execHvecWrite_sound s _ _ h
  · simpa using h
  · simpa using h
  · exact (soundOut_next _).2 (cxWrite_sound s _ _ h)
  · simpa using h
  · exact reqWrite_sound s _ _ h
  all_goals simp [h]

theorem healthWrite_sound (m a : Nat) (w : Word) (h : s.sound) : SoundOut (s.healthWrite m a w) := by
  unfold State.healthWrite; extract_lets i win t u
  have hu : u.sound := by
    rw [State.sound, State.stored, onModule_mem]; simp only [t]; split
    · rw [badWrite_mem]; exact h
    · exact h
  exact onBit_sound _ _ _ hu (execModuleRetrainRequest_sound u _ _ hu)

@[simp] theorem powerWrite_sound (a : Nat) (w : Word) (h : s.sound) : (s.powerWrite a w).sound := by
  unfold State.powerWrite; dsimp only; repeat' split
  all_goals simp [h]

theorem mctlWrite_sound (w : Word) (h : s.sound) : SoundOut (s.mctlWrite w) := by
  unfold State.mctlWrite; split
  · split
    · exact execMigrationAbort_sound s h
    · exact (soundOut_next _).2 h
  · split
    · exact onBit_sound _ _ _ h (execMigrationReceive_sound _ h)
    · exact onBit_sound _ _ _ h (execMigrationPass_sound _ h)

theorem mxctlWrite_sound (w : Word) (h : s.sound) : SoundOut (s.mxctlWrite w) := by
  unfold State.mxctlWrite; split
  · exact (soundOut_next _).2 h
  · split
    · exact onBit_sound _ _ _ h (execTaskImport_sound _ h)
    · exact onBit_sound _ _ _ h (execTaskExport_sound _ h)

theorem migWrite_sound (a : Nat) (w : Word) (h : s.sound) : SoundOut (s.migWrite a w) := by
  unfold State.migWrite; repeat' with_reducible refine soundOut_ite ?_ ?_
  · exact (soundOut_next _).2 h
  · exact mctlWrite_sound s w h
  · exact (soundOut_next _).2 h
  · exact (soundOut_next _).2 h
  · exact (soundOut_next _).2 h
  · exact (soundOut_next _).2 h
  · exact (soundOut_next _).2 h
  · exact execMsessWrite_sound s w h
  · exact execSessionKeyInstall_sound s w h
  · exact (soundOut_next _).2 h
  · exact mxctlWrite_sound s w h
  · exact (soundOut_next _).2 h
  · exact (soundOut_next _).2 h

theorem stationWrite_sound (m a : Nat) (w : Word) (h : s.sound) : SoundOut (s.stationWrite m a w) := by
  unfold State.stationWrite; dsimp only; repeat' split
  · simpa using h
  · exact healthWrite_sound s _ _ _ h
  · simpa using h
  · simp [h]
  · exact migWrite_sound s _ _ h
  · simpa using h

theorem portWrite_sound (p i : Nat) (w : Word) (h : s.sound) : SoundOut (s.portWrite p i w) := by
  unfold State.portWrite; split
  · exact onBit_sound _ _ _ h (execPortReopen_sound _ _ h)
  · exact (soundOut_next _).2 h
  · extract_lets idle ok t
    have ht : t.sound := by simp only [t]; split <;> exact h
    exact andThen_sound _ _ (onBit_sound _ _ _ ht (execPortWake_sound _ _ ht)) fun t ht =>
      onBit_sound _ _ _ ht (execPortPark_sound t _ ht)
  · exact (soundOut_next _).2 h
  · exact (soundOut_next _).2 h

theorem sliceWrite_sound (n a : Nat) (w : Word) (h : s.sound) : SoundOut (s.sliceWrite n a w) := by
  unfold State.sliceWrite; repeat' split
  · simp [h]
  · exact execDirtySnapshot_sound s _ _ h
  · simp [h]
  · simpa using h
  · simpa using h

theorem bar0Write_sound (off : Nat) (w : Word) (h : s.sound) : SoundOut (s.bar0Write off w) := by
  unfold State.bar0Write; dsimp only; repeat' with_reducible refine soundOut_ite ?_ ?_
  · simp [h]
  · simpa using h
  · exact bootWrite_sound s _ _ h
  · exact featureWrite_sound s _ _ h
  · exact cmdWrite_sound s _ _ h
  · exact tableWrite_sound s _ _ h
  · exact dieWrite_sound s _ _ _ h
  · exact stationWrite_sound s _ _ _ h
  · exact portWrite_sound s _ _ _ h
  · simpa using h
  · simpa using h
  · exact sliceWrite_sound s _ _ _ h
  · exact execUploadWindowWrite_sound _ _ _ h
  · simpa using h

theorem bar2Write_sound (off : Nat) (w : Word) (h : s.sound) : SoundOut (s.bar2Write off w) := by
  unfold State.bar2Write; dsimp only; repeat' split
  · simpa using h
  · exact execMailboxPush_sound s _ _ h
  · simpa using h
  · simpa using h

theorem execRegisterWrite_sound (bar off : Nat) (w : Word) (h : s.sound) : SoundOut (execRegisterWrite bar off w s) := by
  unfold execRegisterWrite; repeat' split
  · exact bar0Write_sound s _ _ h
  · exact bar2Write_sound s _ _ h
  · exact execHostWrite_sound s _ _ h
  · exact (soundOut_next _).2 h

end

/-! ## Scalar instructions -/

section
variable (s : State)

theorem execSel_sound (o : RForm) (h : s.sound) : SoundOut (execSel o s) := by
  refine cIssue_sound s _ _ _ _ h ?_
  simpa using h

theorem execIns_sound (o : XForm) (h : s.sound) : SoundOut (execIns o s) := by
  refine cIssue_sound s _ _ _ _ h ?_
  simpa using h

theorem execMovh_sound (d : BitVec 6) (i : BitVec 20) (h : s.sound) : SoundOut (execMovh d i s) := by
  refine cIssue_sound s _ _ _ _ h ?_
  simpa using h

theorem transfer_sound (t : Int) (k : State → State) (h : s.sound) (hk : (k s).sound) : SoundOut (s.transfer t k) := by
  unfold State.transfer; split
  · exact (soundOut_next _).2 hk
  · exact (soundOut_next _).2 (trapAt_sound s _ _ h)

/-- An instruction that may transfer control leaves storage canonical where what it does does. -/
theorem cJump_sound (srcs : List Src) (dst : Option (BitVec 6)) (k : State → Out) (h : s.sound) (hk : SoundOut (k s)) :
    SoundOut (cJump s srcs dst k) := by
  unfold cJump; split
  · exact (soundOut_next _).2 (trapAt_sound s _ _ h)
  · exact (soundOut_next _).2 h
  · exact hk

theorem fall_sound (k : State → State) (h : s.sound) (hk : (k s).sound) : SoundOut (s.fall k) := by
  unfold State.fall; split
  · exact (soundOut_next _).2 hk
  · exact (soundOut_next _).2 (trapAt_sound s _ _ h)

theorem execBr_sound (o : BForm) (h : s.sound) : SoundOut (execBr o s) := by
  have hr : (s.readSrc o.a o.p).2.sound := by simpa using h
  refine cJump_sound s _ _ _ h ?_
  dsimp only; split
  · exact transfer_sound s _ _ h hr
  · exact fall_sound s _ h hr

theorem execLoop_sound (a : BitVec 6) (n : BitVec 15) (h : s.sound) : SoundOut (execLoop a n s) := by
  have hw (v : Word) : ((s.readSrc a false).2.writeDst a 1 v).sound := by simpa using h
  refine cJump_sound s _ _ _ h ?_
  dsimp only; split
  · exact transfer_sound s _ _ h (hw _)
  · exact fall_sound s _ h (hw _)

theorem execJmp_sound (n : BitVec 26) (h : s.sound) : SoundOut (execJmp n s) :=
  cJump_sound s _ _ _ h (transfer_sound s _ _ h h)

theorem execJal_sound (n : BitVec 26) (h : s.sound) : SoundOut (execJal n s) :=
  cJump_sound s _ _ _ h (transfer_sound s _ _ h (by simpa using h))

theorem execJr_sound (o : OForm) (h : s.sound) : SoundOut (execJr o s) :=
  cJump_sound s _ _ _ h (transfer_sound s _ _ h (by simpa using h))

@[simp] theorem bindChan_mem (d : BitVec 6) (q : Queue) : (s.bindChan d q).mem = s.mem := by
  unfold State.bindChan; dsimp only; repeat' split
  all_goals simp

theorem execChbind_sound (d : BitVec 6) (k : BitVec 3) (sel : BitVec 10) (h : s.sound) : SoundOut (execChbind d k sel s) := by
  unfold execChbind; repeat' split
  · simp [h]
  · simp [h]
  · refine cIssue_sound s _ _ _ _ h ?_
    simpa using h

theorem execChlvl_sound (d a : BitVec 6) (h : s.sound) : SoundOut (execChlvl d a s) := by
  unfold execChlvl; split
  · simp [h]
  · refine cIssue_sound s _ _ _ _ h ?_
    simpa using h

theorem execChdrop_sound (a : BitVec 6) (h : s.sound) : SoundOut (execChdrop a s) := by
  unfold execChdrop; split
  · simp [h]
  · refine cIssue_sound s _ _ _ _ h ?_
    simpa using h

theorem execNop_sound (n : BitVec 26) (h : s.sound) : SoundOut (execNop n s) := by
  refine cIssue_sound s _ _ _ _ h ?_
  simpa using h

end

/-! ## Every instruction -/

section
variable (s : State)

/-- Every instruction leaves canonical storage canonical, whatever it answers. -/
theorem exec_sound (i : Instr) (h : s.sound) : SoundOut (exec i s) := by
  cases i with
  | add o | sub o | mul o | mulh o | mulhn o | div o | divn o | rem o | remn o | and_ o | or_ o | xor o | shl o
    | shr o | sra o | rotl o | min_ o | max_ o | minn o | maxn o => exact alu2_sound s _ _ o h
  | andn o => rw [exec_andn, execAndn]; exact alu2_sound s _ _ o h
  | clz | ctz | popc | ext_ => exact alu1_sound s _ _ _ _ _ h
  | sel o => exact execSel_sound s o h
  | adds o => rw [exec_adds, execAdds]; exact alu2_sound s _ _ o h
  | cmp o => rw [exec_cmp, execCmp]; exact alu2_sound s _ _ o h
  | addi => rw [exec_addi, execAddi]; exact alu1_sound s _ _ _ _ _ h
  | andi => rw [exec_andi, execAndi]; exact alu1_sound s _ _ _ _ _ h
  | ori => rw [exec_ori, execOri]; exact alu1_sound s _ _ _ _ _ h
  | xori => rw [exec_xori, execXori]; exact alu1_sound s _ _ _ _ _ h
  | shli => rw [exec_shli, execShli]; exact alu1_sound s _ _ _ _ _ h
  | shri => rw [exec_shri, execShri]; exact alu1_sound s _ _ _ _ _ h
  | srai => rw [exec_srai, execSrai]; exact alu1_sound s _ _ _ _ _ h
  | cmpi => rw [exec_cmpi, execCmpi]; exact alu1_sound s _ _ _ _ _ h
  | ins o => exact execIns_sound s o h
  | movh d ix => exact execMovh_sound s d ix h
  | ldI8 | ldB16 | ldI32 | ldN32 | ldI64 | stI8 | stB16 | stI32 | stI64 | amoI32 | amoFadd | amoN32 | amoI64 | casI32
    | casN32 | casI64 | sqadd | wake | fpeek => exact scalarAccess_sound s rfl h
  | br o => exact execBr_sound s o h
  | loop a n => exact execLoop_sound s a n h
  | jmp n => exact execJmp_sound s n h
  | jal n => exact execJal_sound s n h
  | qalign => exact execQalign_sound s h
  | mjoin => exact execMjoin_sound s h
  | spal o => exact execSpal_sound s o h
  | spfree o => exact execSpfree_sound s o h
  | waddrI32 o | waddrI64 o => exact doWaddr_sound s _ o h
  | sqwait o => exact execSqwait_sound s o h
  | swinit => rw [exec_swinit, execSwinit]; exact cAccessIssue_sound s _ _ _ _ _ _ _ _ h
  | swait o => exact execSwait_sound s o h
  | gjoin o => exact execGjoin_sound s o h
  | gleave o => exact execGleave_sound s o h
  | gbar o => exact execGbar_sound s o h
  | jr o => exact execJr_sound s o h
  | chlvl d a => exact execChlvl_sound s d a h
  | chdrop a => exact execChdrop_sound s a h
  | wait l st c t => exact execWait_sound s l st c t h
  | chbind d k sel => exact execChbind_sound s d k sel h
  | nop n => exact execNop_sound s n h
  | fork o m => exact execFork_sound s o m h
  | rdv m => exact execRdv_sound s m h
  | estop m => exact execEstop_sound s m h
  | ebase o m => exact execEbase_sound s o m h
  | mfence m => exact execMfence_sound s m h
  | tbind n r o => exact execTbind_sound s n r o h
  | tunbind n => exact execTunbind_sound s n h
  | post o => exact execPost_sound s o h
  | tail => exact execTail_sound s h
  | halt => exact execHalt_sound s h
  | ppoint m => exact execPpoint_sound s m h
  | tfence => exact execTfence_sound s h
  | sysc c => exact execSysc_sound s c h
  | brk c => exact execBrk_sound s c h
  | eret => exact execEret_sound s h
  | csrr d n => exact execCsrr_sound s d n h
  | csrw o => rw [exec_csrw, execCsrw]; exact doCsr_sound s _ _ _ o h
  | csrs o => rw [exec_csrs, execCsrs]; exact doCsr_sound s _ _ _ o h
  | csrc o => rw [exec_csrc, execCsrc]; exact doCsr_sound s _ _ _ o h
  | stset o => exact execStset_sound s o h
  | stclr o => exact execStclr_sound s o h
  | sfwait o => exact execSfwait_sound s o h
  | bemsg o => exact execBemsg_sound s o h
  | hand o => exact execHand_sound s o h
  | deal o => exact execDeal_sound s o h
  | undeal o => exact execUndeal_sound s o h
  | rcirc o => exact execRcirc_sound s o h
  | cgen o => exact execCgen_sound s o h
  | ctab o => exact execCtab_sound s o h
  | fdown o => exact execFdown_sound s o h
  | fup o => exact execFup_sound s o h
  | lease o => exact execLease_sound s o h
  | spill o => exact execSpill_sound s o h
  | fill o => exact execFill_sound s o h
  | unlease o => exact execUnlease_sound s o h
  | tok a b c => exact execTok_sound s a b c h
  | rloop t l n => exact execRloop_sound s t l n h
  | tableEnd => exact execTableEnd_sound s h
  | lport p n c k => exact execLport_sound s p n c k h
  | lglob o => exact execLglob_sound s o h
  | lbc o => exact execLbc_sound s o h
  | lnest n b o k => exact execLnest_sound s n b o k h
  | sport p n k => exact execSport_sound s p n k h
  | sglob o => exact execSglob_sound s o h
  | vaddI8 | vaddI32 | vaddF32 | vaddB16 | vsubI8 | vsubI32 | vsubF32 | vsubB16 | vmulI32 | vmulF32 | vmulB16
    | vfmaF32 | vfmaB16 | vfmsF32 | vfmsB16 | vminI32 | vminF32 | vminB16 | vmaxI32 | vmaxF32 | vmaxB16 | vand | vor
    | vxor | vandn | vshl | vshr | vsra | vcmpEqI32 | vcmpEqF32 | vcmpEqB16 | vcmpLtI32 | vcmpLtF32 | vcmpLtB16
    | vcmpLeI32 | vcmpLeF32 | vcmpLeB16 | vsel | vpermI8 | vpermI32 | vclampI32 | vclampF32 | vclampB16 | vmovI8
    | vmovI32 | vmovF32 | vmovB16 | vabsI8 | vabsI32 | vabsF32 | vabsB16 | vnegI8 | vnegI32 | vnegF32 | vnegB16
    | vsumI32 | vsumF32 | vsumB16 | vscanI32 | vscanF32 | vscanB16 | vrcpF32 | vrcpB16 | vrsqF32 | vrsqB16 | vex2F32
    | vex2B16 | vlg2F32 | vlg2B16 | vbc | vcvtI8 | vcvtI32 | vcvtF32 | vcvtB16 | vcvtE4 | vcvtE5 | vcvtF4 | vcvtDs8
    | vqmax | vqcvt | vdq | vqcvtI8 => exact vectorForm_sound s rfl h
  | gop op w x y k => exact execGop_sound s op w x y k h
  | mmac e p t r o => exact execMmac_sound s e p t r o h
  | mclr e t => exact execMclr_sound s e t h
  | mret e n t f m c => exact execMret_sound s e n t f m c h
  | mwsel e w => exact execMwsel_sound s e w h
  | mstampAbs e => exact execMstampAbs_sound s e h
  | mstampAdd e b => exact execMstampAdd_sound s e b h
  | mnop e => exact execMnop_sound s e h
  | xcopy o | xgat o | xsct o | xwload o | xred o | xwenq o | xsend o => exact xIssue_sound s _ o h
  | xcoll o => exact execXcoll_sound s o h
  | powerOn b => exact execPowerOn_sound s b
  | functionLevelReset => exact execFunctionLevelReset_sound s
  | linkHbmTrainingDone ok => exact execLinkHbmTrainingDone_sound s ok h
  | featureGo => exact execFeatureGo_sound s h
  | registerImage => exact execRegisterImage_sound s h
  | unregisterImage => exact execUnregisterImage_sound s h
  | unmap => exact execUnmap_sound s h
  | unmapPinsDropped => exact execUnmapPinsDropped_sound s h
  | relocate => exact execRelocate_sound s h
  | undealCommand => exact execUndealCommand_sound s h
  | commitSvn => exact execCommitSvn_sound s h
  | keyInstall owner w => exact execKeyInstall_sound s owner w h
  | octlWrite owner w => exact execOctlWrite_sound s owner w h
  | hostRead off len => exact execHostRead_sound s off len h
  | hostWrite off data => exact execHostWrite_sound s off data h
  | hostAtomicop off width op b cmp => exact execHostAtomicop_sound s off width op b cmp h
  | mailboxPush core w => exact execMailboxPush_sound s core w h
  | postPortPost die w => exact execPostPortPost_sound s die w h
  | dirtySnapshot slice w => exact execDirtySnapshot_sound s slice w h
  | tableRewriteCommit => exact execTableRewriteCommit_sound s h
  | tableRewriteDrained => exact execTableRewriteDrained_sound s h
  | hvecWrite die w => exact execHvecWrite_sound s die w h
  | preemptRequest die core => exact execPreemptRequest_sound s die core h
  | preemptCancel die core => exact execPreemptCancel_sound s die core h
  | driverInterrupt die core data => exact execDriverInterrupt_sound s die core data h
  | moduleRetrainRequest mort strand => exact execModuleRetrainRequest_sound s mort strand h
  | moduleWindowBoundary mort strand => exact execModuleWindowBoundary_sound s mort strand h
  | portReopen port => exact execPortReopen_sound s port h
  | portHealthWindow port => exact execPortHealthWindow_sound s port h
  | portPark port => exact execPortPark_sound s port h
  | portWake port => exact execPortWake_sound s port h
  | portIdleTimeout port => exact execPortIdleTimeout_sound s port h
  | widthChangeBoundary port => exact execWidthChangeBoundary_sound s port h
  | wavelengthRelockDone port => exact execWavelengthRelockDone_sound s port h
  | wakeBudgetExpired port => exact execWakeBudgetExpired_sound s port h
  | migrationPass => exact execMigrationPass_sound s h
  | migrationReceive => exact execMigrationReceive_sound s h
  | migrationAbort => exact execMigrationAbort_sound s h
  | sessionKeyInstall w => exact execSessionKeyInstall_sound s w h
  | msessWrite w => exact execMsessWrite_sound s w h
  | granuleRecord g => exact execGranuleRecord_sound s g h
  | recordAck seq => exact execRecordAck_sound s seq h
  | taskExport => exact execTaskExport_sound s h
  | taskImport => exact execTaskImport_sound s h
  | typedStateRecord g => exact execTypedStateRecord_sound s g h
  | quote => exact execQuote_sound s h
  | quoteSigned => exact execQuoteSigned_sound s h
  | nonceWrite ix w => exact execNonceWrite_sound s ix w h
  | updateVerify => exact execUpdateVerify_sound s h
  | updateVerifyDone => exact execUpdateVerifyDone_sound s h
  | updateInstall => exact execUpdateInstall_sound s h
  | updateInstallDone ok => exact execUpdateInstallDone_sound s ok h
  | uploadWindowWrite off bytes => exact execUploadWindowWrite_sound s off bytes h
  | thermalChange mort temp => exact execThermalChange_sound s mort temp h
  | registerWrite bar off w => exact execRegisterWrite_sound s bar off w h
  | launchPacket g => exact execLaunchPacket_sound s g h
  | sliceSetAside => exact execSliceSetAside_sound s h
  | collectiveAbort handle seq => exact execCollectiveAbort_sound s handle seq h
  | domainJoin pkg time => exact execDomainJoin_sound s pkg time h
  | circuitSlotStart => exact execCircuitSlotStart_sound s h
  | dataWindowOpen port => exact execDataWindowOpen_sound s port h
  | circuitCommit => exact execCircuitCommit_sound s h
  | sendDataFlit f => exact execSendDataFlit_sound s f h
  | transactionFlit t => exact execTransactionFlit_sound s t h
  | collectivePacket port g => exact execCollectivePacket_sound s port g h
  | abortFlit f seq => exact execAbortFlit_sound s f seq h
  | controlFrame g => exact execControlFrame_sound s g h
  | fecFrameUncorrectable port seq => exact execFecFrameUncorrectable_sound s port seq h
  | frameReplayRequest port seq => exact execFrameReplayRequest_sound s port seq h
  | sendAccepted port id bytes code => exact execSendAccepted_sound s port id bytes code h
  | sweepAdd die stage chunk => exact execSweepAdd_sound s die stage chunk h
  | ucieFlitReceived mort strand up crcOk => exact execUcieFlitReceived_sound s mort strand up crcOk h
  | retryTimeout mort strand up => exact execRetryTimeout_sound s mort strand up h
  | moduleRetrainEnd mort strand lo hi => exact execModuleRetrainEnd_sound s mort strand lo hi h
  | stationLoad strand mort => exact execStationLoad_sound s strand mort h
  | stationAdd strand mort => exact execStationAdd_sound s strand mort h
  | stationCopy strand mort => exact execStationCopy_sound s strand mort h
  | stationTake strand mort => exact execStationTake_sound s strand mort h
  | stationFlagRaise die => exact execStationFlagRaise_sound s die h
  | handTakesEffect strand mort => exact execHandTakesEffect_sound s strand mort h
  | handWithhold strand mort => exact execHandWithhold_sound s strand mort h
  | parcelBoard strand mort => exact execParcelBoard_sound s strand mort h
  | slotClaim strand mort => exact execSlotClaim_sound s strand mort h
  | parcelDelivery strand mort => exact execParcelDelivery_sound s strand mort h
  | fullSlotReturn strand mort => exact execFullSlotReturn_sound s strand mort h
  | groupQuarantineEnd gid => exact execGroupQuarantineEnd_sound s gid h
  | homeSliceOperation acc => exact execHomeSliceOperation_sound s acc h
  | homeSliceLoad acc => exact execHomeSliceLoad_sound s acc h
  | writeBack slice => exact execWriteBack_sound s slice h
  | bankOperation die bank => exact execBankOperation_sound s die bank h
  | accessCompletion acc => exact execAccessCompletion_sound s acc h
  | timetablePost acc => exact execTimetablePost_sound s acc h
  | counterReport die => exact execCounterReport_sound s die h
  | releaseTick die => exact execReleaseTick_sound s die h
  | placement die => exact execPlacement_sound s die h
  | overlayLoadDone core => exact execOverlayLoadDone_sound s core h
  | frameBarrier => exact execFrameBarrier_sound s h
  | powerHoldEnd => exact execPowerHoldEnd_sound s h
  | deadlinePassed task => exact execDeadlinePassed_sound s task h
  | taskRetire task => exact execTaskRetire_sound s task h
  | preemptAtRetirement core => exact execPreemptAtRetirement_sound s core h
  | contextSave core => exact execContextSave_sound s core h
  | saveCommit core => exact execSaveCommit_sound s core h
  | contextSlotAcquire die => exact execContextSlotAcquire_sound s die h
  | restoreDone core => exact execRestoreDone_sound s core h
  | checkpointWriteback core unit_ => exact execCheckpointWriteback_sound s core unit_ h
  | watchdogStall core => exact execWatchdogStall_sound s core h
  | watchdogLate core => exact execWatchdogLate_sound s core h
  | watchdogSave core => exact execWatchdogSave_sound s core h
  | eventTaken core => exact execEventTaken_sound s core h
  | portWalkFetch core port => exact execPortWalkFetch_sound s core port h
  | portDrain core port => exact execPortDrain_sound s core port h
  | engineCompletion core job => exact execEngineCompletion_sound s core job h
  | bundleVerified => exact execBundleVerified_sound s h
  | headerError strand e => exact execHeaderError_sound s strand e h

end

/-! ## The issue of an instruction -/

section
variable (s : State)

@[simp] theorem turnTo_mem (n : Nat) (st : Stream) : (s.turnTo n st).mem = s.mem := rfl

@[simp] theorem beginC_mem (n : Nat) : (s.beginC n).mem = s.mem := by
  unfold State.beginC; dsimp only; split <;> simp

theorem issue_sound (n : Nat) (st : Stream) (h : s.sound) : SoundOut (s.issue n st) := by
  unfold State.issue; repeat' split
  · simp [h]
  · exact exec_sound s _ h
  · simp [h]
  · simp [h]

theorem streamMove_sound (n : Nat) (st : Stream) (h : s.sound) : SoundOut (s.streamMove n st) := by
  have ht : (s.turnTo n st).sound := by simpa using h
  unfold State.streamMove; dsimp only; split
  · exact (soundOut_next _).2 ht
  · refine issue_sound _ n st ?_
    split
    · simpa using ht
    · exact ht

end

/-! ## The ends of a beat -/

section
variable (s : State)

@[simp] theorem onCores_mem (f : Core → Core) : (s.onCores f).mem = s.mem := foldl_mem _ _ _ fun _ _ => rfl

@[simp] theorem arithDue_mem (n : Nat) : (s.arithDue n).mem = s.mem := by simp [State.arithDue]

@[simp] theorem countHeld_mem : (s.countHeld).mem = s.mem := by
  unfold State.countHeld; repeat' split
  all_goals rfl

@[simp] theorem endBeat_sound (h : s.sound) : s.endBeat.sound := by
  simpa [State.endBeat] using countArrivals_sound _ (forceDeposits_sound s h)

@[simp] theorem upset_sound (h : s.sound) : s.upset.sound := by
  unfold State.upset; split
  · exact h
  · obtain ⟨h1, h2, h3, h4, h5, h6, h7⟩ := (memoryWf_iff s.mem).1 h
    exact (memoryWf_iff _).2 ⟨h1, h2, h3, mwf_mset false s.mem.bad _ true h4, h5, h6, h7⟩
  · simp [h]

@[simp] theorem sense_sound (h : s.sound) : (s.sense).sound := by
  unfold State.sense; dsimp only; split <;> simp [h]

@[simp] theorem startBeat_sound (h : s.sound) : s.startBeat.sound := by
  have rows (t : State) (n : Nat) (ht : t.sound) : (((t.arithDue n).arrayRows n).retireRows n).sound :=
    retireRows_sound _ n (by simpa using ht)
  have posts (t : State) : ((List.range 8).foldl (fun t d => t.onDie d fun x => { x with posts := x.posts - 4 }) t).mem = t.mem :=
    foldl_mem _ _ _ fun _ _ => rfl
  have served (t : State) (ht : t.sound) : ((List.range 8).foldl State.servePosts t).sound :=
    foldl_sound _ _ _ ht fun t d ht => servePosts_sound t d ht
  unfold State.startBeat; dsimp only
  rw [State.sound, State.stored, restretch_mem, stationReads_mem]
  refine sense_sound _ (upset_sound _ (served _ ?_))
  rw [State.sound, State.stored, posts]
  refine foldl_sound _ _ _ ?_ fun t n ht => rows t n ht
  rw [State.sound, State.stored, onCores_mem]
  exact h

@[simp] theorem settle_sound (n : Nat) (h : s.sound) : (s.settle n).sound := by
  unfold State.settle; extract_lets t
  have ht : t.sound := by rw [State.sound, State.stored, xAbandon_mem, mem_onCore]; exact h
  exact mailLoop_sound _ _ _ (reapLimbo_sound _ (reapBases_sound t n ht))

end

/-! ## The tick -/

section
variable (s : State)

@[simp] theorem tick_sound (h : s.sound) : s.tick.sound := by
  simpa [State.tick] using startBeat_sound _ (endBeat_sound s h)

end

/-! ## Events -/

section
variable (s : State)

theorem run_sound (e : Ev) (h : s.sound) : SoundOut (e.run s) := by
  rw [← exec_rowOf]; exact exec_sound s _ h

end

/-! ## The step -/

section
variable (s : State)

/-- A move leaves canonical storage canonical. -/
theorem move_sound (m : Move) (h : s.sound) : SoundOut (s.move m) := by
  cases m with
  | stream n st => exact streamMove_sound s n st h
  | event e => exact run_sound s e h
  | release a => exact (soundOut_next _).2 (release_sound s a h)
  | walk n => exact (soundOut_next _).2 (xWalk_sound s n h)
  | settle n => exact (soundOut_next _).2 (settle_sound s n h)
  | gang k => exact (soundOut_next _).2 (by rw [State.sound, State.stored, openExchange_mem]; exact h)

/-- Marking what a move changed leaves storage alone. -/
@[simp] theorem marked_sound (o : Out) (h : SoundOut o) : SoundOut (s.marked o) := by
  cases o with
  | next t => simpa using h
  | _ => exact fun _ h => nomatch h

/-- A step leaves canonical storage canonical. -/
theorem step_sound (h : s.sound) : SoundOut (step s) := by
  unfold step; refine marked_sound s _ ?_
  split
  · exact (soundOut_next _).2 (tick_sound s h)
  · exact move_sound _ _ h

end

/-- Settles O59: every table is empty at reset. -/
theorem storageIsCanonicalAtReset : Obligations.StorageIsCanonicalAtReset := memoryWf_reset

/-- Settles O60, by cases on the move that the step makes: what storage holds changes only through the rules of single writes, of
blocks, runs and rows. -/
theorem everyStepKeepsStorageCanonical : Obligations.EveryStepKeepsStorageCanonical :=
  fun s t h ht => (sound_iff_canonical t).1 (step_sound s ((sound_iff_canonical s).2 h) t ht)

end Sys2Proof.Machine

namespace Sys2Proof.Machine

open Sys2Proof Sys2Proof.Safety

/-! ## Bytes of values and blocks (R4, R66) -/

theorem leBytes_getD (v n j : Nat) (h : j < n) : (leBytes v n).getD j 0 = BitVec.ofNat 8 (v / 2 ^ (8 * j)) := by
  induction n generalizing v j with
  | zero => omega
  | succ n ih =>
    cases j with
    | zero => simp [leBytes]
    | succ j =>
      rw [leBytes, List.getD_cons_succ, ih _ _ (by omega), Nat.div_div_eq_div_mul]
      congr 2
      rw [show 8 * (j + 1) = 8 + 8 * j by omega, Nat.pow_add]

/-- Byte j of the value of some bytes is the one listed there. -/
theorem ofNat_leNat_div (l : List Byte) (j : Nat) : BitVec.ofNat 8 (leNat l / 2 ^ (8 * j)) = l.getD j 0 := by
  induction l generalizing j with
  | nil => simp [leNat]
  | cons b t ih =>
    cases j with
    | zero =>
      apply BitVec.eq_of_toNat_eq
      simp only [leNat, Nat.mul_zero, Nat.pow_zero, Nat.div_one, BitVec.toNat_ofNat, List.getD_cons_zero]
      have := b.isLt
      omega
    | succ j =>
      have hb := b.isLt
      rw [List.getD_cons_succ, ← ih, leNat, show 8 * (j + 1) = 8 + 8 * j by omega, Nat.pow_add, ← Nat.div_div_eq_div_mul]
      congr 2
      omega

theorem mgetList_getD {α : Type} (d : α) (m : SMap α) (a n j : Nat) (h : j < n) :
    (mgetList d m a n).getD j d = mget d m (a + j) := by
  induction n generalizing a j with
  | zero => omega
  | succ n ih =>
    cases j with
    | zero => simp [mgetList, upFrom]
    | succ j =>
      rw [show a + (j + 1) = (a + 1) + j by omega, ← ih _ _ (by omega)]
      simp [mgetList, upFrom]

theorem byte_getLsbD (x : Blk) (j i : Nat) (h : i < 8) : (x.byte j).getLsbD i = x.data.toNat.testBit (8 * j + i) := by
  rw [Blk.byte, BitVec.getLsbD_extractLsb', decide_eq_true h, Bool.true_and]; rfl

theorem ofNat_div_getLsbD (v j i : Nat) (h : i < 8) : (BitVec.ofNat 8 (v / 2 ^ (8 * j))).getLsbD i = v.testBit (8 * j + i) := by
  rw [BitVec.getLsbD_ofNat, decide_eq_true h, Bool.true_and, Nat.testBit_div_two_pow, Nat.add_comm]

/-- Byte j of a block is that of its value. -/
theorem blk_byte_eq (x : Blk) (j : Nat) : x.byte j = BitVec.ofNat 8 (x.data.toNat / 2 ^ (8 * j)) := by
  refine BitVec.eq_of_getLsbD_eq fun i hi => ?_
  rw [byte_getLsbD x j i hi, ofNat_div_getLsbD _ _ _ hi]

/-- The bits of a block after n of its bytes from byte k have been replaced. -/
theorem patch_testBit (x : Blk) (k n v p : Nat) (hp : p < 512) :
    (x.patch k n v).data.toNat.testBit p =
      if 8 * k ≤ p ∧ p < 8 * (k + n) then v.testBit (p - 8 * k) else x.data.toNat.testBit p := by
  have h1 : x.data.toNat % 2 ^ (8 * k) < 2 ^ (8 * k) := Nat.mod_lt _ (Nat.two_pow_pos _)
  have h2 : v % 2 ^ (8 * n) < 2 ^ (8 * n) := Nat.mod_lt _ (Nat.two_pow_pos _)
  simp only [Blk.patch, BitVec.toNat_ofNat, Nat.testBit_mod_two_pow, hp, decide_true, Bool.true_and]
  rw [Nat.add_comm, Nat.testBit_two_pow_mul_add _ h1, Nat.add_comm (v % _), Nat.testBit_two_pow_mul_add _ h2]
  simp only [Nat.testBit_mod_two_pow, Nat.testBit_div_two_pow]
  split
  · rw [if_neg (by omega)]; simp [*]
  · split
    · rw [if_pos (by omega)]; simp [*]
    · rw [if_neg (by omega)]; congr 1; omega

/-- The bytes of a block after n of them from byte k have been replaced. -/
theorem patch_byte (x : Blk) (k n v j : Nat) (hj : j < 64) :
    (x.patch k n v).byte j = if k ≤ j ∧ j < k + n then BitVec.ofNat 8 (v / 2 ^ (8 * (j - k))) else x.byte j := by
  refine BitVec.eq_of_getLsbD_eq fun i hi => ?_
  rw [byte_getLsbD _ _ _ hi, patch_testBit x k n v _ (by omega)]
  split
  · rw [if_pos (by omega), ofNat_div_getLsbD _ _ _ hi]; congr 1; omega
  · rw [if_neg (by omega), byte_getLsbD _ _ _ hi]

theorem rawBlk_byte (m : Mem) (b j : Nat) (h : j < 64) : (m.rawBlk b).byte j = m.byte (64 * b + j) := by
  have hb : (m.rawBlk b).byte j = BitVec.ofNat 8 (leNat (m.read (64 * b) 64) / 2 ^ (8 * j)) := by
    refine BitVec.eq_of_getLsbD_eq fun i hi => ?_
    rw [byte_getLsbD _ _ _ hi, ofNat_div_getLsbD _ _ _ hi]
    simp only [Mem.rawBlk, BitVec.toNat_ofNat, Nat.testBit_mod_two_pow, show 8 * j + i < 512 by omega, decide_true, Bool.true_and]
  rw [hb, ofNat_leNat_div]
  exact mgetList_getD 0 m.bytes _ _ _ h

/-! ## Bytes written into a block (R70, R100, R115) -/

theorem mem_upFrom (a n w : Nat) : w ∈ upFrom a n ↔ a ≤ w ∧ w < a + n := by
  induction n generalizing a with
  | zero => simp [upFrom]
  | succ n ih => simp [upFrom, ih]; omega

/-- A byte among those touched lies in a word touched. -/
theorem mem_wordsTouched {b k n j : Nat} (hk : k ≤ j) (hn : j < k + n) : 16 * b + j / 4 ∈ wordsTouched b k n := by
  rw [wordsTouched, if_neg (by omega), mem_upFrom]; omega

/-- A block written last under this key and its own tweak, or of a scratchpad, reads as it is stored (R102, R115). -/
theorem blkUnder_own (m : Mem) (key : BitVec 512) (b : Nat)
    (h : isScrBlk b = false → mget none m.keys b = some key ∧ mget none m.tweaks b = none) : m.blkUnder key b = m.rawBlk b := by
  cases hb : isScrBlk b
  · obtain ⟨hk, ht⟩ := h hb
    simp [Mem.blkUnder, Mem.keyAt, hk, ht]
  · simp [Mem.blkUnder, hb]

/-- Where every word touched is valid, none reads as zero. -/
theorem cleanBlk_of_valid (m : Mem) (b k n : Nat) (x : Blk) (h : isScrBlk b = true → m.allValid b k n = true) :
    m.cleanBlk b k n x = x := by
  unfold Mem.cleanBlk
  split
  · next hb =>
      have hv := List.all_eq_true.1 (h hb)
      exact List.foldlRecOn (motive := fun y => y = x) _ _ rfl fun y hy w hw => by rw [if_pos (hv w hw)]; exact hy
  · rfl

/-- A byte of a valid word reads as it is stored. -/
theorem cleanBlk_byte (m : Mem) (b j : Nat) (x : Blk) (hj : j < 64)
    (h : isScrBlk b = true → mget false m.valid (16 * b + j / 4) = true) : (m.cleanBlk b 0 64 x).byte j = x.byte j := by
  unfold Mem.cleanBlk
  split
  · next hb =>
      refine List.foldlRecOn (motive := fun y : Blk => y.byte j = x.byte j) _ _ rfl fun y hy w hw => ?_
      rw [wordsTouched, if_neg (by decide), mem_upFrom] at hw
      split
      · exact hy
      · next hv =>
          have hne : w ≠ 16 * b + j / 4 := fun e => hv (e ▸ h hb)
          rw [patch_byte _ _ _ _ _ hj, if_neg (by omega)]; exact hy
  · rfl

/-- n bytes written into a block that the key opens, all of whose words touched are valid: those bytes are the low ones of the value,
every other byte of storage is as before. -/
theorem byte_patchBlk (m : Mem) (key : BitVec 512) (b k n v p : Nat) (hn : k + n ≤ 64)
    (hk : isScrBlk b = false → mget none m.keys b = some key ∧ mget none m.tweaks b = none)
    (hv : isScrBlk b = true → m.allValid b k n = true) :
    (m.patchBlk key b k n v).byte p =
      if 64 * b + k ≤ p ∧ p < 64 * b + k + n then BitVec.ofNat 8 (v / 2 ^ (8 * (p - (64 * b + k)))) else m.byte p := by
  by_cases hp : p / 64 = b
  · obtain ⟨j, hj, rfl⟩ : ∃ j, j < 64 ∧ p = 64 * b + j := ⟨p % 64, by omega, by omega⟩
    have hin : (m.patchBlk key b k n v).byte (64 * b + j) = ((m.rawBlk b).patch k n v).byte j := by
      rw [blk_byte_eq, ← leBytes_getD _ 64 j hj]
      unfold Mem.patchBlk Mem.byte
      rw [cleanBlk_of_valid m b k n _ hv, blkUnder_own m key b hk]
      exact mget_msetList_in 0 _ _ _ _ (by rwa [leBytes_length])
    rw [hin, patch_byte _ _ _ _ _ hj, rawBlk_byte m b j hj]
    by_cases h : k ≤ j ∧ j < k + n
    · rw [if_pos h, if_pos (by omega), show 64 * b + j - (64 * b + k) = j - k by omega]
    · rw [if_neg h, if_neg (by omega)]
  · rw [byte_patchBlk_out m key b k n v p hp, if_neg (by omega)]

/-- The bytes of storage are part of what it holds. -/
theorem byte_of_stored {s t : State} (h : s.stored = t.stored) (p : Nat) : s.mem.byte p = t.mem.byte p := by
  show s.stored.byte p = t.stored.byte p
  rw [h]

/-! ## Accesses to plain blocks (R107, R256, R270) -/

/-- The place of an access is no cell, its block is placed, correctable and well tagged, and its owner's key opens it. -/
structure PlainPlace (s : State) (a : Access) : Prop where
  cell : s.isCell (blkOf a.loc) = false
  fault : s.pocFault a.loc = none
  placed : pocOf s.placing a.loc ≠ 20000
  opens : isScrBlk (blkOf a.loc) = false →
    mget none s.mem.keys (blkOf a.loc) = some (s.keyOf a.owner) ∧ mget none s.mem.tweaks (blkOf a.loc) = none

/-- The bytes of an access of w bytes lie in one block and, in a scratchpad, are valid and open to it. -/
structure OpenBytes (s : State) (a : Access) (w : Nat) : Prop where
  room : inBlk a.loc + w ≤ 64
  takes : ∀ n o, a.loc = .scr n o → s.scrAccepts a o w n = none
  valid : isScrBlk (blkOf a.loc) = true → s.mem.allValid (blkOf a.loc) (inBlk a.loc) w = true

section
variable {s : State} {id : Nat} {a : Access} {w : Nat}

theorem storeAddr_eq (l : Loc) : storeAddr l = 64 * blkOf l + inBlk l := by
  unfold blkOf inBlk; omega

theorem pocFault_none {l : Loc} (hb : mget false s.mem.bad (blkOf l) = false)
    (ht : tagOk (s.feature 1) (mget 0 s.mem.tags (blkOf l)) = true) : s.pocFault l = none := by
  rw [State.pocFault, hb, if_neg (by decide), ht]; rfl

/-- A write into open bytes of a plain block is not refused. -/
theorem writeFault_none (hp : PlainPlace s a) (ho : OpenBytes s a w) (tagged : Bool) : s.writeFault a w tagged = none := by
  unfold State.writeFault; dsimp only
  rw [hp.fault, hp.cell, if_neg hp.placed]
  split
  · next c o hl => rw [ho.takes c o hl]; simp
  · simp

theorem modify_plain (hp : PlainPlace s a) (ho : OpenBytes s a w) (tagged : Bool) (k : State → State) :
    s.modify id a w tagged k = k s := by
  rw [State.modify, writeFault_none hp ho]

/-- A word written at its place is the low bytes of its value; every other byte is as before. -/
theorem putWord_byte (hp : PlainPlace s a) (ho : OpenBytes s a w) (v p : Nat) :
    (s.putWord a w v).mem.byte p =
      if storeAddr a.loc ≤ p ∧ p < storeAddr a.loc + w then BitVec.ofNat 8 (v / 2 ^ (8 * (p - storeAddr a.loc)))
      else s.mem.byte p := by
  rw [State.putWord, byte_of_stored (touch_stored _ _), mem_onMem, byte_patchBlk _ _ _ _ _ _ _ ho.room hp.opens ho.valid,
    ← storeAddr_eq]

/-- The word that an update reads is made of the bytes stored there. -/
theorem oldWord_byte (hp : PlainPlace s a) (ho : OpenBytes s a w) {p : Nat} (h1 : storeAddr a.loc ≤ p)
    (h2 : p < storeAddr a.loc + w) :
    BitVec.ofNat 8 (s.oldWord a w / 2 ^ (8 * (p - storeAddr a.loc))) = s.mem.byte p := by
  have hr := ho.room
  rw [storeAddr_eq] at h1 h2 ⊢
  obtain ⟨i, hi, rfl⟩ : ∃ i, i < w ∧ p = 64 * blkOf a.loc + (inBlk a.loc + i) :=
    ⟨p - (64 * blkOf a.loc + inBlk a.loc), by omega, by omega⟩
  have hv : isScrBlk (blkOf a.loc) = true → mget false s.mem.valid (16 * blkOf a.loc + (inBlk a.loc + i) / 4) = true :=
    fun hb => List.all_eq_true.1 (ho.valid hb) _ (mem_wordsTouched (by omega) (by omega))
  rw [← rawBlk_byte s.mem _ _ (by omega), ← blkUnder_own s.mem _ _ hp.opens,
    ← cleanBlk_byte s.mem _ _ _ (by omega) hv]
  refine BitVec.eq_of_getLsbD_eq fun k hk => ?_
  rw [byte_getLsbD _ _ _ hk, ofNat_div_getLsbD _ _ _ hk]
  simp only [State.oldWord, State.blkSeen, State.seenBlk, Mem.maskedBlk, Blk.nat, Nat.testBit_mod_two_pow, Nat.testBit_div_two_pow]
  rw [decide_eq_true (by omega), Bool.true_and]
  congr 1; omega

/-- An access performed under the tables that it was routed by, but an enqueue, is performed where it stands. -/
theorem perform_here (ha : s.accAt id = some a) (hr : a.orig = none) (he : ∀ f, a.op ≠ .enq f) :
    s.perform id = s.performHere id := by
  have hat : s.performAt id = s.performHere id := by
    rw [State.performAt, ha]; dsimp only; rw [hr]
  rw [State.perform, ha]; dsimp only
  split
  · next f hf => exact absurd hf (he f)
  · exact hat

/-- What an access leaves at the w bytes of its place where it stores the value v: its low bytes there, every other byte as before. -/
def State.Stores (s t : State) (a : Access) (w v : Nat) : Prop :=
  ∀ p, t.mem.byte p =
    if storeAddr a.loc ≤ p ∧ p < storeAddr a.loc + w then BitVec.ofNat 8 (v / 2 ^ (8 * (p - storeAddr a.loc))) else s.mem.byte p

theorem store_bytes (ha : s.accAt id = some a) (hr : a.orig = none) (hp : PlainPlace s a) (ho : OpenBytes s a w) {v : Word}
    (hop : a.op = .store w v) : s.Stores (s.perform id) a w v.toNat := by
  intro p
  rw [perform_here ha hr (by simp [hop]), State.performHere, ha]
  dsimp only; rw [hop]; dsimp only
  rw [modify_plain hp ho, mem_finish, putWord_byte hp ho]

theorem amo_bytes (ha : s.accAt id = some a) (hr : a.orig = none) (hp : PlainPlace s a) (ho : OpenBytes s a w)
    {o : Nat} {x : Bool} {b : Word} (hop : a.op = .amo o w x b) :
    s.Stores (s.perform id) a w (amoNew o w (s.oldWord a w) b.toNat).1 := by
  intro p
  rw [perform_here ha hr (by simp [hop]), State.performHere, ha]
  dsimp only; rw [hop]; dsimp only
  rw [modify_plain hp ho, mem_finish, byte_of_stored (unitFlags_stored _ _ _ _), putWord_byte hp ho]

theorem sqadd_bytes (ha : s.accAt id = some a) (hr : a.orig = none) (hp : PlainPlace s a) (ho : OpenBytes s a 8) {b : Word}
    (hop : a.op = .sqadd b) : s.Stores (s.perform id) a 8 (s.oldWord a 8 + b.toNat) := by
  intro p
  rw [perform_here ha hr (by simp [hop]), State.performHere, ha]
  dsimp only; rw [hop]; dsimp only
  rw [modify_plain hp ho, mem_finish, putWord_byte hp ho]
  split
  · refine BitVec.eq_of_getLsbD_eq fun k hk => ?_
    rw [ofNat_div_getLsbD _ _ _ hk, ofNat_div_getLsbD _ _ _ hk, Nat.testBit_mod_two_pow, decide_eq_true (by omega), Bool.true_and]
  · rfl

theorem cas_bytes (ha : s.accAt id = some a) (hr : a.orig = none) (hp : PlainPlace s a) (ho : OpenBytes s a w) {x : Bool} {b c : Word}
    (hop : a.op = .cas w x b c) :
    s.Stores (s.perform id) a w (if s.oldWord a w = c.toNat % 2 ^ (8 * w) then b.toNat else s.oldWord a w) := by
  intro p
  rw [perform_here ha hr (by simp [hop]), State.performHere, ha]
  dsimp only; rw [hop]; dsimp only
  rw [modify_plain hp ho, mem_finish]
  by_cases hc : s.oldWord a w = c.toNat % 2 ^ (8 * w)
  · rw [if_pos hc, if_pos hc, putWord_byte hp ho]
  · rw [if_neg hc, if_neg hc]
    split
    · next h => rw [oldWord_byte hp ho h.1 h.2]
    · rfl

/-- A read of a plain block changes no byte. -/
theorem readAt_bytes (hp : PlainPlace s a) (n : Nat) (cell : Bool) (r : Blk → Res) (p : Nat) :
    (s.readAt id a n cell fun x s => s.finish id (r x)).mem.byte p = s.mem.byte p := by
  unfold State.readAt; dsimp only
  rw [if_neg hp.placed, hp.fault, hp.cell]
  simp only [Bool.and_false, Bool.false_eq_true, if_false]
  split <;> simp only [mem_finish, uninit_mem]

end

/-- Settles O57: a word written goes through its whole block, whose other bytes are written back as the owner's key reads them, which
is as they were. -/
theorem storesWriteExactlyTheirBytes : Obligations.StoresWriteExactlyTheirBytes := by
  intro s id a ha _ hr hcell hbad hpl htag hkey stored fits
  have hp : PlainPlace s a := ⟨hcell, pocFault_none hbad htag, hpl, hkey⟩
  have opens {w : Nat} (h : fits w) : OpenBytes s a w := ⟨h.1, h.2.1, h.2.2⟩
  refine ⟨fun w v hop hf => store_bytes ha hr hp (opens hf) hop, fun o w x b hop hf => amo_bytes ha hr hp (opens hf) hop,
    fun b hop hf => sqadd_bytes ha hr hp (opens hf) hop, fun w x b c hop hf => cas_bytes ha hr hp (opens hf) hop, ?_⟩
  intro w x hop p
  rw [perform_here ha hr (by rintro f hf; simp [hf] at hop), State.performHere, ha]
  rcases hop with hop | hop | hop
  all_goals dsimp only; rw [hop]; dsimp only
  · exact readAt_bytes hp _ _ _ p
  · rw [if_neg hpl, hbad]; simp
  · exact readAt_bytes hp _ _ _ p

end Sys2Proof.Machine

/-!
Regions of the scratchpad (04_memory.md R99; 12_ins_memory_sync.md R265, R266): the answers of spal in the order of its checks, and the
region that spfree ends.
-/

namespace Sys2Proof.Machine

open Sys2Proof.Safety

section
variable {s : State} {n : Nat}

/-- With no free run at any offset there is no first fit. -/
theorem firstFit_none {rs : List (Nat × Nat)} (h : ∀ k, freeRun rs k n = false) : firstFit rs n = none := by
  simp [firstFit, h]

theorem spalResult_of_bad_size (h : n = 0 ∨ n % 4096 ≠ 0 ∨ 2 ^ 22 < n) : s.spalResult n = (neg64 2, s) := if_pos h

/-- The answers of spal for a size that it accepts (R265). -/
theorem spalResult_of_size (h0 : 0 < n) (hm : n % 4096 = 0) (hn : n ≤ 2 ^ 22) : s.spalResult n =
    if 32 ≤ s.here.pl.regions.length then (neg64 3, s)
    else (firstFit s.here.pl.regions n).elim (neg64 1, s) fun o => (w64 o, s.openRegion s.turn.core o n) := by
  have hok : ¬(n = 0 ∨ n % 4096 ≠ 0 ∨ 2 ^ 22 < n) := by omega
  rw [State.spalResult, if_neg hok]
  cases firstFit s.here.pl.regions n <;> rfl

theorem openRegion_regions (s : State) (k n : Nat) :
    (s.openRegion s.turn.core k n).here.pl.regions = s.here.pl.regions ++ [(k, n)] := by
  simp [State.openRegion]

end

theorem spal_completes {s : State} {o : UForm} (hi : Issues s [(o.a, o.p)] [] (some o.d)) (hd : chanField o.d = false)
    (hq : s.queueRoom true false = true) :
    let a := s.readSrc o.a o.p
    let r := a.2.spalResult a.1.toNat
    exec (.spal o) s = .next (r.2.commitC (s.cAccess (.scr s.turn.core 0) 0 (.value r.1) o.d true false 9) false).2.advance := by
  rw [exec_spal, execSpal, if_neg (ne_true_of_eq_false hd), cIssue_next hi, if_pos hq]

theorem spfree_completes {s : State} {o : OForm} {r : Nat × Nat} (hi : Issues s [(o.a, o.p)] [] none) :
    let a := s.readSrc o.a o.p
    s.here.pl.regions.find? (fun r => r.1 == a.1.toNat) = some r → s.here.regionInUse s.turn.core r.1 r.2 = false →
    s.regionBusy s.turn.core r.1 r.2 = false →
    exec (.spfree o) s = .next (a.2.onHere fun c => { c with pl := { c.pl with regions := c.pl.regions.erase r } }).advance := by
  intro a hr hu hb
  rw [exec_spfree, execSpfree, cIssue_next hi]
  simp only [a, hr, hu, hb, Bool.false_eq_true, if_false]

/-- Settles O22: the answers of spal stand in the order of its checks, and where a run is free the lowest is the first fit
(firstFit_lowest). -/
theorem regionsAreAllocatedFirstFit : Obligations.RegionsAreAllocatedFirstFit := by
  refine ⟨fun o s hi hd hq => spal_completes hi hd hq, fun s n => ⟨spalResult_of_bad_size, fun h0 hm hn => ?_⟩,
    fun o s r hi => spfree_completes hi⟩
  have hsize := spalResult_of_size (s := s) h0 hm hn
  refine ⟨fun hfull => hsize.trans (if_pos hfull), fun hroom => ?_⟩
  rw [if_neg (Nat.not_le.2 hroom)] at hsize
  refine ⟨fun hnone => ?_, fun k hk hlow => ⟨?_, ?_⟩⟩
  · exact hsize.trans (by rw [firstFit_none hnone]; rfl)
  · exact hsize.trans (by rw [firstFit_lowest _ n k hk hlow]; rfl)
  · rw [openRegion_regions]; simp

end Sys2Proof.Machine

/-!
Bindings of tensor bases and posts of C (04_memory.md R111, R112; 12_ins_memory_sync.md R267 to R269; 15_ins_fabric_system.md R366), and
the instructions that ask the dealer and the circuit controller (15_ins_fabric_system.md R350 to R359).
-/

namespace Sys2Proof.Machine

open Sys2Proof.Safety

/-! ## tbind, tunbind and post -/

theorem addPins_ports (s : State) (ps : List Nat) : (s.addPins ps).ports = s.ports := foldl_ports _ _ _ fun _ _ => setPins_ports ..

/-- The base that a binding is made for holds it (R268). -/
theorem bindBase_base (s : State) (k : Nat) (b : Base) (pins : List Nat) :
    mget Base.rest (s.bindBase s.turn.core k b pins).here.ve.bases k = b := by
  have hports : ((s.unbindBase s.turn.core k).addPins pins).ports = s.ports := by rw [addPins_ports, unbindBase_ports]
  have hturn : ((s.unbindBase s.turn.core k).addPins pins).fresh.2.turn.core = s.turn.core := congrArg Prod.fst hports
  rw [State.bindBase, here_onCore, if_pos hturn]
  exact mget_mset_same ..

/-- A base that is unbound has no bytes (R269). -/
theorem unbindBase_extent (s : State) (k : Nat) : (mget Base.rest (s.unbindBase s.turn.core k).here.ve.bases k).extent = 0 := by
  rw [State.unbindBase, here_onCore_turn]
  dsimp only
  split
  · assumption
  · rw [mget_mset_same]; rfl

theorem tbind_completes {s : State} {n : BitVec 4} {r : BitVec 2} {o : SForm} {w : CWait} {x : Base} {pins : List Nat}
    (hi : Issues s [(o.a, o.p), (o.b, o.q)] [] none) :
    let a := s.readSrc o.a o.p
    let b := a.2.readSrc o.b o.q
    s.inWait = some w → s.binding r a.1 b.1 = .ok (x, pins) → w.since + 7 + pins.length ≤ s.beat →
    exec (.tbind n r o) s = .next (b.2.bindBase s.turn.core n.toNat { x with uid := b.2.nextId } pins).advance := by
  intro a b hw hb hd
  rw [exec_tbind, execTbind, cIssue_next hi]
  simp only [a, b, hw, hb, Nat.not_lt.2 hd, if_false]

theorem tunbind_completes {s : State} (n : BitVec 4) (hn : NotLast s) :
    exec (.tunbind n) s = .next (s.unbindBase s.turn.core n.toNat).advance := by
  rw [exec_tunbind, execTunbind, cIssue_next (issues_none hn)]

theorem post_completes {s : State} {o : UForm} {ls : List Loc} (hi : Issues s [(o.a, o.p)] [] (some o.d)) (hd : chanField o.d = false)
    (hq : s.queueRoom true false = true) :
    let a := s.readSrc o.a o.p
    (s.blockCheck .load a.1.toNat 2).bind (noPeer a.1.toNat) = .ok ls →
    let ws := s.descWords ls
    s.condCheck ws (min 4 (descConds ws)) = none → ls.findSome? s.pocFault = none →
    exec (.post o) s = .next ((a.2.warnPieces s.turn.core (ls.map fun l => (l, 64))).commitC
      { s.cAccess (.dsm (descDie ws) 0) a.1.toNat (.post (descDie ws) ws) o.d true false 9 with
        owner := s.ownerOn s.turn.core } false).2.advance := by
  intro a hl ws hc hp
  rw [exec_post, execPost, if_neg (ne_true_of_eq_false hd), cIssue_next hi]
  simp only [a, ws, hl, hc, hp, hq, Bool.not_true, Bool.false_eq_true, if_false]

/-- Settles O26: each completes by its own effect; the base that tbind or tunbind names is read off the change of the bases. -/
theorem bindingsAndPostsComplete : Obligations.BindingsAndPostsComplete := by
  refine ⟨fun n r o w x pins s hi hw hb hd => ⟨tbind_completes hi hw hb hd, ?_⟩,
    fun n s hn => ⟨tunbind_completes n hn, unbindBase_extent s n.toNat⟩, fun o ls s hi hd hq => post_completes hi hd hq⟩
  have hturn : ((s.readSrc o.a o.p).2.readSrc o.b o.q).2.turn.core = s.turn.core := by rw [readSrc_turn, readSrc_turn]
  exact hturn ▸ bindBase_base ..

/-! ## The dealer (R350 to R354) -/

section
variable {s : State} (hg : s.convGrant = true)
include hg

theorem stset_completes {o : RForm} {r : ERec} (hi : Issues s [(o.a, o.p), (o.b, o.q)] [] (some o.d)) :
    let a := s.readSrc o.a o.p
    let b := a.2.readSrc o.b o.q
    s.stRec a.1.toNat = .ok r →
    let h := bitsOf b.1 0 20
    let v := s.stVerdict h r (bitsOf b.1 20 44 == 0 && s.recOk r h (s.groupAt (handleId h)).owner) (s.taskNo s.turn.core)
    let u := b.2.warnRec a.1.toNat 1
    exec (.stset o) s = .next ((if v = 0 then u.onConv fun c => c.install r r.entry s.beat else u).writeDst o.d 1 v).advance := by
  intro a b hr
  rw [exec_stset, execStset, if_neg (by simp [hg]), cIssue_next hi]
  simp only [a, b, hr]

theorem stclr_completes {o : UForm} {r : ERec} (hi : Issues s [(o.a, o.p)] [] (some o.d)) :
    let a := s.readSrc o.a o.p
    s.stRec a.1.toNat = .ok r →
    let v := s.stVerdict (entHandle r.entry) r (bitsOf r.entry 0 108 == 0 && bitsOf r.place 0 48 == 0 && (match mortAt r.pos with
      | some m => decide (m < 24)
      | none => false)) (s.taskNo s.turn.core)
    let u := a.2.warnRec a.1.toNat 1
    exec (.stclr o) s = .next ((if v = 0 then u.onConv fun c => c.install r 0 s.beat else u).writeDst o.d 1 v).advance := by
  intro a hr
  rw [exec_stclr, execStclr, if_neg (by simp [hg]), cIssue_next hi]
  simp only [a, hr] <;> rfl

/-- The operand's word and the record stand as names of their own with equations: put in their place, they would have the kernel compare
two reads of the record by computing them. -/
theorem deal_completes {o : UForm} (hi : Issues s [(o.a, o.p)] [] (some o.d)) {a : Word × State} {r : DealRec}
    (hs : s.readSrc o.a o.p = a) (hr : s.dealRec a.1.toNat = r) (ha : a.1.toNat % 64 = 0)
    (hhead : s.localPieces a.1.toNat 6 = .ok ()) (hrecs : s.localPieces (a.1.toNat + 0xC0) r.recs.length = .ok ()) :
    let v := s.dealVerdict r (s.taskNo s.turn.core)
    let u := a.2.warnRec a.1.toNat (6 + r.recs.length)
    exec (.deal o) s = .next ((if v = 0 then u.onConv fun c => c.accept r s.beat else u).writeDst o.d 1 v).advance := by
  rw [exec_deal, execDeal, if_neg (by simp [hg]), cIssue_next hi, hs]
  refine congrArg _ ((if_neg (not_not_intro ha)).trans ?_)
  rw [hhead, hr]
  simp only [hrecs]

theorem undeal_completes {o : RForm} (hi : Issues s [(o.a, o.p), (o.b, o.q)] [] (some o.d)) :
    let a := s.readSrc o.a o.p
    let b := a.2.readSrc o.b o.q
    let v := s.undealVerdict a.1 b.1 (s.taskNo s.turn.core)
    exec (.undeal o) s = .next ((if v = 0 then b.2.onConv fun c => c.endHand (bitsOf a.1 0 20) b.1.toNat s.beat else b.2).writeDst
      o.d 1 v).advance := by
  rw [exec_undeal, execUndeal, if_neg (by simp [hg]), cIssue_next hi]

end

section
variable {s : State}

theorem hand_completes {o : UForm} (hi : Issues s [(o.a, o.p)] [] (some o.d)) :
    let a := s.readSrc o.a o.p
    let g := s.groupAt (handleId (bitsOf a.1 0 20))
    bitsOf a.1 24 40 = 0 →
    exec (.hand o) s = .next (a.2.writeDst o.d 1
      (if g.st = .live ∧ g.inc.toNat = bitsOf a.1 0 20 % 256 ∧ g.owner = s.ownerOn s.turn.core then
        s.conv.handMask (bitsOf a.1 0 20) (bitsOf a.1 20 4) (s.beat / 64) else 0)).advance := by
  intro a g hz
  rw [exec_hand, execHand, cIssue_next hi]
  simp only [a, g, hz, ne_eq, not_true_eq_false, if_false, Bool.and_eq_true, beq_iff_eq, and_assoc]

/-! ## Flags and messages (R146, R355, R356) -/

/-- A wait whose count has come, at a station that has not failed, takes the flag word (R355). -/
theorem sfwait_completes {o : RForm} (hi : Issues s [(o.a, o.p), (o.b, o.q)] [] (some o.d)) :
    let a := s.readSrc o.a o.p
    let b := a.2.readSrc o.b o.q
    let f := bitsOf a.1 0 4
    let w := s.stationFlag (dieOf s.turn.core) f
    bitsOf a.1 5 59 = 0 → 0 ≤ (w.extractLsb' 32 32 - b.1.setWidth 32).toInt → w.getLsbD 7 = false →
    let t := b.2.onHere fun k => { k with cr := { k.cr with fflags := k.cr.fflags ||| w.setWidth 5 } }
    exec (.sfwait o) s = .next ((if a.1.getLsbD 4 then
      t.onDie (dieOf s.turn.core) fun d => { d with sflags := mset 0 d.sflags f (w &&& ~~~0xDF) } else t).writeDst o.d 1 w).advance := by
  intro a b f w hz hcount hsound
  rw [exec_sfwait, execSfwait, cIssue_next hi]
  simp only [a, b, f, w] at hz hcount hsound ⊢
  simp only [hz, Int.not_lt.2 hcount, hsound, ne_eq, not_true_eq_false, if_false, Bool.false_and, Bool.false_eq_true]

theorem bemsg_completes {o : RForm} (hi : Issues s [(o.a, o.p), (o.b, o.q)] [] (some o.d)) (hd : chanField o.d = false)
    (hq : s.queueRoom true true = true) :
    let a := s.readSrc o.a o.p
    let b := a.2.readSrc o.b o.q
    a.1.toNat < 192 →
    exec (.bemsg o) s = .next (b.2.commitC { s.cAccess (.scr a.1.toNat 0x400000) 0 (.bemsg b.1) o.d true true 9 with
      owner := s.ownerOn s.turn.core } false).2.advance := by
  intro a b ha
  rw [exec_bemsg, execBemsg, if_neg (ne_true_of_eq_false hd), cIssue_next hi]
  simp only [a, b, hq, Nat.not_le.2 ha, if_false, Bool.not_true, Bool.false_eq_true]

end

/-- Settles O34, instruction by instruction: the dealer's verdict is the code, and with code 0 the request is taken. -/
theorem conveyorInstructionsAnswerTheirCodes : Obligations.ConveyorInstructionsAnswerTheirCodes := by
  intro s
  exact ⟨fun hg => ⟨fun _ _ hi => stset_completes hg hi, fun _ _ hi => stclr_completes hg hi, fun _ hi => deal_completes hg hi rfl rfl,
      fun _ hi => undeal_completes hg hi⟩,
    fun _ hi => hand_completes hi, fun _ hi => sfwait_completes hi, fun _ hi hd hq => bemsg_completes hi hd hq⟩

/-! ## The circuit controller (R357 to R359) -/

/-- The codes of a `ctab` in their order (R357). -/
theorem ctab_code (good pending : Bool) : dealResult [(2, !good), (1, pending)] =
    if good = false then neg64 2 else if pending then neg64 1 else 0 := by
  cases good <;> cases pending <;> rfl

/-- The codes of a `rcirc` in their order (R358). -/
theorem commitVerdict_code (c : Circ) (k beat : Nat) : c.commitVerdict k beat =
    if c.commit.isSome then neg64 3 else if c.staged = none then neg64 2
    else if k < c.active.rotation beat + 2 then neg64 1 else 0 := by
  simp only [Circ.commitVerdict, dealResult, List.find?_cons, List.find?_nil]
  cases c.commit <;> cases c.staged <;> by_cases hk : k < c.active.rotation beat + 2 <;> simp [hk]

/-- Where every place can be read, none is found that cannot. -/
theorem find_pocFault_none {s : State} {ls : List Loc} (h : ls.findSome? s.pocFault = none) :
    (ls.zipIdx.find? fun (e : Loc × Nat) => (s.pocFault e.1).isSome) = none := by
  rw [List.findSome?_eq_none_iff] at h
  refine List.find?_eq_none.2 fun e he => ?_
  simp [h e.1 (List.fst_mem_of_mem_zipIdx he)]

section
variable {s : State} (hf : s.feature 2 = true)
include hf

theorem ctab_completes {o : UForm} {ls : List Loc} (hg : s.circGrant = true) (hi : Issues s [(o.a, o.p)] [] (some o.d)) :
    let a := s.readSrc o.a o.p
    (s.blockCheck .load a.1.toNat 50).bind (noPeer a.1.toNat) = .ok ls → ls.findSome? s.pocFault = none →
    let t := s.tableOf ls
    let v : Word := if t.2 = false then neg64 2 else if s.circ.commit.isSome then neg64 1 else 0
    let r := a.2.warnPieces s.turn.core (ls.map fun l => (l, 64))
    exec (.ctab o) s = .next ((if v = 0 then r.onCirc fun c => { c with staged := some t.1 } else r).writeDst o.d 1 v).advance := by
  intro a hl hp
  rw [exec_ctab, execCtab]
  simp only [hf, hg, Bool.not_true, Bool.false_eq_true, if_false, cIssue_next hi, a, hl, find_pocFault_none hp, ctab_code]

theorem rcirc_completes {o : UForm} (hg : s.circGrant = true) (hi : Issues s [(o.a, o.p)] [] (some o.d)) :
    let a := s.readSrc o.a o.p
    let k := a.1.toNat
    let v : Word := if s.circ.commit.isSome then neg64 3 else if s.circ.staged = none then neg64 2
      else if k < s.circ.active.rotation s.beat + 2 then neg64 1 else 0
    exec (.rcirc o) s = .next ((if v = 0 then a.2.onCirc fun c => c.setCommit k else a.2).writeDst o.d 1 v).advance := by
  rw [exec_rcirc, execRcirc, if_neg (by simp [hf]), if_neg (by simp [hg]), cIssue_next hi]
  simp only [commitVerdict_code]

theorem cgen_completes {o : UForm} (hi : Issues s [(o.a, o.p)] [] (some o.d)) :
    let a := s.readSrc o.a o.p
    a.1.toNat < 48 → exec (.cgen o) s = .next (a.2.writeDst o.d 1 (s.genWord a.1.toNat)).advance := by
  intro a ha
  rw [exec_cgen, execCgen, if_neg (by simp [hf]), cIssue_next hi]
  simp only [a, Nat.not_le.2 ha, if_false]

end

/-- The word of `cgen`: the generation, and bit 16 where the pending commit advances it (R359). -/
theorem genWord_eq (s : State) (p : Nat) : s.genWord p = BitVec.ofNat 64 ((s.portAt p).gen + (match s.circ.commit with
    | some (t, _) => if advances s.circ.active t p then 2 ^ 16 else 0
    | none => 0)) := by
  unfold State.genWord
  cases s.circ.commit <;> rfl

/-- Settles O35: the codes of the controller stand in the order of its checks (ctab_code, commitVerdict_code). -/
theorem circuitInstructionsAnswerTheirCodes : Obligations.CircuitInstructionsAnswerTheirCodes := by
  intro s hf
  refine ⟨fun hg => ⟨fun _ _ hi => ctab_completes hf hg hi, fun _ hi => rcirc_completes hf hg hi⟩, fun o hi ha => ?_⟩
  rw [cgen_completes hf hi ha, genWord_eq] <;> rfl

end Sys2Proof.Machine

/-!
Operations at the slices and the banks (04_memory.md R103, R105, R106), completions (12_ins_memory_sync.md R256, R258; 13_ins_vector.md
R287), and the walks of ports (13_ins_vector.md R289, R291).
-/

namespace Sys2Proof.Machine

/-! ## Slices and banks -/

section
variable {s : State} {id : Nat} {a : Access} {p : Nat}

theorem inHbm_of_loc (hl : a.loc = .hbm p) : a.inHbm = true := by simp [Access.inHbm, hl]

/-- A write that has arrived in its turn at an unplaced granule is performed there, and fails (R106). -/
theorem unplaced_write_performed (ha : s.accAt id = some a) (hst : a.stage = .arrived) (hw : a.op.writes = true)
    (hl : a.loc = .hbm p) (ho : s.outOfTurn id a = false) (hs : s.sliceOf a.loc = none) :
    exec (.homeSliceOperation id) s = .next (s.perform id) := by
  rw [exec_homeSliceOperation, execHomeSliceOperation, ha]
  simp [hst, hw, inHbm_of_loc hl, ho, hs]

/-- A write that has arrived in its turn and finds room for all its blocks takes its places, is performed, and is counted (R105, R106). -/
theorem placed_write_performed {h : Nat} {q : List WEntry} (ha : s.accAt id = some a) (hst : a.stage = .arrived)
    (hw : a.op.writes = true) (hl : a.loc = .hbm p) (ho : s.outOfTurn id a = false) (hs : s.sliceOf a.loc = some h)
    (he : ∀ f, a.op ≠ .enq f) (hfree : s.mem.served.contains (10000 + h) = false)
    (hq : wqEnterAll (mget [] s.mem.wq h) a.op.mergeClass a.wqBlks = some q) :
    exec (.homeSliceOperation id) s =
      .next ((((s.serve (10000 + h)).onMem fun m => { m with wq := mset [] m.wq h q }).perform id).countLanding id) := by
  rw [exec_homeSliceOperation, execHomeSliceOperation, ha]
  dsimp only
  rw [if_pos (by simp [hst, hw, inHbm_of_loc hl, ho]), hs]
  split
  case h_1 h' => cases h'
  case h_2 hop => exact absurd hop (he _)
  case h_3 h' _ =>
    obtain rfl := Option.some.inj h'
    rw [if_neg (ne_true_of_eq_false hfree), hq]

/-- A read that has arrived in its turn is performed (R105). -/
theorem read_performed (ha : s.accAt id = some a) (hst : a.stage = .arrived) (hw : a.op.writes = false)
    (hl : a.loc = .hbm p) (ho : s.outOfTurn id a = false) : exec (.homeSliceLoad id) s = .next (s.perform id) := by
  rw [exec_homeSliceLoad, execHomeSliceLoad, ha]
  simp [hst, hw, inHbm_of_loc hl, ho]

theorem outOfTurn_waits (ha : s.accAt id = some a) (ho : s.outOfTurn id a = true) :
    exec (.homeSliceOperation id) s = .next s ∧ exec (.homeSliceLoad id) s = .next s := by
  rw [exec_homeSliceOperation, exec_homeSliceLoad, execHomeSliceOperation, execHomeSliceLoad, ha]
  simp [ho]

end

/-- The oldest operation of the oldest entry goes, and with its last one the entry (R106). -/
theorem wqDrain_cons (b : Nat) (o : WOp) (l : List WOp) (q : List WEntry) :
    wqDrain (⟨b, o :: l⟩ :: q) = if l = [] then q else ⟨b, l⟩ :: q := by
  cases l <;> rfl

theorem writeBack_drains {s : State} {h : Nat} {e : WEntry} {o : WOp} {l : List WOp} {q : List WEntry}
    (hq : mget [] s.mem.wq h = e :: q) (he : e.ops = o :: l) : ∃ t : State, exec (.writeBack h) s = .next t ∧
    mget [] t.mem.wq h = (if l = [] then q else ⟨e.blk, l⟩ :: q) ∧ t.mem.bytes = s.mem.bytes ∧ t.accs = s.accs := by
  refine ⟨_, rfl, ?_, rfl, rfl⟩
  rw [onMem_mem, mget_mset_same, hq, ← wqDrain_cons e.blk o, ← he]

/-- A bank performs the access at the head of its queue, where that is at the head of the queue of every bank it acts at (R103). -/
theorem bank_performs {s : State} {d b id : Nat} {l ks : List Nat} (hq : mget [] s.mem.bankq (1000 + 256 * d + b) = id :: l)
    (hsome : ∀ a, s.accAt id = some a →
      ks = if a.banks.contains (1000 + 256 * d + b) then a.banks else [1000 + 256 * d + b])
    (hnone : s.accAt id = none → ks = [1000 + 256 * d + b])
    (hks : ∀ k ∈ ks, s.mem.served.contains k = false ∧ (mget [] s.mem.bankq k).head? = some id) :
    exec (.bankOperation d b) s = .next (((ks.foldl (fun t k => (t.serve k).onMem fun m =>
      { m with bankq := mset [] m.bankq k ((mget [] m.bankq k).drop 1) }) s).perform id).countLanding id) := by
  have hany : ¬(ks.any fun k => s.mem.served.contains k || (mget [] s.mem.bankq k).head? != some id) = true := by
    rw [Bool.not_eq_true, List.any_eq_false]
    intro k hk
    obtain ⟨hserved, hhead⟩ := hks k hk
    simp only [hserved, hhead, bne_self_eq_false, Bool.or_self, Bool.false_eq_true, not_false_eq_true]
  rw [exec_bankOperation, execBankOperation]
  simp only [hq]
  cases hacc : s.accAt id with
  | none => rw [hnone hacc] at hany ⊢; exact if_neg hany
  | some a => simp only [hsome a hacc] at hany ⊢; exact if_neg hany

/-! ## Completions -/

theorem landReg_same (c : Core) {d : Nat} (v : Word) (hd : 0 < d) : mget 0 (c.landReg d v).c.regs d = v := by
  rw [Core.landReg, if_neg (by omega)]
  exact mget_mset_same ..

theorem landReg_other (c : Core) {d r : Nat} (v : Word) (hr : r ≠ d) : mget 0 (c.landReg d v).c.regs r = mget 0 c.c.regs r := by
  unfold Core.landReg
  split
  · rfl
  · exact mget_mset_other _ _ _ hr

/-- What a load that has come back leaves: its flags, and its value in its register (R258). -/
theorem cDone_load {s : State} {id : Nat} {a : Access} {w : Nat} {sx : Bool} {v : Word} (hop : a.op = .load w sx)
    (hr : a.res = .val v) (hlq : a.lq = true) : s.cDone id a =
    (s.onCore a.core fun c => { c with cr := { c.cr with fflags := c.cr.fflags ||| a.flags } }).onCore a.core
      fun c => c.landReg a.dst v := by
  simp only [State.cDone, hop, hr, hlq, if_true]

theorem load_completes {s : State} {id : Nat} {a : Access} {w : Nat} {sx : Bool} {v : Word} (ha : s.accAt id = some a)
    (hag : a.agent = .c) (hst : a.stage = .back) (ht : (s.coreAt a.core).pl.task = some a.task) (hop : a.op = .load w sx)
    (hr : a.res = .val v) (hlq : a.lq = true) (hd : 0 < a.dst) : ∃ t : State, exec (.accessCompletion id) s = .next t ∧
      t.accAt id = none ∧ mget 0 (t.coreAt a.core).c.regs a.dst = v ∧ t.mem = s.mem ∧
      ∀ r, r ≠ a.dst → mget 0 (t.coreAt a.core).c.regs r = mget 0 (s.coreAt a.core).c.regs r := by
  refine ⟨(s.setAcc id none).cDone id a, ?_, ?_⟩
  · rw [exec_accessCompletion, execAccessCompletion, ha]
    simp [hst, State.complete, hag, ht]
  · rw [cDone_load hop hr hlq]
    refine ⟨by simp, ?_, rfl, fun r hne => ?_⟩
    · rw [coreAt_onCore_same, landReg_same _ _ hd]
    · rw [coreAt_onCore_same, landReg_other _ _ hne]
      simp

/-! ## The end of an A micro-order (R287) -/

theorem linkPush_v (v : Vecs) (e : Stream) (left : Bool) : (v.linkPush e left).v = v.v := by
  unfold Vecs.linkPush; split <;> rfl

theorem linkPush_jobs (v : Vecs) (e : Stream) (left : Bool) : (v.linkPush e left).jobs = v.jobs := by
  unfold Vecs.linkPush; split <;> rfl

/-- Pushes leave the vectors, the control registers and the jobs of a core. -/
theorem makePushes_keeps (e : Stream) (l : List Bool) (c : Core) :
    (c.makePushes e l).ve.v = c.ve.v ∧ (c.makePushes e l).cr = c.cr ∧ (c.makePushes e l).ve.jobs = c.ve.jobs := by
  induction l generalizing c with
  | nil => exact ⟨rfl, rfl, rfl⟩
  | cons b l ih =>
    rw [Core.makePushes]
    split
    · obtain ⟨hv, hcr, hjobs⟩ := ih { c with ve := c.ve.linkPush e b }
      exact ⟨hv.trans (linkPush_v ..), hcr, hjobs.trans (linkPush_jobs ..)⟩
    · exact ⟨rfl, rfl, rfl⟩

/-- What the end of a job of the core's own task leaves there: its flags, and every job but it. -/
theorem endJob_keeps {s : State} {n : Nat} {j : Job} (ht : (s.coreAt n).pl.task = some j.task) :
    ((s.endJob n j).coreAt n).ve.v = (s.coreAt n).ve.v ∧
    ((s.endJob n j).coreAt n).cr.fflags = (s.coreAt n).cr.fflags ||| j.flags ∧
    ((s.endJob n j).coreAt n).ve.jobs = (s.coreAt n).ve.jobs.filter fun i => i.id != j.id := by
  have hdrop : (s.dropJob n j.id).coreAt n = (s.coreAt n).onJobs fun l => l.filter fun i => i.id != j.id := by simp [State.dropJob]
  have hown : ¬(((s.dropJob n j.id).coreAt n).pl.task != some j.task) = true := by
    rw [hdrop]; simpa [Core.onJobs] using ht
  rw [State.endJob]
  dsimp only
  rw [if_neg hown, coreAt_onCore_same, hdrop]
  exact (makePushes_keeps ..).imp id (And.imp (congrArg _) id)

theorem arith_completes {s : State} {n id r : Nat} {j : Job} {x : Vec} (hj : s.jobAt n id = some j) (he : j.eng = .a)
    (hw : j.work = .arith [.v r x]) (hd : j.due ≤ s.beat) (ht : (s.coreAt n).pl.task = some j.task) :
    ∃ t : State, exec (.engineCompletion n id) s = .next t ∧ mget Vec.zero (t.coreAt n).ve.v r = x ∧
      (t.coreAt n).cr.fflags = (s.coreAt n).cr.fflags ||| j.flags ∧ t.jobAt n id = none ∧ t.mem = s.mem := by
  have hid : j.id = id := by simpa using List.find?_some hj
  have hend : s.finishJob n j = (s.onCore n fun c => c.aWrite (.v r x)).endJob n j := by
    simp [State.finishJob, he, hw, hd, State.aEnd, ht, Core.pushFault]
  have hwrite : (s.coreAt n).aWrite (.v r x) =
      { s.coreAt n with ve := { (s.coreAt n).ve with v := mset Vec.zero (s.coreAt n).ve.v r x } } := rfl
  obtain ⟨hv, hflags, hjobs⟩ := endJob_keeps (s := s.onCore n fun c => c.aWrite (.v r x)) (n := n) (j := j)
    (by rw [coreAt_onCore_same, hwrite]; exact ht)
  rw [coreAt_onCore_same, hwrite] at hv hflags hjobs
  refine ⟨s.finishJob n j, ?_, ?_⟩
  · rw [exec_engineCompletion, execEngineCompletion, hj]
    simp [he]
  · rw [hend]
    refine ⟨?_, hflags, ?_, by simp⟩
    · rw [hv]; exact mget_mset_same ..
    · rw [State.jobAt, hjobs, hid]
      simp

/-! ## Walks of ports (R289, R291) -/

theorem inPort_onIn (c : Core) (p : Nat) (f : InPort → InPort) : (c.onIn p f).inPort p = f (c.inPort p) := mget_mset_same ..

theorem outPort_onOut (c : Core) (p : Nat) (f : OutPort → OutPort) : (c.onOut p f).outPort p = f (c.outPort p) := mget_mset_same ..

/-- Where all of the n blocks have places, the last of them follows the others. -/
theorem blocksAt_succ {b : Base} {va n : Nat} {l : Loc} (h : b.locAt (va + 64 * n) = some l) :
    b.blocksAt va (n + 1) = b.blocksAt va n ++ [(n, l)] := by
  simp [Base.blocksAt, List.range_succ, h]

/-- The blocks of a vector, each with its place, set out as accesses under numbers that follow one another. -/
theorem blocks_set_out (mk : State → Nat × Loc → Access) (s : State) {b : Base} {va n : Nat}
    (h : ∀ i < n, (b.locAt (va + 64 * i)).isSome = true) :
    let t := (b.blocksAt va n).foldl (fun s e => s.addAcc (mk s e)) s
    t.nextId = s.nextId + n ∧ t.mem = s.mem ∧ (∀ m, t.coreAt m = s.coreAt m) ∧
      ∀ i < n, ∃ l u, b.locAt (va + 64 * i) = some l ∧ t.accAt (s.nextId + i) = some (mk u (i, l)) := by
  induction n with
  | zero => simp [Base.blocksAt]
  | succ n ih =>
    obtain ⟨l, hl⟩ := Option.isSome_iff_exists.1 (h n (Nat.lt_succ_self n))
    obtain ⟨hid, hmem, hcores, hacc⟩ := ih fun i hi => h i (Nat.lt_succ_of_lt hi)
    simp only [blocksAt_succ hl, List.foldl_append, List.foldl_cons, List.foldl_nil]
    generalize (b.blocksAt va n).foldl (fun s e => s.addAcc (mk s e)) s = u at hid hmem hcores hacc
    refine ⟨?_, hmem, hcores, fun i hi => ?_⟩
    · rw [← Nat.add_assoc, ← hid]; rfl
    · rcases Nat.lt_succ_iff_lt_or_eq.1 hi with hi | rfl
      · obtain ⟨k, v, hk, hv⟩ := hacc i hi
        exact ⟨k, v, hk, (accAt_setAcc_other u.fresh.2 _ _ _ (by show _ ≠ u.nextId; omega)).trans hv⟩
      · exact ⟨l, u, hl, by rw [← hid]; exact accAt_setAcc_same ..⟩

/-- The state in which the next vector of an input port's walk is asked for: its job has begun, and the walk has moved on. -/
def State.walkBegun (s : State) (n p : Nat) : State :=
  let q := (s.coreAt n).inPort p
  s.fresh.2.onCore n fun c => (c.onJobs (· ++ [s.walkJob n .l q.step q.base 0 (.fetch p (q.redo.headD q.asked) [])])).onIn p fun q =>
    if q.redo = [] then { q with asked := q.asked + 1 } else { q with redo := q.redo.drop 1 }

/-- The state in which the blocks of a vector of S are written: the write is in the history, and its job has begun. -/
def State.writeBegun (s : State) (n : Nat) (mk : Nat → State → Job) (va : Nat) (step : BitVec 13) : State :=
  let (h, s) := s.addHist n 1 step.toNat ((s.coreAt n).issueNo 2) 0 va
  let s := s.onCore n fun c => c.bumpIssue 2
  s.fresh.2.onCore n fun c => c.onJobs (· ++ [mk h s])

theorem walkBegun_port (s : State) (n p : Nat) : ((s.walkBegun n p).coreAt n).inPort p =
    let q := (s.coreAt n).inPort p
    if q.redo = [] then { q with asked := q.asked + 1 } else { q with redo := q.redo.drop 1 } := by
  rw [State.walkBegun]
  dsimp only
  rw [coreAt_onCore_same, inPort_onIn]
  rfl

theorem writeBegun_port (s : State) (n : Nat) (mk : Nat → State → Job) (va : Nat) (step : BitVec 13) (p : Nat) :
    ((s.writeBegun n mk va step).coreAt n).outPort p = (s.coreAt n).outPort p := by
  simp [State.writeBegun, State.addHist, Core.outPort, Core.onJobs, Core.bumpIssue]

/-- The four blocks of a vector of S set out for their places. -/
theorem writeVec_blocks (s : State) (n : Nat) (mk : Nat → State → Job) {va : Nat} {b : Base} (step : BitVec 13) (x : Vec)
    (hloc : ∀ i, i < 4 → (b.locAt (va + 64 * i)).isSome = true) :
    let t := s.writeVec n mk va b step x
    t.mem = s.mem ∧ (∀ p, (t.coreAt n).outPort p = (s.coreAt n).outPort p) ∧
      ∀ i, i < 4 → (t.accAt (s.nextId + 1 + i)).map (fun a => (a.loc, a.op)) =
        (b.locAt (va + 64 * i)).map fun l => (l, .wblk 0 64 (x.quarter i)) := by
  obtain ⟨-, hmem, hcores, hacc⟩ := blocks_set_out (fun u e =>
    { u.walkAccess n .s e.2 (va + 64 * e.1) (.wblk 0 64 (x.quarter e.1)) false b.owner s.nextId e.1 with
      hist := (s.coreAt n).tr.hcount }) (s.writeBegun n mk va step) hloc
  refine ⟨hmem, fun p => ?_, fun i hi => ?_⟩
  · exact congrArg (Core.outPort · p) (hcores n) |>.trans (writeBegun_port ..)
  · obtain ⟨l, u, hl, hu⟩ := hacc i hi
    rw [hl]
    exact congrArg _ hu

section
variable {s : State} {n p va : Nat}

theorem portWalk_fetches {l : Loc} {b : Base} (hbase : (s.coreAt n).baseOf ((s.coreAt n).inPort p).base = b) :
    let q := (s.coreAt n).inPort p
    q.bound = true → q.done = false → (q.redo = [] → q.fifo.length + (q.asked - q.pos) < 16) →
    ((s.coreAt n).eng .l).state ≠ .stopped → (s.coreAt n).pl.saveBeat = none →
    s.engReach n .l b false (nestOff q.nest (q.redo.headD q.asked)) 256 0x28 = .ok (va, l) → s.engReadOk n va l 256 = none →
    exec (.portWalkFetch n p) s = .next ((b.blocksAt va 4).foldl (fun u e =>
      u.addAcc (u.walkAccess n .l e.2 (va + 64 * e.1) .rblk true b.owner s.nextId e.1)) (s.walkBegun n p)) := by
  intro q hbound hdone hroom hst hsave hreach hread
  have hgo : ¬(!q.bound || q.done || (q.redo == [] && decide (16 ≤ q.fifo.length + (q.asked - q.pos)))
      || ((s.coreAt n).eng .l).state == .stopped || (s.coreAt n).pl.saveBeat.isSome) = true := by
    simpa [hbound, hdone, hst, hsave] using hroom
  rw [exec_portWalkFetch, execPortWalkFetch]
  dsimp only
  rw [if_neg hgo, hbase, hreach]
  dsimp only
  rw [hread]
  rfl

theorem portDrain_writes {l : Loc} {b : Base} {x : Vec} {f : List Vec} (hbase : (s.coreAt n).baseOf ((s.coreAt n).outPort p).base = b) :
    let q := (s.coreAt n).outPort p
    q.fifo = x :: f → q.bound = true → q.pos < nestCount q.nest → ((s.coreAt n).eng .s).state ≠ .stopped →
    (s.coreAt n).pl.saveBeat = none → s.engReach n .s b true (nestOff q.nest q.pos) 256 0x28 = .ok (va, l) →
    exec (.portDrain n p) s = .next ((s.onCore n fun c => c.onOut p fun q => { q with fifo := f, pos := q.pos + 1 }).writeVec n
      (fun h s => s.walkJob n .s q.step q.base h (.drain p q.pos)) va b q.step x) := by
  intro q hf hbound hpos hst hsave hreach
  have hgo : ¬(!q.bound || decide (nestCount q.nest ≤ q.pos) || ((s.coreAt n).eng .s).state == .stopped ||
      (s.coreAt n).pl.saveBeat.isSome) = true := by
    simp [hbound, hst, hsave, hpos]
  rw [exec_portDrain, execPortDrain]
  dsimp only
  rw [hf]
  dsimp only
  rw [if_neg hgo, hbase, hreach]

end

/-- Settles O51, clause by clause; the vector of a walk and that of a drain each set out block by block (blocks_set_out). -/
theorem accessesArePerformedAndCompleted : Obligations.AccessesArePerformedAndCompleted := by
  intro s
  refine ⟨fun _ _ _ => unplaced_write_performed, fun _ _ => outOfTurn_waits, fun _ _ _ _ _ => placed_write_performed,
    fun _ _ _ => read_performed, fun _ _ _ _ _ => writeBack_drains, fun _ _ _ _ _ => bank_performs, fun _ _ _ _ _ => load_completes,
    fun _ _ _ _ _ => arith_completes, fun n p va l hbound hdone hroom hst hsave hreach hread hloc => ?_,
    fun n p x f va l hf hbound hpos hst hsave hreach hloc => ?_⟩
  · obtain ⟨-, hmem, hcores, hacc⟩ := blocks_set_out (fun u e => u.walkAccess n .l e.2 (va + 64 * e.1) .rblk true _ s.nextId e.1)
      (s.walkBegun n p) hloc
    refine ⟨_, portWalk_fetches rfl hbound hdone hroom hst hsave hreach hread, ?_, hmem, fun i hi => ?_⟩
    · rw [hcores, walkBegun_port]
    · obtain ⟨l, u, hl, hu⟩ := hacc i hi
      rw [hl]
      exact congrArg _ hu
  · obtain ⟨hmem, hport, hacc⟩ := writeVec_blocks (s.onCore n fun c => c.onOut p fun q => { q with fifo := f, pos := q.pos + 1 }) n _
      _ x hloc
    refine ⟨_, portDrain_writes rfl hf hbound hpos hst hsave hreach, ?_, hmem, hacc⟩
    rw [hport, coreAt_onCore_same, outPort_onOut]

end Sys2Proof.Machine

/-!
Requests of the host (04_memory.md R114; 05_ordering.md R132; 19_drv_launch.md R408 to R411, R414, R425 to R427): reads, writes and
AtomicOps of the aperture set out part by part, and mailboxes, the post port and the registers take what they are given.
-/

namespace Sys2Proof.Machine

/-! ## Requests of the aperture (R409, R410) -/

/-- An offset of an owner's registers gives back the owner and the register. -/
theorem ownerOff_parts (o : Nat) {a : Nat} (ha : a < 2 ^ 16) : (o * 2 ^ 36 + a) / 2 ^ 36 = o ∧ (o * 2 ^ 36 + a) % 2 ^ 36 = a := by
  constructor <;> omega

section
variable (o : Nat) (op : Nat → AOp)

/-- The parts of a request set out under numbers that follow one another, each with the request's number and its own. -/
theorem parts_set_out (ls : List Loc) (i : Nat) (s : State) :
    (s.sendParts o op ls i).ev = s.ev ∧ (∀ k < s.nextId, (s.sendParts o op ls i).accAt k = s.accAt k) ∧
      ∀ j < ls.length, (s.sendParts o op ls i).accAt (s.nextId + j) =
        some (hostAccess o (ls.getD j (.hbm 0)) (op (i + j)) s.ev.asked (i + j)) := by
  induction ls generalizing i s with
  | nil => simp [State.sendParts]
  | cons l t ih =>
    obtain ⟨hev, hold, hnew⟩ := ih (i + 1) (s.fresh.2.setAcc s.nextId (some (hostAccess o l (op i) s.ev.asked i)))
    refine ⟨hev, fun k hk => ?_, fun j hj => ?_⟩
    · exact (hold k (Nat.lt_succ_of_lt hk)).trans (accAt_setAcc_other _ _ _ _ (Nat.ne_of_lt hk))
    · cases j with
      | zero => exact (hold s.nextId (Nat.lt_succ_self _)).trans (accAt_setAcc_same ..)
      | succ j =>
        have hid : s.nextId + (j + 1) = s.nextId + 1 + j := by omega
        have hpart : i + (j + 1) = i + 1 + j := by omega
        rw [hid, hpart]
        exact hnew j (Nat.lt_of_succ_lt_succ hj)

/-- An answered request of at least one part waits for its parts, and they set out. -/
theorem request_set_out {s : State} {off n : Nat} {ls : List Loc} (hls : ls ≠ []) :
    let t := s.sendRequest o off n op ls
    t.ev.reqs = s.ev.reqs ++ [⟨s.ev.asked, off, n, ls.length, [], false⟩] ∧ t.mem = s.mem ∧
      ∀ i < ls.length, t.accAt (s.nextId + i) = some (hostAccess o (ls.getD i (.hbm 0)) (op i) s.ev.asked i) := by
  obtain ⟨hev, -, hacc⟩ := parts_set_out o op ls 0
    { s with ev := { s.ev with reqs := s.ev.reqs ++ [⟨s.ev.asked, off, n, ls.length, [], false⟩] } }
  rw [State.sendRequest, if_neg hls]
  refine ⟨congrArg _ hev, by simp, fun i hi => ?_⟩
  rw [hacc i hi, Nat.zero_add]

end

section
variable {s : State}

theorem hostRead_register {o a : Nat} {w : Word} (hb : s.boot.state ≠ 8) (ho : o < 16) (ha : a < 2 ^ 16)
    (hr : (s.ownerAt o).reg a = some w) :
    exec (.hostRead (o * 2 ^ 36 + a) 8) s = .next (s.numbered.answer (s.ev.asked + 1) (leBytes w.toNat 8)) := by
  obtain ⟨hdiv, hmod⟩ := ownerOff_parts o ha
  rw [exec_hostRead, execHostRead, hdiv, hmod]
  rw [if_pos ⟨ha, ho, rfl, hb⟩, show (s.numbered.ownerAt o).reg a = some w from hr]
  rfl

theorem hostRead_memory {off n : Nat} {ps : List (Loc × Nat)} (hoff : 2 ^ 16 ≤ off % 2 ^ 36)
    (hp : s.numbered.hostPlaces off n .read = some ps) :
    exec (.hostRead off n) s = .next (s.numbered.sendRequest (off / 2 ^ 36) off n (fun _ => .rblk) (ps.map Prod.fst)) := by
  rw [exec_hostRead, execHostRead]
  rw [if_neg (fun h => absurd h.1 (Nat.not_lt.2 hoff)), hp]

theorem hostAtomicop_sent {off w : Nat} {op : HostAtomic} {b c : Word} {x : AOp} {l : Loc} (hop : hostAtomicOp op w b c = some x)
    (hl : s.numbered.hostLoc off .atomic true = some l) (hf : s.feature 7 = true) (hal : off % w = 0) :
    exec (.hostAtomicop off w op b c) s = .next (s.numbered.sendRequest (off / 2 ^ 36) off w (fun _ => x) [l]) := by
  have hf' : s.numbered.feature 7 = true := hf
  rw [exec_hostAtomicop, execHostAtomicop]
  simp [hop, hl, hf', hal]

theorem hostWrite_memory {off : Nat} {bs : List Byte} {ts : List Tag} {ps : List (Loc × Nat)} (hoff : 2 ^ 16 ≤ off % 2 ^ 36)
    (hp : s.numbered.hostPlaces off bs.length .write = some ps) :
    exec (.hostWrite off ⟨bs, ts⟩) s = .next ({ s.numbered with free := s.free + ps.length }.sendParts (off / 2 ^ 36)
      (s.hostBlock bs ts (ps.map Prod.snd)) (ps.map Prod.fst) 0) := by
  rw [exec_hostWrite, execHostWrite]
  dsimp only
  rw [if_neg (fun h => absurd h.1 (Nat.not_lt.2 hoff)), hp]
  rfl

/-- The answer of a request whose last part is back (R409). -/
theorem hostDone_answers {a : Access} {r : HostReq} (hsq : a.sq = false) (hr : s.ev.reqs.find? (fun r => r.no == a.job) = some r)
    (hleft : r.left = 1) : (s.hostDone a).ev.replies = s.ev.replies ++ [(r.no, (r.take a).bytes)] := by
  have hlast : (r.take a).left = 0 ∧ (r.take a).no = r.no := by
    unfold HostReq.take
    split <;> simp [hleft]
  obtain ⟨hzero, hno⟩ := hlast
  rw [State.hostDone, if_neg (ne_true_of_eq_false hsq), hr]
  dsimp only
  rw [if_pos hzero, hno]
  rfl

/-! ## Mailboxes (R425, R426) -/

theorem mailLoop_not_launch {n : Nat} (k : Nat) (h : s.launchMode n = false) : s.mailLoop n k = s := by
  cases k with
  | zero => rfl
  | succ k => exact if_pos (.inl (by simp [h]))

theorem mailLoop_empty {n : Nat} (k : Nat) (h : (s.coreAt n).ch.mail = []) : s.mailLoop n k = s := by
  cases k with
  | zero => rfl
  | succ k => rw [State.mailLoop, h]; exact ite_self _

/-- A record of two words that alone is in a mailbox in launch mode leaves it empty, with the code of its outcome (R426). -/
theorem mailLoop_record {n k : Nat} {w0 w1 : Word} (hm : (s.coreAt n).ch.mail = [w0, w1]) (h63 : w0.getLsbD 63 = true)
    (hl : s.launchMode n = true) (hp : (s.dieAt (dieOf n)).posts < 4) : s.mailLoop n (k + 1) =
    (s.launch n w0 w1).2.onCore n fun c => { c with ch := { c.ch with mail := [], lres := (s.launch n w0 w1).1 } } := by
  rw [State.mailLoop, if_neg (by simp [hl, hp]), hm]
  dsimp only
  rw [if_neg (by simp [h63])]
  exact mailLoop_empty k (by simp)

theorem launchMode_pushMail (n m : Nat) (w : Word) : (s.onCore n fun c => c.pushMail w).launchMode m = s.launchMode m := by
  have hpl : ((s.onCore n fun c => c.pushMail w).coreAt m).pl = (s.coreAt m).pl := by
    rw [coreAt_onCore]
    split
    · next h => rw [h, Core.pushMail]; split <;> rfl
    · rfl
  simp [State.launchMode, hpl]

/-- A push that waits for no earlier write enters its mailbox, whose records are then taken (R132, R425). -/
theorem mailboxPush_enters {n : Nat} (w : Word) (hn : n < 192) (hb : s.boot.state ≠ 8) (hp : s.ev.pushes = [])
    (hw : s.hostWriteBefore s.nextId = false) :
    exec (.mailboxPush n w) s = .next ((s.onCore n fun c => c.pushMail w).mailLoop n 9) := by
  rw [exec_mailboxPush, execMailboxPush, if_neg (Nat.not_le.2 hn), if_neg hb, if_neg (by simp [hp, hw])]

/-- A push behind an earlier write waits for it (R132). -/
theorem mailboxPush_waits {n : Nat} (w : Word) (hn : n < 192) (hb : s.boot.state ≠ 8)
    (hwait : s.ev.pushes ≠ [] ∨ s.hostWriteBefore s.nextId = true) :
    exec (.mailboxPush n w) s = .next { s with ev := { s.ev with pushes := s.ev.pushes ++ [(n, w, s.nextId)] } } := by
  rw [exec_mailboxPush, execMailboxPush, if_neg (Nat.not_le.2 hn), if_neg hb, if_pos hwait]

theorem mailboxPush_in_use {n : Nat} (w : Word) (hn : n < 192) (hb : s.boot.state ≠ 8) (hp : s.ev.pushes = [])
    (hw : s.hostWriteBefore s.nextId = false) (hl : s.launchMode n = false) :
    exec (.mailboxPush n w) s = .next (s.onCore n fun c => c.pushMail w) := by
  rw [mailboxPush_enters w hn hb hp hw, mailLoop_not_launch 9 ((launchMode_pushMail ..).trans hl)]

theorem mailboxPush_record {n : Nat} {w0 w1 : Word} (hn : n < 192) (hb : s.boot.state ≠ 8) (hp : s.ev.pushes = [])
    (hw : s.hostWriteBefore s.nextId = false) (hm : (s.coreAt n).ch.mail = [w0]) (h63 : w0.getLsbD 63 = true)
    (hl : s.launchMode n = true) (hposts : (s.dieAt (dieOf n)).posts < 4) :
    let r := (s.onCore n fun c => { c with ch := { c.ch with mail := [w0, w1] } }).launch n w0 w1
    exec (.mailboxPush n w1) s =
      .next (r.2.onCore n fun c => { c with ch := { c.ch with mail := [], lres := r.1 } }) := by
  have hpush : (s.onCore n fun c => c.pushMail w1) = s.onCore n fun c => { c with ch := { c.ch with mail := [w0, w1] } } := by
    simp [State.onCore, Core.pushMail, hm]
  have hlaunch := (launchMode_pushMail (s := s) n n w1).trans hl
  rw [mailboxPush_enters w1 hn hb hp hw]
  rw [hpush] at hlaunch ⊢
  rw [mailLoop_record (w1 := w1) (by simp) h63 hlaunch (by simpa using hposts)]

/-! ## The post port (R427) -/

theorem postPort_posts {d : Nat} {w : Word} (hb : s.boot.state ≠ 8) (hd : d < 8) (hw : w.getLsbD 8 = true) :
    let ws := (s.dieAt d).postWords
    let e := s.dieAt (descDie ws)
    exec (.postPortPost d w) s = if 4 ≤ e.posts ∨ e.posting ≠ [] then
        .next (s.onDie (descDie ws) fun x => { x with posting := x.posting ++ [(d, bitsOf w 0 4, ws)] })
      else .next (s.windowPost d (descDie ws) (bitsOf w 0 4) ws) := by
  rw [exec_postPortPost, execPostPortPost, if_neg hb]
  dsimp only
  rw [if_neg (by simp [hw, hd])]

/-! ## Registers of BAR0 (R408, R411, R412, R427) -/

theorem responds_of_service (hb : s.boot.state ≠ 8) (off : Nat) : s.responds off = true := by simp [State.responds, hb]

/-- Argument i of the command block (R411). -/
theorem argument_written (hb : s.boot.state ≠ 8) {i : Nat} (w : Word) (hi : i < 4) :
    exec (.registerWrite 0 (0x2008 + 8 * i) w) s = .next { s with cmd := { s.cmd with args := mset 0 s.cmd.args i w } } := by
  have ha : 0x2008 + 8 * i - 0x2000 = 8 * (i + 1) := by omega
  have hkey : 8 * (i + 1) / 8 - 1 = i := by omega
  rw [exec_registerWrite, execRegisterWrite, if_pos rfl, State.bar0Write]
  dsimp only
  rw [if_neg (by simp [responds_of_service hb]), if_neg (by omega), if_neg (by omega), if_neg (by omega), if_pos (by omega), ha,
    State.cmdWrite, if_neg (by omega), if_pos (by omega), hkey]

/-- A register of a die's block, by its offset in it. -/
theorem registerWrite_die (hb : s.boot.state ≠ 8) {off d a : Nat} (w : Word) (hoff : off = 0x100000 + 0x20000 * d + a) (hd : d < 8)
    (ha : a < 0x20000) (hal : a % 8 = 0) : exec (.registerWrite 0 off w) s = s.dieWrite d a w := by
  have hdiv : (off - 0x100000) / 0x20000 = d := by omega
  have hmod : (off - 0x100000) % 0x20000 = a := by omega
  rw [exec_registerWrite, execRegisterWrite, if_pos rfl, State.bar0Write]
  dsimp only
  rw [if_neg (by simp [responds_of_service hb]), if_neg (by omega), if_neg (by omega), if_neg (by omega), if_neg (by omega),
    if_neg (by omega), if_pos (by omega), hdiv, hmod]

theorem reserve_written (hb : s.boot.state ≠ 8) {d : Nat} {w : Word} (hd : d < 8) (hw : bitsOf w 0 3 ≤ 4) :
    exec (.registerWrite 0 (0x100090 + 0x20000 * d) w) s = .next (s.onDie d fun x => { x with reserve := bitsOf w 0 3 }) := by
  rw [registerWrite_die hb (a := 0x90) w (by omega) hd (by omega) (by omega), State.dieWrite, if_neg (by omega), if_neg (by omega),
    if_pos rfl, if_neg (Nat.not_lt.2 hw)]

theorem postBuf_written (hb : s.boot.state ≠ 8) {d i : Nat} (w : Word) (hd : d < 8) (hi : i < 16) :
    exec (.registerWrite 0 (0x100000 + 0x20000 * d + 8 * i) w) s =
      .next (s.onDie d fun x => { x with postBuf := msetList 0 x.postBuf (8 * i) (leBytes w.toNat 8) }) := by
  rw [registerWrite_die hb w rfl hd (by omega) (by omega), State.dieWrite, if_pos (by omega)]

theorem accepted_written (hb : s.boot.state ≠ 8) (hg : s.boot.go = false) (w : Word) :
    exec (.registerWrite 0 0x1008 w) s = .next { s with boot := { s.boot with accepted := w } } := by
  rw [exec_registerWrite, execRegisterWrite, if_pos rfl, State.bar0Write]
  dsimp only
  rw [if_neg (by simp [responds_of_service hb]), if_neg (by omega), if_neg (by omega), if_pos (by omega), State.featureWrite,
    if_neg (by omega), if_pos rfl, if_neg (ne_true_of_eq_false hg)]

/-- A word of the post buffer that is written reads back (R427). -/
theorem postWords_written (d : Die) {i : Nat} (w : Word) (hi : i < 16) :
    ({ d with postBuf := msetList 0 d.postBuf (8 * i) (leBytes w.toNat 8) } : Die).postWords.getD i 0 = w := by
  have hread : mgetList 0 (msetList 0 d.postBuf (8 * i) (leBytes w.toNat 8)) (8 * i) 8 = leBytes w.toNat 8 := by
    simpa only [leBytes_length] using mgetList_msetList 0 (leBytes w.toNat 8) d.postBuf (8 * i)
  have hval : leNat (leBytes w.toNat 8) = w.toNat := by
    rw [leNat_leBytes]
    exact Nat.mod_eq_of_lt w.isLt
  simp only [Die.postWords, List.getD_eq_getElem?_getD, List.getElem?_map, List.getElem?_range hi, Option.map_some, Option.getD_some,
    hread, hval, w64, BitVec.ofNat_toNat, BitVec.setWidth_eq]

end

/-- Settles O48, request by request. -/
theorem hostRequestsComplete : Obligations.HostRequestsComplete := by
  intro s hb u no
  refine ⟨fun o a w ho ha hr => ⟨_, hostRead_register hb ho ha hr, rfl⟩, fun off n ps hoff hp hne => ?_,
    fun off w op b c x l hop hl hf hal => ?_, fun a r => hostDone_answers, fun off bs ts ps hoff hp => ?_,
    fun n w hn => ⟨fun hp hw => ⟨fun hl => ?_, fun w0 hm h63 hl hposts => ?_⟩, fun hwait => ?_⟩,
    fun d w hd hw => ⟨fun hposts hposting => ?_, fun hfull => ?_⟩, fun w => ⟨fun i hi => ?_, fun hg => ?_, fun d hd hw => ?_,
    fun d i hd hi => ?_, fun off => rfl⟩⟩
  · obtain ⟨hreqs, hmem, hacc⟩ := request_set_out (off / 2 ^ 36) (fun _ => .rblk) (s := u) (off := off) (n := n)
      (ls := ps.map Prod.fst) (by simpa using hne)
    rw [List.length_map] at hreqs hacc
    exact ⟨_, hostRead_memory hoff hp, hreqs, hmem, hacc⟩
  · obtain ⟨hreqs, hmem, hacc⟩ := request_set_out (off / 2 ^ 36) (fun _ => x) (s := u) (off := off) (n := w) (ls := [l]) (by simp)
    exact ⟨_, hostAtomicop_sent hop hl hf hal, hreqs, hmem, hacc 0 (by simp)⟩
  · obtain ⟨-, -, hacc⟩ := parts_set_out (off / 2 ^ 36) (s.hostBlock bs ts (ps.map Prod.snd)) (ps.map Prod.fst) 0
      { u with free := s.free + ps.length }
    rw [List.length_map] at hacc
    refine ⟨_, hostWrite_memory hoff hp, by simp, fun i hi => ?_⟩
    exact (hacc i hi).trans (by rw [Nat.zero_add]; rfl)
  · refine ⟨_, mailboxPush_in_use w hn hb hp hw hl, fun hroom => ?_, fun hfull => ?_⟩
    · rw [coreAt_onCore_same, Core.pushMail, if_neg (Nat.not_le.2 hroom)]
    · rw [coreAt_onCore_same, Core.pushMail, if_pos hfull]
      exact ⟨rfl, rfl⟩
  · exact ⟨_, mailboxPush_record hn hb hp hw hm h63 hl hposts, by simp, by simp⟩
  · exact ⟨_, mailboxPush_waits w hn hb hwait, rfl, rfl⟩
  · refine ⟨_, (postPort_posts hb hd hw).trans (if_neg ?_), ?_⟩
    · simpa [hposting] using hposts
    · simp [State.windowPost]
  · exact ⟨_, (postPort_posts hb hd hw).trans (if_pos hfull), by simp⟩
  · exact ⟨_, argument_written hb w hi, mget_mset_same ..⟩
  · exact ⟨_, accepted_written hb hg w, rfl⟩
  · exact ⟨_, reserve_written hb hd hw, by simp⟩
  · exact ⟨_, postBuf_written hb w hd hi, by rw [dieAt_onDie_same]; exact postWords_written _ w hi⟩

end Sys2Proof.Machine

/-!
Markers, counted waits and tfence (05_ordering.md R123 to R125; 08_timing.md R193; 12_ins_memory_sync.md R261 to R264): each completes when
what it waits for is over.
-/

namespace Sys2Proof.Machine

open Sys2Proof.Safety

variable {s : State}

theorem qalign_completes (hn : NotLast s) :
    exec .qalign s = .next (s.onCtl fun c => { c with epoch := c.epoch + 1 }).advance := by
  rw [exec_qalign, execQalign, cIssue_next (issues_none hn)]

theorem mfence_completes {m : BitVec 5} (hn : NotLast s) (hm : ∀ e ∈ maskStreams m, (s.here.eng e).markers.length < 4) :
    exec (.mfence m) s = .next (s.onHere fun c => ((maskStreams m).foldl
      (fun k e => k.onEng e fun g => { g with markers := g.markers ++ [s.nextId] }) c).popMarkers).advance := by
  have hroom : ((maskStreams m).any fun e => decide (4 ≤ (s.here.eng e).markers.length)) = false := by
    simpa only [List.any_eq_false, decide_eq_true_eq, Nat.not_le] using hm
  rw [exec_mfence, execMfence, if_neg (ne_true_of_eq_false hroom), cIssue_next (issues_none hn)]

/-- With no marker anywhere mjoin waits for no stream, and so reports none (R22). -/
theorem mjoin_completes (hn : NotLast s) (hm : ∀ e ∈ [Stream.l, .a, .s, .m, .x], (s.here.eng e).markers = []) :
    exec .mjoin s = .next s.advance := by
  have hwait : ([Stream.l, .a, .s, .m, .x].filter fun e => (s.here.eng e).markers != []) = [] :=
    List.filter_eq_nil_iff.2 fun e he => by simp [hm e he]
  have hrep : s.engineReport [] = none := engineReport_none (by simp)
  simp [execMjoin, hwait, hrep, cIssue_next (issues_none hn)]

theorem wait_completes {l st c t : BitVec 5} (hn : NotLast s) (hc : s.countsMet l.toNat st.toNat c.toNat t.toNat = true)
    (hp : s.takePending ⟨l.toNat, st.toNat, c.toNat, false⟩ = none) :
    exec (.wait l st c t) s = .next (s.onCtl (·.landed l.toNat)).advance := by
  simp only [exec_wait, execWait, hc, hp, Bool.not_true, Bool.false_eq_true, if_false, cIssue_next (issues_none hn)]

/-- The wait record that a tfence goes by holds its number and beat: those of the wait that C is in, or of now (R193). -/
theorem inWait_getD (w : CWait) : (s.inWait.getD w).acc = (s.inWait.map CWait.acc).getD w.acc ∧
    (s.inWait.getD w).since = (s.inWait.map CWait.since).getD w.since := by
  cases s.inWait <;> exact ⟨rfl, rfl⟩

theorem tfence_completes (hn : NotLast s)
    (hq : s.quietBefore ((s.inWait.map CWait.acc).getD s.nextId) ((s.inWait.map CWait.since).getD s.beat) = true)
    (hp : s.takePending ⟨0, 0, 0, true⟩ = none) (hf : s.here.cr.fflags &&& s.here.cr.fenable = 0) :
    exec .tfence s = .next s.advance := by
  obtain ⟨hacc, hsince⟩ := inWait_getD (s := s) ⟨s.here.c.pc.toNat, s.beat, s.nextId, none, none, none⟩
  rw [exec_tfence, execTfence, State.fence]
  simp [hacc, hsince, hq, hp, hf, cIssue_next (issues_none hn)]

/-- Settles O20, instruction by instruction. -/
theorem markersAndCountedWaitsComplete : Obligations.MarkersAndCountedWaitsComplete := fun _ hn =>
  ⟨qalign_completes hn, fun _ => mfence_completes hn, mjoin_completes hn, fun _ _ _ _ => wait_completes hn, tfence_completes hn⟩

end Sys2Proof.Machine

/-!
Modules and peers (05_ordering.md R134; 07_circuits_cells.md R158 to R174; 17_prog_sync.md R386 to R389; 19_drv_launch.md R436): the flits
of a module, their replay and its retraining, and what peers send.
-/

namespace Sys2Proof.Machine

/-! ## A module and its two directions -/

/-- A module without its two directions: its counts, and whether it is in service. -/
def Module.status (m : Module) : Module := { m with up := Lane.rest, down := Lane.rest }

section
variable (m : Module) (up : Bool) (l l' : Lane)

@[simp] theorem lane_setLane_same : (m.setLane up l).lane up = l := by cases up <;> rfl
@[simp] theorem lane_setLane_not : (m.setLane (!up) l).lane up = m.lane up := by cases up <;> rfl
@[simp] theorem setLane_setLane : (m.setLane up l).setLane up l' = m.setLane up l' := by cases up <;> rfl
@[simp] theorem setLane_status : (m.setLane up l).status = m.status := by cases up <;> rfl

end

/-! ## What a sender does (R386, R387) -/

/-- What is on the wire stays there while flits are made of what waits. -/
theorem wire_subset_fill (gap start n : Nat) (l : Lane) : l.wire ⊆ (Lane.fill gap start n l).wire := by
  induction n generalizing l with
  | zero => exact List.Subset.refl _
  | succ n ih =>
    rw [Lane.fill]
    split
    · exact List.Subset.refl _
    · exact List.Subset.trans (List.subset_append_left l.wire _) (ih { l with wire := _, waiting := _, next := _, held := _, free := _ })

section
variable (m : Module) (beat : Nat)

theorem wire_subset_pump (up : Bool) : (m.lane up).wire ⊆ ((m.pump beat).lane up).wire := by
  rw [Module.pump]
  split
  · cases up <;> simp only [Module.lane, Bool.false_eq_true, if_true, if_false, wire_subset_fill]
  · exact List.Subset.refl _

@[simp] theorem pump_status : (m.pump beat).status = m.status := by
  rw [Module.pump]; split <;> rfl

@[simp] theorem replay_status (up : Bool) (start : Nat) : (m.replay up start beat).status =
    { m.status with replays := min 65535 (m.replays + (m.lane up).sentBefore beat) } := by
  rw [Module.replay, pump_status, setLane_status]; rfl

end

/-- Timing a list of flits keeps the number and the units of each. -/
theorem timed_same {gap q : Nat} {l : List UFlit} {f : UFlit} (h : f ∈ l) :
    ∃ g ∈ timed gap q l, g.seq = f.seq ∧ g.units = f.units := by
  induction l generalizing q with
  | nil => cases h
  | cons e l ih =>
    rw [timed]
    rcases List.mem_cons.1 h with rfl | h
    · exact ⟨_, List.mem_cons_self .., rfl, rfl⟩
    · obtain ⟨g, hg, he⟩ := ih h
      exact ⟨g, List.mem_cons_of_mem _ hg, he⟩

/-- So does putting ack fields on the first of them. -/
theorem carryAck_same {o : Option (BitVec 8 × Option Bool)} {l : List UFlit} {f : UFlit} (h : f ∈ l) :
    ∃ g ∈ carryAck o l, g.seq = f.seq ∧ g.units = f.units := by
  unfold carryAck
  split
  case h_1 => exact ⟨f, h, rfl, rfl⟩
  case h_2 =>
    rcases List.mem_cons.1 h with rfl | h
    · exact ⟨_, List.mem_cons_self .., rfl, rfl⟩
    · exact ⟨f, List.mem_cons_of_mem _ h, rfl, rfl⟩
  case h_3 => cases h

/-- A held flit is sent again (R387). -/
theorem resend_sends {l : Lane} {f : UFlit} (gap start beat : Nat) (h : f ∈ l.held) :
    ∃ g ∈ (l.resend gap start beat).wire, g.seq = f.seq ∧ g.units = f.units := by
  obtain ⟨c, hc, hcf⟩ := carryAck_same (o := l.owed beat) h
  obtain ⟨g, hg, hgc⟩ := timed_same hc
  exact ⟨g, List.mem_append_right _ hg, hgc.1.trans hcf.1, hgc.2.trans hcf.2⟩

theorem replay_sends {m : Module} {up : Bool} {f : UFlit} (start beat : Nat) (h : f ∈ (m.lane up).held) :
    ∃ g ∈ ((m.replay up start beat).lane up).wire, g.seq = f.seq ∧ g.units = f.units := by
  obtain ⟨g, hg, he⟩ := resend_sends m.gap start beat h
  refine ⟨g, wire_subset_pump _ _ _ ?_, he⟩
  rwa [lane_setLane_same]

/-! ## What a receiver answers (R388) -/

section
variable (m : Module) (up : Bool) (a : BitVec 8) (n : Option Bool) (beat : Nat)

@[simp] theorem sendAck_status : (m.sendAck up a n beat).status = m.status := by
  unfold Module.sendAck; dsimp only; split <;> exact setLane_status ..

@[simp] theorem lane_sendAck_not : (m.sendAck (!up) a n beat).lane up = m.lane up := by
  unfold Module.sendAck; dsimp only; split <;> exact lane_setLane_not ..

/-- An ack stands on the next flit of its direction, or on an idle flit of its own. -/
theorem sendAck_acks : ∃ g ∈ ((m.sendAck up a n beat).lane up).wire, g.ack = some a := by
  unfold Module.sendAck; dsimp only
  split
  case h_1 i hi =>
    obtain ⟨hlt, -⟩ := List.findIdx?_eq_some_iff_getElem.1 hi
    rw [lane_setLane_same]
    refine ⟨_, List.getElem_mem (n := i) (by rw [List.length_modify]; exact hlt), ?_⟩
    rw [List.getElem_modify_eq]
  case h_2 =>
    rw [lane_setLane_same]
    exact ⟨_, List.mem_append_right _ (List.mem_singleton_self _), rfl⟩

@[simp] theorem nack_status : (m.nack up beat).status = m.status := by
  unfold Module.nack; dsimp only; split
  · simp
  · split <;> simp
  · rfl

end

/-- The module once the flit at the head of a direction, whose wire then is r, is accepted: the next number is expected, and the other
direction owes an ack. -/
def Module.accept (m : Module) (up : Bool) (r : List UFlit) (beat : Nat) : Module :=
  let l := m.lane up
  (m.setLane up { l with wire := r, expected := l.expected + 1, nackOut := none }).sendAck (!up) l.expected none beat

theorem accept_lane (m : Module) (up : Bool) (r : List UFlit) (beat : Nat) : (m.accept up r beat).lane up =
    { m.lane up with wire := r, expected := (m.lane up).expected + 1, nackOut := none } := by
  rw [Module.accept, lane_sendAck_not, lane_setLane_same]

/-- The module once that flit has failed its check: it is counted, and a nack leaves. -/
def Module.discard (m : Module) (up : Bool) (r : List UFlit) (beat : Nat) : Module :=
  ({ m with crcfail := min 65535 (m.crcfail + 1) }.setLane up
    { m.lane up with wire := r, fails := (m.lane up).fails + 1 }).nack up beat

theorem discard_crcfail (m : Module) (up : Bool) (r : List UFlit) (beat : Nat) :
    (m.discard up r beat).crcfail = min 65535 (m.crcfail + 1) :=
  congrArg Module.crcfail ((nack_status ..).trans (setLane_status ..))

/-- The module once that flit has come out of sequence: it is nacked, or acked again where it is a repeat. -/
def Module.turnAway (m : Module) (up : Bool) (r : List UFlit) (seq : BitVec 8) (beat : Nat) : Module :=
  let l := m.lane up
  let m := m.setLane up { l with wire := r }
  if (seq - l.expected).toNat < 128 then m.nack up beat else m.sendAck (!up) (l.expected - 1) none beat

/-! ## What is handed on (R152, R154, R388) -/

section
variable (t : State) (m : Nat) (up : Bool)

@[simp] theorem handOn_moduleAt (u : FUnit) (n : Nat) : (t.handOn m up u).moduleAt n = t.moduleAt n := by
  unfold State.handOn; repeat' split
  all_goals rfl

@[simp] theorem foldl_handOn_moduleAt (us : List FUnit) (n : Nat) :
    (us.foldl (fun t u => t.handOn m up u) t).moduleAt n = t.moduleAt n :=
  List.foldlRecOn (motive := fun u => u.moduleAt n = t.moduleAt n) us _ rfl fun v hv u _ => (handOn_moduleAt v m up u n).trans hv

theorem handOn_up (p : Parcel) (b : BitVec 512) : mget [] (t.handOn m true (.parcel p true b)).conv.queues (28 * m + p.dest) =
    mget [] t.conv.queues (28 * m + p.dest) ++ [{ p with seq := t.nextId }] := mget_mset_same ..

theorem handOn_down {p : Parcel} (b : BitVec 512) (hp : p.last = true) : (t.handOn m false (.parcel p true b)).accAt p.acc =
    (t.accAt p.acc).map fun a => { a with stage := if p.reply then .back else .arrived } := by
  simp [State.handOn, hp]

end

/-! ## The next flit of a direction (R388) -/

section
variable {s : State} {m k : Nat} {up : Bool} {f : UFlit} {r : List UFlit}
  (hw : ((s.moduleAt (linkKey m k)).lane up).wire = f :: r) (hd : (s.moduleAt (linkKey m k)).dead = false)
  (hb : f.start / 4 + (s.moduleAt (linkKey m k)).flight ≤ s.beat)
include hw hd hb

theorem flit_failing_check : exec (.ucieFlitReceived m k up false) s =
    .next (s.onModule (linkKey m k) fun x => x.discard up r s.beat) := by
  rw [exec_ucieFlitReceived, execUcieFlitReceived]
  simp only [hw]
  rw [if_neg (by simp [hd, Nat.not_lt.2 hb]), if_pos (by decide)]
  cases up <;> rfl

variable (ha : f.ack = none) (hi : f.idle = false)
include ha hi

/-- A flit of units that passes its check is accepted in sequence, and else turned away. -/
theorem flit_passing_check : exec (.ucieFlitReceived m k up true) s = .next
    (if f.seq = ((s.moduleAt (linkKey m k)).lane up).expected then
      f.units.foldl (fun t u => t.handOn m up u) (s.onModule (linkKey m k) fun x => x.accept up r s.beat)
    else s.onModule (linkKey m k) fun x => x.turnAway up r f.seq s.beat) := by
  rw [exec_ucieFlitReceived, execUcieFlitReceived]
  simp only [hw]
  rw [if_neg (by simp [hd, Nat.not_lt.2 hb]), if_neg (by decide), ha, hi]
  dsimp only
  rw [if_neg (by decide), lane_setLane_same, setLane_setLane]
  split
  · rfl
  · simp only [State.onModule, Module.turnAway]
    split <;> rfl

/-- What an accepted flit leaves: the number after its own expected, the rest of the wire, its ack on the way back, and a whole parcel in
the queue of its destination or, with the last of an access, delivered. -/
theorem flit_accepted (hs : f.seq = ((s.moduleAt (linkKey m k)).lane up).expected) :
    ∃ t : State, exec (.ucieFlitReceived m k up true) s = .next t ∧
      ((t.moduleAt (linkKey m k)).lane up).expected = f.seq + 1 ∧ ((t.moduleAt (linkKey m k)).lane up).wire = r ∧
      (∃ g ∈ ((t.moduleAt (linkKey m k)).lane (!up)).wire, g.ack = some f.seq) ∧
      ∀ p b, f.units = [.parcel p true b] →
        (up = true → mget [] t.conv.queues (28 * m + p.dest) =
          mget [] s.conv.queues (28 * m + p.dest) ++ [{ p with seq := s.nextId }]) ∧
        (up = false → p.last = true → ∀ a, s.accAt p.acc = some a →
          t.accAt p.acc = some { a with stage := if p.reply then .back else .arrived }) := by
  refine ⟨_, (flit_passing_check hw hd hb ha hi).trans (by rw [if_pos hs]), ?_⟩
  rw [foldl_handOn_moduleAt, moduleAt_onModule_same, accept_lane]
  refine ⟨by rw [hs], rfl, hs ▸ sendAck_acks .., fun p b hu => ⟨?_, ?_⟩⟩
  · rintro rfl
    rw [hu]
    exact handOn_up _ m p b
  · rintro rfl hl a hacc
    rw [hu]
    exact (handOn_down _ m b hl).trans (by rw [onModule_accAt, hacc]; rfl)

theorem flit_turned_away (hs : f.seq ≠ ((s.moduleAt (linkKey m k)).lane up).expected) : exec (.ucieFlitReceived m k up true) s =
    .next (s.onModule (linkKey m k) fun x => x.turnAway up r f.seq s.beat) :=
  (flit_passing_check hw hd hb ha hi).trans (by rw [if_neg hs])

end

/-! ## Replays and retraining (R387, R389, R436) -/

section
variable {s : State} {m k : Nat}

theorem startRetrain_stops {x : Module} (at_ beat : Nat) (h : x.open_ = true) :
    (x.startRetrain at_ beat).retrainTill = some (at_ + 1600) ∧ (x.startRetrain at_ beat).open_ = false := by
  rw [Module.startRetrain, if_pos h]
  exact ⟨rfl, rfl⟩

theorem retrain_requested (hb : s.boot.state ≠ 8) : exec (.moduleRetrainRequest m k) s =
    .next (s.onModule (linkKey m k) fun x => x.startRetrain (x.quietFrom s.beat) s.beat) := by
  rw [exec_moduleRetrainRequest, execModuleRetrainRequest, if_neg hb]

theorem retry_replays {up : Bool} (ho : (s.moduleAt (linkKey m k)).open_ = true)
    (hd : ((s.moduleAt (linkKey m k)).lane up).overdue s.beat = true) : exec (.retryTimeout m k up) s =
      .next (s.onModule (linkKey m k) fun x => x.replay up (4 * s.beat) s.beat) := by
  rw [exec_retryTimeout, execRetryTimeout]
  exact if_pos (by simp [ho, hd])

/-- The module once retraining has ended with the lanes of these halves: both senders replay. -/
def Module.retrained (x : Module) (lo hi : Bool) (beat : Nat) : Module :=
  ({ x with
    retrainTill := none, retrains := min 255 (x.retrains + 1)
    width := if lo && hi then 0 else if lo then 1 else 2 }.replay true (4 * beat) beat).replay false (4 * beat) beat

/-- The module once retraining has ended with no lanes. -/
def Module.lost (x : Module) : Module :=
  { x with retrainTill := none, retrains := min 255 (x.retrains + 1), dead := true, up := Lane.rest, down := Lane.rest }

theorem retrained_status (x : Module) (lo hi : Bool) (beat : Nat) : ∃ n, (x.retrained lo hi beat).status = { x.status with
    retrainTill := none, retrains := min 255 (x.retrains + 1), width := if lo && hi then 0 else if lo then 1 else 2, replays := n } :=
  ⟨_, by rw [Module.retrained, replay_status, replay_status]; rfl⟩

@[simp] theorem dropUnit_moduleAt (t : State) (u : FUnit) (n : Nat) : (t.dropUnit u).moduleAt n = t.moduleAt n := by cases u <;> rfl

theorem foldl_dropUnit_moduleAt (us : List FUnit) (t : State) (n : Nat) : (us.foldl State.dropUnit t).moduleAt n = t.moduleAt n :=
  List.foldlRecOn (motive := fun u => u.moduleAt n = t.moduleAt n) us _ rfl fun v hv u _ => (dropUnit_moduleAt v u n).trans hv

section
variable {b : Nat} {lo hi : Bool}

theorem retrain_passes (hr : (s.moduleAt (linkKey m k)).retrainTill = some b) (hb : b ≤ s.beat) (hl : (lo || hi) = true) :
    exec (.moduleRetrainEnd m k lo hi) s = .next ((s.onModule (linkKey m k) fun x => x.retrained lo hi s.beat).raiseMsix 27) := by
  rw [exec_moduleRetrainEnd, execModuleRetrainEnd]
  simp only [hr]
  rw [if_neg (Nat.not_lt.2 hb), if_pos hl]
  rfl

theorem retrain_fails (hr : (s.moduleAt (linkKey m k)).retrainTill = some b) (hb : b ≤ s.beat) :
    let x := s.moduleAt (linkKey m k)
    exec (.moduleRetrainEnd m k false false) s =
      .next (((x.up.units ++ x.down.units).foldl State.dropUnit (s.onModule (linkKey m k) Module.lost)).raiseMsix 27) := by
  intro x
  rw [exec_moduleRetrainEnd, execModuleRetrainEnd]
  simp only [hr]
  rw [if_neg (Nat.not_lt.2 hb), if_neg (by decide)]
  rfl

/-- The end of a retrain gives the module its width, or leaves it dead (R389). -/
theorem retrain_ends (hr : (s.moduleAt (linkKey m k)).retrainTill = some b) (hb : b ≤ s.beat) :
    ∃ t : State, exec (.moduleRetrainEnd m k lo hi) s = .next t ∧ (t.moduleAt (linkKey m k)).retrainTill = none ∧
      (t.moduleAt (linkKey m k)).retrains = min 255 ((s.moduleAt (linkKey m k)).retrains + 1) ∧
      (lo = false → hi = false → (t.moduleAt (linkKey m k)).dead = true) ∧
      (lo = true ∨ hi = true → (t.moduleAt (linkKey m k)).width = if lo ∧ hi then 0 else if lo then 1 else 2) := by
  cases hl : lo || hi with
  | true =>
    refine ⟨_, retrain_passes hr hb hl, ?_⟩
    rw [raiseMsix_moduleAt, moduleAt_onModule_same]
    obtain ⟨n, hn⟩ := retrained_status (s.moduleAt (linkKey m k)) lo hi s.beat
    refine ⟨congrArg Module.retrainTill hn, congrArg Module.retrains hn, ?_, fun _ => (congrArg Module.width hn).trans ?_⟩
    · rintro rfl rfl; cases hl
    · simp only [Bool.and_eq_true]
  | false =>
    obtain ⟨rfl, rfl⟩ := Bool.or_eq_false_iff.1 hl
    refine ⟨_, retrain_fails hr hb, ?_⟩
    rw [raiseMsix_moduleAt, foldl_dropUnit_moduleAt, moduleAt_onModule_same]
    exact ⟨rfl, rfl, fun _ _ => rfl, by simp⟩

theorem window_restarts (h : (s.moduleAt (linkKey m k)).winStart + 1024 * (s.moduleAt (linkKey m k)).window ≤ s.beat) :
    exec (.moduleWindowBoundary m k) s = .next (s.onModule (linkKey m k) fun x =>
      { x with up := { x.up with fails := 0 }, down := { x.down with fails := 0 }, winStart := s.beat }) := by
  rw [exec_moduleWindowBoundary, execModuleWindowBoundary]
  exact if_pos h

end
end

/-! ## What peers send (R134, R158, R161, R168) -/

/-- In a guard every flit from a peer is dropped and counted at its port. -/
theorem guard_drops {s : State} {p : Nat} {i : Instr} (hp : p < 48) (hg : s.inGuard = true)
    (hi : (∃ f, i = .sendDataFlit f ∧ sendPort f = p) ∨ (∃ g, i = .transactionFlit g ∧ g.port = p) ∨
      (∃ g, i = .collectivePacket p g) ∨ ∃ h q, i = .abortFlit ⟨p, h⟩ q) : exec i s = .next (s.guardDrop p) := by
  have hdrop (out : Out) : (if 48 ≤ p then .next s else if s.inGuard then .next (s.guardDrop p) else out) = .next (s.guardDrop p) :=
    (if_neg (Nat.not_le.2 hp)).trans (if_pos hg)
  rcases hi with ⟨f, rfl, rfl⟩ | ⟨g, rfl, rfl⟩ | ⟨g, rfl⟩ | ⟨h, q, rfl⟩ <;> exact hdrop _

section
variable {s : State}

/-- Outside a guard a flit at a port of the package is taken. -/
theorem outside_guard {p : Nat} (hp : p < 48) (hg : s.inGuard = false) (a b c : Out) :
    (if 48 ≤ p then a else if s.inGuard then b else c) = c := (if_neg (Nat.not_le.2 hp)).trans (if_neg (ne_true_of_eq_false hg))

/-! ### Sends and transactions -/

/-- A block that leads to a place becomes an access there. -/
theorem block_sets_out {f : SendFlit} {l : Loc} (hp : f.port < 48) (hg : s.inGuard = false)
    (hl : s.sendLoc f.pown f.va.toNat (min 64 f.bytes) f.syncen = .ok l) : exec (.sendDataFlit (.block f)) s =
      .next (s.fresh.2.setAcc s.nextId (some
        { peerAccess f.src f.core f.pown l f.va.toNat (.wblk 0 (min 64 f.bytes) f.blk) f.issue f.chain 0 (f.issue + 1) with
          sync := if f.syncen then some f.sync else none })) := by
  refine (outside_guard hp hg ..).trans ?_
  simp only [State.takeBlock, hl]
  rfl

/-- So does a write-with-enqueue whose descriptor is aligned and leads to a place to read and to write. -/
theorem enqueue_sets_out {f : EnqueueFlit} {l k : Loc} (hp : f.port < 48) (hg : s.inGuard = false) (ha : f.ring.toNat % 64 = 0)
    (hr : s.peerLoc f.pown f.ring.toNat .read = .ok l) (hw : s.peerLoc f.pown f.ring.toNat .write = .ok k) :
    exec (.sendDataFlit (.enqueue f)) s = .next (s.fresh.2.setAcc s.nextId (some
      (peerAccess f.src f.core f.pown l f.ring.toNat (.enq f) f.issue f.chain 0 (f.issue + 1)))) := by
  refine (outside_guard hp hg ..).trans ?_
  simp only [State.takeEnqueue, ha, hr, hw, ne_eq, not_true_eq_false, if_false]
  rfl

theorem unknown_counted {p y : Nat} (hp : p < 48) (hg : s.inGuard = false) :
    exec (.sendDataFlit (.unknown p y)) s = .next (s.onPort p fun x => { x with unknown := x.unknown + 1 }) :=
  outside_guard hp hg ..

section
variable {g : Transaction} {o : AOp} {w : Nat} {r : Right}

theorem transaction_sets_out {l : Loc} (hp : g.port < 48) (hg : s.inGuard = false) (ho : peerOp g.op = (o, w, r))
    (ha : g.va.toNat % w = 0) (hl : s.peerLoc g.pown g.va.toNat r = .ok l) (hn : ∀ c b, l ≠ .scr c b) :
    exec (.transactionFlit g) s = .next (s.fresh.2.setAcc s.nextId (some
      (peerAccess g.src g.core g.pown l g.va.toNat o g.issue g.chain g.depth 0))) := by
  rw [exec_transactionFlit, execTransactionFlit]
  simp only [ho, hl]
  rw [outside_guard hp hg, if_neg (not_not.2 ha)]
  cases l with
  | scr c b => exact absurd rfl (hn c b)
  | _ => rfl

theorem transaction_misaligned (hp : g.port < 48) (hg : s.inGuard = false) (ho : peerOp g.op = (o, w, r)) (ha : g.va.toNat % w ≠ 0) :
    let a := peerAccess g.src g.core g.pown (.hbm 0) g.va.toNat o g.issue g.chain g.depth 0
    exec (.transactionFlit g) s = .next ((s.fresh.2.refusePeer a causeMisaligned).setAcc s.nextId
      (some { a with stage := .performed, res := .err causeMisaligned })) := by
  intro a
  rw [exec_transactionFlit, execTransactionFlit]
  simp only [ho]
  rw [outside_guard hp hg, if_pos ha]
  rfl

end

/-! ### Packets of collectives (R60, R171 to R173) -/

section
variable {p : Nat} {g : CollPacket}

theorem packet_dropped (hp : p < 48) (hg : s.inGuard = false)
    (h : g.seq < mget 0 s.coll.aborted g.handle ∨ s.staleHandle g.handle = true) : exec (.collectivePacket p g) s = .next s.dropPacket :=
  (outside_guard hp hg ..).trans (if_pos h)

/-- A packet of the form that R171 gives: one to eight route entries left, a mode, and one to sixteen chunks. -/
def packetFormed (g : CollPacket) : Prop :=
  0 < g.left ∧ g.left ≤ 8 ∧ (g.mode = 0 ∨ g.mode = 3) ∧ 0 < g.chunks.length ∧ g.chunks.length ≤ 16

theorem packetFormed_not_bad (h : packetFormed g) {op : Nat} (ho : op < 4) :
    ¬(g.left = 0 ∨ 8 < g.left ∨ 4 ≤ op ∨ (g.mode ≠ 0 ∧ g.mode ≠ 3) ∨ g.chunks.length = 0 ∨ 16 < g.chunks.length) := by
  unfold packetFormed at h
  omega

section
variable (hp : p < 48) (hg : s.inGuard = false) (ha : mget 0 s.coll.aborted g.handle ≤ g.seq)
  (hs : s.staleHandle g.handle = false) (hf : packetFormed g)
include hp hg ha hs hf

theorem packet_forwarded (ho : bitsOf (g.route.headD 0) 13 3 = 0) : exec (.collectivePacket p g) s =
    .next (s.forward (bitsOf (g.route.headD 0) 7 6) { g with left := g.left - 1, route := g.route.drop 1 ++ [0] }) := by
  have hrun : ¬(g.seq < mget 0 s.coll.aborted g.handle ∨ s.staleHandle g.handle = true) := by simp [hs, ha]
  rw [exec_collectivePacket, execCollectivePacket, outside_guard hp hg, if_neg hrun, if_neg (packetFormed_not_bad hf (by omega)), if_pos ho]

/-- A packet that its entry gives to the live buffer of its run becomes operands there, or is deposited, and may go on. -/
theorem packet_at_buffer {b : Buf} (hb : s.liveBuf (128 * (p / 24) + bitsOf (g.route.headD 0) 0 7) = some b) (ht : b.takes g = true) :
    let k := 128 * (p / 24) + bitsOf (g.route.headD 0) 0 7
    let op := bitsOf (g.route.headD 0) 13 3
    (op = 1 → exec (.collectivePacket p g) s = .next (s.addOperands k g)) ∧
    (op = 2 → exec (.collectivePacket p g) s = .next (s.depositPacket k g)) ∧
    (op = 3 → exec (.collectivePacket p g) s = .next ((s.depositPacket k g).forward (bitsOf (g.route.headD 0) 7 6)
      { g with left := g.left - 1, route := g.route.drop 1 ++ [0] })) := by
  intro k op
  have hrun : ¬(g.seq < mget 0 s.coll.aborted g.handle ∨ s.staleHandle g.handle = true) := by simp [hs, ha]
  have htakes : ¬(!b.takes g) = true := by simp [ht]
  rw [exec_collectivePacket, execCollectivePacket]
  refine ⟨fun ho => ?_, fun ho => ?_, fun ho => ?_⟩
  all_goals
    rw [outside_guard hp hg, if_neg hrun, if_neg (packetFormed_not_bad hf (by omega)),
      if_neg (by omega), hb]
    dsimp only
    rw [if_neg htakes]
    simp only [op] at ho
    simp only [ho]
    rfl

end
end

/-! ### Sums (R172, R173) -/

theorem sweep_sums {d k c : Nat} {b : Buf} (hd : d < 2) (hk : k < 128) (hb : s.liveBuf (128 * d + k) = some b)
    (hn : (mget [] b.ops c).length = b.n) : exec (.sweepAdd d k c) s =
      .next ((s.setBuf (128 * d + k) (some { b with ops := mset [] b.ops c [] })).putChunk (128 * d + k) c
        (if b.mode = 0 then
          (mget [] b.ops c).foldl (fun a x => BitVec.ofNat 4096 (laneZip 32 (fun u v => (u + v, 0)) a.toNat x.toNat 128).1) 0
        else (mget [] b.ops c).foldl chunkMerge 0)) := by
  rw [exec_sweepAdd, execSweepAdd]
  simp only [hb]
  rw [if_neg (by omega)]

end

/-! ## Aborts (R174) -/

/-! ### What leaves the staging buffers alone -/

/-- A fold of acts that leave the collectives alone leaves them alone. -/
theorem foldl_coll {α : Type} (f : State → α → State) (l : List α) (s : State) (h : ∀ t a, (f t a).coll = t.coll) :
    (l.foldl f s).coll = s.coll :=
  List.foldlRecOn (motive := fun t => t.coll = s.coll) l f rfl fun t ht a _ => (h t a).trans ht

section
variable (s : State)

@[simp] theorem countBad_coll (c : BitVec 8) (l : Loc) : (s.countBad c l).coll = s.coll := by
  unfold State.countBad; split <;> rfl
@[simp] theorem warnAt_coll (n : Nat) (l : Loc) (w : Nat) : (s.warnAt n l w).coll = s.coll := by
  unfold State.warnAt; repeat' split
  all_goals rfl
@[simp] theorem endWait_coll (a : Nat) (x : Access) (w : Nat) (r : Res) : (s.endWait a x w r).coll = s.coll := by
  unfold State.endWait; split <;> simp
@[simp] theorem wakeOne_coll (wake : Bool) (a : Nat) : (s.wakeOne wake a).coll = s.coll := by
  unfold State.wakeOne; repeat' split
  all_goals simp
@[simp] theorem wakeAll_coll (wake : Bool) (l : List Nat) : (s.wakeAll wake l).coll = s.coll :=
  foldl_coll _ _ _ fun _ _ => by simp
@[simp] theorem touch_coll (b : Nat) : (s.touch b).coll = s.coll := by
  unfold State.touch
  rw [foldl_coll _ _ _ fun _ _ => onDie_coll .., foldl_coll _ _ _ fun _ _ => endWait_coll .., wakeAll_coll]
  rfl
@[simp] theorem enterWq_coll (l : Loc) (cls : Nat) (bs : List Nat) : (s.enterWq l cls bs).coll = s.coll := by
  unfold State.enterWq; split <;> rfl
@[simp] theorem devWrite_coll (p n v : Nat) : (s.devWrite p n v).coll = s.coll := by
  unfold State.devWrite; dsimp only; split
  · rfl
  · simp
@[simp] theorem setPins_coll (p : Nat) (f : Nat → Nat) : (s.setPins p f).coll = s.coll := by
  unfold State.setPins; split <;> simp
@[simp] theorem dropPins_coll (ps : List Nat) : (s.dropPins ps).coll = s.coll := foldl_coll _ _ _ fun _ _ => setPins_coll ..

/-! ### What leaves the bars of aborted runs alone -/

theorem foldl_aborted {α : Type} (f : State → α → State) (l : List α) (h : ∀ t a, (f t a).coll.aborted = t.coll.aborted) :
    (l.foldl f s).coll.aborted = s.coll.aborted :=
  List.foldlRecOn (motive := fun t => t.coll.aborted = s.coll.aborted) l f rfl fun t ht a _ => (h t a).trans ht

@[simp] theorem setBuf_aborted (k : Nat) (b : Option Buf) : (s.setBuf k b).coll.aborted = s.coll.aborted := rfl
@[simp] theorem dropPacket_aborted : s.dropPacket.coll.aborted = s.coll.aborted := rfl
@[simp] theorem collWrite_aborted (k off : Nat) (op : AOp) (sync : Option Nat) :
    (s.collWrite k off op sync).coll.aborted = s.coll.aborted := by
  unfold State.collWrite; split
  · rfl
  · split <;> rfl
@[simp] theorem freeBuf_aborted (k : Nat) (b : Buf) : (s.freeBuf k b).coll.aborted = s.coll.aborted := by
  unfold State.freeBuf; dsimp only; rw [dropPins_coll, setBuf_aborted]; split <;> rfl
@[simp] theorem pushRun_aborted (k n : Nat) : (s.pushRun k n).coll.aborted = s.coll.aborted := by
  induction n generalizing s with
  | zero => rfl
  | succ n ih =>
    unfold State.pushRun; repeat' split
    all_goals simp [ih]
@[simp] theorem endRun_aborted (k status : Nat) : (s.endRun k status).coll.aborted = s.coll.aborted := by
  unfold State.endRun; repeat' split
  all_goals simp

/-- An abort leaves the bar of its handle above its run (R174). -/
theorem abortRun_bar (h q : Nat) : mget 0 (s.abortRun h q).coll.aborted h = max (mget 0 s.coll.aborted h) (q + 1) := by
  unfold State.abortRun
  dsimp only
  rw [foldl_aborted _ _ _ fun _ _ => endRun_aborted .., foldl_aborted _ _ _ fun t p => ?_]
  · exact mget_mset_same ..
  · rw [foldl_aborted _ _ _ fun _ _ => ?_]
    · rfl
    · rw [dropPacket_aborted]; split <;> rfl

theorem abortFlit_aborts {p h q : Nat} (hp : p < 48) (hg : s.inGuard = false) :
    exec (.abortFlit ⟨p, h⟩ q) s = .next (s.abortRun h q) :=
  outside_guard hp hg ..

end

/-- Settles O53, transition by transition; what an accepted flit leaves is flit_accepted, what a retrain leaves retrain_ends, and no step of
an abort lowers the bar that it raises (abortRun_bar). -/
theorem modulesAndPeersDeliver : Obligations.ModulesAndPeersDeliver := by
  intro s
  refine ⟨fun m k up f r hw hd hb => ⟨flit_accepted hw hd hb,
      fun ha hi hs => ⟨_, flit_turned_away hw hd hb ha hi hs, rfl, rfl⟩, ?_⟩,
    fun m k up ho hd => ⟨_, retry_replays ho hd, ?_⟩,
    fun m k => ⟨fun ho hboot => ?_, fun b lo hi hr hb => retrain_ends hr hb, fun h => ⟨_, window_restarts h, moduleAt_onModule_same ..⟩⟩,
    fun p hp hg i hi => guard_drops hp hg hi,
    fun p hp hg => ⟨fun f l hf hl => ?_, fun f l k hf ha hr hw => ?_, fun y => unknown_counted hp hg, fun g o w r l hgp ho => ?_,
      fun g => ⟨packet_dropped hp hg, fun ha hs hl hl8 hm hc hc16 => ?_⟩⟩,
    fun d k c b hd hk hb hn => ?_, fun h q => ⟨rfl, fun p hp hg => abortFlit_aborts s hp hg, abortRun_bar s h q⟩⟩
  · exact ⟨_, flit_failing_check hw hd hb, rfl, rfl, by rw [moduleAt_onModule_same, discard_crcfail]⟩
  · rw [moduleAt_onModule_same]
    exact ⟨fun f hf => replay_sends _ _ hf, congrArg Module.replays (replay_status ..)⟩
  · refine ⟨_, retrain_requested hboot, ?_⟩
    rw [moduleAt_onModule_same]
    exact startRetrain_stops _ _ ho
  · subst hf
    exact ⟨_, block_sets_out hp hg hl, rfl, by rw [accAt_setAcc_same]; rfl⟩
  · subst hf
    exact ⟨_, enqueue_sets_out hp hg ha hr hw, rfl, by rw [accAt_setAcc_same]; rfl⟩
  · subst hgp
    refine ⟨fun ha hl hn => ⟨_, transaction_sets_out hp hg ho ha hl hn, rfl, accAt_setAcc_same ..⟩,
      fun ha => ⟨_, transaction_misaligned hp hg ho ha, by rw [accAt_setAcc_same]; rfl⟩⟩
  · have hf : packetFormed g := ⟨hl, hl8, hm, hc, hc16⟩
    exact ⟨packet_forwarded hp hg ha hs hf, fun b => packet_at_buffer hp hg ha hs hf⟩
  · exact ⟨fun hm => (sweep_sums hd hk hb hn).trans (by rw [if_neg hm]), fun hm => (sweep_sums hd hk hb hn).trans (by rw [if_pos hm])⟩

end Sys2Proof.Machine

/-!
Transactions answered at a port (03_numbers.md R94; 07_circuits_cells.md R168): what the one that its peer refuses takes back, its result and
its flags.
-/

namespace Sys2Proof.Machine

/-- A transaction that its peer refuses completes with the cause and without flags: those of an operation come with its result (R94, R168). -/
theorem sendAccepted_refused {s : State} {p i n c a : Nat} {o : Outgoing} {y : Access}
    (ho : ((s.portAt p).queues.flatMap Prod.snd).find? (fun o => o.id == i && o.sent == o.bytes) = some o)
    (hk : o.kind = .trans a) (ha : s.accAt a = some y) (hy : y.agent ≠ .peer) (hc : c ≠ 0) :
    ∃ t, exec (.sendAccepted p i n c) s = .next t ∧
      t.accAt a = some { y with stage := .back, res := .err (BitVec.ofNat 8 c), flags := 0 } := by
  rw [exec_sendAccepted, execSendAccepted, ho]
  simp only [hk, onPort_accAt, ha, if_neg hy]
  refine ⟨_, rfl, (accAt_onAcc_same ..).trans ?_⟩
  change Option.map _ (s.accAt a) = _
  rw [ha, Option.map_some]
  simp only [if_pos hc, if_neg hc]
  split <;> rfl

/-- An F32 add of core 0 to the memory of package 5, the result of which is inexact already. -/
def flaggedAtomic : Access :=
  { peerAccess 0 0 0 (.peer 5 0 0) 0 (.amo 8 4 false 0) 0 0 0 0 with agent := .c, flags := 1 }

/-- It is access 2, and port 0 has sent it whole as its send 9. -/
def flaggedAtPort : State :=
  (State.reset.setAcc 2 (some flaggedAtomic)).onPort 0 fun x =>
    { x with queues := [(5, [⟨9, 0, 0, 0, .trans 2, 5, 0, 0, [], 64, 64, none⟩])] }

/-- Refutes O54, in its clause of an answered transaction: it keeps every field of a refused access but its stage and its result, and
SEND_ACCEPTED writes the flags too. In flaggedAtPort the refusal of access 2 with cause 0x33 clears its inexact flag. -/
theorem not_portsAndCircuitsFollowTheTable : ¬ Obligations.PortsAndCircuitsFollowTheTable := by
  intro h
  obtain ⟨-, -, -, -, -, -, -, -, hsend, -⟩ := h flaggedAtPort 0 (by decide)
  obtain ⟨t, ht, -, hends⟩ := hsend 9 0 0x33 _ rfl
  obtain ⟨-, hkept⟩ := hends 2 flaggedAtomic rfl rfl (by decide)
  obtain ⟨u, hu, hcleared⟩ := sendAccepted_refused (s := flaggedAtPort) (p := 0) (i := 9) (n := 0) (c := 0x33) rfl rfl rfl
    (show flaggedAtomic.agent ≠ .peer by decide) (by decide)
  obtain rfl := Host.Outcome.next.inj (hu.symm.trans ht)
  have hflags : flaggedAtomic.flags = 0 := congrArg Access.flags (Option.some.inj ((hkept (by decide)).symm.trans hcleared))
  exact absurd hflags (by decide)

end Sys2Proof.Machine

/-!
Pending faults (01_machine.md R22; 08_timing.md R193; 12_ins_memory_sync.md R262, R264; 20_drv_traps.md R447): what a wait, a tfence and an
mjoin do where they do not complete.
-/

namespace Sys2Proof.Machine

section
variable {s : State}

theorem wait_stalls {l st c t : BitVec 5} (hc : s.countsMet l.toNat st.toNat c.toNat t.toNat = false) :
    exec (.wait l st c t) s = .next (s.stalled true) := by
  simp [execWait, hc]

theorem wait_takes_pending {l st c t : BitVec 5} {r : Report} {u : State} (hc : s.countsMet l.toNat st.toNat c.toNat t.toNat = true)
    (hp : s.takePending ⟨l.toNat, st.toNat, c.toNat, false⟩ = some (r, u)) :
    exec (.wait l st c t) s = .next (u.enterTrap s.turn.core r) := by
  simp [execWait, hc, hp]

section
variable (hq : s.quietBefore ((s.inWait.map CWait.acc).getD s.nextId) ((s.inWait.map CWait.since).getD s.beat) = true)
include hq

theorem tfence_takes_pending {r : Report} {u : State} (hp : s.takePending ⟨0, 0, 0, true⟩ = some (r, u)) :
    exec .tfence s = .next (u.enterTrap s.turn.core r) := by
  obtain ⟨hacc, hsince⟩ := inWait_getD (s := s) ⟨s.here.c.pc.toNat, s.beat, s.nextId, none, none, none⟩
  rw [exec_tfence, execTfence, State.fence]
  simp [hacc, hsince, hq, hp]

theorem tfence_takes_flags (hp : s.takePending ⟨0, 0, 0, true⟩ = none) (hf : s.here.cr.fflags &&& s.here.cr.fenable ≠ 0) :
    let f := s.here.cr.fflags &&& s.here.cr.fenable
    exec .tfence s = .next (s.enterTrap s.turn.core ⟨6, 0, arithCause f, s.here.c.pc, 0, 0, 0, f.setWidth 64, 0, none⟩) := by
  obtain ⟨hacc, hsince⟩ := inWait_getD (s := s) ⟨s.here.c.pc.toNat, s.beat, s.nextId, none, none, none⟩
  rw [exec_tfence, execTfence, State.fence]
  simp only [hacc, hsince, hq, hp, Bool.not_true, Bool.false_eq_true, if_false]
  exact if_pos hf

end

theorem mjoin_takes_fault {r : Report}
    (hr : s.engineReport ([Stream.l, .a, .s, .m, .x].filter fun e => (s.here.eng e).markers != []) = some r) :
    exec .mjoin s = .next (s.enterTrap s.turn.core r) := by
  rw [exec_mjoin, execMjoin, hr]

theorem mjoin_stalls (hw : [Stream.l, .a, .s, .m, .x].filter (fun e => (s.here.eng e).markers != []) ≠ [])
    (hr : s.engineReport ([Stream.l, .a, .s, .m, .x].filter fun e => (s.here.eng e).markers != []) = none) :
    exec .mjoin s = .next (s.stalled true) := by
  rw [exec_mjoin, execMjoin, hr]
  exact if_pos (bne_iff_ne.2 hw)

end

/-- Settles O21: a wait goes by its counts, a quiet tfence by what is pending and then by its flags, mjoin by the stops of the marked streams. -/
theorem pendingFaultsAreTakenAtWaitsAndFences : Obligations.PendingFaultsAreTakenAtWaitsAndFences := by
  intro s
  refine ⟨fun _ _ _ _ => wait_stalls, fun _ _ _ _ _ _ => wait_takes_pending,
    fun hq => ⟨fun _ _ => tfence_takes_pending hq, fun hp f hf hne => ?_⟩, fun ws hws hne => ?_⟩
  · subst hf
    exact tfence_takes_flags hq hp hne
  · subst hws
    exact ⟨fun _ => mjoin_takes_fault, mjoin_stalls hne⟩

end Sys2Proof.Machine

/-!
What stands of tasks, cores and context slots (01_machine.md R37; 20_drv_traps.md R452 to R457) while the device wakes waiters, writes its own
words, moves pins, fires watches, ends bindings and leases, and writes buffers.
-/

namespace Sys2Proof.Machine

/-- The place of a core without the leases that it grants and holds. -/
def Place.own (p : Place) : Place := { p with lease := none, lent := [] }

@[simp] theorem own_of_leases (p : Place) (held : Option Lease) (lent : List Nat) : Place.own { p with lease := held, lent := lent } = p.own := (rfl)

/-- The beat, the tasks, of each core the control stream and its own place, and of each die the context slots and where they lie. -/
structure Standing where
  beat : Nat
  tasks : SMap (Option Task)
  ctls : Nat → Ctl
  places : Nat → Place
  slots : Nat → SMap Slot
  slotAddrs : Nat → Nat → Nat

/-- What stands in a state. -/
def State.standing (s : State) : Standing :=
  ⟨s.beat, s.tasks, fun n => (s.coreAt n).c, fun n => (s.coreAt n).pl.own, fun d => (s.dieAt d).slots, fun d => (s.dieAt d).slotAddr⟩

/-- A fold of acts that leave what stands alone leaves it alone. -/
theorem foldl_standing {α : Type} (f : State → α → State) (l : List α) (s : State) (h : ∀ t a, (f t a).standing = t.standing) :
    (l.foldl f s).standing = s.standing :=
  List.foldlRecOn (motive := fun t => t.standing = s.standing) l f rfl fun t ht a _ => (h t a).trans ht

/-! ## What two states share in which the same stands -/

section
variable {s t : State} (h : t.standing = s.standing)
include h

theorem standing_beat : t.beat = s.beat := congrArg Standing.beat h
theorem standing_tasks : t.tasks = s.tasks := congrArg Standing.tasks h
theorem standing_taskAt (k : Nat) : t.taskAt k = s.taskAt k := congrArg (mget none · k) (standing_tasks h)
theorem standing_ctl (n : Nat) : (t.coreAt n).c = (s.coreAt n).c := congrFun (congrArg Standing.ctls h) n
theorem standing_own (n : Nat) : (t.coreAt n).pl.own = (s.coreAt n).pl.own := congrFun (congrArg Standing.places h) n
theorem standing_task (n : Nat) : (t.coreAt n).pl.task = (s.coreAt n).pl.task := (congrArg Place.task (standing_own h n) :)
theorem standing_phase (n : Nat) : (t.coreAt n).pl.phase = (s.coreAt n).pl.phase := (congrArg Place.phase (standing_own h n) :)
theorem standing_preempt (n : Nat) : (t.coreAt n).pl.preempt = (s.coreAt n).pl.preempt := (congrArg Place.preempt (standing_own h n) :)
theorem standing_saveBeat (n : Nat) : (t.coreAt n).pl.saveBeat = (s.coreAt n).pl.saveBeat := (congrArg Place.saveBeat (standing_own h n) :)
theorem standing_taskNo (n : Nat) : t.taskNo n = s.taskNo n := congrArg (Option.getD · 0) (standing_task h n)
theorem standing_slots (d : Nat) : (t.dieAt d).slots = (s.dieAt d).slots := congrFun (congrArg Standing.slots h) d
theorem standing_slotAddr (d k : Nat) : (t.dieAt d).slotAddr k = (s.dieAt d).slotAddr k :=
  congrFun (congrFun (congrArg Standing.slotAddrs h) d) k
theorem standing_slotOf (n : Nat) : t.slotOf n = s.slotOf n := by
  simp only [State.slotOf, standing_taskNo h, standing_taskAt h, standing_slotAddr h]

end

theorem taskAt_of_tasks {s t : State} (h : t.standing.tasks = s.standing.tasks) (k : Nat) : t.taskAt k = s.taskAt k := congrArg (mget none · k) h
theorem taskNo_of_places {s t : State} (h : t.standing.places = s.standing.places) (n : Nat) : t.taskNo n = s.taskNo n :=
  (congrArg (fun p : Nat → Place => (p n).task.getD 0) h :)

/-! ## Updates -/

section
variable (s : State)

@[simp] theorem onCore_standing (n : Nat) {f : Core → Core} (hc : ∀ c, (f c).c = c.c) (hp : ∀ c, (f c).pl.own = c.pl.own) :
    (s.onCore n f).standing = s.standing := by
  have hcs : (fun m => ((s.onCore n f).coreAt m).c) = fun m => (s.coreAt m).c := by
    funext m; rw [coreAt_onCore]; split
    · subst m; exact hc _
    · rfl
  have hps : (fun m => ((s.onCore n f).coreAt m).pl.own) = fun m => (s.coreAt m).pl.own := by
    funext m; rw [coreAt_onCore]; split
    · subst m; exact hp _
    · rfl
  simp only [State.standing, hcs, hps]
  rfl

@[simp] theorem onDie_standing (d : Nat) {f : Die → Die} (hs : ∀ x, (f x).slots = x.slots) (ha : ∀ x, (f x).slotAddr = x.slotAddr) :
    (s.onDie d f).standing = s.standing := by
  have hss : (fun m => ((s.onDie d f).dieAt m).slots) = fun m => (s.dieAt m).slots := by
    funext m; rw [dieAt_onDie]; split
    · subst m; exact hs _
    · rfl
  have has : (fun m => ((s.onDie d f).dieAt m).slotAddr) = fun m => (s.dieAt m).slotAddr := by
    funext m; rw [dieAt_onDie]; split
    · subst m; exact ha _
    · rfl
  simp only [State.standing, hss, has]
  rfl

@[simp] theorem onMem_standing (f : Mem → Mem) : (s.onMem f).standing = s.standing := (rfl)
@[simp] theorem onAcc_standing (a : Nat) (f : Access → Access) : (s.onAcc a f).standing = s.standing := (rfl)
@[simp] theorem setAcc_standing (a : Nat) (x : Option Access) : (s.setAcc a x).standing = s.standing := (rfl)
@[simp] theorem onOwner_standing (o : Nat) (f : Owner → Owner) : (s.onOwner o f).standing = s.standing := (rfl)
@[simp] theorem finish_standing (a : Nat) (r : Res) : (s.finish a r).standing = s.standing := (rfl)
@[simp] theorem raiseMsix_standing (v : Nat) : (s.raiseMsix v).standing = s.standing := (rfl)
@[simp] theorem countUncorr_standing (l : Loc) : (s.countUncorr l).standing = s.standing := (rfl)
@[simp] theorem unpark_standing (poc : Nat) (l : List Nat) : (s.unpark poc l).standing = s.standing := (rfl)
@[simp] theorem restretch_standing : s.restretch.standing = s.standing := (rfl)
@[simp] theorem dropWithdrawn_standing (t : Nat) : (s.dropWithdrawn t).standing = s.standing := (rfl)
@[simp] theorem reissue_standing (t n : Nat) : (s.reissue t n).standing = s.standing := (rfl)
@[simp] theorem onQueued_standing (f : Outgoing → Outgoing) : (s.onQueued f).standing = s.standing := (rfl)
@[simp] theorem gateNow_standing (n : Nat) : (s.gateNow n).standing = s.standing := by
  unfold State.gateNow; split <;> simp
@[simp] theorem logTrap_standing (n reason : Nat) (hcause : BitVec 8) (tcause : Word) (report : List Word) :
    (s.logTrap n reason hcause tcause report).standing = s.standing := by
  exact (raiseMsix_standing ..).trans (onDie_standing s _ (fun _ => rfl) fun _ => rfl)

/-! A change of a die, its slots among what it changes, leaves the tasks and the places of the cores. -/

@[simp] theorem onDie_standing_tasks (d : Nat) (f : Die → Die) : (s.onDie d f).standing.tasks = s.standing.tasks := (rfl)
@[simp] theorem onDie_standing_places (d : Nat) (f : Die → Die) : (s.onDie d f).standing.places = s.standing.places := (rfl)

/-! ## Waiters, words of the device and pins -/

@[simp] theorem countBad_standing (c : BitVec 8) (l : Loc) : (s.countBad c l).standing = s.standing := by
  unfold State.countBad; split <;> simp
@[simp] theorem countHbm_standing (p n : Nat) : (s.countHbm p n).standing = s.standing := by
  unfold State.countHbm; split <;> simp
@[simp] theorem warnAt_standing (n : Nat) (l : Loc) (w : Nat) : (s.warnAt n l w).standing = s.standing := by
  unfold State.warnAt; repeat' split
  all_goals simp [Core.countWarn]
@[simp] theorem endWait_standing (a : Nat) (x : Access) (w : Nat) (r : Res) : (s.endWait a x w r).standing = s.standing := by
  unfold State.endWait; split <;> simp
@[simp] theorem wakeOne_standing (wake : Bool) (a : Nat) : (s.wakeOne wake a).standing = s.standing := by
  unfold State.wakeOne; repeat' split
  all_goals simp
@[simp] theorem wakeAll_standing (wake : Bool) (l : List Nat) : (s.wakeAll wake l).standing = s.standing :=
  foldl_standing _ _ _ fun _ _ => by simp
@[simp] theorem touch_standing (b : Nat) : (s.touch b).standing = s.standing := by
  unfold State.touch
  refine (foldl_standing _ _ _ ?_).trans ?_
  · exact fun _ _ => onDie_standing _ _ (fun _ => rfl) fun _ => rfl
  · rw [foldl_standing _ _ _ fun _ _ => endWait_standing .., wakeAll_standing, unpark_standing]
@[simp] theorem enterWq_standing (l : Loc) (cls : Nat) (bs : List Nat) : (s.enterWq l cls bs).standing = s.standing := by
  unfold State.enterWq; split <;> simp
@[simp] theorem devWrite_standing (p n v : Nat) : (s.devWrite p n v).standing = s.standing := by
  unfold State.devWrite; dsimp only; split <;> simp
@[simp] theorem writeArea_standing (key : BitVec 512) (lo n : Nat) (cells : List Host.Cell) :
    (s.writeArea key lo n cells).standing = s.standing :=
  (foldl_standing _ _ _ fun _ _ => touch_standing ..).trans (onMem_standing ..)
@[simp] theorem setPins_standing (p : Nat) (f : Nat → Nat) : (s.setPins p f).standing = s.standing := by
  unfold State.setPins; split <;> simp
@[simp] theorem addPins_standing (ps : List Nat) : (s.addPins ps).standing = s.standing := foldl_standing _ _ _ fun _ _ => setPins_standing ..
@[simp] theorem dropPins_standing (ps : List Nat) : (s.dropPins ps).standing = s.standing :=
  foldl_standing _ _ _ fun _ _ => setPins_standing ..
@[simp] theorem reapLimbo_standing : s.reapLimbo.standing = s.standing := by
  unfold State.reapLimbo; dsimp only; split
  · rfl
  · exact (foldl_standing _ _ _ fun _ _ => dropPins_standing ..).trans rfl

/-! ## Loads, watches, channels and leases -/

@[simp] theorem withdrawLoads_standing (n : Nat) : (s.withdrawLoads n).standing = s.standing := by
  refine foldl_standing _ _ _ fun t e => ?_
  dsimp only
  repeat' split
  all_goals simp
@[simp] theorem pushWake_standing (n q : Nat) (w : Word) : (s.pushWake n q w).standing = s.standing := by
  refine onCore_standing s n (fun c => ?_) fun c => ?_
  all_goals split <;> rfl
@[simp] theorem fireWatches_standing (n : Nat) : (s.fireWatches n).standing = s.standing := by
  refine foldl_standing _ _ _ fun _ _ => ?_
  repeat' split
  all_goals simp
@[simp] theorem dropCopyOut_standing (die strand : Nat) : (s.dropCopyOut die strand).standing = s.standing :=
  onDie_standing s _ (fun _ => rfl) fun _ => rfl
@[simp] theorem unbindChan_standing (n c : Nat) : (s.unbindChan n c).standing = s.standing := by
  unfold State.unbindChan
  dsimp only
  split <;> simp
@[simp] theorem unbindAll_standing (n : Nat) (only : Bool) : (s.unbindAll n only).standing = s.standing := by
  refine foldl_standing _ _ _ fun _ _ => ?_
  repeat' split
  all_goals simp
@[simp] theorem putVec_standing (n o : Nat) (x : Vec) : (s.putVec n o x).standing = s.standing := foldl_standing _ _ _ fun _ _ => by simp
@[simp] theorem landSpill_standing (n k : Nat) (x : Vec) : (s.landSpill n k x).standing = s.standing := by
  unfold State.landSpill
  repeat' split
  all_goals simp
@[simp] theorem unlend_standing (l : Lease) : (s.unlend l).standing = s.standing := by simp [State.unlend]
@[simp] theorem revokeLease_standing (n : Nat) : (s.revokeLease n).standing = s.standing := by
  unfold State.revokeLease
  repeat' split
  · rfl
  · rfl
  · simp only [unlend_standing, onCore_standing, own_of_leases, implies_true]
    refine (foldl_standing _ _ _ fun _ _ => putVec_standing ..).trans (foldl_standing _ _ _ fun _ _ => ?_)
    repeat' split
    all_goals simp
@[simp] theorem revokeLent_standing (n : Nat) : (s.revokeLent n).standing = s.standing :=
  foldl_standing _ _ _ fun _ _ => revokeLease_standing ..

/-! ## Sends, and what a context writes and reads -/

@[simp] theorem onX_standing (n id : Nat) (f : XWork → XWork) : (s.onX n id f).standing = s.standing :=
  onCore_standing s n (fun _ => rfl) fun _ => rfl
@[simp] theorem followSends_standing (t n : Nat) : (s.followSends t n).standing = s.standing := by
  unfold State.followSends
  refine (foldl_standing _ _ _ fun _ _ => ?_).trans (onQueued_standing ..)
  repeat' split
  all_goals simp
@[simp] theorem readCtx_standing (n : Nat) (gs : List Nat) : (s.readCtx n gs).2.standing = s.standing :=
  (foldl_standing _ _ s fun _ _ => countUncorr_standing ..)
@[simp] theorem writeUnit_standing (owner p : Nat) (x : Ctx) (u : Nat) : (s.writeUnit owner p x u).standing = s.standing := by
  have hruns := foldl_standing (fun t (e : Nat × Nat × List Host.Cell) =>
    t.writeArea (s.keyOf owner) ((p + e.1) / 64) (e.2.1 / 64) e.2.2) (x.unitRuns u) s fun _ _ => writeArea_standing ..
  unfold State.writeUnit
  dsimp only
  split
  · exact (writeArea_standing ..).trans hruns
  · exact hruns

end

end Sys2Proof.Machine

/-!
Runs of bytes (03_numbers.md R70; 04_memory.md R115): what a slice of a table reads, what a table reads into which a slice was put, and the
bytes that a run of blocks written whole leaves inside and outside it.
-/

namespace Sys2Proof.Machine

/-! ## Slices of tables -/

section
variable {α : Type} (d : α)

theorem mget_of_not_listed {m : SMap α} {k : Nat} (h : ∀ e ∈ m, e.1 ≠ k) : mget d m k = d := by
  induction m with
  | nil => rfl
  | cons e t ih =>
    obtain ⟨he, ht⟩ := List.forall_mem_cons.1 h
    rw [mget, if_neg he, ih ht]

/-- A key that the first of two tables does not list is read in the second. -/
theorem mget_append_right {a b : SMap α} {k : Nat} (h : ∀ e ∈ a, e.1 ≠ k) : mget d (a ++ b) k = mget d b k := by
  induction a with
  | nil => rfl
  | cons e t ih =>
    obtain ⟨he, ht⟩ := List.forall_mem_cons.1 h
    rw [List.cons_append, mget, if_neg he, ih ht]

/-- A key that the second of two tables does not list is read in the first. -/
theorem mget_append_left {a b : SMap α} {k : Nat} (h : ∀ e ∈ b, e.1 ≠ k) : mget d (a ++ b) k = mget d a k := by
  induction a with
  | nil => exact mget_of_not_listed d h
  | cons e t ih =>
    rw [List.cons_append, mget, mget, ih]

/-- A table reads at a key as what is left of it where every entry of the key is. -/
theorem mget_filter {m : SMap α} {p : Nat × α → Bool} {k : Nat} (h : ∀ e : Nat × α, e.1 = k → p e = true) :
    mget d (m.filter p) k = mget d m k := by
  induction m with
  | nil => rfl
  | cons e t ih =>
    by_cases he : e.1 = k
    · rw [List.filter_cons_of_pos (h e he), mget, mget, if_pos he, if_pos he]
    · rw [mget, if_neg he, ← ih]
      by_cases hp : p e = true
      · rw [List.filter_cons_of_pos hp, mget, if_neg he]
      · rw [List.filter_cons_of_neg hp]

/-- A table whose keys are moved by a function reads at what key k becomes as it did at k, where no other key becomes the same. -/
theorem mget_map_key {m : SMap α} {f : Nat → Nat} {k : Nat} (h : ∀ e ∈ m, f e.1 = f k → e.1 = k) :
    mget d (m.map fun e => (f e.1, e.2)) (f k) = mget d m k := by
  induction m with
  | nil => rfl
  | cons e t ih =>
    obtain ⟨he, ht⟩ := List.forall_mem_cons.1 h
    rw [List.map_cons, mget, mget, ih ht]
    exact if_congr ⟨he, congrArg f⟩ rfl rfl

/-- The keys of a slice lie below its length. -/
theorem mslice_lt (m : SMap α) (lo n : Nat) : ∀ e ∈ mslice m lo n, e.1 < n := by
  intro e he
  obtain ⟨x, hx, rfl⟩ := List.mem_map.1 he
  have hin := (List.mem_filter.1 hx).2
  simp only [Bool.and_eq_true, decide_eq_true_eq] at hin
  show x.1 - lo < n
  omega

theorem mget_mslice (m : SMap α) {lo n i : Nat} (h : i < n) : mget d (mslice m lo n) i = mget d m (lo + i) := by
  have hkey := mget_map_key d (m := m.filter fun e => lo ≤ e.1 && e.1 < lo + n) (f := (· - lo)) (k := lo + i) fun e he heq => by
    have hin := (List.mem_filter.1 he).2
    simp only [Bool.and_eq_true, decide_eq_true_eq] at hin heq
    omega
  rw [show lo + i - lo = i by omega] at hkey
  refine hkey.trans (mget_filter d fun e he => ?_)
  simp only [Bool.and_eq_true, decide_eq_true_eq]
  omega

/-- A key of the range reads as what was put there. -/
theorem mget_msplice_in (m x : SMap α) {lo n i : Nat} (h : i < n) : mget d (msplice m lo n x) (lo + i) = mget d x i := by
  have hbelow : ∀ e ∈ m.filter (fun e => decide (e.1 < lo)), e.1 ≠ lo + i := fun e he => by
    have := of_decide_eq_true (List.mem_filter.1 he).2
    omega
  have habove : ∀ e ∈ m.filter (fun e => decide (lo + n ≤ e.1)), e.1 ≠ lo + i := fun e he => by
    have := of_decide_eq_true (List.mem_filter.1 he).2
    omega
  rw [msplice, mget_append_left d habove, mget_append_right d hbelow, Nat.add_comm lo i]
  exact mget_map_key d (f := (· + lo)) fun _ _ heq => Nat.add_right_cancel heq

/-- A key outside the range reads as before, where what was put lies in the range. -/
theorem mget_msplice_out (m : SMap α) {x : SMap α} {lo n j : Nat} (hx : ∀ e ∈ x, e.1 < n) (h : j < lo ∨ lo + n ≤ j) :
    mget d (msplice m lo n x) j = mget d m j := by
  have hput : ∀ e ∈ x.map (fun e => (e.1 + lo, e.2)), e.1 ≠ j := fun e he => by
    obtain ⟨y, hy, rfl⟩ := List.mem_map.1 he
    have := hx y hy
    show y.1 + lo ≠ j
    omega
  rcases h with hj | hj
  · have habove : ∀ e ∈ m.filter (fun e => decide (lo + n ≤ e.1)), e.1 ≠ j := fun e he => by
      have := of_decide_eq_true (List.mem_filter.1 he).2
      omega
    rw [msplice, mget_append_left d habove, mget_append_left d hput]
    exact mget_filter d fun e he => decide_eq_true (he ▸ hj)
  · have hbelow : ∀ e ∈ m.filter (fun e => decide (e.1 < lo)), e.1 ≠ j := fun e he => by
      have := of_decide_eq_true (List.mem_filter.1 he).2
      omega
    rw [msplice, List.append_assoc, mget_append_right d hbelow, mget_append_right d hput]
    exact mget_filter d fun e he => decide_eq_true (he ▸ hj)

end

/-- The keys of a table of bytes lie below its length. -/
theorem cellTable_lt (n : Nat) (l : List (Nat × Byte)) : ∀ e ∈ cellTable n l, e.1 < n := ((tableIn_iff 0 n _).1 (tableIn_cellTable n l)).2

/-! ## Runs of blocks -/

section
variable (s : State)

theorem byte_writeArea (key : BitVec 512) (lo n : Nat) (cells : List Host.Cell) (j : Nat) :
    (s.writeArea key lo n cells).mem.byte j = mget 0 (msplice s.mem.bytes (64 * lo) (64 * n) cells) j :=
  byte_of_stored (foldl_stored _ _ (s.onMem fun m => m.putArea key lo n cells) fun t b => touch_stored t b) j

/-- A run written whole reads as its bytes. -/
theorem byte_writeArea_in (key : BitVec 512) {lo n i : Nat} (cells : List Host.Cell) (h : i < 64 * n) :
    (s.writeArea key lo n cells).mem.byte (64 * lo + i) = mget 0 cells i :=
  (byte_writeArea ..).trans (mget_msplice_in 0 _ _ h)

/-- A run written whole leaves every byte outside it alone. -/
theorem byte_writeArea_out (key : BitVec 512) {lo n j : Nat} {cells : List Host.Cell} (hc : ∀ e ∈ cells, e.1 < 64 * n)
    (h : j < 64 * lo ∨ 64 * lo + 64 * n ≤ j) : (s.writeArea key lo n cells).mem.byte j = s.mem.byte j :=
  (byte_writeArea ..).trans (mget_msplice_out 0 _ hc h)

/-- Where no wait and no counter condition stands on a block, a run written whole changes storage alone. -/
theorem writeArea_unwatched (key : BitVec 512) (lo n : Nat) (cells : List Host.Cell) (h : s.watched = []) :
    s.writeArea key lo n cells = s.onMem fun m => m.putArea key lo n cells := by
  rw [State.writeArea, h]; rfl

end

end Sys2Proof.Machine

/-!
Requests, interrupts and events (14_ins_matrix_copy.md R326; 20_drv_traps.md R446, R451 to R453): a request asks for a context slot too, and
an event is taken as a trap.
-/

namespace Sys2Proof.Machine

/-! ## Context slots (R453, R454) -/

/-- Behind what a slot's new holder writes, the task and the slot stand as they were set. -/
theorem takeSlot_standing {s : State} {t k : Nat} {x : Task} (hx : s.taskAt t = some x) :
    (s.takeSlot t k).standing = ((s.onTask t fun y => { y with slot := some k, slotWait := none }).onDie x.die fun d =>
      { d with slots := mset Slot.rest d.slots k { Slot.rest with holder := some t } }).standing := by
  simp only [State.takeSlot, hx, writeArea_standing]

/-- A task that asks for a slot leaves every core as it stands. -/
theorem askSlot_cores (s : State) (t : Nat) :
    (s.askSlot t).standing.ctls = s.standing.ctls ∧ (s.askSlot t).standing.places = s.standing.places := by
  unfold State.askSlot
  split
  · exact ⟨rfl, rfl⟩
  next x hx =>
    split
    · exact ⟨rfl, rfl⟩
    · split
      · rw [takeSlot_standing hx]; exact ⟨rfl, rfl⟩
      · exact ⟨rfl, rfl⟩

/-- A request for a live task stands, and C of the core is as it was (R452). -/
theorem requestPreempt_stands {s : State} {n : Nat} (hl : (s.coreAt n).pl.live = true) :
    ((s.requestPreempt n).coreAt n).pl.preempt = true ∧ ((s.requestPreempt n).coreAt n).c = (s.coreAt n).c := by
  rw [State.requestPreempt, if_pos hl]
  extract_lets u
  have hgate := gateNow_standing (u.askSlot (u.taskNo n)) n
  obtain ⟨hctls, hplaces⟩ := askSlot_cores u (u.taskNo n)
  have hpl : ((u.askSlot (u.taskNo n)).coreAt n).pl.own = (u.coreAt n).pl.own := congrFun hplaces n
  refine ⟨(standing_preempt hgate n).trans ((congrArg Place.preempt hpl).trans ?_), (standing_ctl hgate n).trans ((congrFun hctls n).trans ?_)⟩
  · simp only [u, coreAt_onCore_same]; rfl
  · simp only [u, State.standing, coreAt_onCore_same]

/-- What a table reads at a key it lists. -/
theorem mem_of_mget {α : Type} {m : SMap (Option α)} {k : Nat} {x : α} (h : mget none m k = some x) : (k, some x) ∈ m := by
  induction m with
  | nil => cases h
  | cons e t ih =>
    obtain ⟨j, v⟩ := e
    rw [mget] at h
    split at h
    · subst h; subst j; exact List.mem_cons_self ..
    · exact List.mem_cons_of_mem _ (ih h)

/-- Where every other task of a die that waits for a slot has waited for less long, the next slot is a task's (R453). -/
theorem slotTaker_of_oldest {s : State} {d n w : Nat} {x : Task} (hx : s.taskAt n = some x) (hd : x.die = d) (hw : x.slotWait = some w)
    (hold : ∀ e ∈ s.tasks, ∀ y v, e.2 = some y → y.die = d → y.slotWait = some v → e.1 = n ∨ w < v) : ∃ v, s.slotTaker d = some (n, v) := by
  obtain ⟨l, r, hsplit⟩ := List.append_of_mem (mem_of_mget hx)
  rw [hsplit] at hold
  suffices h : ∃ v, s.slotTaker d = some (n, v) ∧ v ≤ w from h.imp fun _ => And.left
  rw [State.slotTaker, hsplit, List.foldl_append, List.foldl_cons]
  refine List.foldlRecOn (motive := fun b => ∃ v, b = some (n, v) ∧ v ≤ w) r _ ?_ ?_
  · generalize hb : List.foldl _ none l = b
    have hlater : ∀ e, b = some e → e.1 = n ∨ w < e.2 := by
      refine hb ▸ List.foldlRecOn (motive := fun b : Option (Nat × Nat) => ∀ e, b = some e → e.1 = n ∨ w < e.2) l _ nofun ?_
      intro b ih e he
      have hold := hold e (List.mem_append_left _ he)
      repeat' split
      · next y hy _ v hv hc =>
        simp only [Bool.and_eq_true, beq_iff_eq] at hc
        rintro _ ⟨⟩
        exact hold y v hy hc.1 hv
      all_goals exact ih
    simp only [hw, hd, BEq.rfl, Bool.true_and]
    split
    · exact ⟨w, rfl, le_rfl⟩
    · next hc =>
      obtain ⟨⟨j, v⟩, rfl, hv⟩ : ∃ e, b = some e ∧ e.2 ≤ w := by simpa [Option.any_eq_true] using hc
      obtain rfl := (hlater _ rfl).resolve_right (Nat.not_lt.2 hv)
      exact ⟨v, rfl, hv⟩
  · rintro _ ⟨v, rfl, hv⟩ e he
    have hold := hold e (List.mem_append_right _ (List.mem_cons_of_mem _ he))
    repeat' split
    · next y hy _ u hu hc =>
      simp only [Bool.and_eq_true, beq_iff_eq, Option.any_some, Bool.not_eq_true', decide_eq_false_iff_not, Nat.not_le] at hc
      rw [(hold y u hy hc.1 hu).resolve_right (by omega)]
      exact ⟨u, rfl, by omega⟩
    all_goals exact ⟨v, rfl, hv⟩

/-- The task that has waited longest takes the lowest free slot (R453). -/
theorem contextSlotAcquire_grants {s : State} {d k n w : Nat} {x : Task} (hk : s.freeCtxSlot d = some k) (hx : s.taskAt n = some x)
    (hd : x.die = d) (hw : x.slotWait = some w)
    (hold : ∀ e ∈ s.tasks, ∀ y v, e.2 = some y → y.die = d → y.slotWait = some v → e.1 = n ∨ w < v) :
    ∃ t : State, exec (.contextSlotAcquire d) s = .next t ∧ t.taskAt n = some { x with slot := some k, slotWait := none } ∧
      (mget Slot.rest (t.dieAt d).slots k).holder = some n := by
  obtain ⟨v, hv⟩ := slotTaker_of_oldest hx hd hw hold
  have hgrant : (s.grantSlot d).standing = (s.takeSlot n k).standing := by
    simp only [State.grantSlot, hk, hv]
    split
    · exact gateNow_standing ..
    · rfl
  have hstand := hgrant.trans (takeSlot_standing hx)
  refine ⟨_, rfl, ?_, ?_⟩
  · rw [standing_taskAt hstand, onDie_taskAt, taskAt_onTask_same, hx, Option.map_some]
  · rw [standing_slots hstand, hd, dieAt_onDie_same, mget_mset_same]

/-! ## Requests and interrupts (R326, R451, R452) -/

/-- Events of one cause are one, with the newest data. -/
theorem addEvent_filter (l : List (BitVec 8 × Word)) (e : BitVec 8 × Word) : (addEvent l e).filter (fun x => x.1 == e.1) = [e] := by
  simp [addEvent, List.filter_filter]

section
variable {s : State} {d k : Nat} (hb : s.boot.state ≠ 8) (hk : k < 24)
include hb hk

theorem preemptRequest_stands (hl : (s.coreAt (24 * d + k)).pl.live = true) :
    ∃ t : State, exec (.preemptRequest d k) s = .next t ∧ (t.coreAt (24 * d + k)).pl.preempt = true ∧
      (t.coreAt (24 * d + k)).c = (s.coreAt (24 * d + k)).c := by
  rw [exec_preemptRequest, execPreemptRequest, if_neg hb, if_neg (Nat.not_le.2 hk)]
  exact ⟨_, rfl, requestPreempt_stands (by rwa [onDie_coreAt])⟩

theorem preemptCancel_withdraws (hp : (s.coreAt (24 * d + k)).pl.preempt = true) :
    ∃ t : State, exec (.preemptCancel d k) s = .next t ∧ (t.coreAt (24 * d + k)).pl.preempt = false ∧
      (t.coreAt (24 * d + k)).mx.gate = false := by
  rw [exec_preemptCancel, execPreemptCancel, if_neg hb, if_neg (Nat.not_le.2 hk)]
  refine ⟨_, rfl, ?_⟩
  rw [coreAt_onCore_same, onDie_coreAt, if_pos hp]
  exact ⟨rfl, rfl⟩

theorem driverInterrupt_raises (v : W32) :
    ∃ t : State, exec (.driverInterrupt d k v) s = .next t ∧
      ((s.coreAt (24 * d + k)).pl.task ≠ none →
        (t.coreAt (24 * d + k)).tr.events.filter (fun e => e.1 == 0x57) = [(0x57, v.setWidth 64)]) ∧
      ((s.coreAt (24 * d + k)).pl.task = none → t.cores = s.cores) := by
  rw [exec_driverInterrupt, execDriverInterrupt, if_neg hb, if_neg (Nat.not_le.2 hk)]
  refine ⟨_, rfl, fun ht => ?_, fun ht => ?_⟩
  · rw [onDie_coreAt, if_pos (Option.isSome_iff_ne_none.2 ht), coreAt_onCore_same]
    exact addEvent_filter _ (0x57, v.setWidth 64)
  · rw [onDie_coreAt, ht]; rfl

end

/-! ## Events and the start of a save (R185, R326, R439, R446) -/

/-- Behind the end of its wait C waits for nothing, and nothing else of its core has changed but the loads in flight (R273, R284). -/
theorem withdrawWait_coreAt (s : State) (n : Nat) :
    ∃ l, (s.withdrawWait n).coreAt n = { s.coreAt n with c := { (s.coreAt n).c with cwait := none, flying := l } } := by
  unfold State.withdrawWait
  dsimp only
  split
  next hw => exact ⟨(s.coreAt n).c.flying, by rw [← hw]⟩
  · repeat' split
    all_goals exact ⟨_, coreAt_onCore_same ..⟩

@[simp] theorem withdrawWait_dieAt (s : State) (n d : Nat) : (s.withdrawWait n).dieAt d = s.dieAt d := by
  unfold State.withdrawWait
  dsimp only
  repeat' split
  all_goals rfl
@[simp] theorem withdrawWait_beat (s : State) (n : Nat) : (s.withdrawWait n).beat = s.beat := by
  unfold State.withdrawWait
  dsimp only
  repeat' split
  all_goals rfl

theorem withdrawWait_of_none {s : State} {n : Nat} (hw : (s.coreAt n).c.cwait = none) : s.withdrawWait n = s := by
  simp only [State.withdrawWait, hw]

/-- An exception below handler level, on a die with a handler image, enters the handler (R439). -/
theorem enterTrap_enters {s : State} {n : Nat} (r : Report) (hl : (s.coreAt n).c.hlevel = false) (hv : (s.dieAt (dieOf n)).hvec ≠ 0) :
    s.enterTrap n r = s.setCore n { s.coreAt n with
      c := { (s.coreAt n).c with hlevel := true, pc := 0, ready := s.beat + 4, settling := true, cwait := none, evOk := false }
      tr := { (s.coreAt n).tr with
        tcause := r.tcause, tpc := r.pc, rpc := r.pc, tstep := r.tstep, taddr := r.addr, tinfo := r.info, twalk := r.walk
        tbeat := w64 s.beat, own := false, fail := false
        restart := if r.kind = 1 then 1#5 <<< (r.stream - 1) else 0
        thsel := (r.hist.map (BitVec.ofNat 6)).getD (s.coreAt n).tr.thsel } } := by
  simp only [State.enterTrap, hl, hv, Bool.false_eq_true, if_false]

theorem eventTaken_traps {s : State} {n : Nat} {e : BitVec 8 × Word} {l : List (BitVec 8 × Word)} (he : (s.coreAt n).tr.events = e :: l)
    (hp : (s.coreAt n).pl.phase = .running) (hok : (s.coreAt n).c.evOk = true) (hl : (s.coreAt n).c.hlevel = false)
    (hv : (s.dieAt (dieOf n)).hvec ≠ 0) :
    ∃ t : State, exec (.eventTaken n) s = .next t ∧ (t.coreAt n).c.hlevel = true ∧ (t.coreAt n).c.pc = 0 ∧
      (t.coreAt n).c.ready = s.beat + 4 ∧ (t.coreAt n).c.cwait = none ∧ (t.coreAt n).tr.tpc = (s.coreAt n).c.pc ∧
      (t.coreAt n).tr.tinfo = e.2 ∧ (t.coreAt n).tr.tcause = BitVec.ofNat 64 (4 * 2 ^ 10 + e.1.toNat) ∧
      (t.coreAt n).tr.events = l ∧ ((s.coreAt n).c.cwait = none → t.mem = s.mem ∧ t.accs = s.accs) := by
  obtain ⟨fl, hwd⟩ := withdrawWait_coreAt s n
  have hlow : (((s.withdrawWait n).onCore n fun c => { c with tr := { c.tr with events := l } }).coreAt n).c.hlevel = false := by
    rw [coreAt_onCore_same, hwd]; exact hl
  rw [exec_eventTaken, execEventTaken]
  simp only [he, hp, hok, hl, BEq.rfl, Bool.not_false, Bool.and_self, if_true]
  rw [enterTrap_enters _ hlow (by simpa using hv)]
  refine ⟨_, rfl, ?_⟩
  rw [coreAt_setCore_same, coreAt_onCore_same]
  refine ⟨rfl, rfl, congrArg (· + 4) (withdrawWait_beat s n), rfl, rfl, rfl, ?_, rfl, fun hw => ?_⟩
  · simp [Report.tcause, w64]
  · rw [withdrawWait_of_none hw]; exact ⟨rfl, rfl⟩

theorem preemptAtRetirement_saves {s : State} {n : Nat} (hg : (s.coreAt n).mx.gate = true) (hc : s.canPreempt n = true)
    (hp : (s.coreAt n).pl.phase = .running) (hok : (s.coreAt n).c.evOk = true) (hj : (s.coreAt n).jobsOf .m = []) :
    ∃ t : State, exec (.preemptAtRetirement n) s = .next t ∧ (t.coreAt n).pl.phase = .saving ∧
      (t.coreAt n).pl.saveMask = (s.coreAt n).cr.mlive ∧ (t.coreAt n).pl.preempt = false := by
  rw [exec_preemptAtRetirement, execPreemptAtRetirement]
  simp only [hg, hc, hp, hok, hj, BEq.rfl, List.isEmpty_nil, Bool.and_self, if_true]
  refine ⟨_, rfl, ?_⟩
  rw [beginSave_pl]
  exact ⟨rfl, rfl, rfl⟩

end Sys2Proof.Machine

/-!
Saves, restores and checkpoints (08_timing.md R187, R188; 20_drv_traps.md R454 to R458): what a save leaves in the open buffer, how a task leaves
its core, what a restore gives back, and the bytes that a checkpoint writes.
-/

namespace Sys2Proof.Machine

/-! ## The slot of a core's task (R453, R454) -/

theorem slotOf_eq_some {s : State} {n k a : Nat} {x : Task} (h : s.slotOf n = some (x, k, a)) :
    s.taskAt (s.taskNo n) = some x ∧ a = (s.dieAt x.die).slotAddr k := by
  unfold State.slotOf at h
  split at h
  next y hy =>
    split at h
    · simp only [Option.some.injEq, Prod.mk.injEq] at h
      obtain ⟨rfl, rfl, rfl⟩ := h
      exact ⟨hy, rfl⟩
    · cases h
  · cases h

/-- The slot of a core's task goes by the task's number, the tasks, and where the dies' slots lie. -/
theorem slotOf_congr {s t : State} {n : Nat} (hn : t.taskNo n = s.taskNo n) (ht : t.tasks = s.tasks)
    (ha : ∀ d, (t.dieAt d).slotAddr = (s.dieAt d).slotAddr) : t.slotOf n = s.slotOf n := by
  simp only [State.slotOf, hn, State.taskAt, ht, ha]

@[simp] theorem putBuf_buf (x : Slot) (b : Nat) (c : Option Core) (k : Clean) : (x.putBuf b c k).buf b = c := by
  unfold Slot.putBuf Slot.buf; split <;> rfl
@[simp] theorem putBuf_clean (x : Slot) (b : Nat) (c : Option Core) (k : Clean) : (x.putBuf b c k).clean b = k := by
  unfold Slot.putBuf Slot.clean; split <;> rfl

/-! ## Dirty bits (R457) -/

theorem clear_has (k : Clean) (u : Nat) : (k.clear u).has u = true := by
  unfold Clean.clear Clean.has
  cases k.whole <;> simp

/-- A unit whose dirty bit is set keeps it while others become dirty. -/
theorem soil_has {k : Clean} {u : Nat} (w : Nat) (h : k.has u = false) : (k.soil w).has u = false := by
  unfold Clean.has at h
  unfold Clean.soil Clean.has
  cases hk : k.whole
  · simp_all
  · by_cases hu : u = w <;> simp_all

theorem foldl_soil_has {k : Clean} {u : Nat} (us : List Nat) (h : k.has u = false) : (us.foldl Clean.soil k).has u = false :=
  List.foldlRecOn (motive := fun k : Clean => k.has u = false) us _ h fun _ hk w _ => soil_has w hk

/-- A slot with both dirty bits of some units set. -/
def Slot.soil (y : Slot) (us : List Nat) : Slot := { y with clean0 := us.foldl Clean.soil y.clean0, clean1 := us.foldl Clean.soil y.clean1 }

theorem slotSoil_dirtyUnit {y : Slot} {b u : Nat} (us : List Nat) (h : y.dirtyUnit b u = true) : (y.soil us).dirtyUnit b u = true := by
  simp only [Slot.dirtyUnit, Slot.clean, Slot.soil, Bool.not_eq_true'] at h ⊢
  split at h
  next hb => rw [if_pos hb]; exact foldl_soil_has us h
  next hb => rw [if_neg hb]; exact foldl_soil_has us h

/-- What a move makes dirty are slots, one behind the other. -/
theorem soilUnits_induction {P : State → Prop} (s t : State) (h : P t)
    (hsoil : ∀ v d k us, P v → P (v.onDie d fun x => { x with slots := mmod Slot.rest x.slots k fun y => y.soil us })) : P (s.soilUnits t) := by
  refine List.foldlRecOn (motive := P) _ _ h fun v hv e _ => ?_
  dsimp only
  repeat' split
  · exact hsoil v _ _ _ hv
  all_goals exact hv

/-- A move sets dirty bits and clears none. -/
theorem soilUnits_dirtyUnit (s t : State) {d k b u : Nat} (h : (mget Slot.rest (t.dieAt d).slots k).dirtyUnit b u = true) :
    (mget Slot.rest ((s.soilUnits t).dieAt d).slots k).dirtyUnit b u = true := by
  refine soilUnits_induction (P := fun v => (mget Slot.rest (v.dieAt d).slots k).dirtyUnit b u = true) s t h fun v e j us hv => ?_
  rw [dieAt_onDie]
  split
  next hd =>
    subst hd
    by_cases hj : k = j
    · subst hj
      rw [mget_mmod_same]
      exact slotSoil_dirtyUnit us hv
    · rwa [mget_mmod_other _ _ _ hj]
  · exact hv

/-- What becomes dirty changes nothing of cores, tasks and the places of slots. -/
theorem soilUnits_frame (s t : State) : (s.soilUnits t).cores = t.cores ∧ (s.soilUnits t).tasks = t.tasks ∧
    ∀ d, ((s.soilUnits t).dieAt d).slotAddr = (t.dieAt d).slotAddr := by
  refine soilUnits_induction (P := fun v => v.cores = t.cores ∧ v.tasks = t.tasks ∧ ∀ d, (v.dieAt d).slotAddr = (t.dieAt d).slotAddr) s t
    ⟨rfl, rfl, fun _ => rfl⟩ fun v e j us ⟨hc, ht, ha⟩ => ⟨hc, ht, fun d => ?_⟩
  rw [dieAt_onDie]
  split
  · subst d; exact ha e
  · exact ha d

/-! ## Units written into a buffer (R455 to R457) -/

/-- Units written one behind the other leave what stands alone. -/
theorem foldl_writeUnit_standing (s : State) (owner p : Nat) (x : Ctx) (us : List Nat) :
    (us.foldl (fun (t : State) u => t.writeUnit owner p x u) s).standing = s.standing :=
  foldl_standing _ _ _ fun _ _ => writeUnit_standing ..

/-- The slot behind its units. -/
theorem storeUnits_slot (s : State) (die k b owner : Nat) (x : Ctx) (us : List Nat) :
    mget Slot.rest ((s.storeUnits die k b owner x us).dieAt die).slots k = (mget Slot.rest (s.dieAt die).slots k).putBuf b
      (some (us.foldl (fun c u => c.putUnit x.core u) (((mget Slot.rest (s.dieAt die).slots k).buf b).getD Core.rest)).slim)
      (us.foldl Clean.clear ((mget Slot.rest (s.dieAt die).slots k).clean b)) := by
  rw [State.storeUnits, dieAt_onDie_same, mget_mmod_same, standing_slots (foldl_writeUnit_standing s owner _ x us)]

theorem storeUnits_buf (s : State) (die k b owner : Nat) (x : Ctx) (us : List Nat) :
    (mget Slot.rest ((s.storeUnits die k b owner x us).dieAt die).slots k).buf b =
      some (us.foldl (fun c u => c.putUnit x.core u) (((mget Slot.rest (s.dieAt die).slots k).buf b).getD Core.rest)).slim := by
  rw [storeUnits_slot, putBuf_buf]

/-- The dirty bits of the units written are clear. -/
theorem storeUnits_clean (s : State) (die k b owner : Nat) (x : Ctx) (us : List Nat) :
    (mget Slot.rest ((s.storeUnits die k b owner x us).dieAt die).slots k).clean b =
      us.foldl Clean.clear ((mget Slot.rest (s.dieAt die).slots k).clean b) := by
  rw [storeUnits_slot, putBuf_clean]

/-- Units written leave the place of every core alone. -/
theorem storeUnits_own (s : State) (die k b owner : Nat) (x : Ctx) (us : List Nat) (n : Nat) :
    ((s.storeUnits die k b owner x us).coreAt n).pl.own = (s.coreAt n).pl.own :=
  standing_own (foldl_writeUnit_standing s owner _ x us) n

/-- A unit holds the control stream of a core if it is the first section, and no other unit touches it (R455). -/
theorem putUnit_c (c now : Core) (u : Nat) : (c.putUnit now u).c = if u = 1592 then now.c else c.c := by
  by_cases hu : u = 1592
  · subst hu; rfl
  · rw [if_neg hu]
    unfold Core.putUnit
    repeat' split
    case h_1 => omega
    all_goals rfl

theorem foldl_putUnit_c (us : List Nat) (c now : Core) :
    (us.foldl (fun k u => k.putUnit now u) c).c = if 1592 ∈ us then now.c else c.c := by
  induction us generalizing c with
  | nil => rfl
  | cons u us ih =>
    rw [List.foldl_cons, ih, putUnit_c]
    by_cases hu : u = 1592
    · subst hu; simp
    · simp [hu, Ne.symm hu]

/-! ## The save (R187, R253, R456) -/

/-- Core n with its drain over: watches have fired, copy outputs and leases are let go, and this is the beat of its save. -/
def State.atSave (s : State) (n : Nat) : State :=
  (s.soilUnits ((((s.fireWatches n).unbindAll n true).revokeLent n).revokeLease n)).onCore n fun c =>
    { c with pl := { c.pl with saveBeat := some s.beat } }

/-- The dirty units of core n's context written into the open buffer of slot k, at a, of its task x. -/
def State.writeSave (s : State) (n : Nat) (x : Task) (k a : Nat) : State :=
  let s := s.countHbm a 8
  let us := (mget Slot.rest (s.dieAt x.die).slots k).saveUnits (s.openBuf a) (s.coreAt n).pl.saveMask
  let s := s.onCore n fun c => { c with pl := { c.pl with due := s.beat + (unitsBytes us + 255) / 256 } }
  let r := s.readCtx n us
  r.2.storeUnits x.die k (s.openBuf a) x.owner r.1 us

theorem releases_standing (s : State) (n : Nat) :
    ((((s.fireWatches n).unbindAll n true).revokeLent n).revokeLease n).standing = s.standing := by simp

theorem atSave_coreAt (s : State) (n : Nat) : ((s.atSave n).coreAt n).c = (s.coreAt n).c ∧ ((s.atSave n).coreAt n).pl.saveBeat = some s.beat := by
  have hv := releases_standing s n
  unfold State.atSave
  generalize State.revokeLease _ n = v at hv ⊢
  obtain ⟨hc, -, -⟩ := soilUnits_frame s v
  rw [coreAt_onCore_same]
  refine ⟨Eq.trans ?_ (standing_ctl hv n), rfl⟩
  simp only [State.coreAt, hc]

theorem atSave_slotOf (s : State) (n : Nat) : (s.atSave n).slotOf n = s.slotOf n := by
  have hv := releases_standing s n
  unfold State.atSave
  generalize State.revokeLease _ n = v at hv ⊢
  obtain ⟨hc, ht, ha⟩ := soilUnits_frame s v
  generalize s.soilUnits v = u at hc ht ha ⊢
  refine Eq.trans (slotOf_congr ?_ ht ha) (standing_slotOf hv n)
  simp only [State.taskNo, coreAt_onCore_same]
  simp only [State.coreAt, hc]

theorem atSave_dirtyUnit {s : State} {n d k b u : Nat} (h : (mget Slot.rest (s.dieAt d).slots k).dirtyUnit b u = true) :
    (mget Slot.rest ((s.atSave n).dieAt d).slots k).dirtyUnit b u = true := by
  rw [State.atSave, onCore_dieAt]
  refine soilUnits_dirtyUnit _ _ ?_
  rwa [standing_slots (releases_standing s n)]

/-- A save with its drain over writes the task's slot (R456). -/
theorem contextSave_next {s : State} {n k a : Nat} {x : Task} (hp : (s.coreAt n).pl.phase = .saving) (hb : (s.coreAt n).pl.saveBeat = none)
    (hd : (s.withdrawLoads n).drained n = true) (hx : s.slotOf n = some (x, k, a)) :
    exec (.contextSave n) s = .next (((s.withdrawLoads n).atSave n).writeSave n x k a) := by
  have hslot : ((s.withdrawLoads n).atSave n).slotOf n = some (x, k, a) := by
    rw [atSave_slotOf, standing_slotOf (withdrawLoads_standing s n), hx]
  rw [exec_contextSave, execContextSave, hp, hb, if_neg (by simp)]
  extract_lets u w
  rw [if_neg (by simp [u, hd])]
  have hw : w = u.atSave n := rfl
  rw [← hw] at hslot ⊢
  clear_value w
  rw [hslot]
  rfl

/-- The first section of a context, dirty for the open buffer, is in what a save writes: the buffer holds the core's control stream. -/
theorem writeSave_holds {s : State} {n k a : Nat} {x : Task} (hu : ∀ b, (mget Slot.rest (s.dieAt x.die).slots k).dirtyUnit b 1592 = true) :
    ∃ b c, (mget Slot.rest ((s.writeSave n x k a).dieAt x.die).slots k).buf b = some c ∧ c.c = (s.coreAt n).c := by
  unfold State.writeSave
  extract_lets t us u r
  have ht : t.standing = s.standing := countHbm_standing ..
  have hmem : 1592 ∈ us := by
    refine List.mem_filter.2 ⟨List.mem_range.2 (by omega), ?_⟩
    rw [standing_slots ht, hu]
    simp [deadUnit]
  clear_value us
  refine ⟨u.openBuf a, _, storeUnits_buf r.2 x.die k (u.openBuf a) x.owner r.1 us, ?_⟩
  refine (foldl_putUnit_c us _ r.1.core).trans ((if_pos hmem).trans ?_)
  refine Eq.trans ?_ (standing_ctl ht n)
  show (u.coreAt n).c = _
  simp only [u, coreAt_onCore_same]

theorem writeSave_saveBeat (s : State) (n : Nat) (x : Task) (k a : Nat) :
    ((s.writeSave n x k a).coreAt n).pl.saveBeat = (s.coreAt n).pl.saveBeat := by
  unfold State.writeSave
  extract_lets t us u r
  have ht : t.standing = s.standing := countHbm_standing ..
  clear_value us
  have hr : r.2.standing = u.standing := readCtx_standing ..
  refine (congrArg Place.saveBeat (storeUnits_own r.2 x.die k (u.openBuf a) x.owner r.1 us n)).trans ?_
  refine (standing_saveBeat hr n).trans (Eq.trans ?_ (standing_saveBeat ht n))
  simp only [u, coreAt_onCore_same]

theorem contextSave_saves {s : State} {n k a : Nat} {x : Task} (hp : (s.coreAt n).pl.phase = .saving) (hb : (s.coreAt n).pl.saveBeat = none)
    (hd : (s.withdrawLoads n).drained n = true) (hx : s.slotOf n = some (x, k, a))
    (hu : ∀ b, (mget Slot.rest (s.dieAt x.die).slots k).dirtyUnit b 1592 = true) :
    ∃ t : State, exec (.contextSave n) s = .next t ∧ (t.coreAt n).pl.saveBeat = some s.beat ∧
      ∃ b c, (mget Slot.rest (t.dieAt x.die).slots k).buf b = some c ∧ c.c.regs = (s.coreAt n).c.regs ∧ c.c.pc = (s.coreAt n).c.pc := by
  have hw := withdrawLoads_standing s n
  obtain ⟨hctl, hbeat⟩ := atSave_coreAt (s.withdrawLoads n) n
  obtain ⟨b, c, hbuf, hc⟩ := writeSave_holds (n := n) (a := a) (k := k) (x := x) fun b =>
    atSave_dirtyUnit (n := n) (s := s.withdrawLoads n) (b := b) (u := 1592) (by rw [standing_slots hw]; exact hu b)
  have hc : c.c = (s.coreAt n).c := hc.trans (hctl.trans (standing_ctl hw n))
  refine ⟨_, contextSave_next hp hb hd hx, ?_, b, c, hbuf, congrArg Ctl.regs hc, congrArg Ctl.pc hc⟩
  rw [writeSave_saveBeat, hbeat, standing_beat hw]

/-! ## The commit (R40, R456) -/

/-- A task that leaves its core for pending frees it (R40), by what stood of the cores and tasks before. -/
theorem leaveCore_pends {s t : State} {n : Nat} {x : Task} (hpl : t.standing.places = s.standing.places)
    (hts : t.standing.tasks = s.standing.tasks) (hx : s.taskAt (s.taskNo n) = some x) :
    ((t.leaveCore n).restretch.coreAt n).pl.task = none ∧ ((t.leaveCore n).restretch.coreAt n).pl.phase = .free ∧
      ((t.leaveCore n).restretch.taskAt (s.taskNo n)) = some { x with st := .pending, core := none, late := false } := by
  have hpins (ps : List Nat) := standing_taskAt (addPins_standing t ps)
  rw [standing_task (restretch_standing _), standing_phase (restretch_standing _), standing_taskAt (restretch_standing _), State.leaveCore,
    ← taskNo_of_places hpl n]
  dsimp only
  rw [coreAt_onCore_same, onCore_taskAt, taskAt_onTask_same, hpins, taskAt_of_tasks hts, taskNo_of_places hpl, hx]
  exact ⟨rfl, rfl, rfl⟩

theorem saveCommit_frees {s : State} {n b k a : Nat} {x : Task} (hp : (s.coreAt n).pl.phase = .saving)
    (hb : (s.coreAt n).pl.saveBeat = some b) (hx : s.slotOf n = some (x, k, a)) (hd : (s.coreAt n).pl.due ≤ s.beat) :
    ∃ t : State, exec (.saveCommit n) s = .next t ∧ (t.coreAt n).pl.task = none ∧ (t.coreAt n).pl.phase = .free ∧
      ((t.taskAt (s.taskNo n)).map fun y => (y.st, y.core)) = some (.pending, none) := by
  rw [exec_saveCommit, execSaveCommit, hp, hb, hx]
  dsimp only
  rw [if_neg (Nat.not_lt.2 hd)]
  refine ⟨_, rfl, ?_⟩
  generalize hu : State.devWrite (State.devWrite _ _ _ _) _ _ _ = u
  obtain ⟨htask, hphase, hleft⟩ := leaveCore_pends (s := s) (t := u) (by simp [← hu]) (by simp [← hu]) (slotOf_eq_some hx).1
  exact ⟨htask, hphase, by rw [hleft]; rfl⟩

/-! ## The restore (R187, R458) -/

/-- Core n with the context of buffer b of the slot k, at a, of its task x given back to it. -/
def State.giveBack (s : State) (n : Nat) (x : Task) (k a b : Nat) (c : Core) : State :=
  let d := s.beat - s.hbmNat (a + 8) 8
  let ctx := s.bufCtx x.owner a b c
  let s := s.onMem fun m =>
    { m with bytes := msplice m.bytes (scrBase n) (2 ^ 22) ctx.bytes
             tags := msplice m.tags (scrBase n / 64) (2 ^ 16) ctx.tags
             valid := msplice m.valid (scrBase n / 4) (2 ^ 20) ctx.valid
             bad := mclear m.bad (scrBase n / 64) (2 ^ 16) }
  let s := s.setCore n (s.restored n ctx.core d)
  let mark (z : Slot) : Slot := (z.putBuf b (some c) ⟨true, []⟩).putBuf (1 - b) (z.buf (1 - b)) ⟨false, []⟩
  s.onDie x.die fun y => { y with slots := mmod Slot.rest y.slots k mark }

theorem restoreDone_next {s : State} {n k a : Nat} {x : Task} {c : Core} (hp : (s.coreAt n).pl.phase = .restoring)
    (hx : s.slotOf n = some (x, k, a)) (hc : (mget Slot.rest (s.dieAt x.die).slots k).buf ((s.committed x).getD 0) = some c)
    (hg : ∀ e ∈ restoreParts ((s.committed x).getD 0) c.pl.saveMask, s.hbmBad (a + e.1) e.2 = false) (hd : (s.coreAt n).pl.due ≤ s.beat) :
    let t := s.giveBack n x k a ((s.committed x).getD 0) c
    exec (.restoreDone n) s = .next (((t.reissue (t.taskNo n) n).followSends ((t.reissue (t.taskNo n) n).taskNo n) n).gateNow n) := by
  have hgood : (restoreParts ((s.committed x).getD 0) c.pl.saveMask).find? (fun e => s.hbmBad (a + e.1) e.2) = none :=
    List.find?_eq_none.2 fun e he => by simp [hg e he]
  rw [exec_restoreDone, execRestoreDone, if_neg (by simp [hp, hd]), hx]
  dsimp only
  rw [hc]
  dsimp only
  rw [hgood]
  rfl

/-- The core and the scratchpad that a restore gives back. -/
theorem giveBack_core (s : State) (n : Nat) (x : Task) (k a b : Nat) (c : Core) :
    ((s.giveBack n x k a b c).coreAt n).pl.phase = .running ∧
      ((s.giveBack n x k a b c).coreAt n).c =
        { c.c with ready := s.beat + 1, issues := (s.coreAt n).c.issues, issued := false, cwait := none, settling := false, evOk := true } := by
  rw [State.giveBack]
  simp only [onDie_coreAt, coreAt_setCore_same]
  exact ⟨rfl, rfl⟩

theorem giveBack_byte (s : State) (n : Nat) (x : Task) (k a b : Nat) (c : Core) {i : Nat} (hi : i < 2 ^ 22) :
    (s.giveBack n x k a b c).mem.byte (scrBase n + i) = mget 0 (s.bufCtx x.owner a b c).bytes i :=
  mget_msplice_in 0 s.mem.bytes (s.bufCtx x.owner a b c).bytes hi

theorem restoreDone_resumes {s : State} {n k a : Nat} {x : Task} {c : Core} (hp : (s.coreAt n).pl.phase = .restoring)
    (hx : s.slotOf n = some (x, k, a)) (hc : (mget Slot.rest (s.dieAt x.die).slots k).buf ((s.committed x).getD 0) = some c)
    (hg : ∀ e ∈ restoreParts ((s.committed x).getD 0) c.pl.saveMask, s.hbmBad (a + e.1) e.2 = false) (hd : (s.coreAt n).pl.due ≤ s.beat) :
    ∃ t : State, exec (.restoreDone n) s = .next t ∧ (t.coreAt n).pl.phase = .running ∧ (t.coreAt n).c.regs = c.c.regs ∧
      (t.coreAt n).c.pc = c.c.pc ∧ (t.coreAt n).c.hlevel = c.c.hlevel ∧ (t.coreAt n).c.ready = s.beat + 1 ∧
      ∀ i, i < 2 ^ 22 → t.mem.byte (scrBase n + i) = mget 0 (s.bufCtx x.owner a ((s.committed x).getD 0) c).bytes i := by
  refine ⟨_, restoreDone_next hp hx hc hg hd, ?_⟩
  obtain ⟨hphase, hctl⟩ := giveBack_core s n x k a ((s.committed x).getD 0) c
  have hbyte (i : Nat) := giveBack_byte s n x k a ((s.committed x).getD 0) c (i := i)
  generalize s.giveBack n x k a ((s.committed x).getD 0) c = t at hphase hctl hbyte ⊢
  have hstand : (((t.reissue (t.taskNo n) n).followSends ((t.reissue (t.taskNo n) n).taskNo n) n).gateNow n).standing = t.standing := by simp
  rw [standing_phase hstand, standing_ctl hstand, hctl]
  refine ⟨hphase, rfl, rfl, rfl, rfl, fun i hi => ?_⟩
  rw [gateNow_mem, followSends_mem, reissue_mem, hbyte i hi]

/-! ## The bytes of a unit in its buffer (R454, R455, R457) -/

/-- A run of n bytes at offset o of a buffer: whole blocks within it, and cells within the run. -/
def FitsBuffer (o n : Nat) (cells : List Host.Cell) : Prop := o % 64 = 0 ∧ n % 64 = 0 ∧ o + n ≤ 0x700000 ∧ ∀ c ∈ cells, c.1 < n

/-- The runs of the units whose order the spec gives lie in their buffer (R455). -/
theorem unitRuns_fit (x : Ctx) {u : Nat} (hu : u < 1600) : ∀ e ∈ x.unitRuns u, FitsBuffer e.1 e.2.1 e.2.2 := by
  unfold Ctx.unitRuns
  split
  · simp only [List.forall_mem_cons]
    exact ⟨⟨by omega, by omega, by omega, mslice_lt _ _ _⟩, ⟨by omega, by omega, by omega, cellTable_lt _ _⟩,
      ⟨by omega, by omega, by omega, cellTable_lt _ _⟩, nofun⟩
  split
  · simp only [List.forall_mem_singleton]
    exact ⟨by omega, by omega, by omega, cellTable_lt _ _⟩
  split
  · simp only [List.forall_mem_singleton]
    exact ⟨by omega, by omega, by omega, cellTable_lt _ _⟩
  split
  · simp only [List.forall_mem_singleton]
    exact ⟨by omega, by omega, by omega, cellTable_lt _ _⟩
  · nofun

/-- The runs of the device's own order lie in their buffer (R455). -/
theorem ownRun_fit {u : Nat} {e : Nat × Nat} (he : ownRun u = some e) : FitsBuffer e.1 e.2 [] := by
  unfold ownRun at he
  split at he
  · cases he
  split at he
  · cases he; exact ⟨by omega, by omega, by omega, nofun⟩
  · have hruns : ∀ r ∈ [(0, 0x1000), (0x1000, 0x4000), (0x5000, 0x1000), (0x6000, 0x1000), (0x7000, 0x4000), (0xB000, 0x12000)],
        FitsBuffer r.1 r.2 [] := by simp [FitsBuffer]
    exact hruns e (List.mem_of_getElem? he)

section
variable (s : State) (owner : Nat) {p u j : Nat} (x : Ctx) (hp : p % 64 = 0)
include hp

/-- A run written into a buffer leaves every byte outside the buffer alone. -/
theorem byte_writeArea_outside (key : BitVec 512) {o n : Nat} {cells : List Host.Cell} (hfit : FitsBuffer o n cells)
    (hj : j < p ∨ p + 0x700000 ≤ j) : (s.writeArea key ((p + o) / 64) (n / 64) cells).mem.byte j = s.mem.byte j := by
  obtain ⟨ho, hn, hlen, hc⟩ := hfit
  exact byte_writeArea_out s key (by rwa [Nat.mul_div_cancel' (Nat.dvd_of_mod_eq_zero hn)]) (by omega)

theorem byte_writeUnit_outside (hu : u < 1600) (hj : j < p ∨ p + 0x700000 ≤ j) : (s.writeUnit owner p x u).mem.byte j = s.mem.byte j := by
  have hruns : ((x.unitRuns u).foldl
      (fun t e => t.writeArea (s.keyOf owner) ((p + e.1) / 64) (e.2.1 / 64) e.2.2) s).mem.byte j = s.mem.byte j := by
    refine List.foldlRecOn (motive := fun t : State => t.mem.byte j = s.mem.byte j) _ _ rfl fun t ht e he => ?_
    exact (byte_writeArea_outside t hp _ (unitRuns_fit x hu e he) hj).trans ht
  unfold State.writeUnit
  dsimp only
  split
  next e he =>
    exact (byte_writeArea_outside _ hp _ (ownRun_fit he) hj).trans hruns
  · exact hruns

/-- A granule of scratchpad data lies in its buffer at its place there; its tags and valid bits lie before it (R455). -/
theorem byte_writeUnit_granule (hu : u < 1024) {i : Nat} (hi : i < 4096) :
    (s.writeUnit owner p x u).mem.byte (p + 0x300000 + 4096 * u + i) = mget 0 x.bytes (4096 * u + i) := by
  have hown : ownRun u = none := if_pos (by omega)
  simp only [State.writeUnit, hown, Ctx.unitRuns, if_pos hu, List.foldl_cons, List.foldl_nil]
  rw [byte_writeArea_out _ _ (n := 128 / 64) (cellTable_lt 128 _) (by omega), byte_writeArea_out _ _ (n := 128 / 64) (cellTable_lt 128 _) (by omega),
    show p + 0x300000 + 4096 * u + i = 64 * ((p + (0x300000 + 4096 * u)) / 64) + i by omega, byte_writeArea_in _ _ _ (by omega)]
  exact mget_mslice 0 x.bytes hi

end

/-! ## Checkpoints (R188, R457) -/

/-- Where no wait and no counter condition stands on a block, a unit written leaves cores and accesses alone. -/
theorem writeUnit_unwatched (s : State) (owner p : Nat) (x : Ctx) (u : Nat) (hw : s.watched = []) :
    (s.writeUnit owner p x u).cores = s.cores ∧ (s.writeUnit owner p x u).accs = s.accs := by
  have area (t : State) (key : BitVec 512) (lo n : Nat) (cells : List Host.Cell) (ht : t.watched = [] ∧ t.cores = s.cores ∧ t.accs = s.accs) :
      let v := t.writeArea key lo n cells
      v.watched = [] ∧ v.cores = s.cores ∧ v.accs = s.accs := by
    rw [writeArea_unwatched t key lo n cells ht.1]
    exact ht
  have hruns := List.foldlRecOn (motive := fun t : State => t.watched = [] ∧ t.cores = s.cores ∧ t.accs = s.accs) (x.unitRuns u)
    (fun t e => t.writeArea (s.keyOf owner) ((p + e.1) / 64) (e.2.1 / 64) e.2.2) ⟨hw, rfl, rfl⟩ fun t ht e _ => area t _ _ _ _ ht
  unfold State.writeUnit
  dsimp only
  split
  · exact (area _ _ _ _ _ hruns).2
  · exact hruns.2

/-- A read of a context counts errors and draws; without uncorrectable blocks its bytes are those of the scratchpad. -/
theorem readCtx_bytes {s : State} (n : Nat) (gs : List Nat) (hb : s.mem.bad = []) :
    (s.readCtx n gs).1.bytes = mslice s.mem.bytes (scrBase n) (2 ^ 22) := by
  simp [State.readCtx, State.context, hb]

theorem readCtx_frame (s : State) (n : Nat) (gs : List Nat) :
    (s.readCtx n gs).2.cores = s.cores ∧ (s.readCtx n gs).2.accs = s.accs ∧ (s.readCtx n gs).2.tasks = s.tasks :=
  List.foldlRecOn (motive := fun t : State => t.cores = s.cores ∧ t.accs = s.accs ∧ t.tasks = s.tasks) _ _ ⟨rfl, rfl, rfl⟩
    fun _ ht _ _ => ht

section
variable {s : State} {n u k a : Nat} {x : Task}

/-- Unit u of core n's context, its other units as the core has them. -/
def State.unitCtx (s : State) (n u : Nat) : Ctx := { (s.readCtx n [u]).1 with core := s.coreAt n }

theorem checkpointWriteback_next (hp : (s.coreAt n).pl.phase = .running) (hi : (s.dieAt (dieOf n)).incr = true)
    (hx : s.slotOf n = some (x, k, a)) (hu : u < 1600) (hd : (mget Slot.rest (s.dieAt x.die).slots k).dirtyUnit (s.openBuf a) u = true)
    (hr : 1536 ≤ u → s.settledRegs n = true) :
    exec (.checkpointWriteback n u) s =
      .next ((s.readCtx n [u]).2.storeUnits x.die k (s.openBuf a) x.owner (s.unitCtx n u) [u]) := by
  rw [exec_checkpointWriteback, execCheckpointWriteback, if_neg (by simp [hp, hi]), hx]
  dsimp only
  rw [if_neg]
  · rfl
  · simp only [hd, Bool.not_true, Bool.or_false, Bool.or_eq_true, decide_eq_true_eq, Bool.and_eq_true, Bool.not_eq_true']
    rintro (hl | ⟨hreg, hun⟩)
    · omega
    · rw [hr hreg] at hun; cases hun

theorem storeUnits_single (s : State) (die k b owner : Nat) (x : Ctx) (u : Nat) :
    let t := s.writeUnit owner (bufStart ((s.dieAt die).slotAddr k) b) x u
    (s.storeUnits die k b owner x [u]).mem = t.mem ∧ (s.storeUnits die k b owner x [u]).cores = t.cores ∧
      (s.storeUnits die k b owner x [u]).accs = t.accs := ⟨rfl, rfl, rfl⟩

theorem checkpointWriteback_writes (hp : (s.coreAt n).pl.phase = .running) (hi : (s.dieAt (dieOf n)).incr = true)
    (hx : s.slotOf n = some (x, k, a)) (hu : u < 1600) (hd : (mget Slot.rest (s.dieAt x.die).slots k).dirtyUnit (s.openBuf a) u = true)
    (hr : 1536 ≤ u → s.settledRegs n = true) :
    let y := mget Slot.rest (s.dieAt x.die).slots k
    let b := s.openBuf a
    let p := bufStart a b
    ∃ t : State, exec (.checkpointWriteback n u) s = .next t ∧ (s.watched = [] → t.cores = s.cores ∧ t.accs = s.accs) ∧
      (a % 64 = 0 → (∀ i, i < p ∨ p + 0x700000 ≤ i → t.mem.byte i = s.mem.byte i) ∧
        (u < 1024 → s.mem.bad = [] → ∀ i, i < 4096 → t.mem.byte (p + 0x300000 + 4096 * u + i) = s.mem.byte (scrBase n + 4096 * u + i))) ∧
      (mget Slot.rest (t.dieAt x.die).slots k).buf b = some (((y.buf b).getD Core.rest).putUnit (s.coreAt n) u).slim ∧
      (mget Slot.rest (t.dieAt x.die).slots k).dirtyUnit b u = false := by
  intro y b p
  have hread := readCtx_standing s n [u]
  obtain ⟨hcores, haccs, htasks⟩ := readCtx_frame s n [u]
  have hstored : (s.readCtx n [u]).2.stored = s.stored := readCtx_stored ..
  refine ⟨_, checkpointWriteback_next hp hi hx hu hd hr, ?_⟩
  generalize (s.readCtx n [u]).2 = r at hread hcores haccs htasks hstored ⊢
  obtain ⟨hmem, hc, ha⟩ := storeUnits_single r x.die k b x.owner (s.unitCtx n u) u
  have hplace : bufStart ((r.dieAt x.die).slotAddr k) b = p := by
    rw [standing_slotAddr hread, ← (slotOf_eq_some hx).2]
  rw [hplace] at hmem hc ha
  have hslot : mget Slot.rest (r.dieAt x.die).slots k = y := congrArg (mget _ · k) (standing_slots hread x.die)
  refine ⟨fun hw => ?_, fun haligned => ?_, ?_, ?_⟩
  · obtain ⟨hwc, hwa⟩ := writeUnit_unwatched r x.owner p (s.unitCtx n u) u (by simpa only [State.watched, haccs, htasks] using hw)
    exact ⟨hc.trans (hwc.trans hcores), ha.trans (hwa.trans haccs)⟩
  · have hp64 : p % 64 = 0 := by
      simp only [p, bufStart]; omega
    rw [hmem]
    refine ⟨fun i hout => (byte_writeUnit_outside r x.owner _ hp64 hu hout).trans (byte_of_stored hstored i), fun hg hbad i hlt => ?_⟩
    rw [byte_writeUnit_granule r x.owner _ hp64 hg hlt, State.unitCtx, readCtx_bytes n [u] hbad, mget_mslice 0 _ (by omega), ← Nat.add_assoc]
    rfl
  · rw [storeUnits_buf, hslot, List.foldl_cons, List.foldl_nil]
    rfl
  · rw [Slot.dirtyUnit, storeUnits_clean]
    simp [clear_has]

end

end Sys2Proof.Machine

/-!
The watchdogs (20_drv_traps.md R459, R460): a warning at the limit, the end of the task at twice the limit or at the save limit.
-/

namespace Sys2Proof.Machine

/-- A task that ends failed is gone, and its core is free (R40), by what stood of the cores before. -/
theorem failTask_ends {s t : State} {n j : Nat} (hpl : t.standing.places = s.standing.places) (hj : (s.coreAt n).pl.task = some j) :
    ((t.failTask n).restretch.coreAt n).pl.task = none ∧ ((t.failTask n).restretch.coreAt n).pl.phase = .free ∧
      (t.failTask n).restretch.taskAt j = none := by
  have hn : t.taskNo n = j := (taskNo_of_places hpl n).trans (by rw [State.taskNo, hj]; rfl)
  rw [standing_task (restretch_standing _), standing_phase (restretch_standing _), standing_taskAt (restretch_standing _), State.failTask, hn]
  generalize State.stopEngines _ n = v
  have h := reapLimbo_standing ((v.setTask j none).onCore n Core.freed)
  rw [standing_task h, standing_phase h, standing_taskAt h, coreAt_onCore_same, onCore_taskAt, taskAt_setTask_same]
  exact ⟨rfl, rfl, rfl⟩

/-- What a watchdog of core n does whose count is v and whose limit is l beats, its task placed and warned or not (R459). -/
def State.atLimit (s : State) (n l v reason : Nat) (warned : Bool) (warn : State) : Out :=
  if l = 0 ∨ (s.coreAt n).pl.task = none ∨ v < l then .next s
  else if 2 * l ≤ v then .next (s.watchEnd n reason)
  else if warned then .next s
  else .next warn

theorem exec_watchdogStall_atLimit (s : State) (n : Nat) :
    exec (.watchdogStall n) s = s.atLimit n (1024 * (s.dieAt (dieOf n)).stallLim) (s.coreAt n).pl.dog.stall 2 (s.coreAt n).pl.dog.warnedStall
      (s.onCore n fun c => { c.raiseEvent 0x56 (BitVec.ofNat 64 (c.pl.dog.stall / 1024)) with
        pl := { c.pl with dog := { c.pl.dog with warnedStall := true } } }) := rfl
theorem exec_watchdogLate_atLimit (s : State) (n : Nat) :
    exec (.watchdogLate n) s = s.atLimit n (1024 * (s.dieAt (dieOf n)).lateLim) (s.coreAt n).pl.dog.late 3 (s.coreAt n).pl.dog.warnedLate
      (s.onCore n fun c => { c.raiseEvent 0x56 (BitVec.ofNat 64 (c.pl.dog.late / 1024)) with
        pl := { c.pl with dog := { c.pl.dog with warnedLate := true } } }) := rfl

section
variable {s : State} {n j : Nat} (hj : (s.coreAt n).pl.task = some j)
include hj

/-- A limit ends the task (R459). -/
theorem watchEnd_ends (reason : Nat) :
    ((s.watchEnd n reason).coreAt n).pl.task = none ∧ (s.watchEnd n reason).taskAt j = none := by
  unfold State.watchEnd
  generalize ht : State.logTrap _ n reason 0 0x56 [0, 0, 0, 0, 0] = t
  obtain ⟨htask, -, hgone⟩ := failTask_ends (t := t) (by rw [← ht, logTrap_standing, dropWithdrawn_standing]) hj
  exact ⟨htask, hgone⟩

theorem atLimit_outcomes {l v reason : Nat} {warned : Bool} {warn : State} (h0 : l ≠ 0) (hv : l ≤ v) :
    ∃ t : State, s.atLimit n l v reason warned warn = .next t ∧ (v < 2 * l → warned = false → t = warn) ∧
      (2 * l ≤ v → (t.coreAt n).pl.task = none ∧ t.taskAt j = none) := by
  rw [State.atLimit, if_neg (by rw [hj]; simp [h0, hv])]
  by_cases hend : 2 * l ≤ v
  · rw [if_pos hend]
    exact ⟨_, rfl, fun hlt => absurd hend (Nat.not_le.2 hlt), fun _ => watchEnd_ends hj reason⟩
  · rw [if_neg hend]
    cases warned
    · exact ⟨_, rfl, fun _ _ => rfl, fun h => absurd h hend⟩
    · exact ⟨_, rfl, fun _ => nofun, fun h => absurd h hend⟩

theorem watchdogSave_gives_up {b k a : Nat} {x : Task} (hp : (s.coreAt n).pl.phase = .saving) (hb : (s.coreAt n).pl.saveBeat = some b)
    (hx : s.slotOf n = some (x, k, a)) (h0 : (s.dieAt (dieOf n)).save ≠ 0) (hl : b + 1024 * (s.dieAt (dieOf n)).save ≤ s.beat) :
    ∃ t : State, exec (.watchdogSave n) s = .next t ∧ (t.coreAt n).pl.task = none ∧ (t.coreAt n).pl.phase = .free ∧
      (t.taskAt j = none ∨ (s.dieAt (dieOf n)).lsres = true ∧ (t.taskAt j).map Task.st = some .pending) := by
  have htask := (slotOf_eq_some hx).1
  rw [exec_watchdogSave, execWatchdogSave, hp, hb, hx]
  dsimp only
  rw [if_neg (by rw [limitBeats]; omega)]
  split
  next cb hcb hls =>
    refine ⟨_, rfl, ?_⟩
    generalize hu : State.logTrap _ n 7 0 0x5A [0, 0, 0, 0, 0] = u
    obtain ⟨hfree, hphase, hleft⟩ := leaveCore_pends (s := s) (t := u) (by simp [← hu]) (by simp [← hu]) htask
    have hn : s.taskNo n = j := by rw [State.taskNo, hj]; rfl
    rw [hn] at hleft
    exact ⟨hfree, hphase, .inr ⟨hls, by rw [hleft]; rfl⟩⟩
  · refine ⟨_, rfl, ?_⟩
    generalize hu : State.logTrap _ n 4 0 0x5A [0, 0, 0, 0, 0] = u
    obtain ⟨hfree, hphase, hgone⟩ := failTask_ends (s := s) (t := u) (by simp [← hu]) hj
    exact ⟨hfree, hphase, .inl hgone⟩

end

/-- Settles O50, transition by transition. -/
theorem contextsAreSavedAndRestored : Obligations.ContextsAreSavedAndRestored := by
  intro s
  refine ⟨fun _ _ hb hk => preemptRequest_stands hb hk, fun _ _ hb hk => preemptCancel_withdraws hb hk,
    fun _ _ v hb hk => driverInterrupt_raises hb hk v, fun _ _ _ => eventTaken_traps, fun _ => preemptAtRetirement_saves,
    fun _ _ _ _ => contextSave_saves, fun _ _ _ hp hb hx hd => saveCommit_frees hp hb hx hd, fun _ _ _ _ _ => contextSlotAcquire_grants,
    fun _ _ _ _ _ hp hx => ?_, fun _ _ _ _ _ hp hi hx hu => ?_, fun n j l hj => ⟨fun hl => ?_, fun hl => ?_⟩,
    fun _ _ _ _ _ _ hj hp hb hx => watchdogSave_gives_up hj hp hb hx⟩
  · exact restoreDone_resumes hp hx
  · exact checkpointWriteback_writes hp hi hx hu
  · rw [exec_watchdogStall_atLimit, ← hl]
    exact atLimit_outcomes hj
  · rw [exec_watchdogLate_atLimit, ← hl]
    exact atLimit_outcomes hj

end Sys2Proof.Machine


/-!
The encodings of 10_encodings.md as a whole: the decoder against the encoder over every instruction (R208 to R231), the words that are no
instruction (R222, R232), and the hint space (R220).
-/

namespace Sys2Proof.Laws.RoundTrip

open Sys2Proof.Safety

/-- Every instruction is read back from its word in each of its spaces: row by row of the opcode table, where a row that no
space holds has nothing to read back. -/
theorem readBack (i : Instr) : Statement i := by
  cases i with
  | add o => exact add o | sub o => exact sub o | mul o => exact mul o | mulh o => exact mulh o | mulhn o => exact mulhn o
  | div o => exact div o | divn o => exact divn o | rem o => exact rem o | remn o => exact remn o | and_ o => exact and_ o
  | or_ o => exact or_ o | xor o => exact xor o | andn o => exact andn o | shl o => exact shl o | shr o => exact shr o
  | sra o => exact sra o | rotl o => exact rotl o | min_ o => exact min_ o | max_ o => exact max_ o | minn o => exact minn o
  | maxn o => exact maxn o | clz o => exact clz o | ctz o => exact ctz o | popc o => exact popc o | sel o => exact sel o
  | adds o x => exact adds o x | cmp o x => exact cmp o x | addi o => exact addi o | andi o => exact andi o
  | ori o => exact ori o | xori o => exact xori o | shli o => exact shli o | shri o => exact shri o | srai o => exact srai o
  | cmpi o => exact cmpi o | ext_ o => exact ext_ o | ins o => exact ins o | movh o x => exact movh o x
  | ldI8 o => exact ldI8 o | ldB16 o => exact ldB16 o | ldI32 o => exact ldI32 o | ldN32 o => exact ldN32 o
  | ldI64 o => exact ldI64 o | stI8 o => exact stI8 o | stB16 o => exact stB16 o | stI32 o => exact stI32 o
  | stI64 o => exact stI64 o | br o => exact br o | loop o x => exact loop o x | jmp o => exact jmp o | jal o => exact jal o
  | amoI32 o x y => exact amoI32 o x y | amoFadd o x => exact amoFadd o x | amoN32 o x y => exact amoN32 o x y
  | amoI64 o x y => exact amoI64 o x y | casI32 o x => exact casI32 o x | casN32 o x => exact casN32 o x
  | casI64 o x => exact casI64 o x | sqadd o x => exact sqadd o x | qalign => exact qalign | mjoin => exact mjoin
  | spal o => exact spal o | spfree o => exact spfree o | waddrI32 o => exact waddrI32 o | waddrI64 o => exact waddrI64 o
  | wake o => exact wake o | sqwait o => exact sqwait o | swinit o => exact swinit o | swait o => exact swait o
  | gjoin o => exact gjoin o | gleave o => exact gleave o | gbar o => exact gbar o | jr o => exact jr o
  | chlvl o x => exact chlvl o x | chdrop o => exact chdrop o | wait o x y z => exact wait o x y z
  | chbind o x y => exact chbind o x y | nop o => exact nop o | fork o x => exact fork o x | rdv o => exact rdv o
  | estop o => exact estop o | ebase o x => exact ebase o x | mfence o => exact mfence o | tbind o x y => exact tbind o x y
  | tunbind o => exact tunbind o | post o => exact post o | tail => exact tail | halt => exact halt
  | ppoint o => exact ppoint o | tfence => exact tfence | sysc o => exact sysc o | brk o => exact brk o | eret => exact eret
  | csrr o x => exact csrr o x | csrw o => exact csrw o | csrs o => exact csrs o | csrc o => exact csrc o
  | stset o => exact stset o | stclr o => exact stclr o | sfwait o => exact sfwait o | bemsg o => exact bemsg o
  | hand o => exact hand o | deal o => exact deal o | undeal o => exact undeal o | rcirc o => exact rcirc o
  | cgen o => exact cgen o | ctab o => exact ctab o | fdown o => exact fdown o | fpeek o => exact fpeek o
  | fup o => exact fup o | lease o => exact lease o | spill o => exact spill o | fill o => exact fill o
  | unlease o => exact unlease o | tok o x y => exact tok o x y | rloop o x y => exact rloop o x y
  | tableEnd => exact tableEnd | lport o x y z => exact lport o x y z | lglob o => exact lglob o | lbc o => exact lbc o
  | lnest o x y z => exact lnest o x y z | sport o x y => exact sport o x y | sglob o => exact sglob o
  | vaddI8 o => exact vaddI8 o | vaddI32 o => exact vaddI32 o | vaddF32 o => exact vaddF32 o | vaddB16 o => exact vaddB16 o
  | vsubI8 o => exact vsubI8 o | vsubI32 o => exact vsubI32 o | vsubF32 o => exact vsubF32 o | vsubB16 o => exact vsubB16 o
  | vmulI32 o => exact vmulI32 o | vmulF32 o => exact vmulF32 o | vmulB16 o => exact vmulB16 o | vfmaF32 o => exact vfmaF32 o
  | vfmaB16 o => exact vfmaB16 o | vfmsF32 o => exact vfmsF32 o | vfmsB16 o => exact vfmsB16 o | vminI32 o => exact vminI32 o
  | vminF32 o => exact vminF32 o | vminB16 o => exact vminB16 o | vmaxI32 o => exact vmaxI32 o | vmaxF32 o => exact vmaxF32 o
  | vmaxB16 o => exact vmaxB16 o | vand o => exact vand o | vor o => exact vor o | vxor o => exact vxor o
  | vandn o => exact vandn o | vshl o => exact vshl o | vshr o => exact vshr o | vsra o => exact vsra o
  | vcmpEqI32 o => exact vcmpEqI32 o | vcmpEqF32 o => exact vcmpEqF32 o | vcmpEqB16 o => exact vcmpEqB16 o
  | vcmpLtI32 o => exact vcmpLtI32 o | vcmpLtF32 o => exact vcmpLtF32 o | vcmpLtB16 o => exact vcmpLtB16 o
  | vcmpLeI32 o => exact vcmpLeI32 o | vcmpLeF32 o => exact vcmpLeF32 o | vcmpLeB16 o => exact vcmpLeB16 o
  | vsel o => exact vsel o | vpermI8 o => exact vpermI8 o | vpermI32 o => exact vpermI32 o | vclampI32 o => exact vclampI32 o
  | vclampF32 o => exact vclampF32 o | vclampB16 o => exact vclampB16 o | vmovI8 o => exact vmovI8 o
  | vmovI32 o => exact vmovI32 o | vmovF32 o => exact vmovF32 o | vmovB16 o => exact vmovB16 o | vabsI8 o => exact vabsI8 o
  | vabsI32 o => exact vabsI32 o | vabsF32 o => exact vabsF32 o | vabsB16 o => exact vabsB16 o | vnegI8 o => exact vnegI8 o
  | vnegI32 o => exact vnegI32 o | vnegF32 o => exact vnegF32 o | vnegB16 o => exact vnegB16 o | vsumI32 o => exact vsumI32 o
  | vsumF32 o => exact vsumF32 o | vsumB16 o => exact vsumB16 o | vscanI32 o => exact vscanI32 o
  | vscanF32 o => exact vscanF32 o | vscanB16 o => exact vscanB16 o | vrcpF32 o => exact vrcpF32 o
  | vrcpB16 o => exact vrcpB16 o | vrsqF32 o => exact vrsqF32 o | vrsqB16 o => exact vrsqB16 o | vex2F32 o => exact vex2F32 o
  | vex2B16 o => exact vex2B16 o | vlg2F32 o => exact vlg2F32 o | vlg2B16 o => exact vlg2B16 o | vbc o x => exact vbc o x
  | vcvtI8 o x y => exact vcvtI8 o x y | vcvtI32 o x y => exact vcvtI32 o x y | vcvtF32 o x y => exact vcvtF32 o x y
  | vcvtB16 o x y => exact vcvtB16 o x y | vcvtE4 o x y => exact vcvtE4 o x y | vcvtE5 o x y => exact vcvtE5 o x y
  | vcvtF4 o x y => exact vcvtF4 o x y | vcvtDs8 o x y => exact vcvtDs8 o x y | vqmax o x y => exact vqmax o x y
  | vqcvt o x y z => exact vqcvt o x y z | vdq o x => exact vdq o x | gop o x y z w => exact gop o x y z w
  | vqcvtI8 o x y => exact vqcvtI8 o x y | mmac o x y z w => exact mmac o x y z w | mclr o x => exact mclr o x
  | mret o x y z w v => exact mret o x y z w v | mwsel o x => exact mwsel o x | mstampAbs o => exact mstampAbs o
  | mstampAdd o x => exact mstampAdd o x | mnop o => exact mnop o | xcopy o => exact xcopy o | xgat o => exact xgat o
  | xsct o => exact xsct o | xwload o => exact xwload o | xred o => exact xred o | xwenq o => exact xwenq o
  | xsend o => exact xsend o | xcoll o => exact xcoll o
  | _ => exact none_of rfl

end Sys2Proof.Laws.RoundTrip

namespace Sys2Proof

open Safety

/-- The decoder of a space that holds a well-formed instruction reads the encoder's word back as it. -/
theorem decode_encode {i : Instr} {st : Stream} {w : W32} (hw : i.wf = true) (hs : st ∈ spacesOf i) (he : encode i = some w) :
    decode st w = some i :=
  Laws.RoundTrip.readBack i hw st hs w he

/-- Settles O1, by the reading of each row back from its word. -/
theorem everyWellFormedInstructionRoundTrips : Obligations.EveryWellFormedInstructionRoundTrips :=
  fun _ _ _ => decode_encode

/-- Settles O2: each word is the encoder's for its instruction and so is read back as it; major 0x00 is unallocated in the control
space. -/
theorem wordsHoldTheSpecsInstructions : Obligations.WordsHoldTheSpecsInstructions := by
  refine ⟨decode_encode ?_ ?_ ?_, decode_encode ?_ ?_ ?_, decode_encode ?_ ?_ ?_, decode_encode ?_ ?_ ?_, decode_encode ?_ ?_ ?_,
    decode_encode ?_ ?_ ?_, decode_encode ?_ ?_ ?_, decode_encode ?_ ?_ ?_, decode_encode ?_ ?_ ?_, ?_, decode_encode ?_ ?_ ?_⟩
  all_goals decide

/-- A word decodes to an instruction where its raw reading is that instruction, well formed, and encoded as that very word (R222,
R232). -/
theorem decode_eq_some_iff {st : Stream} {w : W32} {i : Instr} :
    decode st w = some i ↔ rawOf st w = some i ∧ i.wf = true ∧ encode i = some w := by
  unfold decode
  cases rawOf st w with
  | none => simp
  | some j =>
    simp only [Option.ite_none_right_eq_some, Bool.and_eq_true, beq_iff_eq, Option.some.injEq]
    exact ⟨fun ⟨hj, hji⟩ => ⟨hji, hji ▸ hj⟩, fun ⟨hji, hi⟩ => ⟨hji ▸ hi, hji⟩⟩

/-- Settles O3: two instructions of one space that share a word are both what that word decodes to. -/
theorem decodedWordsAreWellFormedAndExact : Obligations.DecodedWordsAreWellFormedAndExact := by
  intro st w i hi
  obtain ⟨-, hwf, henc⟩ := decode_eq_some_iff.1 hi
  refine ⟨hwf, henc, fun j w' hj hjw => ?_⟩
  obtain ⟨-, -, hjw'⟩ := decode_eq_some_iff.1 hj
  obtain rfl : w = w' := Option.some.inj (hjw.symm.trans hjw')
  exact Option.some.inj (hj.symm.trans hi)

end Sys2Proof

namespace Sys2Proof.Machine

/-- Settles O15: a hint, which names no operand, passes the checks of R234 and does nothing but move on. -/
theorem hintsOnlyTakeABeat : Obligations.HintsOnlyTakeABeat := by
  refine ⟨fun h => ?_, rfl, fun h s hn => ⟨?_, ?_, advance_sameCore s, advance_sameRest s⟩⟩
  · exact decode_encode (i := .nop h) rfl (.head _) rfl
  · exact cIssue_next (issues_none hn) _
  · simp [State.advance]

end Sys2Proof.Machine

/-!
Bit fields and bit counts (11_ins_scalar.md R238, R244): what ext and ins do bit by bit, what clz, ctz and popc count, and which words are
theirs.
-/

namespace Sys2Proof.Machine

/-! ## Bit fields (R244) -/

/-- Bit k of a field of n bits from bit p on (R244). -/
theorem getLsbD_field (a : Word) (p n : Nat) {k : Nat} (hk : k < 64) :
    (w64 (a.toNat / 2 ^ p % 2 ^ n)).getLsbD k = (decide (k < n) && a.getLsbD (p + k)) := by
  rw [w64, BitVec.getLsbD_ofNat, decide_eq_true hk, Bool.true_and, Nat.testBit_mod_two_pow, Nat.testBit_div_two_pow, Nat.add_comm]
  rfl

/-- Bit k of a word sign-extended from its low n + 1 bits: its own, and from bit n on the bit n (R196). -/
theorem getLsbD_sextW (v : Word) {n k : Nat} (hk : k < 64) : (sextW v (n + 1)).getLsbD k = v.getLsbD (min k n) := by
  have hlow (j : Nat) (hj : j < n + 1) : (BitVec.ofNat (n + 1) v.toNat).getLsbD j = v.getLsbD j := by
    rw [BitVec.getLsbD_ofNat, decide_eq_true hj, Bool.true_and]; rfl
  rw [sextW, BitVec.getLsbD_signExtend, decide_eq_true hk, Bool.true_and]
  split
  · rw [hlow k ‹_›, min_eq_left (by omega)]
  · rw [BitVec.msb_eq_getLsbD_last, Nat.add_sub_cancel, hlow n (by omega), min_eq_right (by omega)]

/-- Bit k of a number of which bits [p + n - 1 : p] are replaced by the low n bits of a (R244). -/
theorem testBit_replaced (old a p n k : Nat) :
    (old % 2 ^ p + 2 ^ p * (a % 2 ^ n) + 2 ^ (p + n) * (old / 2 ^ (p + n))).testBit k =
      if p ≤ k ∧ k < p + n then a.testBit (k - p) else old.testBit k := by
  have hlow : old % 2 ^ p < 2 ^ p := Nat.mod_lt _ (Nat.two_pow_pos _)
  have hmid : a % 2 ^ n < 2 ^ n := Nat.mod_lt _ (Nat.two_pow_pos _)
  have hshape : old % 2 ^ p + 2 ^ p * (a % 2 ^ n) + 2 ^ (p + n) * (old / 2 ^ (p + n)) =
      2 ^ p * (2 ^ n * (old / 2 ^ (p + n)) + a % 2 ^ n) + old % 2 ^ p := by
    rw [Nat.mul_add, ← Nat.mul_assoc, ← Nat.pow_add]; omega
  rw [hshape, Nat.testBit_two_pow_mul_add _ hlow, Nat.testBit_two_pow_mul_add _ hmid]
  simp only [Nat.testBit_mod_two_pow, Nat.testBit_div_two_pow]
  by_cases hp : k < p
  · rw [if_pos hp, if_neg (by omega), decide_eq_true hp, Bool.true_and]
  · rw [if_neg hp]
    by_cases hn : k - p < n
    · rw [if_pos hn, if_pos (by omega), decide_eq_true hn, Bool.true_and]
    · rw [if_neg hn, if_neg (by omega)]; congr 1; omega

/-- Bit k of what ins gives (R244). -/
theorem getLsbD_insField (pos len : BitVec 6) (old a : Word) {k : Nat} (hk : k < 64) : (insField pos len old a).getLsbD k =
    if pos.toNat ≤ k ∧ k < pos.toNat + (len.toNat + 1) then a.getLsbD (k - pos.toNat) else old.getLsbD k := by
  rw [insField, w64, BitVec.getLsbD_ofNat, decide_eq_true hk, Bool.true_and, testBit_replaced]
  rfl

/-- Settles O9: ext takes a field, extended by zeros or by its top bit, and ins replaces one. -/
theorem fieldsAreExtractedAndInserted : Obligations.FieldsAreExtractedAndInserted := by
  intro pos len a old k hfit hk
  refine ⟨?_, ?_, ?_⟩
  · simp only [extField, Bool.false_eq_true, if_false, getLsbD_field _ _ _ hk, Nat.lt_succ_iff]
  · have hmin : min k len.toNat < len.toNat + 1 := by omega
    simp only [extField, if_true]
    rw [getLsbD_sextW _ hk, getLsbD_field _ _ _ (by omega), decide_eq_true hmin, Bool.true_and]
  · rw [getLsbD_insField _ _ _ _ hk, ← Nat.add_assoc]
    simp only [Nat.lt_succ_iff]

/-! ## Bit counts (R238) -/

/-- What clzNat counts among the low n bits of a number with one of them set: the bits above the highest. -/
theorem clzNat_of_set {a n : Nat} (h : ∃ k < n, a.testBit k = true) :
    ∃ k < n, a.testBit k = true ∧ (∀ j, k < j → j < n → a.testBit j = false) ∧ clzNat a n = n - 1 - k := by
  induction n with
  | zero => simp at h
  | succ n ih =>
    cases hb : a.testBit n with
    | true => exact ⟨n, by omega, hb, fun j h1 h2 => by omega, by simp [clzNat, hb]⟩
    | false =>
      obtain ⟨i, hi, hset⟩ := h
      have hin : i ≠ n := by rintro rfl; simp [hb] at hset
      obtain ⟨k, hk, hks, habove, hc⟩ := ih ⟨i, by omega, hset⟩
      refine ⟨k, by omega, hks, fun j h1 h2 => ?_, by simp [clzNat, hb, hc]; omega⟩
      rcases Nat.lt_succ_iff_lt_or_eq.1 h2 with h2 | rfl
      · exact habove j h1 h2
      · exact hb

/-- What ctzNat counts among the bits of a number from bit 64 - n to 63 with one of them set: the bits below the lowest. -/
theorem ctzNat_of_set {a n : Nat} (hn : n ≤ 64) (h : ∃ k < 64, 64 - n ≤ k ∧ a.testBit k = true) :
    ∃ k < 64, 64 - n ≤ k ∧ a.testBit k = true ∧ (∀ j, 64 - n ≤ j → j < k → a.testBit j = false) ∧
      ctzNat a n = k - (64 - n) := by
  induction n with
  | zero => obtain ⟨k, hk, hk', -⟩ := h; omega
  | succ n ih =>
    have hfirst : 64 - (n + 1) = 63 - n := by omega
    rw [hfirst] at h ⊢
    cases hb : a.testBit (63 - n) with
    | true => exact ⟨63 - n, by omega, le_rfl, hb, fun j h1 h2 => by omega, by simp [ctzNat, hb]⟩
    | false =>
      obtain ⟨i, hi, hin, hset⟩ := h
      have hne : i ≠ 63 - n := by rintro rfl; simp [hb] at hset
      obtain ⟨k, hk, hkn, hks, hbelow, hc⟩ := ih (by omega) ⟨i, hi, by omega, hset⟩
      refine ⟨k, hk, by omega, hks, fun j h1 h2 => ?_, by simp [ctzNat, hb, hc]; omega⟩
      rcases Nat.eq_or_lt_of_le h1 with rfl | h1
      · exact hb
      · exact hbelow j (by omega) h2

/-- popNat counts the set bits among the low n. -/
theorem popNat_eq_length (a n : Nat) : popNat a n = ((List.range n).filter fun k => a.testBit k).length := by
  induction n with
  | zero => rfl
  | succ n ih => cases hb : a.testBit n <;> simp [popNat, List.range_succ, List.filter_append, hb, ih]

/-- A word other than zero has a bit set. -/
theorem exists_set_bit {a : Word} (h : a ≠ 0) : ∃ k < 64, a.getLsbD k = true := by
  by_contra hno
  refine h (BitVec.eq_of_getLsbD_eq fun k hk => ?_)
  exact (Bool.eq_false_iff.2 fun hset => hno ⟨k, hk, hset⟩).trans BitVec.getLsbD_zero.symm

/-! ## The words of the bit counts -/

/-- A word of format R is that of a one-source form where its field b and its pop bit of b are zero. -/
theorem packR_toU_iff (maj m : BitVec 6) (o : RForm) : packR maj o.toU.toR m = packR maj o m ↔ o.b = 0 ∧ o.q = false := by
  obtain ⟨d, a, b, p, q⟩ := o
  refine ⟨fun h => ?_, fun ⟨hb, hq⟩ => by subst hb hq; rfl⟩
  have hform := congrArg unpackR h
  rw [unpackR_packR, unpackR_packR] at hform
  cases hform
  exact ⟨rfl, rfl⟩

/-- A word of major 0x01 whose raw reading is a one-source operation decodes to it where its field b and its second pop bit are zero
and its source is well formed (R222, R238). -/
theorem decode_of_unary {o : RForm} {m : BitVec 6} {i : Instr} (hraw : rawMinor01 (packR 0x01 o m) = some i)
    (henc : encode i = some (packR 0x01 o.toU.toR m)) (hwf : i.wf = srcOk o.a o.p) :
    Sys2Proof.decode .c (packR 0x01 o m) = if o.b = 0 ∧ o.q = false ∧ srcOk o.a o.p = true then some i else none := by
  have hrawC : rawOf .c (packR 0x01 o m) = some i := by
    change rawC _ = _
    unfold rawC; rw [packR_m]; exact hraw
  have hcond : (i.wf && encode i == some (packR 0x01 o m)) = true ↔ o.b = 0 ∧ o.q = false ∧ srcOk o.a o.p = true := by
    rw [henc, hwf, Bool.and_eq_true, beq_iff_eq, Option.some.injEq, packR_toU_iff, and_comm, and_assoc]
  simp only [Sys2Proof.decode, hrawC, hcond]

theorem decode_bitCount (d a b : BitVec 6) (p q : Bool) {m : BitVec 6} (hm : m = 0x15 ∨ m = 0x16 ∨ m = 0x17) :
    Sys2Proof.decode .c (packR 0x01 ⟨d, a, b, p, q⟩ m) =
      if b = 0 ∧ q = false ∧ srcOk a p = true then
        some (if m = 0x15 then .clz ⟨d, a, p⟩ else if m = 0x16 then .ctz ⟨d, a, p⟩ else .popc ⟨d, a, p⟩) else none := by
  rcases hm with rfl | rfl | rfl
  · exact decode_of_unary (by unfold rawMinor01; rw [packR_n, unpackR_packR]; rfl) rfl rfl
  · exact decode_of_unary (by unfold rawMinor01; rw [packR_n, unpackR_packR]; rfl) rfl rfl
  · exact decode_of_unary (by unfold rawMinor01; rw [packR_n, unpackR_packR]; rfl) rfl rfl

end Sys2Proof.Machine

/-!
Register operations (11_ins_scalar.md R233 to R244): each is the common form of R234 and R18 around an effect that reads its sources, writes
its destination and moves on.
-/

namespace Sys2Proof.Machine

open Sys2Proof.Safety

variable {s : State}

/-! ## Results and completion -/

/-- The meaning of a two-source register operation is the common form with the latency and the function of its row. -/
theorem exec_binary {i : Instr} {o : RForm} {lat : Nat} {f : Word → Word → Word} (h : binary i = some (o, lat, f)) (s : State) :
    exec i s = alu2 lat f o s := by
  unfold binary at h
  split at h
  all_goals cases h
  all_goals rfl

/-- The meaning of a one-source register operation is the common form with latency 1 and the function of its row. -/
theorem exec_unary {i : Instr} {d a : BitVec 6} {p : Bool} {f : Word → Word} (h : unary i = some (d, a, p, f)) (s : State) :
    exec i s = alu1 1 f d a p s := by
  unfold unary at h
  split at h
  all_goals cases h
  all_goals rfl

/-- Settles O6: a two-source operation that issues has the effect of its common form. -/
theorem registerOperationsGiveTheirResults : Obligations.RegisterOperationsGiveTheirResults := by
  intro i o lat f h s hs
  rw [exec_binary h, alu2, cIssue_next hs]

/-- A one-source operation that issues completes with the result of its row. -/
theorem unary_completes {i : Instr} {d a : BitVec 6} {p : Bool} {f : Word → Word} (h : unary i = some (d, a, p, f))
    (hs : Issues s [(a, p)] [] (some d)) :
    exec i s = .next ((s.readSrc a p).2.writeDst d 1 (f (s.readSrc a p).1)).advance := by
  rw [exec_unary h, alu1, cIssue_next hs]

/-- Settles O7: a one-source operation that issues has the effect of its common form, and movh that of its own. -/
theorem unaryOperationsGiveTheirResults : Obligations.UnaryOperationsGiveTheirResults :=
  ⟨fun _ _ _ _ _ h _ => unary_completes h, fun d m s hs => (exec_movh s d m).trans (cIssue_next hs _)⟩

/-- Settles O8: sel and ins have the effect that their common form surrounds. -/
theorem selAndInsReadTheirDestination : Obligations.SelAndInsReadTheirDestination :=
  ⟨fun o s hs => (exec_sel s o).trans (cIssue_next hs _), fun o s hs => (exec_ins s o).trans (cIssue_next hs _)⟩

/-- Settles O10: the counts by the bits that they run over, the words by their raw reading, and the completion by O7's. -/
theorem bitCountsMatchTheirTable : Obligations.BitCountsMatchTheirTable := by
  refine ⟨fun a ha => ?_, fun a ha => ?_, rfl, rfl, fun a => ?_, fun d a b p q m hm => decode_bitCount d a b p q hm,
    fun o s hs => ⟨unary_completes rfl hs, unary_completes rfl hs, unary_completes rfl hs⟩⟩
  · obtain ⟨k, hk, hset, habove, hc⟩ := clzNat_of_set (a := a.toNat) (exists_set_bit ha)
    refine ⟨k, hk, hset, fun j hj => ?_, by rw [clzW, hc]; rfl⟩
    by_cases h : j < 64
    · exact habove j hj h
    · exact BitVec.getLsbD_of_ge a j (by omega)
  · obtain ⟨i, hi, hbit⟩ := exists_set_bit ha
    obtain ⟨k, hk, -, hset, hbelow, hc⟩ := ctzNat_of_set (a := a.toNat) le_rfl ⟨i, hi, by omega, hbit⟩
    exact ⟨k, hk, hset, fun j hj => hbelow j (by omega) hj, by rw [ctzW, hc]; rfl⟩
  · rw [popW, popNat_eq_length]; rfl

/-! ## Frames -/

/-- From s to t nothing has changed but the queues that srcs pop, the destination dst, pc and the counter of free values. -/
structure Touches (s t : State) (srcs : List Src) (dst : Option (BitVec 6)) : Prop where
  core : SameCore s t srcs dst
  rest : SameRest s t

theorem touches_refl (s : State) : Touches s s [] none := ⟨sameCore_refl s, sameRest_refl s⟩

namespace Touches

variable {t : State} {srcs : List Src} {dst : Option (BitVec 6)}

/-- A step that touches no queue and no destination adds nothing. -/
theorem inert {u : State} (h : Touches s t srcs dst) (hc : SameCore t u [] none) (hr : SameRest t u) : Touches s u srcs dst :=
  ⟨sameCore_trans h.rest.turn h.core hc (fun _ => id) (by simp) (fun _ => id) (by simp), sameRest_trans h.rest hr⟩

theorem readSrc (h : Touches s t srcs dst) (f : BitVec 6) (pop : Bool) :
    Touches s (t.readSrc f pop).2 (srcs ++ [(f, pop)]) dst :=
  ⟨sameCore_trans h.rest.turn h.core (readSrc_sameCore t f pop) (fun _ => List.mem_append_left _) (fun _ => List.mem_append_right _)
    (fun _ => id) (by simp), sameRest_trans h.rest (readSrc_sameRest t f pop)⟩

theorem readDst (h : Touches s t srcs dst) (d : BitVec 6) : Touches s (t.readDst d).2 srcs dst :=
  h.inert (readDst_sameCore t d) (readDst_sameRest t d)

theorem writeDst (h : Touches s t srcs none) (d : BitVec 6) (lat : Nat) (v : Word) : Touches s (t.writeDst d lat v) srcs (some d) :=
  ⟨sameCore_trans h.rest.turn h.core (writeDst_sameCore t d lat v) (fun _ => id) (by simp) (by simp) (fun _ => id),
    sameRest_trans h.rest (writeDst_sameRest t d lat v)⟩

theorem advance (h : Touches s t srcs dst) : Touches s t.advance srcs dst := h.inert (advance_sameCore t) (advance_sameRest t)

end Touches

/-- Every instruction of registerOnly is the common form of R234 and R18 around an effect that touches only its operands. -/
theorem registerOnly_cIssue {i : Instr} {srcs : List Src} {regs : List (BitVec 6)} {dst : Option (BitVec 6)}
    (h : registerOnly i = some (srcs, regs, dst)) :
    ∃ k : State → State, (∀ s, exec i s = cIssue s srcs regs dst k) ∧ ∀ s, Touches s (k s) srcs dst := by
  unfold registerOnly at h
  split at h
  next _ _ o lat f hb =>
    cases h
    exact ⟨_, exec_binary hb, fun s => (((touches_refl s).readSrc o.a o.p).readSrc o.b o.q).writeDst .. |>.advance⟩
  next _ _ d a p f hu _ =>
    cases h
    exact ⟨_, exec_unary hu, fun s => ((touches_refl s).readSrc a p).writeDst .. |>.advance⟩
  next =>
    cases i with
    | sel o =>
      cases h
      exact ⟨_, fun s => exec_sel s o,
        fun s => (((touches_refl s).readSrc o.a o.p).readSrc o.b o.q).readDst o.d |>.writeDst .. |>.advance⟩
    | ins o =>
      cases h
      exact ⟨_, fun s => exec_ins s o, fun s => ((touches_refl s).readSrc o.a o.p).readDst o.d |>.writeDst .. |>.advance⟩
    | movh d m => cases h; exact ⟨_, fun s => exec_movh s d m, fun s => (touches_refl s).writeDst .. |>.advance⟩
    | csrr d n => cases h; exact ⟨_, fun s => exec_csrr s d n, fun s => (touches_refl s).writeDst .. |>.advance⟩
    | nop m => cases h; exact ⟨_, fun s => exec_nop s m, fun s => (touches_refl s).advance⟩
    | qalign =>
      cases h
      exact ⟨_, exec_qalign,
        fun s => (touches_refl s).inert (onCtl_sameCore s _ none rfl fun _ _ => rfl) (onCtl_sameRest s _) |>.advance⟩
    | _ => cases h

/-- Settles O14: where an instruction of registerOnly issues, it has the effect that registerOnly_cIssue gives. -/
theorem registerInstructionsLeaveTheRestAlone : Obligations.RegisterInstructionsLeaveTheRestAlone := by
  intro i srcs regs dst h s hs
  obtain ⟨k, hexec, hk⟩ := registerOnly_cIssue h
  exact ⟨k s, (hexec s).trans (cIssue_next hs k), (hk s).core, (hk s).rest⟩

/-! ## The order of the checks (R234) -/

section

variable (s : State) (srcs : List Src) (regs : List (BitVec 6)) (dst : Option (BitVec 6))

/-- Check 2 of R234 fails: a source is bound to no readable queue, or the destination to no feed side. -/
def Unbound : Prop := (∃ x ∈ srcs, s.srcBound x.1 = false) ∨ ∃ d, dst = some d ∧ s.dstBound d = false
/-- Check 3 of R234 fails: a queue is short of an entry, or the feed side is full. -/
def Short : Prop := (∃ x ∈ srcs, s.srcFull srcs x.1 = false) ∨ ∃ d, dst = some d ∧ s.dstRoom d = false
/-- Check 4 of R234 fails: in checked mode a register named is in a shadow or in flight. -/
def InShadow : Prop :=
  s.here.cr.tcheck = true ∧ ∃ f ∈ srcs.map Prod.fst ++ regs ++ dst.toList, s.here.shadowed f = true

theorem unbound_iff : (!(srcs.all fun x => s.srcBound x.1) || !(dst.toList.all s.dstBound)) = true ↔ Unbound s srcs dst := by
  simp [Unbound]
theorem short_iff :
    (!(srcs.all fun x => s.srcFull srcs x.1) || !(dst.toList.all s.dstRoom)) = true ↔ Short s srcs dst := by
  simp [Short]
theorem inShadow_iff :
    (s.here.cr.tcheck && (srcs.map Prod.fst ++ regs ++ dst.toList).any s.here.shadowed) = true ↔ InShadow s srcs regs dst := by
  rw [Bool.and_eq_true, List.any_eq_true, InShadow]

open Classical in
/-- The verdict of the checks of R234 is that of the first that fails. -/
theorem cCheck_eq : s.cCheck srcs regs dst =
    if Unbound s srcs dst then .trap 0x4B else if Short s srcs dst then .stall
    else if InShadow s srcs regs dst then .trap 0x24 else .ok := by
  simp only [State.cCheck, unbound_iff, short_iff, inShadow_iff]

end

section

variable {srcs : List Src} {regs : List (BitVec 6)} {dst : Option (BitVec 6)} (k : State → State)

theorem cIssue_unbound (hu : Unbound s srcs dst) : cIssue s srcs regs dst k = .next (s.trapAt 0x4B 0) := by
  rw [cIssue, cCheck_eq, if_pos hu]

theorem cIssue_short (hu : ¬Unbound s srcs dst) (hs : Short s srcs dst) :
    cIssue s srcs regs dst k = .next (s.stalled true) := by
  rw [cIssue, cCheck_eq, if_neg hu, if_pos hs]

theorem cIssue_inShadow (hu : ¬Unbound s srcs dst) (hs : ¬Short s srcs dst) (hc : InShadow s srcs regs dst) :
    cIssue s srcs regs dst k = .next (s.trapAt 0x24 0) := by
  rw [cIssue, cCheck_eq, if_neg hu, if_neg hs, if_pos hc]

theorem cIssue_last (hu : ¬Unbound s srcs dst) (hs : ¬Short s srcs dst) (hc : ¬InShadow s srcs regs dst)
    (hp : s.here.c.pc = 16383) : cIssue s srcs regs dst k = .next (s.trapAt 0x22 0) := by
  have hn : s.hasNext = false := by simp [State.hasNext, hp]
  simp only [cIssue, cCheck_eq, if_neg hu, if_neg hs, if_neg hc, hn, Bool.false_eq_true, if_false]

end

/-- Settles O13: the common form of R234 answers by the first check that fails, and by the place of pc where none does. -/
theorem checksOfR234ComeInOrder : Obligations.ChecksOfR234ComeInOrder := by
  intro i srcs regs dst h s
  obtain ⟨k, hexec, -⟩ := registerOnly_cIssue h
  rw [hexec s]
  exact ⟨cIssue_unbound k, cIssue_short k, cIssue_inShadow k, cIssue_last k⟩

end Sys2Proof.Machine

/-!
Control transfer and channels (11_ins_scalar.md R245 to R252): the target that a row gives or the fall through, and the binding or level of a
channel.
-/

namespace Sys2Proof.Machine

open Sys2Proof.Safety

variable {s : State}

/-! ## Control transfer (R245 to R248) -/

/-- br goes to its target where its condition holds and falls through where it does not (R245). -/
theorem br_outcome {o : BForm} (h : Ready s [(o.a, o.p)] [] none) : exec (.br o) s =
    if brTaken o.c (s.readSrc o.a o.p).1 then s.transfer (s.target o.n.toInt) fun _ => (s.readSrc o.a o.p).2
    else s.fall fun _ => (s.readSrc o.a o.p).2 := by
  rw [exec_br, execBr, cJump_next h]

/-- loop goes to its target where its register does not hold 1 and falls through where it does (R246). -/
theorem loop_outcome {r : BitVec 6} {n : BitVec 15} (h : Ready s [(r, false)] [] (some r)) : exec (.loop r n) s =
    if (s.readSrc r false).1 = 1 then s.fall fun _ => (s.readSrc r false).2.writeDst r 1 0
    else s.transfer (s.target n.toInt) fun _ => (s.readSrc r false).2.writeDst r 1 ((s.readSrc r false).1 - 1) := by
  rw [exec_loop, execLoop, cJump_next h]
  by_cases hx : (s.readSrc r false).1 = 1
  · simp [hx]
  · rw [if_neg hx]; exact if_pos (sub_ne_zero.2 hx)

/-- jmp goes to its target (R247). -/
theorem jmp_outcome {n : BitVec 26} (h : Ready s [] [] none) : exec (.jmp n) s = s.transfer (s.target n.toInt) id := by
  rw [exec_jmp, execJmp, cJump_next h]

/-- jal goes to its target and leaves the pc behind it in x31 (R247). -/
theorem jal_outcome {n : BitVec 26} (h : Ready s [] [] (some 31)) : exec (.jal n) s =
    s.transfer (s.target n.toInt) fun t => t.writeDst 31 1 (w64 (s.here.c.pc.toNat + 1)) := by
  rw [exec_jal, execJal, cJump_next h]

/-- jr goes to what its source holds (R247). -/
theorem jr_outcome {o : OForm} (h : Ready s [(o.a, o.p)] [] none) : exec (.jr o) s =
    s.transfer (s.readSrc o.a o.p).1.toNat fun _ => (s.readSrc o.a o.p).2 := by
  rw [exec_jr, execJr, cJump_next h]

/-- Settles O16, transfer by transfer: each is its row's choice between a transfer, which tests its target, and falling through. -/
theorem branchesTransferOrFallThrough : Obligations.BranchesTransferOrFallThrough := by
  refine ⟨fun o s h => ⟨fun hc h0 h1 => ?_, fun hc ho => ?_, fun hc hn => ?_⟩,
    fun r n s h => ⟨fun hx h0 h1 => ?_, fun hx ho => ?_, fun hx hn => ?_⟩,
    fun n s => ⟨fun h => ⟨fun h0 h1 => (jmp_outcome h).trans (transfer_next h0 h1 _), fun ho => (jmp_outcome h).trans (transfer_out ho _)⟩,
      fun h => ⟨fun h0 h1 => (jal_outcome h).trans (transfer_next h0 h1 _), fun ho => (jal_outcome h).trans (transfer_out ho _)⟩⟩,
    fun o s h => ⟨fun h1 => ?_, fun ho => ?_⟩, fun s t ht => ?_⟩
  · rw [br_outcome h, if_pos hc]; exact transfer_next h0 h1 _
  · rw [br_outcome h, if_pos hc]; exact transfer_out ho _
  · rw [br_outcome h, if_neg (ne_true_of_eq_false hc)]; exact fall_next hn _
  · rw [loop_outcome h, if_neg hx]; exact transfer_next h0 h1 _
  · rw [loop_outcome h, if_neg hx]; exact transfer_out ho _
  · rw [loop_outcome h, if_pos hx]; exact fall_next hn _
  · exact (jr_outcome h).trans (transfer_next (by omega) (by omega) _)
  · exact (jr_outcome h).trans (transfer_out (.inr (by omega)) _)
  · simp [State.advance, State.goto, Nat.mod_eq_of_lt ht]

/-! ## Channels (R249 to R252) -/

theorem unbindChan_unbound (s : State) (n : Nat) (f : BitVec 6) : (s.unbindChan n (fieldNo f)).queueOf n f = none := by
  simp [State.unbindChan, State.queueOf]

theorem bindChan_bound (s : State) (d : BitVec 6) (q : Queue) : (s.bindChan d q).queueOf s.turn.core d = some q := by
  unfold State.bindChan State.queueOf
  cases q <;> simp

/-- Settles O17: past its own checks each has the effect of its common form. -/
theorem channelInstructionsActOnTheTable : Obligations.ChannelInstructionsActOnTheTable := by
  refine ⟨fun d k sel s hn hb hp => ⟨?_, bindChan_bound ..⟩, fun a s hn hp => ⟨?_, unbindChan_unbound ..⟩,
    fun d a q s hs hq => ?_⟩
  · simp [execChbind, hb, hp, cIssue_next (issues_none hn)]
  · simp [execChdrop, hp, cIssue_next (issues_none hn)]
  · rw [exec_chlvl, execChlvl, hq, cIssue_next hs, State.level, hq]
    cases q <;> rfl

end Sys2Proof.Machine

/-!
Scalar accesses and waits (12_ins_memory_sync.md R256 to R260, R270 to R280; 15_ins_fabric_system.md R361): what the common form of an
access answers, check by check, and the waits on words, counters and sync words.
-/

namespace Sys2Proof.Machine

open Sys2Proof.Safety

/-! ## The common form of an access (R256, R257, R260) -/

section

variable {s : State} {srcs : List Src} {regs : List (BitVec 6)} {ds : Option (BitVec 6)} {lq sq posted : Bool}
  {chk : List Word → State → Except MemFault (Loc × Nat × Nat)} {mk : List Word → Loc → State → Access}

/-- A destination that is a channel may not be in flight (R256). -/
theorem cAccessIssue_channel (h : ∃ d, ds = some d ∧ chanField d = true) :
    cAccessIssue s srcs regs ds lq sq posted chk mk = .next (s.trapAt 0x4B 0) := by
  obtain ⟨d, rfl, hd⟩ := h
  simp [cAccessIssue, hd]

theorem not_any_chanField (h : ∀ d, ds = some d → chanField d = false) : ¬ds.toList.any chanField = true := by
  simpa using h

variable (hd : ∀ d, ds = some d → chanField d = false) (hi : Issues s srcs regs ds)

include hd hi

/-- An access whose address fails a check traps in the state before it read anything (R257). -/
theorem cAccessIssue_faulty {e : MemFault} (hc : chk (reads s (srcs ++ regs.map (·, false))).1 s = .error e) :
    cAccessIssue s srcs regs ds lq sq posted chk mk = .next (s.memTrap e) := by
  rw [reads] at hc
  rw [cAccessIssue, if_neg (not_any_chanField hd), cIssue_next hi]
  simp only [hc]

/-- An access that passes its checks stalls where a queue that it takes an entry of is full (R260). -/
theorem cAccessIssue_full {r : Loc × Nat × Nat} (hc : chk (reads s (srcs ++ regs.map (·, false))).1 s = .ok r)
    (hq : s.queueRoom lq sq = false) : cAccessIssue s srcs regs ds lq sq posted chk mk = .next (s.stalled true) := by
  rw [reads] at hc
  rw [cAccessIssue, if_neg (not_any_chanField hd), cIssue_next hi]
  simp only [hc, hq, Bool.false_eq_true, if_false]

/-- An access that passes its checks and finds room enters its queues; in warn mode its read counts what it meets (R100, R260). -/
theorem cAccessIssue_completes {v : List Word × State} {l : Loc} {w rd : Nat} (hv : reads s (srcs ++ regs.map (·, false)) = v)
    (hc : chk v.1 s = .ok (l, w, rd)) (hq : s.queueRoom lq sq = true) : cAccessIssue s srcs regs ds lq sq posted chk mk =
      .next ((if rd = 1 then v.2.warn l w else v.2).commitC (mk v.1 l s) posted).2.advance := by
  subst hv
  rw [reads] at hc ⊢
  rw [cAccessIssue, if_neg (not_any_chanField hd), cIssue_next hi]
  simp only [hc, hq, if_true]

end

section

variable {s : State}

/-- Settles O18: a scalar access that passes its checks completes by the common form, and warns where its row reads. -/
theorem scalarAccessesEnterTheirQueues : Obligations.ScalarAccessesEnterTheirQueues := by
  intro i f h s l rd hi hd v hc hq
  obtain ⟨-, rfl⟩ := chk_rd hc
  rw [scalarAccess_form i f h, cAccessIssue_completes hd hi rfl hc hq]
  cases f.need.reads <;> rfl

/-! ## Failed checks and full queues -/

variable {ea : Word} {al w : Nat} {n : Need}

theorem chk_nonCanonical (h : 2 ^ 52 ≤ ea.toNat) : s.chk ea al w n = .error (causeNonCanonical, ea.toNat) := by
  rw [State.chk, State.memCheck, if_pos h]

theorem chk_misaligned (h : ea.toNat < 2 ^ 52) (ha : ea.toNat % al ≠ 0) :
    s.chk ea al w n = .error (causeMisaligned, ea.toNat) := by
  rw [State.chk, State.memCheck, if_neg (Nat.not_le.2 h), if_pos ha]

/-- A failed check is nothing but its trap, unless a table entry was absent or a block uncorrectable (R419, R464). -/
theorem memTrap_plain {c : BitVec 8} {a : Nat} (h1 : c ≠ 0x01) (h8 : c ≠ 0x08) : s.memTrap (c, a) = s.trapAt c a := by
  simp only [State.memTrap, State.countBad, State.noteCause, h1, h8, or_self, if_false, ite_self]

theorem queueRoom_full {lq sq : Bool}
    (h : (lq = true ∧ 32 ≤ s.loadsOut s.turn.core) ∨ (sq = true ∧ 32 ≤ s.storesOut s.turn.core)) : s.queueRoom lq sq = false := by
  rcases h with ⟨rfl, h⟩ | ⟨rfl, h⟩
  · simp [State.queueRoom, Nat.not_lt.2 h]
  · simp [State.queueRoom, Nat.not_lt.2 h]

/-- Settles O19: the common form answers a channel, a failed check and a full queue in that order. -/
theorem faultyAccessesTrapAndFullQueuesStall : Obligations.FaultyAccessesTrapAndFullQueuesStall := by
  intro i f h s
  rw [scalarAccess_form i f h s]
  refine ⟨cAccessIssue_channel, fun hd hi => ?_⟩
  refine ⟨fun hea => ?_, fun hea hal => ?_, fun e he => cAccessIssue_faulty hd hi he,
    fun r hr hq => cAccessIssue_full hd hi hr (queueRoom_full hq)⟩
  · rw [cAccessIssue_faulty hd hi (chk_nonCanonical hea), memTrap_plain (by decide) (by decide)]
  · rw [cAccessIssue_faulty hd hi (chk_misaligned hea hal), memTrap_plain (by decide) (by decide)]

end

/-! ## Entering a wait, and going on (R258, R273 to R275, R278) -/

section

variable {s : State} {l : Loc} {w : Nat}

/-- waddr of a register that does not wait yet enters its wait with an access at the word (R275). -/
theorem doWaddr_enters {o : RForm} (hd : chanField o.d = false) (hw : s.inWait = none) (hq : s.queueRoom true false = true)
    (hi : Issues s [(o.a, o.p), (o.b, o.q)] [] (some o.d)) :
    let a := s.readSrc o.a o.p
    let b := a.2.readSrc o.b o.q
    let t := (({ s with free := b.2.free } : State).warn l w).commitC
      (s.cAccess l a.1.toNat (.waddr w (w == 4) b.1 none) 0 true false 9) false
    s.waitCheck a.1 w = .ok (l, w, 1) → doWaddr w o s = .next (t.2.enterWait t.1) := by
  intro a b t hc
  rw [doWaddr]
  simp only [hd, hw, cIssue_next hi, Bool.false_eq_true, if_false]
  simp only [t, a, b, hc, hq, if_true]

/-- sqwait that does not wait yet enters its wait with an access at the counter (R273). -/
theorem sqwait_enters {o : SForm} (hw : s.inWait = none) (hi : Issues s [(o.a, o.p), (o.b, o.q)] [] none) :
    let a := s.readSrc o.a o.p
    let b := a.2.readSrc o.b o.q
    let t := (({ s with free := b.2.free } : State).warn l 8).commitC (s.cAccess l a.1.toNat (.sqwait b.1) 0 false false 9) false
    s.waitCheck a.1 8 = .ok (l, 8, 1) → exec (.sqwait o) s = .next (t.2.enterWait t.1) := by
  intro a b t hc
  rw [exec_sqwait, execSqwait]
  simp only [hw, cIssue_next hi]
  simp only [t, a, b, hc]

/-- A wait that holds its value goes on with it (R258). -/
theorem resumeWait_value {x : CWait} {v : Word} (hf : x.fault = none) (hv : x.value = some v) (k : Word → State → State) :
    s.resumeWait x k = .next (k v s) := by
  simp only [State.resumeWait, hf, hv]

/-- waddr whose value has come writes it and makes its pops (R233, R275). -/
theorem doWaddr_resumes {o : RForm} {x : CWait} {v : Word} (hd : chanField o.d = false) (hw : s.inWait = some x)
    (hf : x.fault = none) (hv : x.value = some v) :
    doWaddr w o s = .next ((s.popSrcs [(o.a, o.p), (o.b, o.q)]).writeDst o.d 1 v).advance := by
  simp only [doWaddr, hd, hw, Bool.false_eq_true, if_false, resumeWait_value hf hv]

theorem sqwait_resumes {o : SForm} {x : CWait} {v : Word} (hw : s.inWait = some x) (hf : x.fault = none) (hv : x.value = some v) :
    exec (.sqwait o) s = .next (s.popSrcs [(o.a, o.p), (o.b, o.q)]).advance := by
  simp only [exec_sqwait, execSqwait, hw, resumeWait_value hf hv]

/-- waddr of a channel bound to a wake queue arms a watch, which takes no queue entry (R278). -/
theorem doWaddr_arms {o : RForm} {q : Nat} (hd : chanField o.d = true) (hq : s.queueOf s.turn.core o.d = some (.wakeQ q))
    (hn : s.watchesOf s.turn.core < 16) (hi : Issues s [(o.a, o.p), (o.b, o.q)] [] none) :
    let v := reads s [(o.a, o.p), (o.b, o.q)]
    s.waitCheck (v.1.getD 0 0) w = .ok (l, w, 1) → doWaddr w o s = .next ((v.2.warn l w).commitC
      (s.cAccess l (v.1.getD 0 0).toNat (.waddr w (w == 4) (v.1.getD 1 0) (some q)) 0 false false 9) false).2.advance := by
  intro v hc
  simp only [doWaddr, hd, hq, if_true, if_neg (Nat.not_le.2 hn)]
  exact cAccessIssue_completes (v := v) (rd := 1) (by simp) hi rfl hc rfl

end

/-! ## Waits at their point of coherence (R258, R273, R275) -/

section

variable {s : State} {id : Nat} {a : Access}

/-- A read of the control stream meets no invalid word at its point of coherence: its own check has met them (R100). -/
theorem uninit_of_control (hag : a.agent = .c) (w : Nat) : s.uninit a w = (false, s) := by
  unfold State.uninit
  split
  · simp [hag, Agent.engine]
  · rfl

/-- A read of the control stream at a place that can be read, which is no matter for cells, is made there. -/
theorem readAt_of_control (hag : a.agent = .c) (hp : pocOf s.placing a.loc ≠ 20000) (hf : s.pocFault a.loc = none) (w : Nat)
    (k : Blk → State → State) : s.readAt id a w false k = k (s.blkSeen a) s := by
  rw [State.readAt, if_neg hp, hf, uninit_of_control hag]
  rfl

variable (ha : s.accAt id = some a) (hag : a.agent = .c) (hr : a.orig = none) (hp : pocOf s.placing a.loc ≠ 20000)
  (hf : s.pocFault a.loc = none)

include ha hag hr hp hf

theorem perform_waddr {w : Nat} {sx : Bool} {b : Word} (hop : a.op = .waddr w sx b none) :
    s.perform id = s.waitAt id a w sx b false (s.blkSeen a) := by
  rw [perform_here ha hr (by simp [hop]), State.performHere, ha]
  dsimp only
  rw [hop]
  exact readAt_of_control hag hp hf w _

/-- A wait on a counter that has reached its threshold is answered (R273). -/
theorem perform_sqwait_reached {b : Word} (hop : a.op = .sqwait b) (hb : b.toNat ≤ (s.blkSeen a).nat (inBlk a.loc) 8) :
    s.perform id = s.finish id .none := by
  rw [perform_here ha hr (by simp [hop]), State.performHere, ha]
  dsimp only
  rw [hop]
  exact (readAt_of_control hag hp hf 8 _).trans (if_pos hb)

/-- A wait on a word that differs is answered with it (R275). -/
theorem perform_waddr_differs {w : Nat} {sx : Bool} {b : Word} (hop : a.op = .waddr w sx b none)
    (hx : (s.blkSeen a).nat (inBlk a.loc) w ≠ b.toNat % 2 ^ (8 * w)) :
    s.perform id = s.finish id (.val (extW sx w ((s.blkSeen a).nat (inBlk a.loc) w))) := by
  rw [perform_waddr ha hag hr hp hf hop]
  exact if_pos (.inl hx)

/-- A wait on a word that agrees joins the waiters of its point of coherence where they have room (R275). -/
theorem perform_waddr_parks {w : Nat} {sx : Bool} {b : Word} (hop : a.op = .waddr w sx b none)
    (hx : (s.blkSeen a).nat (inBlk a.loc) w = b.toNat % 2 ^ (8 * w))
    (hroom : (mget [] s.mem.waiters (pocOf s.placing a.loc)).length < waiterRoom (pocOf s.placing a.loc)) :
    ((s.perform id).accAt id).map Access.stage = some .parked ∧
    mget [] (s.perform id).mem.waiters (pocOf s.placing a.loc) = mget [] s.mem.waiters (pocOf s.placing a.loc) ++ [id] := by
  have hpark : ¬((s.blkSeen a).nat (inBlk a.loc) w ≠ b.toNat % 2 ^ (8 * w) ∨
      waiterRoom (pocOf s.placing a.loc) ≤ (mget [] s.mem.waiters (pocOf s.placing a.loc)).length) :=
    not_or.2 ⟨not_not.2 hx, Nat.not_le.2 hroom⟩
  rw [perform_waddr ha hag hr hp hf hop, State.waitAt, if_neg hpark]
  exact ⟨by rw [onMem_accAt, accAt_onAcc_same, ha]; rfl, mget_mset_same ..⟩

end

/-! ## Sync words (R279, R280) -/

section

variable {s : State} {o : SForm} {l : Loc}

theorem swinit_completes (hi : Issues s [(o.a, o.p), (o.b, o.q)] [] none) (hq : s.queueRoom false true = true) :
    let v := reads s [(o.a, o.p), (o.b, o.q)]
    s.syncCheck (v.1.getD 0 0) false = .ok (l, 16, 0) →
    exec (.swinit o) s = .next (v.2.commitC
      (s.cAccess l (v.1.getD 0 0).toNat (.swinit ((v.1.getD 1 0).setWidth 32)) 0 false true 9) true).2.advance := by
  intro v hc
  rw [exec_swinit, execSwinit]
  exact cAccessIssue_completes (v := v) (rd := 0) (by simp) hi rfl hc hq

/-- The state t with the read of a sync word at l counted, where C in state s is only now issuing it (R100, R280). -/
def State.countSwait (s t : State) (l : Loc) : State := if s.inWait = none then t.warn l 16 else t

/-- What swait does at a sync word that it may read: the failed flag is tested before the generation (R280). -/
theorem swait_outcome (hi : Issues s [(o.a, o.p), (o.b, o.q)] [] none) :
    let a := s.readSrc o.a o.p
    let b := a.2.readSrc o.b o.q
    s.syncCheck a.1 true = .ok (l, 16, 1) → exec (.swait o) s = .next (
      if s.syncWord s.turn.core a.1.toNat 3 / 4 % 2 = 1 then (s.countSwait s l).trapAt 0x46 a.1.toNat
      else if s.genReached s.turn.core a.1.toNat b.1 = true then (s.countSwait b.2 l).advance
      else (s.countSwait s l).holdSwait) := by
  intro a b hc
  rw [exec_swait, execSwait, cIssue_next hi]
  simp only [a, b, hc, State.countSwait]
  cases s.inWait <;> rfl

end

/-- Settles O23, clause by clause: the waits at their issue, at their point of coherence and when their value has come, and sync words. -/
theorem waitsOnWordsAndSyncWordsComplete : Obligations.WaitsOnWordsAndSyncWordsComplete := by
  refine ⟨fun o l s hd hw hq hi => ⟨doWaddr_enters hd hw hq hi, doWaddr_enters hd hw hq hi⟩, fun o l s => sqwait_enters,
    fun s id a ha hag hr hp hf =>
      ⟨fun w sx b hop => ⟨perform_waddr_differs ha hag hr hp hf hop, perform_waddr_parks ha hag hr hp hf hop⟩,
        fun b => perform_sqwait_reached ha hag hr hp hf⟩,
    fun o w v s hd hw hf hv => ⟨doWaddr_resumes hd hw hf hv, doWaddr_resumes hd hw hf hv⟩, fun o w v s => sqwait_resumes,
    fun o q l s hd hq hn hi => ⟨doWaddr_arms hd hq hn hi, doWaddr_arms hd hq hn hi⟩, fun o l s => swinit_completes,
    fun o l s hi => ?_⟩
  intro a b hc read u
  refine ⟨fun hflag => ⟨fun hgen => ?_, fun hgen => ?_⟩, fun hflag => ?_⟩
  · rw [swait_outcome hi hc, if_neg (ne_of_eq_of_ne hflag zero_ne_one), if_pos hgen]; rfl
  · rw [swait_outcome hi hc, if_neg (ne_of_eq_of_ne hflag zero_ne_one), if_neg (ne_true_of_eq_false hgen)]; rfl
  · rw [swait_outcome hi hc, if_pos hflag]; rfl

end Sys2Proof.Machine

/-!
The A micro-orders as they issue (13_ins_vector.md R285 to R288): what reading their operands leaves alone, and what the one effect that
they share makes of them.
-/

namespace Sys2Proof.Machine

open Sys2Proof.Safety

/-! ## The engine that takes its tokens (R34, R285) -/

@[simp] theorem takePops_eng (c : Core) (e d : Stream) (k : BitVec 4) : (c.takePops e k).eng d = c.eng d := by
  have link (v : Vecs) (l : Bool) : (v.linkPop e l).engs = v.engs := by cases e <;> cases l <;> rfl
  simp only [Core.takePops, Core.eng]
  split <;> split <;> simp only [link]

/-- Taking what stands before it changes no engine but for that. -/
theorem takePrefix_eng (c : Core) (e : Stream) : (c.takePrefix e).eng e = { c.eng e with prefx := none } := by
  unfold Core.takePrefix
  split
  · rename_i h; rw [← h]
  · exact eng_onEng_same ..

theorem taken_eng (s : State) (k : BitVec 4) : (taken s k).eng = { s.eng with prefx := none } := by
  simp only [taken, State.eng, onHere_here, onHere_turn, takePops_eng, takePrefix_eng]

theorem popped_eng (s : State) (k : BitVec 4) : (s.popped k).eng = s.eng := by
  simp only [State.popped, State.eng, onHere_here, onHere_turn, takePops_eng]

@[simp] theorem onIn_eng (c : Core) (p : Nat) (f : InPort → InPort) (e : Stream) : (c.onIn p f).eng e = c.eng e := rfl

/-! ## What reading operands leaves alone -/

/-- A state that reading operands of A may leave: the ports of the core stand elsewhere, free values are drawn, and all else is as before. -/
structure OperandsRead (s t : State) : Prop where
  here : t.here = { s.here with ve := { s.here.ve with ins := t.here.ve.ins } }
  others : ∀ n, n ≠ s.turn.core → t.coreAt n = s.coreAt n
  mem : t.mem = s.mem
  dies : t.dies = s.dies
  accs : t.accs = s.accs
  tasks : t.tasks = s.tasks
  turn : t.turn = s.turn
  beat : t.beat = s.beat
  nextId : t.nextId = s.nextId

namespace OperandsRead

theorem refl (s : State) : OperandsRead s s := ⟨rfl, fun _ _ => rfl, rfl, rfl, rfl, rfl, rfl, rfl, rfl⟩

theorem trans {s t u : State} (h : OperandsRead s t) (g : OperandsRead t u) : OperandsRead s u where
  here := by rw [g.here, h.here]
  others n hn := (g.others n (h.turn ▸ hn)).trans (h.others n hn)
  mem := g.mem.trans h.mem
  dies := g.dies.trans h.dies
  accs := g.accs.trans h.accs
  tasks := g.tasks.trans h.tasks
  turn := g.turn.trans h.turn
  beat := g.beat.trans h.beat
  nextId := g.nextId.trans h.nextId

theorem free (s : State) (n : Nat) : OperandsRead s { s with free := n } := ⟨rfl, fun _ _ => rfl, rfl, rfl, rfl, rfl, rfl, rfl, rfl⟩

theorem pick {α : Type} (s : State) (old : α) (new : Option α) : OperandsRead s (s.pick old new).2 := by
  cases new
  · exact refl s
  · exact free s _

theorem aReg (s : State) (r : Nat) : OperandsRead s (s.aReg r).2 := pick ..

theorem aQs (s : State) : OperandsRead s s.aQs.2 := pick ..

theorem aGuard (s : State) (g : Nat) : OperandsRead s (s.aGuard g).2 := by
  unfold State.aGuard
  split
  · exact refl s
  · exact pick ..

theorem guardOn (s : State) (g : BitVec 3) (sense : Bool) : OperandsRead s (s.guardOn g sense).2 := by
  unfold State.guardOn
  split
  · exact refl s
  · exact aGuard ..

theorem takeSrc (s : State) (c : ASrc) : OperandsRead s (s.takeSrc c).2 := by
  unfold State.takeSrc
  split
  · exact aReg ..
  · exact ⟨by simp [Core.onIn], fun n hn => onHere_other s _ n hn, rfl, rfl, rfl, rfl, rfl, rfl, rfl⟩

theorem takeSrcs (s : State) (l : List ASrc) : OperandsRead s (s.takeSrcs l).2 := by
  induction l generalizing s with
  | nil => exact refl s
  | cons c l ih => exact (takeSrc s c).trans (ih _)

theorem aInputs (s : State) (l : List ASrc) (u : AUse) : OperandsRead s (s.aInputs l u).2.2.2 := by
  cases u with
  | plain => exact takeSrcs s l
  | readsQs => exact (takeSrcs s l).trans (aQs _)
  | takesFree => exact (takeSrcs s l).trans (free ..)

end OperandsRead

/-! ## What operands are read from -/

/-- States that show A the same operands: the rotating base, the registers and the writes due to them, the ports, and the free values. -/
structure SameOperands (s t : State) : Prop where
  rb : s.eng.rb = t.eng.rb
  v : s.here.ve.v = t.here.ve.v
  g : s.here.ve.g = t.here.ve.g
  qs : s.here.ve.qs = t.here.ve.qs
  jobs : s.here.ve.jobs = t.here.ve.jobs
  ins : s.here.ve.ins = t.here.ve.ins
  free : s.free = t.free

theorem popped_sameOperands (s : State) (k : BitVec 4) : SameOperands (s.popped k) (taken s k) where
  rb := by rw [popped_eng, taken_eng]
  v := by simp
  g := by simp
  qs := by simp
  jobs := by simp
  ins := by simp
  free := rfl

namespace SameOperands

variable {s t : State}

theorem writes (h : SameOperands s t) : s.here.aWrites = t.here.aWrites := by simp only [Core.aWrites, h.jobs]

theorem drawn (h : SameOperands s t) : SameOperands { s with free := s.free + 1 } { t with free := t.free + 1 } :=
  ⟨h.rb, h.v, h.g, h.qs, h.jobs, h.ins, congrArg (· + 1) h.free⟩

theorem pick {α : Type} (h : SameOperands s t) (old : α) (new : Option α) :
    (s.pick old new).1 = (t.pick old new).1 ∧ SameOperands (s.pick old new).2 (t.pick old new).2 := by
  cases new with
  | none => exact ⟨rfl, h⟩
  | some x => exact ⟨by simp only [State.pick, h.free], h.drawn⟩

theorem aReg (h : SameOperands s t) (r : Nat) : (s.aReg r).1 = (t.aReg r).1 ∧ SameOperands (s.aReg r).2 (t.aReg r).2 := by
  simp only [State.aReg, h.writes, h.v]
  exact h.pick ..

theorem aQs (h : SameOperands s t) : s.aQs.1 = t.aQs.1 ∧ SameOperands s.aQs.2 t.aQs.2 := by
  simp only [State.aQs, h.writes, h.qs]
  exact h.pick ..

theorem aGuard (h : SameOperands s t) (g : Nat) : (s.aGuard g).1 = (t.aGuard g).1 ∧ SameOperands (s.aGuard g).2 (t.aGuard g).2 := by
  simp only [State.aGuard, h.writes, h.g]
  split
  · exact ⟨rfl, h⟩
  · exact h.pick ..

theorem guardOn (h : SameOperands s t) (g : BitVec 3) (sense : Bool) :
    (s.guardOn g sense).1 = (t.guardOn g sense).1 ∧ SameOperands (s.guardOn g sense).2 (t.guardOn g sense).2 := by
  simp only [State.guardOn, h.rb]
  split
  · exact ⟨rfl, h⟩
  · exact ⟨by rw [(h.aGuard _).1], (h.aGuard _).2⟩

theorem inPort (h : SameOperands s t) (p : Nat) : s.here.inPort p = t.here.inPort p := by simp only [Core.inPort, h.ins]

theorem takeSrc (h : SameOperands s t) (c : ASrc) : (s.takeSrc c).1 = (t.takeSrc c).1 ∧ SameOperands (s.takeSrc c).2 (t.takeSrc c).2 := by
  simp only [State.takeSrc, State.physA, h.rb, h.inPort]
  split
  · exact ⟨by rw [(h.aReg _).1], (h.aReg _).2⟩
  · refine ⟨rfl, ?_⟩
    constructor
    case rb => simpa only [State.eng, onHere_here, onHere_turn, onIn_eng] using h.rb
    case ins => simp only [onHere_here, Core.onIn, h.ins, h.inPort]
    case free => exact h.free
    all_goals simp [Core.onIn, h.v, h.g, h.qs, h.jobs]

theorem takeSrcs (h : SameOperands s t) (l : List ASrc) :
    (s.takeSrcs l).1 = (t.takeSrcs l).1 ∧ SameOperands (s.takeSrcs l).2 (t.takeSrcs l).2 := by
  induction l generalizing s t with
  | nil => exact ⟨rfl, h⟩
  | cons c l ih =>
    have hc := h.takeSrc c
    exact ⟨congrArg₂ _ hc.1 (ih hc.2).1, (ih hc.2).2⟩

/-- The operands, the quantiser state and the free value that a micro-order runs on. -/
theorem aInputs (h : SameOperands s t) (l : List ASrc) (u : AUse) : (s.aInputs l u).1 = (t.aInputs l u).1 ∧
    (s.aInputs l u).2.1 = (t.aInputs l u).2.1 ∧ (s.aInputs l u).2.2.1 = (t.aInputs l u).2.2.1 := by
  have hl := h.takeSrcs l
  cases u with
  | plain => exact ⟨hl.1, rfl, rfl⟩
  | readsQs => exact ⟨hl.1, hl.2.aQs.1, rfl⟩
  | takesFree => exact ⟨hl.1, rfl, hl.2.free⟩

end SameOperands

/-! ## Conditions (R285) -/

@[simp] theorem ask_and_eq_ok (a b : Ask) : a.and b = .ok ↔ a = .ok ∧ b = .ok := by
  cases a <;> simp [Ask.and]

/-- An A micro-order whose conditions hold and whose guard holds runs without fault on what it will take. -/
theorem run_of_aAsk {s : State} {k : BitVec 4} {d m : Nat} {g : BitVec 3} {sense : Bool} {srcs : List ASrc} {u : AUse} {gw : Option Nat}
    {run : List Opnd → Qs → Nat → AMake} (ha : (s.popped k).aAsk d m g sense srcs u gw run = .ok)
    (hg : ((taken s k).guardOn g sense).1 = true) :
    let i := ((taken s k).guardOn g sense).2.aInputs srcs u
    ∃ r, run i.1 i.2.1 i.2.2.1 = .ok r := by
  have hp := (popped_sameOperands s k).guardOn g sense
  obtain ⟨h1, h2, h3⟩ := hp.2.aInputs srcs u
  unfold State.aAsk at ha
  simp only [hp.1, hg, Bool.not_true, Bool.false_eq_true, if_false, ask_and_eq_ok, h1, h2, h3] at ha
  obtain ⟨-, ha⟩ := ha
  dsimp only
  split at ha
  · cases ha
  · cases hr : run _ _ _ with
    | error c => simp only [hr, reduceCtorEq] at ha
    | ok r => exact ⟨r, rfl⟩

/-! ## The effect that A micro-orders share (R287) -/

section
variable {s : State} {i : Instr} {f : VecForm}

/-- An A micro-order whose tokens are met and whose conditions hold has its effect and goes on. -/
theorem vectorForm_issues (hf : vectorForm s i = some f) (h : EngineReady s f.k 0)
    (ha : (s.popped f.k).aAsk f.d f.m f.g f.sense f.srcs f.use f.gw f.run = .ok) :
    exec i s = .next ((taken s f.k).aEffect f.d f.m f.g f.sense f.k f.lat f.srcs f.use f.run).stepOn := by
  rw [vectorForm_issue s i f hf, aIssue]
  exact moIssue_next h _ _ ha

/-- With a guard that does not hold, the effect is to pop the ports of the sources and to issue a job that writes nothing. -/
theorem aEffect_off (u : State) (hg : (u.guardOn f.g f.sense).1 = false) :
    let t := ((u.guardOn f.g f.sense).2.takeSrcs (f.srcs.filter fun c => 56 ≤ c.1)).2
    u.aEffect f.d f.m f.g f.sense f.k f.lat f.srcs f.use f.run = t.addJob (t.job f.k 0 (u.beat + f.lat) [] 0 (.arith [])) := by
  simp only [State.aEffect, hg, Bool.not_false, if_true]

/-- With a guard that holds, the effect is to take the operands and to issue a job that writes what the micro-order makes of them. -/
theorem aEffect_on {u : State} {x : Vec} {fl : Flags} {ws : List AWrite} (hg : (u.guardOn f.g f.sense).1 = true) :
    let v := f.inputs u
    let t := v.2.2.2
    f.run v.1 v.2.1 v.2.2.1 = .ok (x, fl, ws) →
    u.aEffect f.d f.m f.g f.sense f.k f.lat f.srcs f.use f.run =
      t.addJob { t.job f.k 0 (u.beat + f.lat) [] 0 (.arith (t.dstWrite f.d f.m x :: ws)) with flags := fl } := by
  intro v t hr
  dsimp only [v, VecForm.inputs] at hr
  simp only [State.aEffect, hg, Bool.not_true, Bool.false_eq_true, if_false, hr]
  rfl

/-- The effect is one job more, of the current stream and due after the latency, in a state that reading operands leaves. -/
theorem aEffect_adds_job (ha : (s.popped f.k).aAsk f.d f.m f.g f.sense f.srcs f.use f.gw f.run = .ok) :
    ∃ t j, (taken s f.k).aEffect f.d f.m f.g f.sense f.k f.lat f.srcs f.use f.run = t.addJob j ∧ OperandsRead (taken s f.k) t ∧
      j.eng = s.turn.stream ∧ j.due = s.beat + f.lat := by
  have hguard := OperandsRead.guardOn (taken s f.k) f.g f.sense
  cases hg : ((taken s f.k).guardOn f.g f.sense).1 with
  | false =>
    have hread := hguard.trans (.takeSrcs _ (f.srcs.filter fun c => 56 ≤ c.1))
    exact ⟨_, _, aEffect_off _ hg, hread, congrArg Turn.stream hread.turn, rfl⟩
  | true =>
    obtain ⟨⟨x, fl, ws⟩, hr⟩ := run_of_aAsk ha hg
    have hread := hguard.trans (.aInputs _ f.srcs f.use)
    exact ⟨_, _, aEffect_on hg hr, hread, congrArg Turn.stream hread.turn, rfl⟩

end

/-- Settles O39: the effect of an A micro-order with a guard that holds and with one that does not. -/
theorem vectorMicroOrdersComplete : Obligations.VectorMicroOrdersComplete := by
  intro i f s hf h ha
  have hx := vectorForm_issues hf h ha
  refine ⟨fun hg x fl ws hr => ?_, fun hg => ?_⟩
  · rw [hx, aEffect_on hg hr]; rfl
  · rw [hx, aEffect_off _ hg]; rfl

/-! ## What issuing leaves alone (R180, R182) -/

/-- A stream that goes on from any step but the last changes its engine only. -/
theorem stepOn_of_step {s : State} (h : s.eng.step ≠ 8191) : s.stepOn = s.onEng fun g =>
    { g with state := .running, step := g.step + 1, ready := s.beat + 1 } :=
  if_neg h

/-- A state that reading operands leaves stands at the same step. -/
theorem OperandsRead.eng {s t : State} (h : OperandsRead s t) : t.eng = s.eng := by
  rw [State.eng, h.turn, h.here]; rfl

@[simp] theorem addJob_here (s : State) (j : Job) : (s.addJob j).here = s.here.onJobs (· ++ [j]) := onHere_here ..
@[simp] theorem addJob_turn (s : State) (j : Job) : (s.addJob j).turn = s.turn := rfl

/-- A job added changes no engine. -/
theorem addJob_eng (s : State) (j : Job) : (s.addJob j).eng = s.eng := by
  rw [State.eng, addJob_here, addJob_turn]; rfl

/-- Settles O45: what the micro-order issues is a job in a state that only reading its operands and its step have changed. -/
theorem arithmeticMicroOrdersTouchOnlyTheirJob : Obligations.ArithmeticMicroOrdersTouchOnlyTheirJob := by
  intro i f s hf hs hstep h ha
  obtain ⟨t, j, he, hread, hj, hdue⟩ := aEffect_adds_job ha
  have hnext : (t.addJob j).eng.step ≠ 8191 := by rw [addJob_eng, hread.eng, taken_eng]; exact hstep
  obtain ⟨ins, hhere⟩ : ∃ ins, t.here = { (taken s f.k).here with ve := { (taken s f.k).here.ve with ins := ins } } := ⟨_, hread.here⟩
  have hother (m : Nat) (hm : m ≠ s.turn.core) : ((t.addJob j).stepOn).coreAt m = s.coreAt m := by
    have ht : t.turn.core = s.turn.core := congrArg Turn.core hread.turn
    rw [stepOn_of_step hnext, State.onEng, onHere_other _ _ _ (by rwa [addJob_turn, ht]), State.addJob, onHere_other _ _ _ (by rwa [← ht] at hm)]
    exact (hread.others m hm).trans (taken_other s _ m hm)
  have hmem : ((t.addJob j).stepOn).mem = s.mem := by rw [stepOn_of_step hnext]; exact hread.mem
  refine ⟨(t.addJob j).stepOn, j, by rw [vectorForm_issues hf h ha, he], ?_⟩
  refine ⟨?jobs, hj.trans hs, hdue, ?v, ?g, ?qs, ?nests, ?bases, ?c, ?cr, ?tr, ?ch, ?mx, ?pl, hother, fun a => by rw [hmem], hmem, ?dies, ?accs,
    ?tasks⟩
  case dies => rw [stepOn_of_step hnext]; exact hread.dies
  case accs => rw [stepOn_of_step hnext]; exact hread.accs
  case tasks => rw [stepOn_of_step hnext]; exact hread.tasks
  all_goals simp [stepOn_of_step hnext, State.onEng, Core.onEng, Core.onJobs, hhere]

end Sys2Proof.Machine

/-!
Selection, permutation and guards (13_ins_vector.md R301, R302, R312; 01_machine.md R28): the bits of a vector built from lanes, and the
guard that gop writes.
-/

namespace Sys2Proof.Machine

open Sys2Proof.Safety

/-! ## Lanes without flags, and the bits of a vector (R26) -/

/-- Lanes that raise no flag make a result without flags. -/
theorem laneRes_of_quiet (f : Sfx) {l : List (Nat × Flags)} (h : ∀ e ∈ l, e.2 = 0) :
    laneRes f l = .ok (⟨ofLanes f.w (l.map Prod.fst), tags4 f.tag⟩, 0, []) := by
  have hflags : l.foldl (fun a e => a ||| e.2) (0 : Flags) = 0 :=
    List.foldlRecOn (motive := fun a => a = 0) l _ rfl fun a ha e he => by rw [ha, h e he]; rfl
  rw [laneRes, hflags]

/-- Bit i of a vector is bit i modulo w of its lane of w bits. -/
theorem getLsbD_lane (x : BitVec 2048) {w i : Nat} (hw : 0 < w) :
    x.getLsbD i = (bitsOf x (w * (i / w)) w).testBit (i % w) := by
  rw [bitsOf_eq, Nat.testBit_mod_two_pow, Nat.testBit_div_two_pow, BitVec.getLsbD]
  simp [Nat.mod_lt i hw, Nat.mod_add_div]

/-- Vectors that hold the same lanes are equal. -/
theorem eq_of_lanes {x y : BitVec 2048} (w : Nat) (hw : 0 < w) (hd : w * (2048 / w) = 2048)
    (h : ∀ m, m < 2048 / w → bitsOf x (w * m) w = bitsOf y (w * m) w) : x = y := by
  refine BitVec.eq_of_getLsbD_eq fun i hi => ?_
  rw [getLsbD_lane x hw, getLsbD_lane y hw, h (i / w) (Nat.div_lt_of_lt_mul (by omega))]

theorem bitsOf_lt {n : Nat} (x : BitVec n) (lo w : Nat) : bitsOf x lo w < 2 ^ w := by
  rw [bitsOf_eq]; exact Nat.mod_lt _ (by positivity)

/-- What lanes without flags make: each lane as it is given. -/
theorem laneRes_quiet (f : Sfx) {l : List (Nat × Flags)} (hl : f.w * l.length ≤ 2048) (h : ∀ e ∈ l, e.2 = 0) :
    ∃ x, laneRes f l = .ok (x, 0, []) ∧ ∀ m, m < l.length → bitsOf x.data (f.w * m) f.w = (l.getD m (0, 0)).1 % 2 ^ f.w := by
  obtain ⟨x, fl, hr, hlanes, -, -⟩ := laneRes_spec f l hl
  have hq := laneRes_of_quiet f h
  rw [hr] at hq
  obtain ⟨-, rfl⟩ : x = _ ∧ fl = 0 := by simpa using hq
  exact ⟨x, hr, hlanes⟩

/-! ## Selection and permutation (R301, R302) -/

/-- The lane that vsel makes of lanes of a, b and d. -/
def selLane (a b d : Nat) : Nat × Flags :=
  (((BitVec.ofNat 32 a &&& BitVec.ofNat 32 d) ||| (BitVec.ofNat 32 b &&& ~~~(BitVec.ofNat 32 d))).toNat, 0)

/-- It is the lane of the selection made on whole vectors. -/
theorem selLane_bitsOf (a b d : BitVec 2048) {m : Nat} (hm : m < 64) :
    (selLane (bitsOf a (32 * m) 32) (bitsOf b (32 * m) 32) (bitsOf d (32 * m) 32)).1 % 2 ^ 32 =
      bitsOf ((a &&& d) ||| (b &&& ~~~d)) (32 * m) 32 := by
  simp only [selLane, bitsOf, BitVec.ofNat_toNat, BitVec.setWidth_eq]
  rw [Nat.mod_eq_of_lt (BitVec.isLt _)]
  congr 1
  refine BitVec.eq_of_getLsbD_eq fun i hi => ?_
  have hin : 32 * m + i < 2048 := by omega
  simp [hi, hin]

theorem vsel_makes (o : AForm) (a b d : Vec) {s : State} {f : VecForm} (hf : vectorForm s (.vsel o) = some f) :
    ∃ x, f.run [⟨a, 0, 0⟩, ⟨b, 0, 0⟩, ⟨d, 0, 0⟩] Qs.rest 0 = .ok (x, 0, []) ∧
      x.data = (a.data &&& d.data) ||| (b.data &&& ~~~d.data) := by
  cases hf
  let l := List.zipWith (fun e z => selLane e.1 e.2 z) ((lanesOf 32 a).zip (lanesOf 32 b)) (lanesOf 32 d)
  have hlen : l.length = 64 := by simp [l, lanesOf_length]
  have hquiet : ∀ e ∈ l, e.2 = 0 := fun e he => by
    obtain ⟨i, hi, rfl⟩ := List.getElem_of_mem he
    simp [l, selLane]
  obtain ⟨x, hr, hx⟩ := laneRes_quiet .n32 (l := l) (by rw [hlen]; decide) hquiet
  refine ⟨x, hr, eq_of_lanes 32 (by decide) (by decide) fun m hm => ?_⟩
  have hget : l.getD m (0, 0) = selLane (bitsOf a.data (32 * m) 32) (bitsOf b.data (32 * m) 32) (bitsOf d.data (32 * m) 32) := by
    simp [l, List.getD_eq_getElem?_getD, lanesOf, show m < 64 from hm]
  exact (hx m (hlen ▸ hm)).trans (by rw [hget]; exact selLane_bitsOf _ _ _ hm)

theorem vbc_makes (o : AUForm) (n : BitVec 6) (a : Vec) {s : State} {f : VecForm} (hf : vectorForm s (.vbc o n) = some f) :
    ∃ x, f.run [⟨a, 0, 0⟩] Qs.rest 0 = .ok (x, 0, []) ∧
      ∀ m, m < 64 → bitsOf x.data (32 * m) 32 = bitsOf a.data (32 * n.toNat) 32 := by
  cases hf
  obtain ⟨x, hr, hx⟩ := laneRes_quiet .n32 (l := List.replicate 64 ((lanesOf 32 a).getD n.toNat 0, 0))
    (by rw [List.length_replicate]; decide) (by simp)
  refine ⟨x, hr, fun m hm => (hx m (by simpa using hm)).trans ?_⟩
  rw [lanesOf_getD 32 a n.toNat n.isLt]
  simp only [List.getD_replicate, hm]
  exact Nat.mod_eq_of_lt (bitsOf_lt ..)

/-- A permutation gives in each lane the lane that the second operand names. -/
theorem permForm_makes (f : Sfx) (o : AForm) (a b : Vec) : ∃ x, (permForm f o).run [⟨a, 0, 0⟩, ⟨b, 0, 0⟩] Qs.rest 0 = .ok (x, 0, []) ∧
    ∀ m, m < 2048 / f.w → bitsOf x.data (f.w * m) f.w =
      bitsOf a.data (f.w * (bitsOf b.data (f.w * m) f.w % (2048 / f.w))) f.w := by
  obtain ⟨x, hr, hx⟩ := laneRes_quiet f
    (l := (lanesOf f.w b).map fun k => (bitsOf a.data (f.w * (k % (2048 / f.w))) f.w, 0))
    (by rw [List.length_map, lanesOf_length]; exact Nat.mul_div_le 2048 f.w) (by simp)
  refine ⟨x, hr, fun m hm => (hx m (by simpa [lanesOf_length] using hm)).trans ?_⟩
  simp only [lanesOf, List.map_map, List.getD_eq_getElem?_getD, List.getElem?_map, List.getElem?_range hm, Option.map_some,
    Option.getD_some, Function.comp]
  exact Nat.mod_eq_of_lt (bitsOf_lt ..)

/-! ## Guards (R28, R312) -/

theorem popped_gBusy (s : State) (k : BitVec 4) (g : Nat) : (s.popped k).here.gBusy g = s.here.gBusy g := by
  simp only [Core.gBusy, Core.aWrites, popped_jobs]

/-- gop is in no shadow where, in checked mode, no guard that it names is. -/
theorem shadowAsk_guards {s : State} {gs : List Nat} (h : s.here.cr.tcheck = true → ∀ g ∈ gs, s.here.gBusy g = false) :
    s.shadowAsk [] .plain gs = .ok := by
  refine if_neg ?_
  simp only [List.any_nil, Bool.false_or, bne_self_eq_false, Bool.false_and, Bool.or_false, Bool.and_eq_true, not_and, List.any_eq_true,
    not_exists, Bool.not_eq_true]
  exact h

/-- gop issues a job of latency 1 that writes what it makes of the guards that it reads. -/
theorem gop_issues (op : BitVec 2) (w x y : BitVec 4) {k : BitVec 4} {s : State} (h : EngineReady s k 0)
    (hg : s.here.cr.tcheck = true → ∀ g ∈ [physG s.eng.rb w.toNat, physG s.eng.rb x.toNat] ++ if op = 3 then [] else [physG s.eng.rb y.toNat],
      s.here.gBusy g = false) :
    let a := (taken s k).aGuard (physG s.eng.rb x.toNat)
    let b := if op = 3 then (false, a.2) else a.2.aGuard (physG s.eng.rb y.toNat)
    exec (.gop op w x y k) s = .next (b.2.addJob (b.2.job k 0 (s.beat + 1) [] 0
      (.arith [.g (physG s.eng.rb w.toNat) (gopVal op.toNat a.1 b.1)]))).stepOn := by
  intro a b
  have hread : OperandsRead (taken s k) b.2 := by
    refine (OperandsRead.aGuard _ (physG s.eng.rb x.toNat)).trans (t := a.2) ?_
    dsimp only [b]
    split
    · exact .refl _
    · exact .aGuard ..
  have hbeat : b.2.beat = s.beat := hread.beat
  rw [exec_gop, execGop]
  refine (moIssue_next h _ _ (shadowAsk_guards ?_)).trans ?_
  · simpa only [popped_cr, popped_gBusy] using hg
  · rw [← hbeat]

theorem aWrite_true_guard (c : Core) (b : Bool) : c.aWrite (.g 15 b) = c := by simp [Core.aWrite]

/-- Settles O41: selection and permutation lane by lane, and gop with the guards that it names. -/
theorem selectionPermutationAndGuards : Obligations.SelectionPermutationAndGuards := by
  refine ⟨fun o a b d s f hf => vsel_makes o a b d hf, fun o l a s f hf => vbc_makes o l a hf, fun o a b s => ⟨fun f hf => ?_, fun f hf => ?_⟩,
    fun op w x y k s h hg => ?_, fun c b s => ⟨aWrite_true_guard c b, if_pos rfl⟩⟩
  · cases hf
    obtain ⟨v, hr, hv⟩ := permForm_makes .i8 o a b
    refine ⟨v, hr, fun m hm => (hv m hm).trans ?_⟩
    exact congrArg (fun n => bitsOf a.data (8 * n) 8) (Nat.mod_eq_of_lt (bitsOf_lt b.data (8 * m) 8))
  · cases hf
    exact permForm_makes .i32 o a b
  · refine gop_issues op w x y h fun ht n hn => ?_
    obtain ⟨hw, hx, hy⟩ := hg ht
    split at hn <;> simp only [List.append_nil, List.mem_append, List.mem_cons, List.not_mem_nil, or_false] at hn
    · obtain rfl | rfl := hn <;> assumption
    · obtain (rfl | rfl) | rfl := hn
      exacts [hw, hx, hy ‹_›]

end Sys2Proof.Machine

/-!
The micro-orders of L and S (13_ins_vector.md R287 to R296): taking the pop bits leaves what their conditions ask about alone, and each
issues where its tokens are met and its conditions are good.
-/

namespace Sys2Proof.Machine

open Sys2Proof.Safety

/-! ## Reaches and reads as the pops leave them -/

section
variable (s : State) (k : BitVec 4)

theorem taken_placed (n : Nat) : ((taken s k).coreAt n).pl = (s.coreAt n).pl := by
  by_cases h : n = s.turn.core
  · subst h; exact taken_pl s k
  · rw [taken_other s k n h]

theorem taken_engReach (n : Nat) (e : Stream) (b : Base) (write : Bool) (off : Int) (len : Nat) (out : BitVec 8) :
    (taken s k).engReach n e b write off len out = s.engReach n e b write off len out := by
  have hr : (taken s k).inRegion = s.inRegion := by
    funext n o len
    simp only [State.inRegion, taken_placed]
  unfold State.engReach
  rw [hr]

theorem popped_readAsk (b off n : Nat) : (s.popped k).readAsk b off n = s.readAsk b off n := by
  have hok : (s.popped k).engReadOk s.turn.core = s.engReadOk s.turn.core := by
    have hcr : ((s.popped k).coreAt s.turn.core).cr = (s.coreAt s.turn.core).cr := popped_cr s k
    funext va l n
    unfold State.engReadOk
    rw [hcr]
    rfl
  simp only [State.readAsk, popped_turn, popped_engReach, popped_baseHere, hok]

theorem popped_bindAsk (ready : Bool) (n : Nat) (write : Bool) : (s.popped k).bindAsk ready n write = s.bindAsk ready n write := by
  simp only [State.bindAsk, popped_baseHere, popped_nests]

end

/-! ## Loads (R289, R291, R292) -/

section
variable {s : State}

theorem lglob_issues {o : GForm} (h : EngineReady s o.k 0) (hl : (s.popped o.k).lentAsk ((s.popped o.k).physHere o.v) = .ok)
    (hr : s.readAsk o.b.toNat (64 * o.o.toNat) 256 = .ok) :
    exec (.lglob o) s = .next ((taken s o.k).readIssue o.k o.b.toNat (64 * o.o.toNat) 4
      (.vload ((taken s o.k).physHere o.v) false [])).stepOn := by
  rw [exec_lglob, execLglob]
  exact moIssue_next h _ _ (by simp only [hl, popped_readAsk, hr, ask_and_eq_ok, and_self])

theorem lbc_issues {o : GForm} (h : EngineReady s o.k 0) (hl : (s.popped o.k).lentAsk ((s.popped o.k).physHere o.v) = .ok)
    (hr : s.readAsk o.b.toNat (64 * o.o.toNat) 64 = .ok) :
    exec (.lbc o) s = .next ((taken s o.k).readIssue o.k o.b.toNat (64 * o.o.toNat) 1
      (.vload ((taken s o.k).physHere o.v) true [])).stepOn := by
  rw [exec_lbc, execLbc]
  exact moIssue_next h _ _ (by simp only [hl, popped_readAsk, hr, ask_and_eq_ok, and_self])

theorem lnest_issues {n b : BitVec 4} {o : BitVec 14} {k : BitVec 4} (h : EngineReady s k 0)
    (hr : s.readAsk b.toNat (32 * o.toNat) 32 = .ok) :
    exec (.lnest n b o k) s = .next ((taken s k).readIssue k b.toNat (32 * o.toNat / 64 * 64) 1
      (.nload n.toNat (32 * (o.toNat % 2)) none)).stepOn := by
  rw [exec_lnest, execLnest]
  exact moIssue_next h _ _ (by rw [popped_readAsk, hr])

/-! ## Ports (R290, R295) -/

theorem lport_binds {p : BitVec 3} {n : BitVec 4} (c : Bool) {k : BitVec 4} (h : EngineReady s k 0) :
    let q := s.here.inPort p.toNat
    s.bindAsk (q.done && q.fifo == [] && q.pos == q.asked && q.cursor == 0) n.toNat false = .ok →
    ∃ t : State, exec (.lport p n c k) s = .next t.stepOn ∧
      t.here.inPort p.toNat = ⟨true, c, mget 0 s.here.ve.nests n.toNat, 0, 0, [], s.eng.step, 0, [],
        (s.baseHere (nestBase (mget 0 s.here.ve.nests n.toNat))).uid, []⟩ ∧ t.mem = s.mem := by
  intro q hb
  have hport : (s.popped k).here.inPort p.toNat = q := by simp only [Core.inPort, popped_ins, q]
  refine ⟨_, (exec_lport ..).trans (moIssue_next h _ _ ?_), ?_, rfl⟩
  · dsimp only
    rw [hport, popped_bindAsk, hb]
  · rw [onHere_here, inPort_onIn, taken_nests, taken_baseHere, taken_eng]

theorem sport_binds {p : BitVec 3} {n : BitVec 4} {k : BitVec 4} (h : EngineReady s k 0) :
    let q := s.here.outPort p.toNat
    s.bindAsk (!q.bound || (decide (nestCount q.nest ≤ q.pos) && !(s.here.ve.jobs.any fun j => match j.work with
      | .drain i _ => i == p.toNat
      | _ => false))) n.toNat true = .ok →
    ∃ t : State, exec (.sport p n k) s = .next t.stepOn ∧
      t.here.outPort p.toNat = { q with
        bound := true, nest := mget 0 s.here.ve.nests n.toNat, pushed := q.fifo.length, pos := 0, step := s.eng.step
        base := (s.baseHere (nestBase (mget 0 s.here.ve.nests n.toNat))).uid } ∧ t.mem = s.mem := by
  intro q hb
  have hport : (s.popped k).here.outPort p.toNat = q := by simp only [Core.outPort, popped_outs, q]
  have htaken (j : Job) : ((taken s k).addJob j).here.outPort p.toNat = q := by
    rw [addJob_here]
    simp only [Core.onJobs, Core.outPort, taken_outs, q]
  refine ⟨_, (exec_sport ..).trans (moIssue_next h _ _ ?_), ?_, rfl⟩
  · dsimp only
    rw [hport, popped_bindAsk, popped_jobs]
    exact hb
  · rw [onHere_here, outPort_onOut, htaken, taken_nests, taken_baseHere, taken_eng]

/-! ## Stores (R296) -/

theorem sglob_issues {o : GForm} {va : Nat} {l : Loc} (h : EngineReady s o.k 0)
    (hl : (s.popped o.k).lentAsk ((s.popped o.k).physHere o.v) = .ok)
    (hr : s.engReach s.turn.core .s (s.baseHere o.b.toNat) true (64 * o.o.toNat) 256 0x2C = .ok (va, l)) :
    let b := (taken s o.k).baseHere o.b.toNat
    let r := (taken s o.k).aReg ((taken s o.k).physHere o.v)
    exec (.sglob o) s = .next (r.2.writeVec s.turn.core (fun h s => s.job o.k 0 (s.beat + 1) [b.uid] h .plain) va b
      (taken s o.k).eng.step r.1).stepOn := by
  refine (exec_sglob ..).trans ((moIssue_next h _ _ ?_).trans ?_)
  · simp only [hl, ask_and_eq_ok, true_and, popped_turn, popped_engReach, popped_baseHere, hr]
  · simp only [taken_turn, taken_engReach, taken_baseHere, hr]

end

/-- Settles O38, micro-order by micro-order. -/
theorem loadAndStoreMicroOrdersComplete : Obligations.LoadAndStoreMicroOrdersComplete := by
  intro s
  refine ⟨fun o h hl => ⟨lglob_issues h hl, lbc_issues h hl, fun va l hr => ⟨_, rfl, sglob_issues h hl hr⟩⟩,
    fun n b o k h hr => lnest_issues h hr, fun p n c k h => lport_binds c h, fun p n k h => sport_binds h⟩

end Sys2Proof.Machine

/-!
What writes of the device leave alone (04_memory.md R108 to R112; 02_execution.md R58): pins, warnings, counters of errors and the waiters that
a write wakes change storage, accesses, dies, owners and the control registers of cores, and nothing besides; of dies not the posts of the beat.
-/

namespace Sys2Proof.Machine

open Sys2Proof.Safety

/-- A state without its storage, accesses and owners, its cores without their control registers, and of its dies the posts of the beat. -/
def State.aside (s : State) : State × (Nat → Core) × (Nat → Nat) :=
  ({ s with cores := [], dies := [], mem := Mem.rest, accs := [], owners := [] }, fun n => { s.coreAt n with cr := Core.rest.cr },
    fun d => (s.dieAt d).posts)

/-- A fold of acts that leave the rest alone leaves it alone. -/
theorem foldl_aside {α : Type} (f : State → α → State) (l : List α) (s : State) (h : ∀ t a, (f t a).aside = t.aside) :
    (l.foldl f s).aside = s.aside :=
  List.foldlRecOn (motive := fun t => t.aside = s.aside) l f rfl fun t ht a _ => (h t a).trans ht

/-! ## What two states share beside those -/

section
variable {s t : State} (h : t.aside = s.aside)
include h

theorem aside_beat : t.beat = s.beat := congrArg (·.1.beat) h
theorem aside_turn : t.turn = s.turn := congrArg (·.1.turn) h
theorem aside_nextId : t.nextId = s.nextId := congrArg (·.1.nextId) h
theorem aside_tasks : t.tasks = s.tasks := congrArg (·.1.tasks) h
theorem aside_boot : t.boot = s.boot := congrArg (·.1.boot) h
theorem aside_circ : t.circ = s.circ := congrArg (·.1.circ) h
theorem aside_coll : t.coll = s.coll := congrArg (·.1.coll) h
theorem aside_node : t.node = s.node := congrArg (·.1.node) h
theorem aside_mig : t.mig = s.mig := congrArg (·.1.mig) h
theorem aside_fleet : t.fleet = s.fleet := congrArg (·.1.fleet) h
theorem aside_core (n : Nat) : { t.coreAt n with cr := Core.rest.cr } = { s.coreAt n with cr := Core.rest.cr } :=
  congrFun (congrArg (·.2.1) h) n
theorem aside_posts (d : Nat) : (t.dieAt d).posts = (s.dieAt d).posts := congrFun (congrArg (·.2.2) h) d
theorem aside_ctl (n : Nat) : (t.coreAt n).c = (s.coreAt n).c := (congrArg Core.c (aside_core h n) :)
theorem aside_vectors (n : Nat) : (t.coreAt n).ve = (s.coreAt n).ve := (congrArg Core.ve (aside_core h n) :)
theorem aside_matrices (n : Nat) : (t.coreAt n).mx = (s.coreAt n).mx := (congrArg Core.mx (aside_core h n) :)
theorem aside_placed (n : Nat) : (t.coreAt n).pl = (s.coreAt n).pl := (congrArg Core.pl (aside_core h n) :)

end

/-! ## Updates -/

section
variable (s : State)

/-- An update of a core that changes its control registers only. -/
theorem onCore_aside (n : Nat) {f : Core → Core} (hf : ∀ c, { f c with cr := Core.rest.cr } = { c with cr := Core.rest.cr }) :
    (s.onCore n f).aside = s.aside := by
  refine Prod.ext rfl (Prod.ext (funext fun m => ?_) rfl)
  simp only [State.aside, coreAt_onCore]
  split
  · subst m; exact hf _
  · rfl

@[simp] theorem onMem_aside (f : Mem → Mem) : (s.onMem f).aside = s.aside := (rfl)
/-- An update of a die that leaves its posts alone. -/
theorem onDie_aside (d : Nat) {f : Die → Die} (hf : ∀ x, (f x).posts = x.posts) : (s.onDie d f).aside = s.aside := by
  refine Prod.ext rfl (Prod.ext rfl (funext fun m => ?_))
  simp only [State.aside, dieAt_onDie]
  split
  · subst m; exact hf _
  · rfl
@[simp] theorem onAcc_aside (a : Nat) (f : Access → Access) : (s.onAcc a f).aside = s.aside := (rfl)
@[simp] theorem onOwner_aside (o : Nat) (f : Owner → Owner) : (s.onOwner o f).aside = s.aside := (rfl)
@[simp] theorem finish_aside (a : Nat) (r : Res) : (s.finish a r).aside = s.aside := (rfl)
@[simp] theorem countUncorr_aside (l : Loc) : (s.countUncorr l).aside = s.aside := (rfl)
@[simp] theorem unpark_aside (poc : Nat) (l : List Nat) : (s.unpark poc l).aside = s.aside := (rfl)

/-! ## Warnings, waiters and pins -/

@[simp] theorem countBad_aside (c : BitVec 8) (l : Loc) : (s.countBad c l).aside = s.aside := by
  unfold State.countBad; split <;> simp
@[simp] theorem warnAt_aside (n : Nat) (l : Loc) (w : Nat) : (s.warnAt n l w).aside = s.aside := by
  unfold State.warnAt; repeat' split
  · exact onCore_aside s n fun _ => rfl
  all_goals rfl
@[simp] theorem warn_aside (l : Loc) (w : Nat) : (s.warn l w).aside = s.aside := warnAt_aside ..
@[simp] theorem endWait_aside (a : Nat) (x : Access) (w : Nat) (r : Res) : (s.endWait a x w r).aside = s.aside := by
  unfold State.endWait; split <;> simp
@[simp] theorem wakeOne_aside (wake : Bool) (a : Nat) : (s.wakeOne wake a).aside = s.aside := by
  unfold State.wakeOne; repeat' split
  all_goals simp
@[simp] theorem wakeAll_aside (wake : Bool) (l : List Nat) : (s.wakeAll wake l).aside = s.aside :=
  foldl_aside _ _ _ fun _ _ => by simp
@[simp] theorem touch_aside (b : Nat) : (s.touch b).aside = s.aside := by
  unfold State.touch
  refine (foldl_aside _ _ _ fun _ _ => by exact onDie_aside _ _ fun _ => rfl).trans ?_
  rw [foldl_aside _ _ _ fun _ _ => endWait_aside .., wakeAll_aside, unpark_aside]
@[simp] theorem enterWq_aside (l : Loc) (cls : Nat) (bs : List Nat) : (s.enterWq l cls bs).aside = s.aside := by
  unfold State.enterWq; split <;> simp
@[simp] theorem devWrite_aside (p n v : Nat) : (s.devWrite p n v).aside = s.aside := by
  unfold State.devWrite; dsimp only; split <;> simp
@[simp] theorem setPins_aside (p : Nat) (f : Nat → Nat) : (s.setPins p f).aside = s.aside := by
  unfold State.setPins; split <;> simp
@[simp] theorem addPins_aside (ps : List Nat) : (s.addPins ps).aside = s.aside := foldl_aside _ _ _ fun _ _ => setPins_aside ..
@[simp] theorem dropPins_aside (ps : List Nat) : (s.dropPins ps).aside = s.aside := foldl_aside _ _ _ fun _ _ => setPins_aside ..

end

end Sys2Proof.Machine

/-!
The micro-orders of X (14_ins_matrix_copy.md R328 to R344): what the state holds in which a copy has been counted and its job added, and
what each kind of copy prepares there.
-/

namespace Sys2Proof.Machine

open Sys2Proof.Safety

/-! ## The copy that begins (R328) -/

/-- What a kind of copy prepares at its issue: its tile, its buffer with its packets, or its send. -/
def State.copyPrepared (s : State) (kind n id : Nat) (o : XOForm) (p q : Base) (d : List Word) : State :=
  match kind with
  | 4 => s.beginLoad n o.q.toNat p d
  | 8 => (if dKeep d then s.installBuf d q else s).xPackets n id 32
  | 6 | 7 => match q.peer with
    | none => s
    | some (g, w) =>
      let (oid, s) := s.fresh
      let bytes := if kind = 6 then dLen d else 64 * dTotal d
      let note : BitVec 128 := dW d 7 ++ dW d 6
      s.enqueueSend q.port
        { id := oid, core := n, task := s.taskNo n, job := id,
          kind := if kind = 6 then .enqueue (match q.locAt (q.addr + dRing d) with
            | some (.peer _ _ a) => a
            | _ => 0) note else .send,
          peer := g, pown := w, gen := q.gen, blks := [], bytes := bytes, sent := 0, sync := dSync d }
  | _ => s

/-- The work of a copy at its issue. -/
def State.copyWork (s : State) (kind : Nat) (o : XOForm) (p q via : Base) (d : List Word) : XWork :=
  { kind := kind, q := o.q.toNat, desc := d, src := p, dst := q, via := via, pos := 0, total := dTotal d,
    reading := [], outs := [], redo := [], blocks := [], bytes := 0, code := 0, cause := 0, queued := 0, sent := 0,
    issue := s.here.issueNo 3 }

/-- The job of a copy of history entry h. -/
def State.copyJob (s : State) (h kind : Nat) (o : XOForm) (p q via : Base) (d : List Word) : Job :=
  let uses := [p.uid] ++ (if kind = 4 then [] else [q.uid]) ++ (if kind = 8 ∧ dLeft d ≠ 0 then [via.uid] else [])
  { s.job 0 o.e.toNat (s.beat + 1) uses h (.copy (s.copyWork kind o p q via d)) with ix := s.here.c.cpIx }

/-- A copy has been counted, and its job added. -/
def State.copyBegun (s : State) (h kind : Nat) (o : XOForm) (p q via : Base) (d : List Word) : State :=
  (s.addJob (s.copyJob h kind o p q via d)).onCtl fun c => { c with cpIx := c.cpIx + 1 }

/-- The history entry of a copy, at the first place that it writes; a tile's load notes none. -/
def State.copyNoted (s : State) (n kind : Nat) (q : Base) (d : List Word) : Nat × State :=
  let first := q.addr + dDstOff d
  if kind = 4 then (0, s)
  else s.addHist n 2 s.eng.step.toNat (s.here.issueNo 3) s.here.c.cpIx (if q.kind = 3 then first else first % 2 ^ 52)

/-- A copy notes its history, begins and prepares what its kind needs. -/
def State.copyStarted (s : State) (n kind : Nat) (o : XOForm) (d : List Word) : State :=
  let p := s.baseHere o.p.toNat
  let q := s.baseHere o.q.toNat
  let noted := s.copyNoted n kind q d
  (noted.2.copyBegun noted.1 kind o p q (s.viaBase kind d) d).copyPrepared kind n noted.2.nextId o p q d

/-- A copy starts in the state in which its descriptor's words have been warned of. -/
theorem xStart_eq {s : State} {o : XOForm} {kind : Nat} {d : List Word} (hd : s.xDesc o.i.toNat = .ok d) :
    s.xStart kind o = (s.warn (.scr s.turn.core (256 * o.i.toNat)) 256).copyStarted s.turn.core kind o d := by
  obtain ⟨w, hw⟩ : ∃ w : Nat, w = 256 := ⟨_, rfl⟩
  unfold State.xStart
  rw [hd, ← hw]
  rfl

/-! ## The job of a copy -/

/-- Core n holds, in state t, a copy of this descriptor between these bases, at the first block of its walk. -/
def State.HoldsCopy (t : State) (n id kind : Nat) (o : XOForm) (d : List Word) (p q : Base) : Prop :=
  ∃ j x, j ∈ (t.coreAt n).ve.jobs ∧ j.work = .copy x ∧ j.id = id ∧ j.tok = o.e.toNat ∧ x.kind = kind ∧ x.desc = d ∧ x.pos = 0 ∧
    x.total = dTotal d ∧ x.src = p ∧ x.dst = q

/-- A core whose jobs are those of before, and perhaps more, still holds its copies. -/
theorem State.HoldsCopy.of_jobs {s t : State} {n id kind : Nat} {o : XOForm} {d : List Word} {p q : Base} (h : s.HoldsCopy n id kind o d p q)
    (hj : (s.coreAt n).ve.jobs ⊆ (t.coreAt n).ve.jobs) : t.HoldsCopy n id kind o d p q := by
  obtain ⟨j, x, hm, hx⟩ := h
  exact ⟨j, x, hj hm, hx⟩

/-- A change of the work of a copy that leaves its descriptor, its bases and its walk. -/
def KeepsWalk (f : XWork → XWork) : Prop :=
  ∀ x, (f x).kind = x.kind ∧ (f x).desc = x.desc ∧ (f x).pos = x.pos ∧ (f x).total = x.total ∧ (f x).src = x.src ∧ (f x).dst = x.dst

theorem State.HoldsCopy.onX {s : State} {n id kind : Nat} {o : XOForm} {d : List Word} {p q : Base} (h : s.HoldsCopy n id kind o d p q)
    (m i : Nat) {f : XWork → XWork} (hf : KeepsWalk f) : (s.onX m i f).HoldsCopy n id kind o d p q := by
  by_cases hn : n = m
  · subst hn
    obtain ⟨j, x, hj, hw, hid, htok, hk, hd, hpos, htot, hsrc, hdst⟩ := h
    obtain ⟨fk, fd, fpos, ftot, fsrc, fdst⟩ := hf x
    have hin (j' : Job) (hj' : j' = if j.id = i then { j with work := .copy (f x) } else j) :
        j' ∈ ((s.onX n i f).coreAt n).ve.jobs := by
      simp only [State.onX, State.onJob, coreAt_onCore_same, Core.onJobs, List.mem_map]
      exact ⟨j, hj, by rw [hj']; split <;> simp [hw]⟩
    by_cases hi : j.id = i
    · exact ⟨_, _, hin _ (if_pos hi).symm, rfl, hid, htok, fk.trans hk, fd.trans hd, fpos.trans hpos, ftot.trans htot, fsrc.trans hsrc,
        fdst.trans hdst⟩
    · exact ⟨_, _, hin _ (if_neg hi).symm, hw, hid, htok, hk, hd, hpos, htot, hsrc, hdst⟩
  · exact h.of_jobs (by rw [State.onX, State.onJob, coreAt_onCore_other _ _ _ _ hn]; exact List.Subset.refl _)

theorem keepsWalk_failed (c : BitVec 8) : KeepsWalk (XWork.failed · c) := by
  intro x
  simp only [XWork.failed]
  split <;> simp

/-! ## The packets of a collective (R344) -/

/-- What copies prepare leaves the core that moves, the control streams and the walks of copies alone. -/
structure CopiesKept (s t : State) : Prop where
  turn : t.turn = s.turn
  ctl : ∀ n, (t.coreAt n).c = (s.coreAt n).c
  copies : ∀ {n id kind o d p q}, s.HoldsCopy n id kind o d p q → t.HoldsCopy n id kind o d p q

theorem CopiesKept.refl (s : State) : CopiesKept s s := ⟨rfl, fun _ => rfl, fun c => c⟩

theorem CopiesKept.trans {s t u : State} (h : CopiesKept s t) (g : CopiesKept t u) : CopiesKept s u :=
  ⟨g.turn.trans h.turn, fun n => (g.ctl n).trans (h.ctl n), fun c => g.copies (h.copies c)⟩

theorem CopiesKept.of_aside {s t : State} (h : t.aside = s.aside) : CopiesKept s t :=
  ⟨aside_turn h, aside_ctl h, fun c => c.of_jobs (by rw [aside_vectors h]; exact List.Subset.refl _)⟩

/-- Queueing packets leaves the staging buffers alone besides. -/
structure PacketsQueued (s t : State) : Prop extends CopiesKept s t where
  bufs : t.coll.bufs = s.coll.bufs

namespace PacketsQueued

theorem refl (s : State) : PacketsQueued s s := ⟨.refl s, rfl⟩

theorem trans {s t u : State} (h : PacketsQueued s t) (g : PacketsQueued t u) : PacketsQueued s u :=
  ⟨h.toCopiesKept.trans g.toCopiesKept, g.bufs.trans h.bufs⟩

theorem onX (s : State) (n id : Nat) {f : XWork → XWork} (hf : KeepsWalk f) : PacketsQueued s (s.onX n id f) := by
  refine ⟨⟨rfl, fun m => ?_, fun c => c.onX n id hf⟩, rfl⟩
  rw [State.onX, State.onJob, coreAt_onCore]
  split
  · subst m; rfl
  · rfl

theorem xPackets (s : State) (n id k : Nat) : PacketsQueued s (s.xPackets n id k) := by
  induction k generalizing s with
  | zero => exact refl s
  | succ k ih =>
    unfold State.xPackets
    split
    · rename_i j x hj hx
      dsimp only
      split
      · split
        · exact refl s
        · split
          · refine trans ?_ (onX _ n id fun _ => by simp)
            exact ⟨⟨rfl, fun _ => rfl, fun c => c⟩, rfl⟩
          · split
            · exact refl s
            · split
              · exact onX _ n id (keepsWalk_failed 0x31)
              · split
                · exact refl s
                · refine trans ?_ (ih _)
                  refine trans (t := State.enqueueSend s.fresh.2 _ _) ⟨⟨rfl, fun _ => rfl, fun c => c⟩, rfl⟩ (onX _ n id fun _ => ?_)
                  simp
      · exact refl s
    · exact refl s

end PacketsQueued

/-! ## What a copy finds and leaves (R328) -/

/-- A state in which a copy begins, or whose copies are prepared: what it shares with the state before. -/
structure CopySees (s t : State) : Prop where
  turn : t.turn = s.turn
  nextId : t.nextId = s.nextId
  ctl : t.here.c = s.here.c
  jobs : t.here.ve.jobs = s.here.ve.jobs
  bases : t.here.ve.bases = s.here.ve.bases
  mx : t.here.mx = s.here.mx
  circ : t.circ = s.circ
  coll : t.coll = s.coll

theorem CopySees.trans {s t u : State} (h : CopySees s t) (g : CopySees t u) : CopySees s u :=
  ⟨g.turn.trans h.turn, g.nextId.trans h.nextId, g.ctl.trans h.ctl, g.jobs.trans h.jobs, g.bases.trans h.bases, g.mx.trans h.mx,
    g.circ.trans h.circ, g.coll.trans h.coll⟩

theorem CopySees.baseHere {s t : State} (h : CopySees s t) (b : Nat) : t.baseHere b = s.baseHere b := by
  rw [State.baseHere, h.bases]; rfl

theorem taken_copySees (s : State) (k : BitVec 4) : CopySees s (taken s k) :=
  ⟨rfl, rfl, taken_c .., taken_jobs .., taken_bases .., taken_mx .., rfl, rfl⟩

/-- What changes storage and warnings only leaves all that a copy sees. -/
theorem copySees_of_aside {s t : State} (h : t.aside = s.aside) : CopySees s t := by
  have hve : t.here.ve = s.here.ve := by rw [State.here, aside_turn h, aside_vectors h]; rfl
  refine ⟨aside_turn h, aside_nextId h, ?_, by rw [hve], by rw [hve], ?_, aside_circ h, aside_coll h⟩
  · rw [State.here, aside_turn h, aside_ctl h]; rfl
  · rw [State.here, aside_turn h, aside_matrices h]; rfl

theorem addHist_copySees (s : State) (source wher issue ix addr : Nat) :
    CopySees s (s.addHist s.turn.core source wher issue ix addr).2 := by
  constructor
  case turn => rfl
  case nextId => rfl
  case circ => rfl
  case coll => rfl
  all_goals simp [State.addHist]

/-- A copy that has begun: it is counted, and a job of it stands behind the jobs of before. -/
structure CopyBegun (s b : State) (kind : Nat) (o : XOForm) (d : List Word) (p q : Base) : Prop where
  turn : b.turn = s.turn
  counted : b.here.c.cpIx = s.here.c.cpIx + 1
  holds : b.HoldsCopy s.turn.core s.nextId kind o d p q
  mx : b.here.mx = s.here.mx
  circ : b.circ = s.circ
  coll : b.coll = s.coll

theorem copyBegun_begins (s : State) (h kind : Nat) (o : XOForm) (p q via : Base) (d : List Word) :
    CopyBegun s (s.copyBegun h kind o p q via d) kind o d p q where
  turn := rfl
  counted := by simp [State.copyBegun, Core.onJobs]
  holds := by
    refine ⟨s.copyJob h kind o p q via d, s.copyWork kind o p q via d, ?_, rfl, rfl, rfl, rfl, rfl, rfl, rfl, rfl, rfl⟩
    have hjobs : (s.copyBegun h kind o p q via d).here.ve.jobs = s.here.ve.jobs ++ [s.copyJob h kind o p q via d] := by
      rw [State.copyBegun, onCtl_here, addJob_here]; rfl
    exact hjobs ▸ List.mem_append_right _ (List.mem_singleton.2 rfl)
  mx := by simp [State.copyBegun, Core.onJobs]
  circ := rfl
  coll := rfl

theorem CopyBegun.of_copySees {s a b : State} {kind : Nat} {o : XOForm} {d : List Word} {p q : Base} (h : CopyBegun a b kind o d p q)
    (g : CopySees s a) : CopyBegun s b kind o d p q where
  turn := h.turn.trans g.turn
  counted := by rw [h.counted, g.ctl]
  holds := by rw [← g.turn, ← g.nextId]; exact h.holds
  mx := h.mx.trans g.mx
  circ := h.circ.trans g.circ
  coll := h.coll.trans g.coll

theorem copyNoted_copySees (s : State) (kind : Nat) (q : Base) (d : List Word) :
    CopySees s (s.copyNoted s.turn.core kind q d).2 := by
  unfold State.copyNoted
  dsimp only
  split
  · exact copySees_of_aside rfl
  · exact addHist_copySees ..

theorem copyStarted_begins (s : State) (o : XOForm) (kind : Nat) (d : List Word) :
    ∃ b, CopyBegun s b kind o d (s.baseHere o.p.toNat) (s.baseHere o.q.toNat) ∧
      s.copyStarted s.turn.core kind o d = b.copyPrepared kind s.turn.core s.nextId o (s.baseHere o.p.toNat) (s.baseHere o.q.toNat) d := by
  have hnoted := copyNoted_copySees s kind (s.baseHere o.q.toNat) d
  rw [State.copyStarted, hnoted.nextId]
  generalize s.copyNoted s.turn.core kind (s.baseHere o.q.toNat) d = r at hnoted ⊢
  exact ⟨_, (copyBegun_begins ..).of_copySees hnoted, rfl⟩

/-- A copy whose descriptor is read begins, and prepares what its kind needs. -/
theorem xStart_begins {s : State} {o : XOForm} (kind : Nat) {d : List Word} (hd : s.xDesc o.i.toNat = .ok d) :
    ∃ b, CopyBegun s b kind o d (s.baseHere o.p.toNat) (s.baseHere o.q.toNat) ∧
      s.xStart kind o = b.copyPrepared kind s.turn.core s.nextId o (s.baseHere o.p.toNat) (s.baseHere o.q.toNat) d := by
  rw [xStart_eq hd]
  have hwarned := copySees_of_aside (warn_aside s (.scr s.turn.core (256 * o.i.toNat)) 256)
  generalize s.warn (.scr s.turn.core (256 * o.i.toNat)) 256 = u at hwarned ⊢
  obtain ⟨b, hb, hprepared⟩ := copyStarted_begins u o kind d
  rw [hwarned.turn, hwarned.nextId, hwarned.baseHere, hwarned.baseHere] at hprepared
  rw [hwarned.baseHere, hwarned.baseHere] at hb
  exact ⟨b, hb.of_copySees hwarned, hprepared⟩

/-! ## What each kind prepares -/

theorem installBuf_kept (s : State) (d : List Word) (q : Base) : CopiesKept s (s.installBuf d q) := by
  unfold State.installBuf
  refine .trans ?_ (.of_aside (addPins_aside ..))
  exact ⟨rfl, fun _ => rfl, fun c => c⟩

theorem beginLoad_kept (s : State) (n w : Nat) (p : Base) (d : List Word) : CopiesKept s (s.beginLoad n w p d) := by
  refine .trans (.of_aside (dropPins_aside s (mget WTile.rest (s.coreAt n).mx.wtiles w).pins)) ⟨rfl, fun m => ?_, fun c => c.of_jobs ?_⟩
  all_goals
    dsimp only [State.beginLoad]
    rw [coreAt_onCore]
    split
  · subst m; rfl
  · rfl
  · rename_i hn; subst hn; exact List.Subset.refl _
  · exact List.Subset.refl _

theorem copyPrepared_kept (s : State) (kind n id : Nat) (o : XOForm) (p q : Base) (d : List Word) :
    CopiesKept s (s.copyPrepared kind n id o p q d) := by
  unfold State.copyPrepared
  split
  · exact beginLoad_kept ..
  · refine .trans ?_ (PacketsQueued.xPackets ..).toCopiesKept
    split
    · exact installBuf_kept ..
    · exact .refl s
  · split
    · exact .refl s
    · exact ⟨rfl, fun _ => rfl, fun c => c⟩
  · split
    · exact .refl s
    · exact ⟨rfl, fun _ => rfl, fun c => c⟩
  · exact .refl s

/-- A tile that begins to load stands loading at its core, with the range of its descriptor. -/
theorem beginLoad_wtile (s : State) (n w : Nat) (p : Base) (d : List Word) :
    ∃ x, mget WTile.rest ((s.beginLoad n w p d).coreAt n).mx.wtiles w = x ∧ x.state = .loading ∧ x.start = dStart d ∧ x.len = dRun d := by
  refine ⟨_, rfl, ?_⟩
  simp only [State.beginLoad, coreAt_onCore_same, Core.onMat, mget_mset_same, and_self]

theorem mem_joinQueue (l : List Outgoing) (o : Outgoing) : o ∈ joinQueue l o := by
  unfold joinQueue
  split <;> simp

theorem wakeFull_queues (p : Port) (beat : Nat) : (p.wakeFull beat).queues = p.queues := by
  unfold Port.wakeFull
  split <;> rfl

/-- A send that is queued stands in the queue of its peer. -/
theorem mem_enqueueSend (s : State) (port : Nat) (o : Outgoing) : o ∈ mget [] ((s.enqueueSend port o).portAt port).queues o.peer := by
  rw [State.enqueueSend, portAt_onPort_same]
  dsimp only
  split
  · simp only [mget_mset_same, mem_joinQueue]
  · simp only [wakeFull_queues, mget_mset_same, mem_joinQueue]

/-- The send of an enqueue or of a message stands in its queue. -/
theorem copyPrepared_sends {s : State} {kind n id : Nat} {o : XOForm} {p q : Base} {d : List Word} {g w : Nat} (hk : kind = 6 ∨ kind = 7)
    (hq : q.peer = some (g, w)) :
    ∃ z ∈ mget [] ((s.copyPrepared kind n id o p q d).portAt q.port).queues g,
      z.job = id ∧ z.core = n ∧ z.sent = 0 ∧ z.bytes = if kind = 6 then dLen d else 64 * dTotal d := by
  rcases hk with rfl | rfl
  all_goals
    simp only [State.copyPrepared, hq]
    exact ⟨_, mem_enqueueSend .., rfl, rfl, rfl, rfl⟩

/-- A collective that keeps its buffer has installed it, with no operand yet. -/
theorem copyPrepared_installs (s : State) (n id : Nat) (o : XOForm) (p q : Base) {d : List Word} (hd : dKeep d = true) :
    ∃ b, mget none (s.copyPrepared 8 n id o p q d).coll.bufs (dStage d) = some b ∧ b.handle = bitsOf (dW d 4) 12 20 ∧
      b.seq = bitsOf (dW d 4) 32 32 ∧ b.count = dChunks d ∧ b.ops = [] := by
  simp only [State.copyPrepared, hd, if_true, (PacketsQueued.xPackets ..).bufs]
  rw [State.installBuf]
  dsimp only
  rw [aside_coll (addPins_aside ..)]
  rw [mget_mset_same]
  exact ⟨_, rfl, rfl, rfl, rfl, rfl⟩

/-! ## Issue (R287, R328) -/

theorem xIssue_next {s : State} {kind : Nat} {o : XOForm} (h : EngineReady s 0 o.e.toNat) (hask : (s.popped 0).xAsk kind o = .ok) :
    xIssue kind o s = .next ((taken s 0).xStart kind o).stepOn := by
  rw [xIssue, moIssue_next h _ _ hask]

/-- A collective that finds no fault issues as the other copies do. -/
theorem execXcoll_eq {s : State} {o : XOForm} (hask : (s.popped 0).xAsk 8 o = .ok) : execXcoll o s = xIssue 8 o s := by
  unfold execXcoll
  rw [hask]
  exact ite_self _

theorem copy_issues {i : Instr} {kind : Nat} {o : XOForm} (hi : (i, kind) ∈ [(Instr.xcopy o, 1), (.xgat o, 2), (.xsct o, 3), (.xwload o, 4),
      (.xred o, 5), (.xwenq o, 6), (.xsend o, 7), (.xcoll o, 8)]) {s : State} (h : EngineReady s 0 o.e.toNat)
    (hask : (s.popped 0).xAsk kind o = .ok) : exec i s = .next ((taken s 0).xStart kind o).stepOn := by
  rw [← xIssue_next h hask]
  simp only [List.mem_cons, List.not_mem_nil, or_false, Prod.mk.injEq] at hi
  rcases hi with ⟨rfl, rfl⟩ | ⟨rfl, rfl⟩ | ⟨rfl, rfl⟩ | ⟨rfl, rfl⟩ | ⟨rfl, rfl⟩ | ⟨rfl, rfl⟩ | ⟨rfl, rfl⟩ | ⟨rfl, rfl⟩
  case inr.inr.inr.inr.inr.inr.inr => rw [exec_xcoll, execXcoll_eq hask]
  all_goals rfl

/-- Settles O43: the copy is counted and its job added, and then each kind prepares its own. -/
theorem copyMicroOrdersComplete : Obligations.CopyMicroOrdersComplete := by
  intro i kind o hi s d h hask hd
  obtain ⟨b, hb, hstart⟩ := xStart_begins kind hd
  have hsees := taken_copySees s 0
  have hb := hb.of_copySees hsees
  rw [hsees.baseHere, hsees.baseHere] at hb
  rw [hsees.baseHere, hsees.baseHere, hsees.turn, hsees.nextId] at hstart
  have hkept := copyPrepared_kept b kind s.turn.core s.nextId o (s.baseHere o.p.toNat) (s.baseHere o.q.toNat) d
  have hturn := hkept.turn.trans hb.turn
  rw [← hstart] at hkept hturn
  intro t q
  refine ⟨copy_issues hi h hask, ?_, ?_, fun hk => ?_, fun hk => ?_, fun hk g w hq => ?_, fun hk hkeep => ?_⟩
  · rw [State.here, hkept.ctl, hkept.turn]
    exact hb.counted
  · have hholds := hkept.copies hb.holds
    rw [← hturn] at hholds
    exact hholds
  · have hplain : t = b := hstart.trans (by
      simp only [List.mem_cons, List.not_mem_nil, or_false] at hk
      rcases hk with rfl | rfl | rfl | rfl <;> rfl)
    rw [hplain]
    exact ⟨hb.circ, hb.coll, hb.mx⟩
  · subst hk
    rw [State.here, hturn, show t = _ from hstart]
    exact beginLoad_wtile ..
  · rw [show t = _ from hstart]
    exact copyPrepared_sends hk hq
  · subst hk
    rw [show t = _ from hstart]
    exact copyPrepared_installs _ _ _ _ _ _ hkeep

end Sys2Proof.Machine

/-!
The control registers, the privilege of system instructions, and cells and leases (15_ins_fabric_system.md R346 to R349, R360 to R371;
20_drv_traps.md R441, R442).
-/

namespace Sys2Proof.Machine

open Sys2Proof.Safety

/-! ## Read-write control registers (R349, R441) -/

section
variable (s : State)

@[simp] theorem csrValue_fflags : s.csrValue 0x07 = s.here.cr.fflags.setWidth 64 := (rfl)
@[simp] theorem csrValue_fenable : s.csrValue 0x08 = s.here.cr.fenable.setWidth 64 := (rfl)
@[simp] theorem csrValue_mlive : s.csrValue 0x0B = s.here.cr.mlive.setWidth 64 := (rfl)
@[simp] theorem csrValue_tpc : s.csrValue 0x41 = s.here.tr.tpc.setWidth 64 := (rfl)
@[simp] theorem csrValue_thsel : s.csrValue 0x46 = s.here.tr.thsel.setWidth 64 := (rfl)
@[simp] theorem csrValue_mbase : s.csrValue 0x4B = s.here.tr.mbase := (rfl)
theorem csrValue_scratch {k : Nat} (hk : k < 8) : s.csrValue (0x50 + k) = mget 0 s.here.tr.hs k := by
  interval_cases k <;> rfl

variable (v x y : Word)

@[simp] theorem csrPut_fflags : s.csrPut 0x07 v x y =
    s.onHere fun k => { k with cr := { k.cr with fflags := k.cr.fflags &&& ~~~(y.setWidth 5) } } := (rfl)
@[simp] theorem csrPut_fenable : s.csrPut 0x08 v x y = s.onHere fun k => { k with cr := { k.cr with fenable := v.setWidth 5 } } := (rfl)
@[simp] theorem csrPut_mlive : s.csrPut 0x0B v x y = s.onHere fun k => { k with cr := { k.cr with mlive := v.setWidth 8 } } := (rfl)
@[simp] theorem csrPut_tpc : s.csrPut 0x41 v x y = s.onHere fun k => { k with tr := { k.tr with tpc := v.setWidth 14 } } := (rfl)
@[simp] theorem csrPut_thsel : s.csrPut 0x46 v x y = s.onHere fun k => { k with tr := { k.tr with thsel := v.setWidth 6 } } := (rfl)
@[simp] theorem csrPut_mbase : s.csrPut 0x4B v x y = s.onHere fun k => { k with tr := { k.tr with mbase := v } } := (rfl)
theorem csrPut_scratch {k : Nat} (hk : k < 8) : s.csrPut (0x50 + k) v x y =
    s.onHere fun c => { c with tr := { c.tr with hs := mset 0 c.tr.hs k v } } := by
  interval_cases k <;> rfl

end

/-- A register named by O33 is one of six, or a scratch register. -/
theorem namedCsr_cases {n : Nat} (h : n ∈ [0x07, 0x08, 0x0B, 0x41, 0x46, 0x4B, 0x50, 0x51, 0x52, 0x53, 0x54, 0x55, 0x56, 0x57]) :
    (n = 0x07 ∨ n = 0x08 ∨ n = 0x0B ∨ n = 0x41 ∨ n = 0x46 ∨ n = 0x4B) ∨ ∃ k, k < 8 ∧ n = 0x50 + k := by
  simp only [List.mem_cons, List.not_mem_nil, or_false] at h
  by_cases hn : n < 0x50
  · left; omega
  · exact .inr ⟨n - 0x50, by omega, by omega⟩

/-- A write of a named register leaves the others as they are. -/
theorem csrValue_csrPut_other (s : State) (v x y : Word) {n k : Nat}
    (hn : n ∈ [0x07, 0x08, 0x0B, 0x41, 0x46, 0x4B, 0x50, 0x51, 0x52, 0x53, 0x54, 0x55, 0x56, 0x57])
    (hk : k ∈ [0x07, 0x08, 0x0B, 0x41, 0x46, 0x4B, 0x50, 0x51, 0x52, 0x53, 0x54, 0x55, 0x56, 0x57]) (hkn : k ≠ n) :
    (s.csrPut n v x y).csrValue k = s.csrValue k := by
  obtain hn | ⟨i, hi, rfl⟩ := namedCsr_cases hn <;> obtain hk | ⟨j, hj, rfl⟩ := namedCsr_cases hk
  · rcases hn with rfl | rfl | rfl | rfl | rfl | rfl <;> rcases hk with rfl | rfl | rfl | rfl | rfl | rfl <;>
      simp at hkn ⊢
  · rcases hn with rfl | rfl | rfl | rfl | rfl | rfl <;> simp [csrValue_scratch _ hj]
  · rw [csrPut_scratch s v x y hi]
    rcases hk with rfl | rfl | rfl | rfl | rfl | rfl <;> simp
  · rw [csrPut_scratch s v x y hi, csrValue_scratch _ hj, csrValue_scratch _ hj, onHere_here]
    exact mget_mset_other _ _ _ fun h => hkn (h ▸ rfl)

/-- A write of a named register leaves the control stream and storage alone. -/
theorem csrPut_ctl_mem (s : State) (v x y : Word) {n : Nat}
    (hn : n ∈ [0x07, 0x08, 0x0B, 0x41, 0x46, 0x4B, 0x50, 0x51, 0x52, 0x53, 0x54, 0x55, 0x56, 0x57]) :
    (s.csrPut n v x y).here.c = s.here.c ∧ (s.csrPut n v x y).mem = s.mem := by
  obtain hn | ⟨i, hi, rfl⟩ := namedCsr_cases hn
  · rcases hn with rfl | rfl | rfl | rfl | rfl | rfl <;> simp
  · rw [csrPut_scratch s v x y hi]; simp

/-- A word's low bits alone. -/
theorem setWidth_setWidth_word (v : Word) {w : Nat} (h : w ≤ 64) : (v.setWidth w).setWidth 64 = v &&& BitVec.ofNat 64 (2 ^ w - 1) := by
  have hw : 2 ^ w ≤ 2 ^ 64 := Nat.pow_le_pow_right (by omega) h
  have hpos : 0 < 2 ^ w := Nat.two_pow_pos w
  apply BitVec.eq_of_toNat_eq
  rw [BitVec.toNat_and, BitVec.toNat_setWidth, BitVec.toNat_setWidth, BitVec.toNat_ofNat, Nat.mod_eq_of_lt (a := 2 ^ w - 1) (by omega),
    Nat.and_two_pow_sub_one_eq_mod, Nat.mod_eq_of_lt (lt_of_lt_of_le (Nat.mod_lt _ hpos) hw)]

/-- A flag is lost exactly where its bit is written as one. -/
theorem flags_cleared (f : BitVec 5) (y : Word) : (f &&& ~~~(y.setWidth 5)).setWidth 64 = f.setWidth 64 &&& ~~~y := by
  ext i hi
  by_cases h5 : i < 5
  · simp [h5, BitVec.getElem_setWidth, hi]
  · simp [BitVec.getElem_setWidth, BitVec.getLsbD_of_ge f i (by omega)]

theorem doCsr_next {f : Word → Word → Word} {g h : Word → Word} {o : KForm} {s : State} (hi : Issues s [(o.a, o.p)] [] (some o.d))
    (hr : csrReadOnly o.n.toNat = false) (hh : csrHandlerOnly o.n.toNat = true → s.here.c.hlevel = true) :
    doCsr f g h o s = .next (((s.readSrc o.a o.p).2.csrPut o.n.toNat (f ((s.readSrc o.a o.p).2.csrValue o.n.toNat) (s.readSrc o.a o.p).1)
      (g (s.readSrc o.a o.p).1) (h (s.readSrc o.a o.p).1)).writeDst o.d 2 ((s.readSrc o.a o.p).2.csrValue o.n.toNat)).advance := by
  have hlevel : (csrHandlerOnly o.n.toNat && !s.here.c.hlevel) = false := by
    cases hc : csrHandlerOnly o.n.toNat <;> simp [*]
  rw [doCsr]
  simp only [hlevel, hr, Bool.false_eq_true, if_false]
  exact cIssue_next hi _

/-- Settles O33: the named registers are fields of their own. -/
theorem controlRegistersAreReadAndWritten : Obligations.ControlRegistersAreReadAndWritten := by
  refine ⟨fun d n s hi => ?_, fun o s hi hr hh => ⟨?_, ?_, ?_⟩, ?_⟩
  · rw [exec_csrr, execCsrr, cIssue_next hi]
  · rw [exec_csrw, execCsrw, doCsr_next hi hr hh]; rfl
  · rw [exec_csrs, execCsrs, doCsr_next hi hr hh]; rfl
  · rw [exec_csrc, execCsrc, doCsr_next hi hr hh]; rfl
  intro s v x y
  refine ⟨?_, ?_, ?_, ?_, ?_, ?_, fun k hk => ?_, fun n hn => ⟨fun k hk => csrValue_csrPut_other s v x y hn hk, csrPut_ctl_mem s v x y hn⟩⟩
  · simpa using setWidth_setWidth_word v (w := 5) (by omega)
  · simpa using setWidth_setWidth_word v (w := 8) (by omega)
  · simpa using setWidth_setWidth_word v (w := 14) (by omega)
  · simpa using setWidth_setWidth_word v (w := 6) (by omega)
  · simp
  · simpa using flags_cleared s.here.cr.fflags y
  · rw [csrPut_scratch s v x y hk, csrValue_scratch _ hk, onHere_here]
    exact mget_mset_same ..

/-! ## Fields (R21, R442) -/

theorem report_tcause_fields {r : Report} (hs : r.stream ≤ 5) (hk : r.kind ≤ 6) :
    r.tcause.extractLsb' 13 3 = BitVec.ofNat 3 r.stream ∧ r.tcause.extractLsb' 10 3 = BitVec.ofNat 3 r.kind ∧
    r.tcause.extractLsb' 8 2 = 0 ∧ r.tcause.extractLsb' 0 8 = r.cause ∧ r.tcause.extractLsb' 16 48 = 0 := by
  have hc := r.cause.isLt
  refine ⟨?_, ?_, ?_, ?_, ?_⟩
  all_goals
    apply BitVec.eq_of_toNat_eq
    simp only [Report.tcause, w64, BitVec.extractLsb'_toNat, BitVec.ofNat_eq_ofNat, BitVec.toNat_ofNat, Nat.shiftRight_eq_div_pow]
    omega

/-- The code of a stream's state in sstate, as O29 writes it. -/
theorem code_field (e : EState) : e.code < 5 ∧ (match e with
      | .idle => 0
      | .running => 1
      | .stalled => 2
      | .done => 3
      | .stopped => 4 : BitVec 3) = BitVec.ofNat 3 e.code := by
  cases e <;> exact ⟨by decide, rfl⟩

/-- Five codes of three bits lie one beside the other. -/
theorem codes_fields {a b c d e : Nat} (ha : a < 5) (hb : b < 5) (hc : c < 5) (hd : d < 5) (he : e < 5) :
    let v := w64 (a + 8 * b + 64 * c + 512 * d + 4096 * e)
    v.extractLsb' 0 3 = BitVec.ofNat 3 a ∧ v.extractLsb' 3 3 = BitVec.ofNat 3 b ∧ v.extractLsb' 6 3 = BitVec.ofNat 3 c ∧
    v.extractLsb' 9 3 = BitVec.ofNat 3 d ∧ v.extractLsb' 12 3 = BitVec.ofNat 3 e ∧ v.extractLsb' 15 49 = 0 := by
  refine ⟨?_, ?_, ?_, ?_, ?_, ?_⟩
  all_goals
    apply BitVec.eq_of_toNat_eq
    simp only [w64, BitVec.extractLsb'_toNat, BitVec.ofNat_eq_ofNat, BitVec.toNat_ofNat, Nat.shiftRight_eq_div_pow]
    omega

/-- Settles O29, field by field. -/
theorem tcauseAndSstateHoldTheirFields : Obligations.TcauseAndSstateHoldTheirFields := by
  refine ⟨fun r => report_tcause_fields, fun s => ?_⟩
  intro v code
  have hcode (e : Stream) : code e = BitVec.ofNat 3 (s.here.eng e).state.code := (code_field _).2
  have hlt (e : Stream) : (s.here.eng e).state.code < 5 := (code_field _).1
  simp only [hcode]
  exact codes_fields (hlt .l) (hlt .a) (hlt .s) (hlt .m) (hlt .x)

/-! ## Privilege, grants and features (R346, R347, R412, R413) -/

/-- A write of a register below its level, or of a read-only one, traps whatever the operands are. -/
theorem doCsr_traps {f : Word → Word → Word} {g h : Word → Word} {o : KForm} {s : State} :
    (s.here.c.hlevel = false → csrHandlerOnly o.n.toNat = true → doCsr f g h o s = .next (s.trapAt 0x50 0)) ∧
    ((csrHandlerOnly o.n.toNat = true → s.here.c.hlevel = true) → csrReadOnly o.n.toNat = true →
      doCsr f g h o s = .next (s.trapAt 0x51 0)) := by
  refine ⟨fun hl hh => by simp [doCsr, hl, hh], fun hl hr => ?_⟩
  have hlevel : (csrHandlerOnly o.n.toNat && !s.here.c.hlevel) = false := by
    cases hc : csrHandlerOnly o.n.toNat <;> simp [*]
  simp [doCsr, hlevel, hr]

theorem csrHandlerOnly_iff (n : BitVec 7) : csrHandlerOnly n.toNat = true ↔ n = 0x05 ∨ 0x40 ≤ n.toNat := by
  simp [csrHandlerOnly, BitVec.toNat_eq]

theorem csrReadOnly_iff (n : BitVec 7) : csrReadOnly n.toNat = true ↔ n.toNat ≤ 0x04 ∨ n = 0x0C ∨
    (n = 0x40 ∨ (0x42 ≤ n.toNat ∧ n.toNat ≤ 0x45) ∨ n = 0x47 ∨ n = 0x48 ∨ n = 0x4C) := by
  simp [csrReadOnly, BitVec.toNat_eq, or_assoc]

/-- The registers that O32 names read-only are so, and are reached at this level. -/
theorem readOnly_reached {s : State} {n : BitVec 7} (h : n.toNat ≤ 0x04 ∨ n = 0x0C ∨ (s.here.c.hlevel = true ∧ (n = 0x40 ∨
      (0x42 ≤ n.toNat ∧ n.toNat ≤ 0x45) ∨ n = 0x47 ∨ n = 0x48 ∨ n = 0x4C))) :
    (csrHandlerOnly n.toNat = true → s.here.c.hlevel = true) ∧ csrReadOnly n.toNat = true := by
  rw [csrHandlerOnly_iff, csrReadOnly_iff]
  rcases h with h | rfl | ⟨hl, h⟩
  · refine ⟨fun hh => ?_, .inl h⟩
    rcases hh with rfl | hh
    · exact absurd h (by decide)
    · omega
  · exact ⟨fun hh => absurd hh (by decide), .inr (.inl rfl)⟩
  · exact ⟨fun _ => hl, .inr (.inr h)⟩

/-- Settles O32: each check comes before the operands. -/
theorem privilegeIsCheckedByLevelGrantAndFeature : Obligations.PrivilegeIsCheckedByLevelGrantAndFeature := by
  intro s
  refine ⟨fun h => ?_, fun o => ⟨fun hl hn => ?_, fun hn => ?_⟩, fun hg o u => ?_, fun u => ⟨fun hf => ?_, fun hf hg => ?_⟩, fun o hf => ?_,
    fun o v u hf => ?_⟩
  · simp [execEret, h]
  · rw [← csrHandlerOnly_iff] at hn
    rw [exec_csrw, exec_csrs, exec_csrc]
    exact ⟨doCsr_traps.1 hl hn, doCsr_traps.1 hl hn, doCsr_traps.1 hl hn⟩
  · obtain ⟨hl, hr⟩ := readOnly_reached hn
    rw [exec_csrw, exec_csrs, exec_csrc]
    exact ⟨doCsr_traps.2 hl hr, doCsr_traps.2 hl hr, doCsr_traps.2 hl hr⟩
  · simp [execStset, execStclr, execDeal, execUndeal, hg]
  · simp [execCtab, execRcirc, execCgen, hf, causeFeature]
  · simp [execCtab, execRcirc, hf, hg]
  · simp [execFdown, execFup, hf, causeFeature]
  · simp [execLease, execSpill, execFill, execUnlease, hf, causeFeature]

/-! ## Cells and leases (R360 to R371) -/

/-- A lease that has ended is no longer its core's (R371). -/
theorem endLease_lease (s : State) (n : Nat) : ((s.endLease n).coreAt n).pl.lease = none := by
  unfold State.endLease
  split
  · assumption
  · rw [coreAt_onCore_same]

theorem endLease_turn (s : State) (n : Nat) : (s.endLease n).turn = s.turn := by
  unfold State.endLease
  split
  · rfl
  · dsimp only
    split <;> rfl

section
variable {s : State}

theorem fdown_completes {o : RForm} {l m : Loc} (hf : s.feature 1 = true) (hi : Issues s [(o.a, o.p), (o.b, o.q)] [] (some o.d))
    (hd : chanField o.d = false) (hroom : s.queueRoom true true = true) (hl : s.cellCheck (s.readSrc o.a o.p).1 = .ok l)
    (hm : s.localBlock ((s.readSrc o.a o.p).2.readSrc o.b o.q).1.toNat = .ok m) (hx : cellDescOk (s.readBlk m) = true) :
    exec (.fdown o) s = .next (((((s.readSrc o.a o.p).2.readSrc o.b o.q).2.warn m 64).commitC
      (s.cAccess l (s.readSrc o.a o.p).1.toNat (.fdown ⟨(s.readBlk m).data, 0xF000⟩) o.d true true 9) false).2.advance) := by
  rw [exec_fdown, execFdown]
  simp only [hf, hd, Bool.not_true, Bool.false_eq_true, if_false]
  rw [cIssue_next hi]
  simp only [hl, hm, hx, hroom, Bool.not_true, Bool.false_eq_true, if_false]

theorem fup_completes {o : RForm} {l m : Loc} (hf : s.feature 1 = true) (hi : Issues s [(o.a, o.p), (o.b, o.q)] [] (some o.d))
    (hd : chanField o.d = false) (hroom : s.queueRoom true true = true) (hl : s.cellCheck (s.readSrc o.a o.p).1 = .ok l)
    (hm : s.valueBlock ((s.readSrc o.a o.p).2.readSrc o.b o.q).1.toNat = .ok m) :
    exec (.fup o) s = .next (((((s.readSrc o.a o.p).2.readSrc o.b o.q).2.onCtl fun c => { c with epoch := c.epoch + 1 }).commitC
      { s.cAccess l (s.readSrc o.a o.p).1.toNat (.fup ((s.readSrc o.a o.p).2.readSrc o.b o.q).1.toNat (s.readBlk m)) o.d true true 9 with
        epoch := s.here.c.epoch + 1 } false).2.advance) := by
  rw [exec_fup, execFup]
  simp only [hf, hd, Bool.not_true, Bool.false_eq_true, if_false]
  rw [cIssue_next hi]
  simp only [hl, hm, hroom, Bool.not_true, Bool.false_eq_true, if_false]
  rfl

/-- What a spill and a fill ask of their register and their slot (R370). -/
structure SlotReady (s : State) (o : VForm) (k : Nat) : Prop where
  slot : s.here.leaseSlot (s.readSrc o.a o.p).1 o.s = some k
  free : (s.here.cr.tcheck && s.here.vBusyC (physV (s.here.eng .a).rb o.v.toNat)) = false
  mine : s.here.pl.lent.contains (physV (s.here.eng .a).rb o.v.toNat) = false

variable {o : VForm} {k : Nat} (hf : s.feature 3 = true) (hi : Issues s [(o.a, o.p)] [] none) (h : SlotReady s o k)
include hf hi h

theorem spill_completes (hroom : s.queueRoom false true = true) :
    exec (.spill o) s = .next (((s.readSrc o.a o.p).2.commitC (s.cAccess (.scr s.turn.core 0) 0
      (.spill k (mget Vec.zero s.here.ve.v (physV (s.here.eng .a).rb o.v.toNat))) 0 false true 9) false).2.advance) := by
  obtain ⟨hslot, hfree, hmine⟩ := h
  rw [exec_spill, execSpill]
  simp only [hf, Bool.not_true, Bool.false_eq_true, if_false]
  rw [cIssue_next hi]
  simp only [hslot, hfree, hmine, hroom, Bool.not_true, Bool.false_eq_true, if_false]

theorem fill_completes (hroom : s.queueRoom true false = true) :
    let area := ((s.here.pl.lease.map Lease.area).getD 0) + 256 * k
    exec (.fill o) s = .next (((s.readSrc o.a o.p).2.commitC
      { s.cAccess (.scr s.turn.core area) area (.fill k) 0 true false 9 with
        dst := 64 + physV (s.here.eng .a).rb o.v.toNat
        res := match s.slotValue s.turn.core k with
          | some v => .vec v
          | none => .none } false).2.advance) := by
  obtain ⟨hslot, hfree, hmine⟩ := h
  rw [exec_fill, execFill]
  simp only [hf, Bool.not_true, Bool.false_eq_true, if_false]
  rw [cIssue_next hi]
  simp only [hslot, hfree, hmine, hroom, Bool.not_true, Bool.false_eq_true, if_false] <;> rfl

end

/-- Settles O36, instruction by instruction. -/
theorem cellAndLeaseInstructionsComplete : Obligations.CellAndLeaseInstructionsComplete := by
  intro s
  refine ⟨fun hf o l m hi hd hroom hl => ⟨fdown_completes hf hi hd hroom hl, fup_completes hf hi hd hroom hl⟩,
    fun hf => ⟨fun o hi => ?_, ?_, ?_⟩⟩
  · rw [exec_lease, execLease]
    simp only [hf, Bool.not_true, Bool.false_eq_true, if_false]
    rw [cIssue_next hi]
  · intro o k hi a r hslot hbusy hmine
    have hfree : (s.here.cr.tcheck && s.here.vBusyC r) = false := by
      cases hc : s.here.cr.tcheck
      · rfl
      · exact hbusy hc
    have h : SlotReady s o k := ⟨hslot, hfree, hmine⟩
    exact ⟨spill_completes hf hi h, fill_completes hf hi h⟩
  · intro o l hi a hl hz hcore hspills
    refine ⟨?_, ?_⟩
    · rw [exec_unlease, execUnlease]
      simp only [hf, Bool.not_true, Bool.false_eq_true, if_false]
      rw [cIssue_next hi]
      simp only [hl]
      rw [if_neg (by simp [a] at hz hcore ⊢; exact ⟨hz, hcore⟩), if_neg (by simp [hspills])]
    · rw [State.here, endLease_turn, readSrc_turn]
      exact endLease_lease ..

end Sys2Proof.Machine

/-!
Exceptions of the control stream (20_drv_traps.md R438 to R445): entry, the end of a task that faults in its handler, calls and the return.
-/

namespace Sys2Proof.Machine

open Sys2Proof.Safety

theorem setCore_sameRest (s : State) (n : Nat) (k : Core) : SameRest s (s.setCore n k) := by
  constructor
  case bytes => exact fun _ => rfl
  case dies => exact fun _ => rfl
  all_goals rfl

/-! ## Trap entry (R439 to R443) -/

/-- The restart bit of tctl that a report of kind 1 sets is its stream's. -/
theorem restart_bit {stream : Nat} (h : 1 ≤ stream) {k : Nat} (hk : k < 5) :
    (1#5 <<< (stream - 1)).getLsbD k = decide (stream = k + 1) := by
  rw [BitVec.getLsbD_shiftLeft, BitVec.getLsbD_one]
  by_cases hs : stream = k + 1
  · subst hs; simp [hk]
  · simp only [hs, decide_false, Bool.and_eq_false_iff, Bool.not_eq_false', decide_eq_true_eq, decide_eq_false_iff_not]
    omega

/-- Settles O28: the core that has entered is written down, field by field. -/
theorem trapEntrySavesAndEntersTheHandler : Obligations.TrapEntrySavesAndEntersTheHandler := by
  intro s n r hl hv hstream
  rw [enterTrap_enters r hl hv]
  intro t c
  have hc : c = _ := coreAt_setCore_same s n _
  rw [hc]
  refine ⟨rfl, rfl, rfl, rfl, rfl, rfl, rfl, rfl, rfl, rfl, fun k hk => ?_, ?_, rfl, rfl, rfl, rfl, rfl, rfl, rfl, rfl, rfl, rfl, rfl, rfl, rfl,
    fun m hm => coreAt_setCore_other s n m _ hm, setCore_sameRest ..⟩
  · dsimp only
    by_cases hkind : r.kind = 1
    · rw [if_pos hkind, restart_bit (hstream hkind) hk]
      simp [hkind]
    · simp [hkind]
  · cases r.hist <;> rfl

/-! ## The task that ends (R40, R440) -/

/-- A task that fails leaves its core free, and is no longer in the store. -/
theorem failTask_frees (s : State) (n : Nat) : ((s.failTask n).coreAt n).pl.task = none ∧ ((s.failTask n).coreAt n).pl.phase = .free ∧
    (s.failTask n).taskAt (s.taskNo n) = none := by
  rw [State.failTask]
  generalize State.stopEngines _ n = v
  have h := reapLimbo_standing ((v.setTask (s.taskNo n) none).onCore n Core.freed)
  rw [standing_task h, standing_phase h, standing_taskAt h, coreAt_onCore_same, onCore_taskAt, taskAt_setTask_same]
  exact ⟨rfl, rfl, rfl⟩

/-- Settles O30: the two ends of trap entry that enter no handler, and the end of the task. -/
theorem handlerLevelFaultsFailTheTask : Obligations.HandlerLevelFaultsFailTheTask := by
  refine fun s n r => ⟨fun hl => ?_, fun hl hv => ?_, failTask_frees s n⟩
  · rw [State.enterTrap, if_pos hl]
  · rw [State.enterTrap, if_neg (by simp [hl]), if_pos hv]

/-! ## Return (R20, R445) -/

theorem streamOf_idx (e : Stream) : streamOf e.idx = e := by cases e <;> rfl
theorem idx_streamOf {i : Nat} (h : i < 5) : (streamOf i).idx = i := by interval_cases i <;> rfl

/-- A core whose engines that a mask names restart. -/
def Core.restarted (c : Core) (m : BitVec 5) : Core :=
  (((List.range 5).filter m.getLsbD).map streamOf).foldl (fun k e => k.onEng e Eng.restart) c

theorem restartStreams_nodup (m : BitVec 5) : (((List.range 5).filter m.getLsbD).map streamOf).Nodup := by
  refine List.Nodup.map_on (fun i hi j hj hij => ?_) (List.nodup_range.filter _)
  simp only [List.mem_filter, List.mem_range] at hi hj
  rw [← idx_streamOf hi.1, hij, idx_streamOf hj.1]

theorem mem_restartStreams (m : BitVec 5) {e : Stream} (he : e.idx < 5) :
    e ∈ ((List.range 5).filter m.getLsbD).map streamOf ↔ m.getLsbD e.idx = true := by
  simp only [List.mem_map, List.mem_filter, List.mem_range]
  constructor
  · rintro ⟨i, ⟨hi, hm⟩, rfl⟩
    rwa [idx_streamOf hi]
  · exact fun hm => ⟨e.idx, ⟨he, hm⟩, streamOf_idx e⟩

theorem restarted_eng (c : Core) (m : BitVec 5) {e : Stream} (he : e.idx < 5) :
    (c.restarted m).eng e = if m.getLsbD e.idx = true then (c.eng e).restart else c.eng e := by
  rw [Core.restarted, eng_foldl_onEng _ _ _ _ (restartStreams_nodup m)]
  simp only [mem_restartStreams m he]

/-- Nothing but engines changes. -/
theorem restarted_rest (c : Core) (m : BitVec 5) : ∃ l, c.restarted m = { c with ve := { c.ve with engs := l } } :=
  List.foldlRecOn (motive := fun k => ∃ l, k = { c with ve := { c.ve with engs := l } }) _ _ ⟨_, rfl⟩
    fun _ ⟨_, hl⟩ _ _ => ⟨_, by rw [hl]; rfl⟩

theorem restart_of_running {e : Eng} (h : e.state ≠ .stopped) : e.restart = e := by
  unfold Eng.restart
  split
  · rw [if_neg h]
  · rfl

theorem restart_of_stopped {e : Eng} {f : EFault} (h : e.state = .stopped) (hf : e.fault = some f) :
    e.restart = { e with state := .running, step := f.resume, fault := none, closing := false } := by
  simp only [Eng.restart, hf, h, if_true]

/-- A return from the handler without tctl.fail. -/
theorem leaveTrap_returns {s : State} {n : Nat} (h : (s.coreAt n).tr.fail = false) :
    s.leaveTrap n = s.setCore n { (s.coreAt n).restarted (s.coreAt n).tr.restart with
      c := { ((s.coreAt n).restarted (s.coreAt n).tr.restart).c with
        hlevel := false, pc := ((s.coreAt n).restarted (s.coreAt n).tr.restart).tr.tpc, ready := s.beat + 1, issued := true } } := by
  rw [Core.restarted, List.foldl_map, List.foldl_filter]
  simp only [State.leaveTrap, h, Bool.false_eq_true, if_false]

theorem hasNext_of_notLast {s : State} (h : NotLast s) : s.hasNext = true := by
  simp only [NotLast, State.hasNext, decide_eq_true_eq] at *
  omega

/-- The five streams that restart are not C. -/
theorem restarting_idx {e : Stream} (h : e ∈ [Stream.l, .a, .s, .m, .x]) : e.idx < 5 := by
  cases e <;> simp [Stream.idx] at h ⊢

/-- Exactly the stopped streams that tctl names restart (R445). -/
theorem restarted_engines (c : Core) : ∀ e ∈ [Stream.l, .a, .s, .m, .x],
    (c.tr.restart.getLsbD e.idx = false → (c.restarted c.tr.restart).eng e = c.eng e) ∧
    (c.tr.restart.getLsbD e.idx = true → (c.eng e).state ≠ .stopped → (c.restarted c.tr.restart).eng e = c.eng e) ∧
    ∀ f, c.tr.restart.getLsbD e.idx = true → (c.eng e).state = .stopped → (c.eng e).fault = some f →
      (c.restarted c.tr.restart).eng e = { c.eng e with state := .running, step := f.resume, fault := none, closing := false } := by
  intro e he
  rw [restarted_eng c _ (restarting_idx he)]
  refine ⟨fun hr => if_neg (by simp [hr]), fun hr hs => (if_pos hr).trans (restart_of_running hs),
    fun f hr hs hf => (if_pos hr).trans (restart_of_stopped hs hf)⟩

/-- Settles O31: the return is restarted engines in a core at its own pc. -/
theorem callsTrapAndEretReturns : Obligations.CallsTrapAndEretReturns := by
  refine ⟨fun c s h => ?_, fun c s => rfl, fun s hl hflight => ⟨fun hfail => ?_, fun hfail => ?_⟩⟩
  · rw [exec_sysc, execSysc, if_pos (hasNext_of_notLast h)]
  · rw [exec_eret, execEret, if_neg (by simp [hl]), if_neg (by simp [hflight]), State.leaveTrap]
    simp only [State.here] at hfail
    simp only [hfail, if_true]
    rfl
  · refine ⟨s.leaveTrap s.turn.core, ?_, ?_⟩
    · rw [exec_eret, execEret, if_neg (by simp [hl]), if_neg (by simp [hflight])]
    · have hhere (k : Core) : (s.setCore s.turn.core k).here = k := coreAt_setCore_same ..
      obtain ⟨l, hrest⟩ : ∃ l, s.here.restarted s.here.tr.restart = _ := restarted_rest ..
      rw [leaveTrap_returns hfail, hhere]
      refine ⟨rfl, ?_, rfl, ?_, ?_, ?_, ?_, ?_, ?_, ?_, ?_, restarted_engines s.here, fun m hm => coreAt_setCore_other s _ m _ hm,
        setCore_sameRest ..⟩
      all_goals exact hrest ▸ rfl

end Sys2Proof.Machine

/-!
The boot of the device (19_drv_launch.md R403 to R406, R412): measurements, states, and the storage that training leaves.
-/

namespace Sys2Proof.Machine

open Sys2Proof.Safety

/-! ## Measurements and boot states (R405, R406) -/

section
variable (s : State)

@[simp] theorem measure_meas (i : Nat) (d : List Byte) :
    mget 0 (s.measure i d).boot.meas i = Config.sha384 (bytesOf (mget 0 s.boot.meas i) ++ d) := mget_mset_same ..
theorem bootTo_boot (state error : Nat) : (s.bootTo state error).boot = { s.boot with state := state, error := error } := (rfl)

/-- What the ROM leaves as it starts: the first boot state, M0 extended four times, and all else as it was. -/
theorem romStart_boot : s.romStart.boot.state = 1 ∧ s.romStart.boot.error = 0 ∧ s.romStart.boot.go = s.boot.go ∧
    s.romStart.boot.committed = s.boot.committed ∧ s.romStart.boot.flash = s.boot.flash := ⟨rfl, rfl, rfl, rfl, rfl⟩

theorem romStart_meas : mget 0 s.romStart.boot.meas 0 =
    Config.sha384 (bytesOf (Config.sha384 (bytesOf (Config.sha384 (bytesOf (Config.sha384 (bytesOf (mget 0 s.boot.meas 0) ++
      bytesOf Config.romDigest)) ++ bytesOf (Config.fusedKeyHash 0))) ++ bytesOf (Config.fusedKeyHash 1))) ++
      leBytes (max Config.fusedVersion.toNat s.boot.committed) 4) := by
  rw [State.romStart, bootTo_boot]
  simp only [measure_meas]
  rfl

end

/-! ## Verification (R403) -/

theorem bundleVerified_verifies {s : State} {b : Bundle} (h1 : s.boot.state = 1) (hb : s.boot.flash = some b) :
    ∃ t : State, exec .bundleVerified s = .next t ∧
      (bundleCode s.fused b = 0 → t.boot.state = 2 ∧ t.boot.error = 0 ∧ t.boot.svn = b.svn.toNat ∧
        mget 0 t.boot.meas 1 = Config.sha384 (bytesOf (mget 0 s.boot.meas 1) ++ b.head)) ∧
      (bundleCode s.fused b ≠ 0 → t.boot.state = 8 ∧ t.boot.error = bundleCode s.fused b ∧ t.boot.meas = s.boot.meas) := by
  rw [exec_bundleVerified, execBundleVerified, if_neg (by simp [h1])]
  simp only [hb]
  split
  next hbad => exact ⟨_, rfl, fun h => absurd h hbad, fun _ => ⟨rfl, rfl, rfl⟩⟩
  next hgood => exact ⟨_, rfl, fun _ => ⟨rfl, rfl, rfl, measure_meas ..⟩, fun h => absurd h hgood⟩

/-! ## Training (R405) -/

/-- A cleared range holds the default, and the rest what it held. -/
theorem mget_mclear {α : Type} (d : α) (m : SMap α) (k n j : Nat) :
    mget d (mclear m k n) j = if k ≤ j ∧ j < k + n then d else mget d m j := by
  unfold mclear
  induction m with
  | nil => simp [mget]
  | cons e t ih =>
    obtain ⟨i, v⟩ := e
    rw [List.filter_cons]
    by_cases hij : i = j
    · subst hij
      by_cases hin : k ≤ i ∧ i < k + n
      · rw [if_neg (by simp; omega), ih, if_pos hin, if_pos hin]
      · rw [if_pos (by simp; omega), if_neg hin, mget, if_pos rfl, mget, if_pos rfl]
    · have hj : mget d ((i, v) :: t) j = mget d t j := by rw [mget, if_neg hij]
      rw [hj, ← ih]
      split
      · rw [mget, if_neg hij]
      · rfl

/-- HBM after training: zero where it is, and the rest as before. -/
theorem mget_clearHbm_in {α : Type} (d : α) {k : Nat} (m : SMap α) {a : Nat} (h : a < 2 ^ 34 * k) : mget d (clearHbm k m) a = d := by
  rw [clearHbm, mget_mclear, mget_mclear, if_pos (c := 0 ≤ a ∧ _) ⟨Nat.zero_le _, by omega⟩, ite_self]
theorem mget_clearHbm_out {α : Type} (d : α) {k : Nat} (m : SMap α) {a : Nat} (h : 2 ^ 34 * k ≤ a) (hr : a < 2 ^ 37 * k) :
    mget d (clearHbm k m) a = mget d m a := by
  rw [clearHbm, mget_mclear, mget_mclear, if_neg (by omega), if_neg (by omega)]

theorem linkHbmTrainingDone_trains {s : State} (h2 : s.boot.state = 2) :
    (∃ t : State, exec (.linkHbmTrainingDone true) s = .next t ∧ t.boot.state = 3 ∧ t.boot.error = 0 ∧
      (∀ a, a < 2 ^ 40 → t.mem.byte a = 0) ∧ (∀ a, 2 ^ 40 ≤ a → a < 2 ^ 43 → t.mem.byte a = s.mem.byte a) ∧
      ∀ b, b < 2 ^ 34 → mget 0 t.mem.tags b = 0 ∧ t.mem.keyAt b = none) ∧
    ∃ t : State, exec (.linkHbmTrainingDone false) s = .next t ∧ t.boot.state = 8 ∧ t.boot.error = 7 ∧ t.mem = s.mem := by
  simp only [exec_linkHbmTrainingDone, execLinkHbmTrainingDone, h2, ne_eq, not_true_eq_false, if_false, Bool.not_true, Bool.not_false,
    Bool.false_eq_true, if_true]
  refine ⟨⟨_, rfl, rfl, rfl, fun a ha => mget_clearHbm_in _ _ ha, fun a ha hr => mget_clearHbm_out _ _ ha hr, fun b hb => ⟨?_, ?_⟩⟩,
    _, rfl, rfl, rfl, rfl⟩
  · exact mget_clearHbm_in _ _ (by omega)
  · have hkey : mget none (clearHbm 1 s.mem.keys) b = none := mget_clearHbm_in _ _ (by omega)
    simp [Mem.keyAt, hkey]

/-! ## Operation (R406, R412) -/

theorem featureGo_goes {s : State} (h3 : s.boot.state = 3) : ∃ t : State, exec .featureGo s = .next t ∧
    (s.boot.accepted &&& ~~~0x1FF#64 = 0 → t.boot.state = 4 ∧ t.boot.go = true ∧ t.boot.refused = false ∧
      mget 0 t.boot.meas 2 = Config.sha384 (bytesOf (mget 0 s.boot.meas 2) ++ bytesOf s.boot.accepted)) ∧
    (s.boot.accepted &&& ~~~0x1FF#64 ≠ 0 → t.boot.state = 3 ∧ t.boot.go = s.boot.go ∧
      t.boot.refused = true ∧ t.boot.accepted = 0) := by
  rw [exec_featureGo, execFeatureGo, if_neg (by simp [h3])]
  split
  next hbad => exact ⟨_, rfl, fun h => absurd h hbad, fun _ => ⟨h3, rfl, rfl, rfl⟩⟩
  next hgood => exact ⟨_, rfl, fun _ => ⟨rfl, rfl, rfl, measure_meas ..⟩, fun h => absurd h hgood⟩

/-- Settles O46, transition by transition. -/
theorem bootRunsToOperation : Obligations.BootRunsToOperation := by
  intro s started
  refine ⟨fun b => ⟨_, rfl, ⟨rfl, rfl, rfl, fun a => rfl, rfl, rfl, rfl, rfl, romStart_meas _⟩, rfl, rfl⟩,
    ⟨_, rfl, ⟨rfl, rfl, rfl, fun a => rfl, rfl, rfl, rfl, rfl, romStart_meas _⟩, rfl, rfl⟩,
    fun b => bundleVerified_verifies, linkHbmTrainingDone_trains, featureGo_goes⟩

end Sys2Proof.Machine

/-!
The fleet: what posts and requests leave of its registers, and quotes, updates, temperatures and launch packets (19_drv_launch.md R433 to
R435; 21_fleet.md R464, R468, R484, R485).
-/

namespace Sys2Proof.Machine

open Sys2Proof.Safety

/-! ## What posts and requests leave alone -/

/-- The scheduler node, the fleet registers, the migration engine and the posts that each timetable has had on the beat. -/
def State.ledger (s : State) : Node × Fleet × Mig × (Nat → Nat) := (s.node, s.fleet, s.mig, fun d => (s.dieAt d).posts)

section
variable {s t : State}

theorem ledger_of_aside (h : t.aside = s.aside) : t.ledger = s.ledger := by
  unfold State.ledger
  rw [aside_node h, aside_fleet h, aside_mig h, funext (aside_posts h)]

theorem ledger_node (h : t.ledger = s.ledger) : t.node = s.node := congrArg (·.1) h
theorem ledger_fleet (h : t.ledger = s.ledger) : t.fleet = s.fleet := congrArg (·.2.1) h
theorem ledger_mig (h : t.ledger = s.ledger) : t.mig = s.mig := congrArg (·.2.2.1) h
theorem ledger_posts (h : t.ledger = s.ledger) (d : Nat) : (t.dieAt d).posts = (s.dieAt d).posts := congrFun (congrArg (·.2.2.2) h) d

/-- A fold of acts that leave the ledger alone leaves it alone. -/
theorem foldl_ledger {α : Type} (f : State → α → State) (l : List α) (s : State) (h : ∀ t a, (f t a).ledger = t.ledger) :
    (l.foldl f s).ledger = s.ledger :=
  List.foldlRecOn (motive := fun t => t.ledger = s.ledger) l f rfl fun t ht a _ => (h t a).trans ht

end

section
variable (s : State)

@[simp] theorem onMem_ledger (f : Mem → Mem) : (s.onMem f).ledger = s.ledger := (rfl)
@[simp] theorem onCore_ledger (n : Nat) (f : Core → Core) : (s.onCore n f).ledger = s.ledger := (rfl)
@[simp] theorem onOwner_ledger (o : Nat) (f : Owner → Owner) : (s.onOwner o f).ledger = s.ledger := (rfl)
@[simp] theorem setTask_ledger (n : Nat) (x : Option Task) : (s.setTask n x).ledger = s.ledger := (rfl)
@[simp] theorem onTask_ledger (n : Nat) (f : Task → Task) : (s.onTask n f).ledger = s.ledger := (rfl)
/-- An update of a die that leaves its posts alone. -/
theorem onDie_ledger (d : Nat) {f : Die → Die} (hf : ∀ x, (f x).posts = x.posts) : (s.onDie d f).ledger = s.ledger :=
  ledger_of_aside (onDie_aside s d hf)

@[simp] theorem touch_ledger (b : Nat) : (s.touch b).ledger = s.ledger := ledger_of_aside (touch_aside ..)
@[simp] theorem addPins_ledger (l : List Nat) : (s.addPins l).ledger = s.ledger := ledger_of_aside (addPins_aside ..)
@[simp] theorem dropPins_ledger (l : List Nat) : (s.dropPins l).ledger = s.ledger := ledger_of_aside (dropPins_aside ..)
@[simp] theorem writeArea_ledger (key : BitVec 512) (lo n : Nat) (cells : List Host.Cell) : (s.writeArea key lo n cells).ledger = s.ledger :=
  foldl_ledger _ _ _ fun t b => touch_ledger t b

@[simp] theorem noteLookup_ledger (o va : Nat) : (s.noteLookup o va).ledger = s.ledger := by
  unfold State.noteLookup
  split
  · rfl
  · exact ledger_of_aside (countUncorr_aside ..)
  · rfl
@[simp] theorem noteConds_ledger (o : Nat) (core : Option Nat) (ws : List Word) (k : Nat) : (s.noteConds o core ws k).ledger = s.ledger := by
  unfold State.noteConds
  dsimp only
  repeat' split
  all_goals simp
@[simp] theorem offerDesc_ledger (die : Nat) (ws : List Word) (o : Nat) (core : Option Nat) (slice : Nat) (box : Option Nat) :
    (s.offerDesc die ws o core slice box).2.ledger = s.ledger := by
  unfold State.offerDesc
  dsimp only
  repeat' split
  · rfl
  · simp
  · rfl
  · rfl
  · dsimp only
    rw [onDie_ledger, setTask_ledger, addPins_ledger]
    · rfl
    · exact fun _ => rfl

@[simp] theorem takeSlot_ledger (t k : Nat) : (s.takeSlot t k).ledger = s.ledger := by
  unfold State.takeSlot
  split
  · rfl
  · simp only [writeArea_ledger]
    exact onDie_ledger _ _ fun _ => rfl
@[simp] theorem gateNow_ledger (n : Nat) : (s.gateNow n).ledger = s.ledger := by
  unfold State.gateNow
  split <;> simp
@[simp] theorem askSlot_ledger (t : Nat) : (s.askSlot t).ledger = s.ledger := by
  unfold State.askSlot
  split
  · rfl
  · split
    · rfl
    · split
      · simp
      · exact onDie_ledger _ _ fun _ => rfl
@[simp] theorem grantSlot_ledger (d : Nat) : (s.grantSlot d).ledger = s.ledger := by
  unfold State.grantSlot
  split
  · dsimp only
    split <;> simp
  · rfl
@[simp] theorem freeSlot_ledger (t : Nat) : (s.freeSlot t).ledger = s.ledger := by
  unfold State.freeSlot
  split
  · split
    · rw [grantSlot_ledger]
      exact onDie_ledger _ _ fun _ => rfl
    · rfl
  · rfl
@[simp] theorem requestPreempt_ledger (n : Nat) : (s.requestPreempt n).ledger = s.ledger := by
  unfold State.requestPreempt
  split <;> simp
@[simp] theorem preemptSlice_ledger (slice : Nat) : (s.preemptSlice slice).ledger = s.ledger := by
  refine foldl_ledger _ _ _ fun t e => ?_
  split
  · split
    · split <;> simp
    · rfl
  · rfl

end

/-! ## Attestation and update (R484, R485) -/

theorem quote_snapshots (s : State) :
    ∃ t : State, exec .quote s = .next t ∧ t.fleet.quote = s.quoteWords ∧ t.fleet.qgo = true ∧ t.fleet.qdone = false :=
  ⟨_, exec_quote s, rfl, rfl, rfl⟩

theorem quoteSigned_signs {s : State} (h : s.fleet.qgo = true) :
    ∃ t : State, exec .quoteSigned s = .next t ∧ t.fleet.qsig = Config.quoteSign s.fleet.quote ∧ t.fleet.qdone = true :=
  ⟨_, (exec_quoteSigned s).trans (if_pos h), rfl, rfl⟩

theorem nonceWrite_writes (s : State) {i : Nat} (w : Word) (h : i < 6) :
    ∃ t : State, exec (.nonceWrite i w) s = .next t ∧ mget 0 t.fleet.nonce i = w ∧ t.fleet.qdone = false :=
  ⟨_, (exec_nonceWrite s i w).trans (if_neg (by omega)), mget_mset_same .., rfl⟩

theorem updateVerify_begins {s : State} (h : s.fleet.upStatus ≠ .busy) :
    ∃ t : State, exec .updateVerify s = .next t ∧ t.fleet.upStatus = .busy ∧ t.fleet.upResult = 0 :=
  ⟨_, (exec_updateVerify s).trans (if_neg (by simpa using h)), rfl, rfl⟩

theorem uploadWindowWrite_puts {s : State} (hb : s.boot.state = 4 ∨ s.boot.state = 8) (off : Nat) (bs : List Byte)
    (hlen : off + bs.length ≤ 2 ^ 24) : ∃ t : State, exec (.uploadWindowWrite off bs) s = .next t ∧
      t.fleet.upStatus = .idle ∧ ∀ i, i < bs.length → mget 0 t.fleet.window (off + i) = bs.getD i 0 := by
  have hup : s.updatable = true := by simpa [State.updatable] using hb
  exact ⟨_, (exec_uploadWindowWrite s off bs).trans (if_neg (by simp [hup]; omega)), rfl, fun i hi => mget_msetList_in _ _ _ _ _ hi⟩

theorem updateVerifyDone_answers {s : State} (hb : s.fleet.upStatus = .busy) (hi : s.fleet.installing = false) :
    ∃ t : State, exec .updateVerifyDone s = .next t ∧
      t.fleet.upResult = s.uploadCode ∧ t.fleet.upStatus = if s.uploadCode = 0 then .verified else .idle := by
  rw [exec_updateVerifyDone, execUpdateVerifyDone, if_neg (by simp [hb, hi])]
  generalize s.uploadCode = code
  exact ⟨_, rfl, rfl, rfl⟩

theorem updateInstall_begins {s : State} (h : s.fleet.upStatus = .verified) :
    ∃ t : State, exec .updateInstall s = .next t ∧ t.fleet.upStatus = .busy ∧ t.fleet.installing = true :=
  ⟨_, (exec_updateInstall s).trans (if_pos h), rfl, rfl⟩

theorem updateInstallDone_ends {s : State} (hb : s.fleet.upStatus = .busy) (hi : s.fleet.installing = true) :
    (∃ t : State, exec (.updateInstallDone true) s = .next t ∧ t.boot.flash = some s.fleet.uploaded ∧ t.fleet.upStatus = .installed) ∧
    ∃ t : State, exec (.updateInstallDone false) s = .next t ∧ t.boot = s.boot ∧ t.fleet.upStatus = .idle ∧ t.fleet.upResult = 9 := by
  simp only [exec_updateInstallDone, execUpdateInstallDone, hb, hi]
  exact ⟨⟨_, rfl, rfl, rfl⟩, _, rfl, rfl, rfl, rfl⟩

/-! ## Temperatures (R464, R468) -/

/-- A running maximum is at least each reading. -/
theorem le_foldl_max (f : Nat → Nat) (l : List Nat) (m : Nat) :
    m ≤ l.foldl (fun a k => max a (f k)) m ∧ ∀ k ∈ l, f k ≤ l.foldl (fun a k => max a (f k)) m := by
  induction l generalizing m with
  | nil => simp
  | cons a t ih =>
    obtain ⟨hm, hall⟩ := ih (max m (f a))
    rw [List.foldl_cons]
    refine ⟨(le_max_left ..).trans hm, fun k hk => ?_⟩
    rcases List.mem_cons.1 hk with rfl | hk
    · exact (le_max_right ..).trans hm
    · exact hall k hk

/-- A mortise at the critical threshold makes the state critical (R468). -/
theorem thermal_critical {f : Fleet} {m : Nat} (hm : m < 28) (h : 4 * f.tcrit ≤ mget 0 f.temps m) : f.thermal = 2 := by
  unfold Fleet.thermal
  exact if_pos (h.trans ((le_foldl_max (fun k => mget 0 f.temps k) _ 0).2 m (List.mem_range.2 hm)))

theorem setThermal_fleet (s : State) (f : Fleet) : (s.setThermal f).fleet = { f with tstate := f.thermal } := by
  unfold State.setThermal
  generalize List.range 192 = cores
  dsimp only
  split
  · exact ledger_fleet (foldl_ledger _ _ _ fun t n => requestPreempt_ledger t n)
  · rfl

/-- In the critical state the frame is stretched (R45). -/
theorem setThermal_stretch (s : State) {f : Fleet} (h : f.thermal = 2) : (s.setThermal f).frame.stretch = true := by
  have hcritical : (s.setThermal f).fleet.tstate = 2 := by rw [setThermal_fleet]; exact h
  rw [State.setThermal] at hcritical ⊢
  generalize (if f.thermal = 2 ∧ s.fleet.tstate ≠ 2 then _ else _ : State) = u at hcritical ⊢
  have hu : u.fleet.tstate = 2 := hcritical
  change u.stretchNow = true
  simp [State.stretchNow, hu]

theorem thermalChange_keeps (s : State) {m v : Nat} (hm : m < 28) (hv : v < 65536) :
    ∃ t : State, exec (.thermalChange m v) s = .next t ∧ mget 0 t.fleet.temps m = v ∧ mget 0 t.fleet.tmax m = max (mget 0 s.fleet.tmax m) v ∧
      (4 * s.fleet.tcrit ≤ v → t.fleet.tstate = 2 ∧ t.frame.stretch = true) := by
  refine ⟨_, (exec_thermalChange s m v).trans (if_neg (by omega)), ?_⟩
  rw [setThermal_fleet, Nat.mod_eq_of_lt hv]
  refine ⟨mget_mset_same .., mget_mset_same .., fun hcrit => ?_⟩
  have hcritical := thermal_critical (m := m) hm (f := { s.fleet with
    temps := mset 0 s.fleet.temps m v, tmax := mset 0 s.fleet.tmax m (max (mget 0 s.fleet.tmax m) v) }) (by rw [mget_mset_same]; exact hcrit)
  exact ⟨hcritical, setThermal_stretch s hcritical⟩

/-! ## Launch packets (R433 to R435) -/

/-- A packet that finds none under way is taken at once. -/
theorem launchPacket_taken {s : State} (src : LaunchSrc) (ws : List Word) (hp : s.node.pending = none) (hi : s.node.inbox = []) :
    exec (.launchPacket ⟨src, ws⟩) s = .next (s.takeLaunch src ws) := by
  have hnode : { s with node := { s.node with pending := none, inbox := [] } } = s := by
    rw [show ({ s.node with pending := none, inbox := [] } : Node) = s.node by rw [← hp, ← hi]]
  rw [exec_launchPacket, execLaunchPacket]
  simp only [hi, List.length_nil, List.nil_append, State.serveLaunches, hp, hnode]

/-- A good packet with a new number from the registered node is accepted. -/
theorem takeLaunch_accepts {s : State} {src : LaunchSrc} {ws : List Word} {g : Launch} (hg : launchOf ws = some g)
    (hf : s.node.from_ src = true) (hq : s.node.lastSeq ≤ g.seq) :
    (s.takeLaunch src ws).node = { s.node with lastSeq := g.seq + 1, pending := some g, aside :=
      (if g.prior = 0 ∨ (s.node.aside.contains g.prior) = true then s.node.aside else s.node.aside ++ [g.prior]) } := by
  unfold State.takeLaunch
  simp only [hg]
  rw [if_neg (by simp [hf]; omega)]
  exact ledger_node (preemptSlice_ledger ..)

/-- Another packet is dropped. -/
theorem takeLaunch_drops {s : State} {src : LaunchSrc} {ws : List Word}
    (h : launchOf ws = none ∨ s.node.from_ src = false ∨ ∃ g, launchOf ws = some g ∧ g.seq < s.node.lastSeq) :
    s.takeLaunch src ws = s.dropLaunch := by
  unfold State.takeLaunch
  split
  next => rfl
  next g hg =>
    rw [if_pos]
    simp only [hg, reduceCtorEq, Option.some.injEq, exists_eq_left', false_or] at h
    simpa using h

theorem mem_setAside (l : List Nat) {p : Nat} (hp : p ≠ 0) : p ∈ if p = 0 ∨ l.contains p = true then l else l ++ [p] := by
  split
  next h => simpa [hp] using h
  next => simp

/-- Once its descriptors are posted or refused, a packet is answered. -/
theorem endLaunch_answers {u : State} (g : Launch) (n : Nat) (rows : List Nat) (hi : u.node.inbox = []) :
    (u.endLaunch g n rows).node.pending = none ∧ (u.endLaunch g n rows).node.aside = u.node.aside ∧
      (u.endLaunch g n rows).node.reports = u.node.reports ++ [u.residency g n rows] := by
  unfold State.endLaunch
  simp only [hi, List.length_nil, State.serveLaunches]
  split <;> exact ⟨rfl, rfl, rfl⟩

/-- A post is one more of its timetable's on the beat, and leaves the node alone. -/
theorem postDesc_posts (s : State) (die : Nat) (ws : List Word) (o : Nat) (core : Option Nat) (slice : Nat) (box : Option Nat) :
    (s.postDesc die ws o core slice box).2.node = s.node ∧
      ∀ d, ((s.postDesc die ws o core slice box).2.dieAt d).posts ≤ (s.dieAt d).posts + 1 := by
  have hoffer := offerDesc_ledger s die ws o core slice box
  rw [State.postDesc]
  dsimp only
  generalize s.offerDesc die ws o core slice box = r at hoffer ⊢
  refine ⟨(ledger_node hoffer :), fun d => ?_⟩
  rw [dieAt_onDie]
  have hposts (m : Nat) := ledger_posts hoffer m
  split
  next h => subst h; exact (congrArg (· + 1) (hposts d)).le
  next => exact (hposts d).le.trans (Nat.le_succ _)

/-- The posts of a packet are at most its descriptors. -/
theorem postAll_posts (ds : List (List Word)) {s u : State} {owner slice : Nat} {rows : List Nat}
    (h : s.postAll owner slice ds = .ok (rows, u)) :
    u.node = s.node ∧ ∀ d, (u.dieAt d).posts ≤ (s.dieAt d).posts + ds.length := by
  induction ds generalizing s rows with
  | nil =>
    obtain ⟨-, rfl⟩ := Prod.mk.inj (Except.ok.inj h)
    exact ⟨rfl, fun d => le_rfl⟩
  | cons w rest ih =>
    obtain ⟨hnode, hposts⟩ := postDesc_posts s (descDie w) w owner none slice none
    simp only [State.postAll] at h
    split at h
    · exact absurd h nofun
    · split at h
      · exact absurd h nofun
      · split at h
        next r v hrest =>
          obtain ⟨-, rfl⟩ := Prod.mk.inj (Except.ok.inj h)
          obtain ⟨hn, hp⟩ := ih hrest
          exact ⟨hn.trans hnode, fun d => (hp d).trans (by have := hposts d; rw [List.length_cons]; omega)⟩
        next => exact absurd h nofun

/-- The state in which a packet's tasks are posted: the slice's held entries are released (R435). -/
def State.released (s : State) (g : Launch) : State :=
  { s with node := { s.node with aside := s.node.aside.filter (· != g.slice) } }

/-- The posts of a packet, or the status of its refusal. -/
def State.packetPosts (s : State) (g : Launch) : Except Nat (List Nat × State) :=
  if s.node.ownerMask.getLsbD g.owner && decide (g.owner < 16) && (s.ownerAt g.owner).live then s.postAll g.owner g.slice g.descs
  else .error 4

theorem packetPosts_posts {s u : State} {g : Launch} {rows : List Nat} (h : s.packetPosts g = .ok (rows, u)) :
    u.node = s.node ∧ ∀ d, (u.dieAt d).posts ≤ (s.dieAt d).posts + g.descs.length := by
  unfold State.packetPosts at h
  split at h
  · exact postAll_posts _ h
  · exact absurd h nofun

theorem execSliceSetAside_eq {s : State} {g : Launch} (hp : s.node.pending = some g) (hr : s.node.rows = none) (hon : s.sliceOn g.prior = false) :
    execSliceSetAside s = match (s.released g).packetPosts g with
      | .error e => .next ((s.released g).endLaunch g e [])
      | .ok (rows, u) => .next (if g.descs.any fun d => decide (4 < (u.dieAt (descDie d)).posts) then
          { u with node := { u.node with rows := some rows } } else u.endLaunch g (u.launchStatus g) rows) := by
  unfold execSliceSetAside
  split
  next h => exact absurd (h.symm.trans hp) nofun
  next g' h =>
    obtain rfl : g' = g := Option.some.inj (h.symm.trans hp)
    dsimp only
    split
    next rows h => exact absurd (h.symm.trans hr) nofun
    next => exact if_neg (by simp [hon])

/-- A packet whose prior slice has left is answered at once where its posts have room on the beat. -/
theorem sliceSetAside_answers {s : State} {g : Launch} (hp : s.node.pending = some g) (hi : s.node.inbox = []) (hr : s.node.rows = none)
    (hon : s.sliceOn g.prior = false) (hlen : g.descs.length ≤ 4) (hposts : ∀ d, (s.dieAt d).posts = 0) :
    ∃ t : State, exec .sliceSetAside s = .next t ∧ t.node.pending = none ∧ g.slice ∉ t.node.aside ∧
      ∃ u n rows, t.node.reports = s.node.reports ++ [State.residency u g n rows] := by
  have haside : g.slice ∉ (s.released g).node.aside := by simp [State.released]
  rw [exec_sliceSetAside, execSliceSetAside_eq hp hr hon]
  split
  next e _ =>
    obtain ⟨hnone, heq, hreports⟩ := endLaunch_answers (u := s.released g) g e [] hi
    exact ⟨_, rfl, hnone, heq ▸ haside, _, _, _, hreports⟩
  next rows u hposted =>
    obtain ⟨hnode, hle⟩ := packetPosts_posts hposted
    have hroom : g.descs.any (fun d => decide (4 < (u.dieAt (descDie d)).posts)) = false := by
      simp only [List.any_eq_false, decide_eq_true_eq, not_lt]
      exact fun d _ => (hle _).trans (by rw [show ((s.released g).dieAt (descDie d)).posts = 0 from hposts _]; omega)
    obtain ⟨hnone, heq, hreports⟩ := endLaunch_answers (u := u) g (u.launchStatus g) rows (by rw [hnode]; exact hi)
    rw [hnode] at heq hreports
    exact ⟨_, congrArg _ (if_neg (by simp [hroom])), hnone, heq ▸ haside, _, _, _, hreports⟩

theorem execSliceSetAside_posted {s : State} {g : Launch} {rows : List Nat} (hp : s.node.pending = some g) (hr : s.node.rows = some rows) :
    execSliceSetAside s = .next (if g.descs.any fun d => decide (4 < (s.dieAt (descDie d)).posts) then s
      else s.endLaunch g (s.launchStatus g) rows) := by
  unfold execSliceSetAside
  split
  next h => exact absurd (h.symm.trans hp) nofun
  next g' h =>
    obtain rfl : g' = g := Option.some.inj (h.symm.trans hp)
    dsimp only
    split
    next r h => rw [Option.some.inj (h.symm.trans hr)]
    next h => exact absurd hr (h rows)

/-- A packet whose tasks are posted is answered when the beat has room for all that it posted. -/
theorem sliceSetAside_posted {s : State} {g : Launch} {rows : List Nat} (hp : s.node.pending = some g) (hi : s.node.inbox = [])
    (hr : s.node.rows = some rows) :
    ((∀ d ∈ g.descs, (s.dieAt (descDie d)).posts ≤ 4) → ∃ t : State, exec .sliceSetAside s = .next t ∧ t.node.pending = none ∧
      t.node.reports = s.node.reports ++ [State.residency s g (s.launchStatus g) rows]) ∧
    ((∃ d ∈ g.descs, 4 < (s.dieAt (descDie d)).posts) → exec .sliceSetAside s = .next s) := by
  rw [exec_sliceSetAside, execSliceSetAside_posted hp hr]
  refine ⟨fun h => ?_, fun h => congrArg _ (if_pos (by simpa using h))⟩
  obtain ⟨hnone, -, hreports⟩ := endLaunch_answers g (s.launchStatus g) rows hi
  exact ⟨_, congrArg _ (if_neg (by simpa using h)), hnone, hreports⟩

theorem sliceSetAside_waits {s : State} {g : Launch} (hp : s.node.pending = some g) (hr : s.node.rows = none) (hon : s.sliceOn g.prior = true) :
    exec .sliceSetAside s = .next s := by
  rw [exec_sliceSetAside, execSliceSetAside]
  simp only [hp, hr, hon, if_true]

/-- A packet that finds one under way waits. -/
theorem launchPacket_waits {s : State} (src : LaunchSrc) (ws : List Word) (hp : s.node.pending ≠ none) :
    exec (.launchPacket ⟨src, ws⟩) s = .next { s with node := { s.node with inbox := s.node.inbox ++ [(src, ws)] } } := by
  obtain ⟨g, hg⟩ := Option.ne_none_iff_exists'.1 hp
  rw [exec_launchPacket, execLaunchPacket]
  simp only [State.serveLaunches, hg]

/-- Settles O56, operation by operation. -/
theorem fleetOperationsComplete : Obligations.FleetOperationsComplete := by
  intro s
  refine ⟨quote_snapshots s, quoteSigned_signs, fun i w => nonceWrite_writes s w, updateVerify_begins, uploadWindowWrite_puts,
    updateVerifyDone_answers, updateInstall_begins, updateInstallDone_ends, fun m v => thermalChange_keeps s, fun src ws => ⟨?_, ?_⟩, ?_⟩
  · intro hp hi
    refine ⟨fun g hg hf hq => ⟨_, launchPacket_taken src ws hp hi, ?_⟩, fun h => ⟨_, launchPacket_taken src ws hp hi, ?_⟩⟩
    · rw [takeLaunch_accepts hg hf hq]
      exact ⟨rfl, rfl, hi, fun hprior => mem_setAside _ hprior⟩
    · rw [takeLaunch_drops h]
      exact ⟨rfl, hp, rfl⟩
  · exact fun hp => ⟨_, launchPacket_waits src ws hp, rfl, rfl, rfl⟩
  · exact fun g hp hi => ⟨fun hr hon hlen hposts => sliceSetAside_answers hp hi hr hon hlen hposts,
      fun hr hon => sliceSetAside_waits hp hr hon, fun rows hr => sliceSetAside_posted hp hi hr⟩

end Sys2Proof.Machine

/-!
Migration (21_fleet.md R473 to R483): the granules that a pass reads and sends, the records that a session takes, and tasks that move.
-/

namespace Sys2Proof.Machine

open Sys2Proof.Safety

/-! ## Words of a key (R415, R473) -/

/-- The number of words, the first lowest. -/
def wordSum (w : Nat → Word) (n : Nat) : Nat := (List.range n).foldl (fun v i => v + (w i).toNat * 2 ^ (64 * i)) 0

theorem wordSum_succ (w : Nat → Word) (n : Nat) : wordSum w (n + 1) = wordSum w n + (w n).toNat * 2 ^ (64 * n) := by
  rw [wordSum, List.range_succ, List.foldl_append]
  rfl

theorem wordSum_lt (w : Nat → Word) (n : Nat) : wordSum w n < 2 ^ (64 * n) := by
  induction n with
  | zero => exact Nat.one_pos
  | succ n ih =>
    have hw : (w n).toNat + 1 ≤ 2 ^ 64 := (w n).isLt
    have hle := Nat.mul_le_mul_right (2 ^ (64 * n)) hw
    rw [wordSum_succ, show 64 * (n + 1) = 64 + 64 * n by ring, pow_add]
    rw [Nat.add_mul, Nat.one_mul] at hle
    omega

/-- Each word stands at its place. -/
theorem wordSum_word (w : Nat → Word) {n i : Nat} (hi : i < n) : wordSum w n / 2 ^ (64 * i) % 2 ^ 64 = (w i).toNat := by
  induction n with
  | zero => exact absurd hi (Nat.not_lt_zero i)
  | succ n ih =>
    have hpos : 0 < 2 ^ (64 * i) := Nat.two_pow_pos _
    rw [wordSum_succ]
    rcases Nat.lt_succ_iff_lt_or_eq.1 hi with hlt | rfl
    · obtain ⟨k, rfl⟩ := Nat.exists_eq_add_of_lt hlt
      rw [show 64 * (i + k + 1) = 64 * i + (64 + 64 * k) by ring, pow_add, pow_add, ← mul_assoc, mul_right_comm, mul_comm _ (2 ^ (64 * i)),
        Nat.add_mul_div_left _ _ hpos, mul_comm (2 ^ 64), ← mul_assoc, Nat.add_mul_mod_self_right]
      exact ih hlt
    · rw [mul_comm, Nat.add_mul_div_left _ _ hpos, Nat.div_eq_of_lt (wordSum_lt w i), Nat.zero_add, Nat.mod_eq_of_lt (w i).isLt]

theorem extract_wordSum (w : Nat → Word) {n i N : Nat} (hi : i < n) (hN : N = 64 * n) :
    (BitVec.ofNat N (wordSum w n)).extractLsb' (64 * i) 64 = w i := by
  subst hN
  apply BitVec.eq_of_toNat_eq
  rw [BitVec.extractLsb'_toNat, BitVec.toNat_ofNat, Nat.mod_eq_of_lt (wordSum_lt w n), Nat.shiftRight_eq_div_pow, wordSum_word w hi]

/-! ## Blocks as they are sent (R475) -/

/-- What a block is sent from: the storage without dirty bits and counters of errors, and the owners. -/
def State.sealed (s : State) : Mem × SMap Owner := ({ s.mem with dirty := [], uncorr := [], ulast := [] }, s.owners)

/-- A block as a storage and its owners send it. -/
def blkSent (x : Mem × SMap Owner) (o b : Nat) : Blk := State.sentBlk { State.reset with mem := x.1, owners := x.2 } o b

section
variable {s t : State}

theorem sentBlk_sealed (s : State) (o b : Nat) : s.sentBlk o b = blkSent s.sealed o b := (rfl)
theorem sentBlk_of_sealed (h : t.sealed = s.sealed) (o b : Nat) : t.sentBlk o b = s.sentBlk o b := by
  rw [sentBlk_sealed, h, ← sentBlk_sealed]
theorem sealed_byte (h : t.sealed = s.sealed) (a : Nat) : t.mem.byte a = s.mem.byte a := congrArg (fun x => Mem.byte x.1 a) h

/-! ## A pass (R473, R475, R478) -/

/-- A block of the granule at l is read. -/
def State.partRead (s : State) (l : Loc) (i : Nat) : State :=
  let x := l.plus (64 * i)
  let bad := mget false s.mem.bad (blkOf x)
  let u := if bad then s.countUncorr x else s
  u.onMig fun m => { (if bad then m.refuse 1 else m) with part := m.part ++ [s.sentBlk m.owner (blkOf x)] }

theorem partRead_reads (s : State) (l : Loc) (i : Nat) : (s.partRead l i).sealed = s.sealed ∧
    ∃ c, (s.partRead l i).mig = { s.mig with refused := c, part := s.mig.part ++ [s.sentBlk s.mig.owner (blkOf (l.plus (64 * i)))] } := by
  unfold State.partRead
  dsimp only
  split <;> exact ⟨rfl, _, rfl⟩

theorem partReads_read (l : Loc) (is : List Nat) (s : State) : (is.foldl (fun t i => t.partRead l i) s).sealed = s.sealed ∧
    ∃ c, (is.foldl (fun t i => t.partRead l i) s).mig =
      { s.mig with refused := c, part := s.mig.part ++ is.map fun i => s.sentBlk s.mig.owner (blkOf (l.plus (64 * i))) } := by
  induction is generalizing s with
  | nil => exact ⟨rfl, s.mig.refused, by simp⟩
  | cons i is ih =>
    obtain ⟨hsealed, c, hmig⟩ := partRead_reads s l i
    obtain ⟨hsealed', c', hmig'⟩ := ih (s.partRead l i)
    refine ⟨hsealed'.trans hsealed, c', ?_⟩
    rw [List.foldl_cons, hmig', hmig]
    simp only [sentBlk_of_sealed hsealed, List.map_cons, List.append_assoc, List.singleton_append]

theorem upFrom_eq_map (a n : Nat) : upFrom a n = (List.range n).map (a + ·) := by
  induction n generalizing a with
  | zero => rfl
  | succ n ih =>
    rw [upFrom, ih, List.range_succ_eq_map, List.map_cons, List.map_map]
    exact congrArg _ (List.map_congr_left fun i _ => by simp; omega)

/-- Whether an entry's granule is to be sent, and the storage with its dirty bit taken. -/
def State.dirtyTaken (s : State) (l : Loc) : Bool × Mem :=
  match s.mig.taken with
  | some d => (d, s.mem)
  | none => s.mem.takeDirty l

theorem dirtyTaken_dirty (s : State) (l : Loc) : (s.dirtyTaken l).1 = s.mig.taken.getD (s.mem.takeDirty l).1 := by
  unfold State.dirtyTaken
  split <;> simp [*]

theorem dirtyTaken_sealed (s : State) (l : Loc) : State.sealed { s with mem := (s.dirtyTaken l).2 } = s.sealed := by
  unfold State.dirtyTaken
  split
  · rfl
  · cases l <;> rfl

/-- Further blocks of an entry's granule are read, and once all are its record is sent. -/
def State.entryRead (s : State) (key : BitVec 256) (va : Word) (l : Loc) : State :=
  let s := s.draw.2.readPart l (1 + s.draw.1 % 64)
  if s.mig.part.length = 64 then s.onMig fun m => m.sendGranule key va l else s

/-- The work on an entry whose dirty bit is taken. -/
def State.entryWork (s : State) (dirty : Bool) (key : BitVec 256) (va : Word) (l : Loc) : State :=
  if !s.mig.full && !dirty then s.onMig Mig.step
  else
    let s := s.onMig fun m => { m with taken := some dirty }
    if s.mig.part == [] && s.mig.pending.any fun e => e.2 == storeAddr l / 4096 then s
    else s.entryRead key va l

theorem passEntry_eq {key : BitVec 256} {va : Word} {l : Loc} (hl : s.listEntry s.mig.pos = some (va, l)) (hk : s.mig.key = some key) :
    s.passEntry = State.entryWork { s with mem := (s.dirtyTaken l).2 } (s.dirtyTaken l).1 key va l := by
  rw [State.passEntry, hl, hk]
  rfl

/-- An entry that is to be sent, and whose last record is acknowledged, is worked on. -/
theorem entryWork_eq {dirty : Bool} {key : BitVec 256} {va : Word} {l : Loc} (hd : s.mig.full = true ∨ dirty = true)
    (hp : s.mig.part = [] → ∀ e ∈ s.mig.pending, e.2 ≠ storeAddr l / 4096) :
    s.entryWork dirty key va l = (s.onMig fun m => { m with taken := some dirty }).entryRead key va l := by
  have hsend : (!s.mig.full && !dirty) = false := by rcases hd with h | h <;> simp [h]
  have hpending : (s.mig.part == [] && s.mig.pending.any fun e => e.2 == storeAddr l / 4096) = false := by
    by_cases h : s.mig.part = []
    · simpa [h] using hp h
    · simp [h]
  exact (if_neg (ne_true_of_eq_false hsend)).trans (if_neg (ne_true_of_eq_false hpending))

/-- The next k blocks of the granule at l, as a pass sends them. -/
def State.nextBlks (s : State) (l : Loc) (k : Nat) : List Blk :=
  (List.range k).map fun i => s.sentBlk s.mig.owner (blkOf (l.plus (64 * (s.mig.part.length + i))))

theorem readPart_reads (s : State) (l : Loc) (n : Nat) : (s.readPart l n).sealed = s.sealed ∧ ∃ c, (s.readPart l n).mig =
    { s.mig with refused := c, part := s.mig.part ++ s.nextBlks l (min n (64 - s.mig.part.length)) } := by
  have hnext (k : Nat) : s.nextBlks l k =
      (upFrom s.mig.part.length k).map fun i => s.sentBlk s.mig.owner (blkOf (l.plus (64 * i))) := by
    rw [upFrom_eq_map, List.map_map]
    rfl
  rw [hnext]
  exact partReads_read l (upFrom s.mig.part.length (min n (64 - s.mig.part.length))) s

theorem entryRead_reads (s : State) (key : BitVec 256) (va : Word) (l : Loc) (hlen : s.mig.part.length < 64) :
    (s.entryRead key va l).sealed = s.sealed ∧ ∃ k, 0 < k ∧ s.mig.part.length + k ≤ 64 ∧ ∃ c,
      (s.entryRead key va l).mig = if (s.mig.part ++ s.nextBlks l k).length = 64
        then { s.mig with refused := c, part := s.mig.part ++ s.nextBlks l k : Mig }.sendGranule key va l
        else { s.mig with refused := c, part := s.mig.part ++ s.nextBlks l k } := by
  obtain ⟨hsealed, c, hmig⟩ := readPart_reads s.draw.2 l (1 + s.draw.1 % 64)
  have hread : s.entryRead key va l = if (s.draw.2.readPart l (1 + s.draw.1 % 64)).mig.part.length = 64
    then (s.draw.2.readPart l (1 + s.draw.1 % 64)).onMig fun m => m.sendGranule key va l else s.draw.2.readPart l (1 + s.draw.1 % 64) := rfl
  rw [hread]
  generalize s.draw.2.readPart l (1 + s.draw.1 % 64) = u at hsealed hmig ⊢
  generalize hk : min (1 + s.draw.1 % 64) (64 - s.draw.2.mig.part.length) = k at hmig
  have hpart : s.draw.2.mig.part.length = s.mig.part.length := rfl
  refine ⟨Eq.trans ?_ hsealed, k, by omega, by omega, c, ?_⟩
  · split <;> rfl
  · have hu : u.mig = { s.mig with refused := c, part := s.mig.part ++ s.nextBlks l k } := hmig
    rw [hu]
    split
    next => exact congrArg (Mig.sendGranule · key va l) hu
    next => exact hu

theorem endPass_mig (s : State) : ∃ b a, s.endPass.mig = { s.mig with busy := b, abort := a } := by
  unfold State.endPass
  split <;> exact ⟨_, _, rfl⟩

/-- A pass works on its entry: what O55 says of a step of it. -/
theorem migrationPass_works {key : BitVec 256} {va : Word} {l : Loc} (h5 : s.feature 5 = true) (hrecv : s.mig.recv = false) (hgo : s.mig.go = false)
    (hbusy : s.mig.busy = true) (hover : s.mig.over = false) (hk : s.mig.key = some key) (hl : s.listEntry s.mig.pos = some (va, l))
    (hd : s.mig.full = true ∨ s.mig.taken.getD (s.mem.takeDirty l).1 = true) (hlen : s.mig.part.length < 64)
    (hp : s.mig.part = [] → ∀ e ∈ s.mig.pending, e.2 ≠ storeAddr l / 4096) :
    ∃ t : State, exec .migrationPass s = .next t ∧ (∀ a, t.mem.byte a = s.mem.byte a) ∧
      ∃ k, 0 < k ∧ s.mig.part.length + k ≤ 64 ∧
        let bs := s.mig.part ++ (List.range k).map fun i => s.sentBlk s.mig.owner (blkOf (l.plus (64 * (s.mig.part.length + i))))
        (bs.length < 64 → t.mig.pos = s.mig.pos ∧ t.mig.part = bs ∧ t.mig.granules = s.mig.granules) ∧
        (bs.length = 64 → t.mig.pos = s.mig.pos + 1 ∧ t.mig.part = [] ∧
          t.mig.granules = s.mig.granules ++ [s.mig.granuleRecord key va bs] ∧
          t.mig.pending = s.mig.pending ++ [(s.mig.seq + 1, storeAddr l / 4096)]) := by
  have hexec : exec .migrationPass s = .next s.passEntry.endPass := by
    rw [exec_migrationPass, execMigrationPass, if_neg (by simp [hbusy]), if_neg (by simp [h5, hrecv, hgo]), if_neg (by simp [hbusy]),
      if_neg (by simp [hover])]
  rw [passEntry_eq hl hk] at hexec
  have hsnap := dirtyTaken_sealed s l
  have hdirty := dirtyTaken_dirty s l
  generalize s.dirtyTaken l = d at hexec hsnap hdirty
  rw [entryWork_eq (s := { s with mem := d.2 }) (hdirty ▸ hd) hp] at hexec
  obtain ⟨hsealed, k, hpos, hle, c, hmig⟩ := entryRead_reads
    (State.onMig { s with mem := d.2 } fun m => { m with taken := some d.1 }) key va l hlen
  generalize State.entryRead _ key va l = u at hexec hsealed hmig
  have hblks : State.nextBlks (State.onMig { s with mem := d.2 } fun m => { m with taken := some d.1 }) l k = s.nextBlks l k :=
    List.map_congr_left fun i _ => sentBlk_of_sealed (s := s) hsnap _ _
  rw [hblks] at hmig
  obtain ⟨b, a, hend⟩ := endPass_mig u
  refine ⟨_, hexec, fun p => by rw [endPass_mem]; exact sealed_byte (hsealed.trans hsnap) p, k, hpos, hle, fun hbs => ?_, fun hbs => ?_⟩
  · rw [if_neg (by exact ne_of_lt hbs)] at hmig
    rw [hend, hmig]
    exact ⟨rfl, rfl, rfl⟩
  · rw [if_pos (by exact hbs)] at hmig
    rw [hend, hmig]
    exact ⟨rfl, rfl, rfl, rfl⟩

/-! ## Sessions (R473) -/

theorem migrationPass_begins (h5 : s.feature 5 = true) (h8 : s.boot.state ≠ 8) (hbusy : s.mig.busy = false) (hrecv : s.mig.recv = false)
    (hgo : s.mig.go = false) :
    ∃ t : State, exec .migrationPass s = .next t ∧ t.mig.busy = true ∧ t.mig.pos = 0 ∧ t.mig.sent = 0 ∧ t.mig.refused = 0 := by
  rw [exec_migrationPass, execMigrationPass, if_neg (by simp [h8]), if_neg (by simp [h5, hrecv, hgo]), if_pos (by simp [hbusy])]
  exact ⟨_, rfl, rfl, rfl, rfl, rfl⟩

theorem migrationReceive_begins (h5 : s.feature 5 = true) (h8 : s.boot.state ≠ 8) (hbusy : s.mig.busy = false) (hrecv : s.mig.recv = true)
    (hab : s.mig.aborted = false) : ∃ t : State, exec .migrationReceive s = .next t ∧ t.mig.busy = true := by
  rw [exec_migrationReceive, execMigrationReceive, if_neg h8, if_neg (by simp [h5, hrecv, hbusy, hab])]
  exact ⟨_, rfl, rfl⟩

theorem sessionKeyInstall_installs (w : Word) (h5 : s.feature 5 = true) (h8 : s.boot.state ≠ 8) (hbusy : s.mig.busy = false) :
    ∃ t : State, exec (.sessionKeyInstall w) s = .next t ∧ t.mig.seq = 0 ∧ t.mig.seen = [] ∧ ∃ k, t.mig.key = some k ∧
      ∀ i, i < 4 → k.extractLsb' (64 * i) 64 = if i = 3 then w else mget 0 s.mig.keyBuf i := by
  rw [exec_sessionKeyInstall, execSessionKeyInstall, if_neg h8, if_neg (by simp [h5, hbusy])]
  exact ⟨_, rfl, rfl, rfl, _, rfl, fun i hi => extract_wordSum (fun i => if i = 3 then w else mget 0 s.mig.keyBuf i) hi rfl⟩

theorem msessWrite_clears {w : Word} (h5 : s.feature 5 = true) (h8 : s.boot.state ≠ 8) (hbusy : s.mig.busy = false)
    (hz : bitsOf w 32 32 = 0) (hne : w.setWidth 32 ≠ s.mig.msess) : ∃ t : State, exec (.msessWrite w) s = .next t ∧
      t.mig.msess = w.setWidth 32 ∧ t.mig.key = none ∧ t.mig.aborted = false := by
  rw [exec_msessWrite, execMsessWrite, if_neg h8, if_neg (by simp [h5, hbusy, hz]), if_neg hne]
  exact ⟨_, rfl, rfl, rfl, rfl⟩

theorem migrationAbort_ends (h5 : s.feature 5 = true) (hbusy : s.mig.busy = true) (h8 : s.boot.state ≠ 8) :
    ∃ t : State, exec .migrationAbort s = .next t ∧
      (s.mig.go = true → t.mig.busy = false ∧ t.mig.go = false ∧ t.mig.result = 7) ∧ (s.mig.recv = true → t.mig.busy = false) ∧
      (s.mig.recv = false → s.mig.pending = [] → s.mig.taken = none → t.mig.busy = false) ∧
      (s.mig.recv = false → s.mig.go = false → (s.mig.pending ≠ [] ∨ s.mig.taken ≠ none ∧ s.mig.pos ≤ s.mig.mcount) →
        t.mig.busy = true ∧ t.mig.abort = true) := by
  rw [exec_migrationAbort, execMigrationAbort, if_neg h8, if_neg (by simp [h5, hbusy])]
  cases hgo : s.mig.go with
  | true =>
    rw [if_pos rfl]
    exact ⟨_, rfl, fun _ => ⟨rfl, rfl, rfl⟩, fun _ => rfl, fun _ _ _ => rfl, fun _ h => absurd h nofun⟩
  | false =>
    rw [if_neg nofun]
    cases hrecv : s.mig.recv with
    | true =>
      rw [if_pos rfl]
      exact ⟨_, rfl, nofun, fun _ => rfl, nofun, nofun⟩
    | false =>
      rw [if_neg nofun]
      refine ⟨_, rfl, nofun, nofun, fun _ hp ht => ?_, fun _ _ h => ?_⟩
      · rw [State.endPass, if_pos (by simp [State.onMig, Mig.over, hbusy, hrecv, hp, ht])]
        rfl
      · rw [State.endPass, if_neg]
        · exact ⟨hbusy, rfl⟩
        · rcases h with h | ⟨ht, hle⟩
          · simp [State.onMig, h]
          · have hsome : s.mig.taken.isNone = false := by simpa [Option.isNone_eq_false_iff, Option.isSome_iff_ne_none] using ht
            simp [State.onMig, Mig.over, hsome, Nat.not_lt.2 hle]

theorem recordAck_acknowledges (q : Nat) : ∃ t : State, exec (.recordAck q) s = .next t ∧
    t.mig.pending = s.mig.pending.filter fun e => e.1 != q := by
  obtain ⟨b, a, hend⟩ := endPass_mig (s.onMig fun m => { m with pending := m.pending.filter fun e => e.1 != q })
  exact ⟨_, exec_recordAck s q, by rw [hend]; rfl⟩

/-! ## Records (R476, R477) -/

theorem setOut_mig (l : List Access) (s : State) : (s.setOut l).mig = s.mig := by
  induction l generalizing s with
  | nil => rfl
  | cons a l ih => exact ih _

/-- What sets out leaves earlier accesses alone. -/
theorem setOut_accAt_old (l : List Access) {s : State} {id : Nat} (h : id < s.nextId) : (s.setOut l).accAt id = s.accAt id := by
  induction l generalizing s with
  | nil => rfl
  | cons a l ih =>
    rw [State.setOut, ih (by exact Nat.lt_succ_of_lt h), accAt_setAcc_other _ _ _ _ (by exact h.ne)]
    rfl

/-- Accesses set out under the next names, one after the other. -/
theorem setOut_accAt {l : List Access} {s : State} {i : Nat} {a : Access} (h : l[i]? = some a) : (s.setOut l).accAt (s.nextId + i) = some a := by
  induction l generalizing s i with
  | nil => exact absurd h nofun
  | cons b l ih =>
    rw [State.setOut]
    cases i with
    | zero =>
      obtain rfl : b = a := Option.some.inj h
      exact (setOut_accAt_old l (by exact Nat.lt_succ_self s.nextId)).trans (accAt_setAcc_same ..)
    | succ i =>
      rw [show s.nextId + (i + 1) = s.nextId + 1 + i by omega]
      exact ih (s := s.fresh.2.setAcc s.fresh.1 (some b)) h

/-- The writes that a granule's places and blocks set out. -/
theorem granuleWrites_at {ls : List Loc} {i : Nat} {l : Loc} (owner : Nat) (b : Nat → Blk) (hi : i < 64) (hl : ls[i]? = some l) :
    ((ls.zip ((List.range 64).map b)).map fun e => granuleWrite owner e.1 e.2)[i]? = some (granuleWrite owner l (b i)) := by
  have hb : ((List.range 64).map b)[i]? = some (b i) := by
    rw [List.getElem?_map, List.getElem?_range hi]
    rfl
  have hzip : (ls.zip ((List.range 64).map b))[i]? = some (l, b i) := List.getElem?_zip_eq_some.2 ⟨hl, hb⟩
  rw [List.getElem?_map, hzip]
  rfl

section
variable {g : GranuleRec} (hbusy : s.mig.busy = true) (hrecv : s.mig.recv = true) (hab : s.mig.aborted = false) (hgo : s.mig.go = false)
include hbusy hrecv hab hgo

theorem granuleRecord_breaks (hg : s.mig.genuine g.session g.seq g.words g.gcm = false) :
    ∃ t : State, exec (.granuleRecord g) s = .next t ∧ t.mig.aborted = true ∧ t.mig.busy = false ∧ t.mem = s.mem := by
  rw [exec_granuleRecord, execGranuleRecord, if_neg (by simp [hbusy, hrecv, hab, hgo]), if_pos (by simp [hg])]
  exact ⟨_, rfl, rfl, rfl, rfl⟩

variable (hg : s.mig.genuine g.session g.seq g.words g.gcm = true) (ht : g.tags.length = 64) (hd : g.data.length = 4096)
include hg ht hd

theorem granuleRecord_refuses (hstale : s.mig.stale g.seq = true) :
    exec (.granuleRecord g) s = .next (s.onMig fun m => m.refuse 1) := by
  rw [exec_granuleRecord, execGranuleRecord, if_neg (by simp [hbusy, hrecv, hab, hgo]), if_neg (by simp [hg, ht, hd]), if_pos hstale]

theorem granuleRecord_writes {ls : List Loc} (hstale : s.mig.stale g.seq = false)
    (hls : (s.onMig fun m => m.accept g.seq).granulePlaces g.va.toNat = some ls) :
    ∃ t : State, exec (.granuleRecord g) s = .next t ∧ t.mem = s.mem ∧ t.mig = (s.mig.accept g.seq).took ∧
      ∀ i l, i < 64 → ls[i]? = some l → (t.accAt (s.nextId + i)).map (fun a => (a.loc, a.op, a.owner)) =
        some (l, .wblk 0 64 (blkOfBytes (((cryptData (s.mig.key.getD 0) g.session g.seq g.data).drop (64 * i)).take 64)
          ((cryptTags (s.mig.key.getD 0) g.session g.seq g.tags).getD i 0)), s.mig.owner) := by
  rw [exec_granuleRecord, execGranuleRecord, if_neg (by simp [hbusy, hrecv, hab, hgo]), if_neg (by simp [hg, ht, hd]),
    if_neg (by simp [hstale])]
  simp only [hls]
  refine ⟨_, rfl, setOut_mem .., congrArg Mig.took (setOut_mig ..), fun i l hi hl => ?_⟩
  have hat := setOut_accAt (s := s.onMig fun m => m.accept g.seq) (granuleWrites_at s.mig.owner
    (fun i => blkOfBytes (((cryptData (s.mig.key.getD 0) g.session g.seq g.data).drop (64 * i)).take 64)
      ((cryptTags (s.mig.key.getD 0) g.session g.seq g.tags).getD i 0)) hi hl)
  exact congrArg (Option.map fun a : Access => (a.loc, a.op, a.owner)) hat

end

/-! ## Tasks that move (R480 to R483) -/

theorem sendState_outbox (m : Mig) (kind : Nat) (req : Bool) (needs : Word) (body : List Word) :
    (m.sendState kind req needs body).outbox.length = m.outbox.length + 1 := by
  simp [Mig.sendState]

/-- A task that is sent away sends at least its end record. -/
theorem sendCtx_outbox (m : Mig) (c : Ctx) (t : Task) (f : Frame) (save : Nat) : m.outbox.length < (m.sendCtx c t f save).outbox.length := by
  have hle (l : List (Nat × Bool × List Word)) (m : Mig) :
      m.outbox.length ≤ (l.foldl (fun m r => m.sendState r.1 r.2.1 (bodyNeeds r.1 c) r.2.2) m).outbox.length := by
    induction l generalizing m with
    | nil => exact le_rfl
    | cons r l ih => exact (Nat.le_succ _).trans ((sendState_outbox ..).ge.trans (ih _))
  rw [Mig.sendCtx, sendState_outbox]
  exact Nat.lt_succ_of_le (hle _ m)

/-- A task that is exported has left its die (R483). -/
def State.taskGone (s : State) (n die : Nat) : State :=
  (((s.dropWithdrawn n).freeSlot n).setTask n none).onDie die fun d => { d with evalq := d.evalq.filter (· != n) }

theorem taskGone_taskAt (s : State) (n die : Nat) : (s.taskGone n die).taskAt n = none := by
  rw [State.taskGone, onDie_taskAt, taskAt_setTask_same]

theorem taskGone_mig (s : State) (n die : Nat) : (s.taskGone n die).mig = s.mig := by
  rw [State.taskGone, onDie_mig, setTask_mig, ledger_mig (freeSlot_ledger ..)]
  rfl

theorem taskExport_exports {n : Nat} {x : Task} {c : Ctx} {k : BitVec 256} (h5 : s.feature 5 = true) (h6 : s.feature 6 = true)
    (h8 : s.boot.state ≠ 8)
    (hbusy : s.mig.busy = false) (hx : s.exportable = some (n, x, c)) (hlease : c.core.pl.lease = none) (hgroups : x.groups = [])
    (heval : x.eval = none) (hab : s.mig.aborted = false) (hk : s.mig.key = some k) :
    ∃ t : State, exec .taskExport s = .next t ∧ t.taskAt n = none ∧ t.mig.result = 0 ∧ t.mig.go = false ∧
      s.mig.outbox.length < t.mig.outbox.length := by
  rw [exec_taskExport, execTaskExport, if_neg h8, if_neg (by simp [h5, hbusy]), if_neg (by simp [h6])]
  simp only [hx]
  rw [if_neg (by simp [hlease, hgroups, heval]), if_neg (by simp [hab, hk])]
  generalize hsent : (s.onMig fun m => m.sendCtx c x s.frame (s.hbmNat ((s.dieAt x.die).slotAddr s.mig.slot + 8) 8)) = u
  have hlen : s.mig.outbox.length < u.mig.outbox.length := by rw [← hsent]; exact sendCtx_outbox ..
  generalize hdropped : u.dropPins _ = v
  have hmig : (v.taskGone n x.die).mig = u.mig := by rw [taskGone_mig, ← hdropped, ledger_mig (dropPins_ledger ..)]
  refine ⟨(v.taskGone n x.die).migDone 0, rfl, taskGone_taskAt v n x.die, rfl, rfl, ?_⟩
  rw [← hmig] at hlen
  exact hlen

theorem taskImport_begins (h5 : s.feature 5 = true) (h6 : s.feature 6 = true) (h8 : s.boot.state ≠ 8) (hbusy : s.mig.busy = false)
    (hab : s.mig.aborted = false) :
    ∃ t : State, exec .taskImport s = .next t ∧ t.mig.busy = true ∧ t.mig.go = true ∧ t.mig.imp = true ∧ t.mig.got = [] := by
  rw [exec_taskImport, execTaskImport, if_neg h8, if_neg (by simp [h5, hbusy]), if_neg (by simp [h6]), if_neg (by simp [hab])]
  exact ⟨_, rfl, rfl, rfl, rfl, rfl⟩

theorem typedStateRecord_gathers {g : StateRec} (hgo : s.mig.go = true) (himp : s.mig.imp = true)
    (hg : s.mig.genuine g.session g.seq g.sealed g.gcm = true) (hstale : s.mig.stale g.seq = false) :
    let r := typedOf (cryptWords (s.mig.key.getD 0) g.session g.seq g.words)
    (r.kind ≠ 0xFFFF → ∃ t : State, exec (.typedStateRecord g) s = .next t ∧ t.mig.got = s.mig.got ++ [r]) ∧
    (r.kind = 0xFFFF → exec (.typedStateRecord g) s = .next ((s.onMig fun m => (m.accept g.seq).took).importEnd r)) := by
  rw [exec_typedStateRecord, execTypedStateRecord, if_neg (by simp [hgo, himp]), if_neg (by simp [hg]), if_neg (by simp [hstale])]
  exact ⟨fun h => ⟨_, if_neg h, rfl⟩, fun h => if_pos h⟩

end

/-- Settles O55, transition by transition. -/
theorem migrationMovesGranulesAndTasks : Obligations.MigrationMovesGranulesAndTasks := by
  intro s h5
  refine ⟨fun hbusy => ⟨fun h8 hrecv hgo => migrationPass_begins h5 h8 hbusy hrecv hgo, fun h8 hrecv => migrationReceive_begins h5 h8 hbusy hrecv,
      fun w h8 => sessionKeyInstall_installs w h5 h8 hbusy, fun w h8 => msessWrite_clears h5 h8 hbusy,
      fun h6 h8 => ⟨fun n x c k => taskExport_exports h5 h6 h8 hbusy, taskImport_begins h5 h6 h8 hbusy⟩⟩,
    fun key va l hrecv hgo hbusy hover hk hl hd hlen hp => migrationPass_works h5 hrecv hgo hbusy hover hk hl hd hlen hp,
    migrationAbort_ends h5, recordAck_acknowledges, fun g hbusy hrecv hab hgo => ⟨granuleRecord_breaks hbusy hrecv hab hgo,
      granuleRecord_refuses hbusy hrecv hab hgo, fun ls hg ht hd hstale hls => granuleRecord_writes hbusy hrecv hab hgo hg ht hd hstale hls⟩,
    fun g hgo himp hg hstale => typedStateRecord_gathers hgo himp hg hstale⟩

end Sys2Proof.Machine

/-!
Driver operations (19_drv_launch.md R405, R411, R415, R422 to R424, R428 to R432; 20_drv_traps.md R438; 21_fleet.md R486): commands, owner
registers, handler images, placement tables and dirty bits.
-/

namespace Sys2Proof.Machine

open Sys2Proof.Safety

section
variable {s : State}

/-! ## Commands (R405, R411) -/

theorem command_runs (n : Nat) (k : State → State) (h8 : s.boot.state ≠ 8) (hbusy : s.cmd.busy = false) : s.command n k = k s := by
  rw [State.command, if_neg h8, if_neg (by simp [hbusy])]

theorem command_recovery (n : Nat) (k : State → State) (h8 : s.boot.state = 8) : s.command n k = s.noService 0x2000 := by
  rw [State.command, if_pos h8]

theorem cmdDone_result (s : State) (r : Nat) : (s.cmdDone r).cmd.result = r ∧ (s.cmdDone r).mem = s.mem := ⟨rfl, rfl⟩

/-- In recovery no command is served. -/
theorem commands_recovery (h8 : s.boot.state = 8) : ∀ i ∈ [Instr.registerImage, .unregisterImage, .unmap, .relocate, .undealCommand, .commitSvn],
    exec i s = .next (s.noService 0x2000) := by
  intro i hi
  simp only [List.mem_cons, List.not_mem_nil, or_false] at hi
  rcases hi with rfl | rfl | rfl | rfl | rfl | rfl
  · rw [exec_registerImage, execRegisterImage, command_recovery _ _ h8]
  · rw [exec_unregisterImage, execUnregisterImage, command_recovery _ _ h8]
  · rw [exec_unmap, execUnmap, command_recovery _ _ h8]
  · rw [exec_relocate, execRelocate, command_recovery _ _ h8]
  · rw [exec_undealCommand, execUndealCommand, command_recovery _ _ h8]
  · rw [exec_commitSvn, execCommitSvn, command_recovery _ _ h8]

/-- Nor is a write of these registers. -/
theorem registers_recovery (h8 : s.boot.state = 8) (o d h : Nat) (w : Word) :
    exec (.keyInstall o w) s = .next (s.noService (ownerOff o 0x78)) ∧ exec (.octlWrite o w) s = .next (s.noService (ownerOff o 0)) ∧
      exec (.hvecWrite d w) s = .next (s.noService (0x100000 + 0x20000 * d + 0xA0)) ∧
      exec .tableRewriteCommit s = .next (s.noService 0x10000) ∧
      exec (.dirtySnapshot h w) s = .next (s.noService (0x400000 + 0x20000 * h + 8)) :=
  ⟨(exec_keyInstall s o w).trans (if_pos h8), (exec_octlWrite s o w).trans (if_pos h8), (exec_hvecWrite s d w).trans (if_pos h8),
    (exec_tableRewriteCommit s).trans (if_pos h8), (exec_dirtySnapshot s h w).trans (if_pos h8)⟩

/-- An entry with its valid bit cleared: of a range table, or a page entry that can be read (R422). -/
def State.unmapped (s : State) (o kind e : Nat) : State :=
  if kind = 1 then
    s.onOwner o fun x => { x with ranges := mmod RangeE.rest x.ranges e fun r => { r with ctl := r.ctl &&& ~~~1#64 } }
  else match s.hbmWord (e + 8) with
    | some c => (s.onMem fun m => m.patchBlk (s.keyOf 0) ((e + 8) / 64) ((e + 8) % 64) 8 (c &&& ~~~1#64).toNat).touch (e / 64)
    | none => s

theorem unmapped_range (o e : Nat) : s.unmapped o 1 e =
    s.onOwner o fun x => { x with ranges := mmod RangeE.rest x.ranges e fun r => { r with ctl := r.ctl &&& ~~~1#64 } } := if_pos rfl
theorem unmapped_page (o : Nat) {e : Nat} {c : Word} (hc : s.hbmWord (e + 8) = some c) : s.unmapped o 0 e =
    (s.onMem fun m => m.patchBlk (s.keyOf 0) ((e + 8) / 64) ((e + 8) % 64) 8 (c &&& ~~~1#64).toNat).touch (e / 64) := by
  rw [State.unmapped, if_neg Nat.zero_ne_one, hc]

section
variable (h8 : s.boot.state ≠ 8) (hbusy : s.cmd.busy = false)
include h8 hbusy

/-! ### Images (R406, R424) -/

theorem registerImage_completes :
    let h := (s.arg 0).toNat
    let p := (s.arg 2).toNat
    let n := (s.arg 3).toNat
    ∃ t : State, exec .registerImage s = .next t ∧ t.cmd.busy = false ∧ t.cmd.result = s.imageCode h p n ∧
      (t.cmd.result = 0 → mget none t.images h = some ⟨(s.arg 1).setWidth 16, p, n⟩ ∧
        mget 0 t.boot.meas 3 = Config.sha384 (bytesOf (Config.sha384 (bytesOf (Config.sha384 (bytesOf (mget 0 s.boot.meas 3) ++
          bytesOf (Config.sha384 (s.hbmBytes p n)))) ++ leBytes h 4)) ++ bytesOf ((s.arg 1).setWidth 16 : BitVec 16))) ∧
      (t.cmd.result ≠ 0 → t.images = s.images ∧ t.boot.meas = s.boot.meas) := by
  rw [exec_registerImage, execRegisterImage, command_runs _ _ h8 hbusy]
  dsimp only
  split
  next hbad => exact ⟨_, rfl, rfl, rfl, fun h => absurd h hbad, fun _ => ⟨rfl, rfl⟩⟩
  next hgood =>
    refine ⟨_, rfl, rfl, (not_not.1 hgood).symm, fun _ => ⟨?_, ?_⟩, fun h => absurd rfl h⟩
    · simp only [State.cmdDone, raiseMsix_images, State.measure, mget_mset_same]
    · simp only [State.cmdDone, raiseMsix_boot, measure_meas]

theorem unregisterImage_completes : ∃ t : State, exec .unregisterImage s = .next t ∧
    (s.entryNames (s.arg 0).toNat = true ∨ s.cellNames (s.arg 0).toNat = true → t.cmd.result = 5 ∧ t.images = s.images) ∧
    (s.entryNames (s.arg 0).toNat = false → s.cellNames (s.arg 0).toNat = false →
      mget none t.images (s.arg 0).toNat = none ∧ t.cmd.result = 0) := by
  rw [exec_unregisterImage, execUnregisterImage, command_runs _ _ h8 hbusy]
  dsimp only
  split
  next hnamed => exact ⟨_, rfl, fun _ => ⟨rfl, rfl⟩, fun he hc => by simp [he, hc] at hnamed⟩
  next hfree => exact ⟨_, rfl, fun h => absurd (by simpa using h) hfree, fun _ _ => ⟨mget_mset_same none s.images _ none, rfl⟩⟩

/-! ### Unmapping (R422) -/

theorem unmap_clears {k : Nat} (hk : (s.arg 1).toNat = k) (ho : (s.arg 0).toNat < 16)
    (he : k = 1 ∧ (s.arg 2).toNat < 64 ∨ k = 0 ∧ (s.arg 2).toNat + 16 ≤ 2 ^ 40) :
    exec .unmap s = .next { s.unmapped (s.arg 0).toNat k (s.arg 2).toNat with
      cmd := { (s.unmapped (s.arg 0).toNat k (s.arg 2).toNat).cmd with busy := true, run := 3 } } := by
  rw [exec_unmap, execUnmap, command_runs _ _ h8 hbusy, hk]
  exact congrArg _ (if_neg (by omega))

theorem unmap_range (ho : (s.arg 0).toNat < 16) (hk : s.arg 1 = 1) (he : (s.arg 2).toNat < 64) :
    ∃ t : State, exec .unmap s = .next t ∧ t.cmd.busy = true ∧ t.cmd.run = 3 ∧
      (mget RangeE.rest (t.ownerAt (s.arg 0).toNat).ranges (s.arg 2).toNat).ctl =
        (mget RangeE.rest (s.ownerAt (s.arg 0).toNat).ranges (s.arg 2).toNat).ctl &&& ~~~1#64 := by
  refine ⟨_, unmap_clears h8 hbusy (k := 1) (by rw [hk]; rfl) ho (.inl ⟨rfl, he⟩), rfl, rfl, ?_⟩
  have howner (u : State) (c : Cmd) (o : Nat) : State.ownerAt { u with cmd := c } o = u.ownerAt o := rfl
  rw [howner, unmapped_range, ownerAt_onOwner_same]
  simp only [mmod, mget_mset_same]

theorem unmap_page {c : Word} (ho : (s.arg 0).toNat < 16) (hk : s.arg 1 = 0) (he : (s.arg 2).toNat + 16 ≤ 2 ^ 40)
    (hc : s.hbmWord ((s.arg 2).toNat + 8) = some c) :
    let e := (s.arg 2).toNat
    let u := (s.onMem fun m => m.patchBlk (s.keyOf 0) ((e + 8) / 64) ((e + 8) % 64) 8 (c &&& ~~~1#64).toNat).touch (e / 64)
    exec .unmap s = .next { u with cmd := { u.cmd with busy := true, run := 3 } } := by
  rw [unmap_clears h8 hbusy (k := 0) (by rw [hk]; rfl) ho (.inr ⟨rfl, he⟩), unmapped_page _ hc]

/-! ### Rows (R432) -/

theorem relocate_copies {u : State} (hu : s.copyRows (rowArg (s.arg 0)).1 (rowArg (s.arg 0)).2 (rowArg (s.arg 1)).1 (rowArg (s.arg 1)).2
    (min 512 (s.arg 2).toNat) = (u, none)) : exec .relocate s = .next (u.cmdDone 0) := by
  rw [exec_relocate, execRelocate, command_runs _ _ h8 hbusy]
  dsimp only
  rw [hu]

theorem relocate_fails {u : State} {r : Nat} (hu : s.copyRows (rowArg (s.arg 0)).1 (rowArg (s.arg 0)).2 (rowArg (s.arg 1)).1
    (rowArg (s.arg 1)).2 (min 512 (s.arg 2).toNat) = (u, some r)) :
    ∃ t : State, exec .relocate s = .next t ∧ t.cmd.result = 6 ∧ t.mem = u.mem := by
  rw [exec_relocate, execRelocate, command_runs _ _ h8 hbusy]
  dsimp only
  rw [hu]
  exact ⟨_, rfl, cmdDone_result _ 6⟩

/-- One good row is copied as it is. -/
theorem relocate_one (h1 : s.arg 2 = 1) (hbad : (s.rowAt (rowArg (s.arg 0)).1 (rowArg (s.arg 0)).2).bad = []) :
    exec .relocate s = .next ((s.setRow (rowArg (s.arg 1)).1 (rowArg (s.arg 1)).2
      (s.rowAt (rowArg (s.arg 0)).1 (rowArg (s.arg 0)).2)).cmdDone 0) := by
  refine relocate_copies h8 hbusy ?_
  rw [show min 512 (s.arg 2).toNat = 1 by rw [h1]; rfl, State.copyRows]
  rw [if_neg (by simp [hbad])]
  rfl

/-! ### Hands and versions (R428, R486) -/

theorem undealCommand_ends (hz : bitsOf (s.arg 0) 20 44 = 0) (hlive : s.handleLive (bitsOf (s.arg 0) 0 20) = true)
    (hh : s.conv.holdsHand (bitsOf (s.arg 0) 0 20) (s.arg 1).toNat = true) (hn : s.beat / 64 + 2 ≤ (s.arg 1).toNat) :
    exec .undealCommand s = .next ((s.onConv fun c => c.endHand (bitsOf (s.arg 0) 0 20) (s.arg 1).toNat s.beat).cmdDone 0) := by
  have hcode : dealResult [(6, !s.conv.holdsHand (bitsOf (s.arg 0) 0 20) (s.arg 1).toNat), (5, !s.handleLive (bitsOf (s.arg 0) 0 20)),
      (4, bitsOf (s.arg 0) 20 44 != 0), (1, decide ((s.arg 1).toNat < s.beat / 64 + 2))] = 0 := by
    simp [dealResult, hh, hlive, hz, Nat.not_lt.2 hn]
  rw [exec_undealCommand, execUndealCommand, command_runs _ _ h8 hbusy]
  dsimp only
  rw [hcode]
  rfl

theorem commitSvn_completes : ∃ t : State, exec .commitSvn s = .next t ∧ (s.boot.svn ≤ s.fused → t.cmd.result = 1 ∧ t.boot = s.boot) ∧
    (s.fused < s.boot.svn → (64 < s.boot.svn → t.cmd.result = 2 ∧ t.boot = s.boot) ∧
      (s.boot.svn ≤ 64 → t.cmd.result = 0 ∧ t.fused = s.boot.svn)) := by
  rw [exec_commitSvn, execCommitSvn, command_runs _ _ h8 hbusy]
  split
  next hle => exact ⟨_, rfl, fun _ => ⟨rfl, rfl⟩, fun h => absurd h (Nat.not_lt.2 hle)⟩
  next hlt =>
    split
    next hbig => exact ⟨_, rfl, fun h => absurd h hlt, fun _ => ⟨fun _ => ⟨rfl, rfl⟩, fun h => absurd hbig (Nat.not_lt.2 h)⟩⟩
    next hsmall =>
      have hfused : Config.fusedVersion.toNat ≤ s.boot.svn := (le_max_left _ _).trans (Nat.not_le.1 hlt).le
      exact ⟨_, rfl, fun h => absurd h hlt, fun _ => ⟨fun h => absurd h hsmall, fun _ => ⟨rfl, max_eq_right hfused⟩⟩⟩

end

theorem unmapPinsDropped_ends (hbusy : s.cmd.busy = true) (hrun : s.cmd.run = 3)
    (hpins : s.unmapPins (s.arg 0).toNat (s.arg 1).toNat (s.arg 2).toNat = 0) :
    ∃ t : State, exec .unmapPinsDropped s = .next t ∧ t.cmd.busy = false ∧ t.cmd.result = 0 :=
  ⟨_, (exec_unmapPinsDropped s).trans (if_pos ⟨hbusy, hrun, hpins⟩), rfl, rfl⟩

/-! ## Owners (R415) -/

/-- The number of eight words, the last of which comes from elsewhere. -/
theorem wordSum_last (f : Nat → Word) (w : Word) (n : Nat) :
    (List.range n).foldl (fun (v : Nat) i => v + (f i).toNat * 2 ^ (64 * i)) (w.toNat * 2 ^ (64 * n)) =
      wordSum (fun i => if i = n then w else f i) (n + 1) := by
  have hinit (l : List Nat) (a : Nat) : l.foldl (fun (v : Nat) i => v + (f i).toNat * 2 ^ (64 * i)) a =
      a + l.foldl (fun (v : Nat) i => v + (f i).toNat * 2 ^ (64 * i)) 0 := by
    induction l generalizing a with
    | nil => rfl
    | cons i l ih => rw [List.foldl_cons, ih, List.foldl_cons, ih (0 + _)]; omega
  have hbelow : wordSum (fun i => if i = n then w else f i) n = wordSum f n :=
    List.foldl_ext _ _ _ fun v i hi => by dsimp only; rw [if_neg (List.mem_range.1 hi).ne]
  rw [hinit, wordSum_succ, hbelow, if_pos rfl, Nat.add_comm, wordSum]

theorem keyInstall_installs {o : Nat} (w : Word) (h8 : s.boot.state ≠ 8) (ho : o < 16) (hl : (s.ownerAt o).live = false) :
    ∃ t : State, exec (.keyInstall o w) s = .next t ∧ (t.ownerAt o).keyvalid = true ∧ ∀ i, i < 8 →
      (t.ownerAt o).key.extractLsb' (64 * i) 64 = if i = 7 then w else mget 0 (s.ownerAt o).keyBuf i := by
  rw [exec_keyInstall, execKeyInstall, if_neg h8, if_neg (by omega), if_neg (by simp [hl])]
  refine ⟨_, rfl, ?_⟩
  rw [ownerAt_onOwner_same]
  refine ⟨rfl, fun i hi => ?_⟩
  dsimp only
  rw [show (2 : Nat) ^ 448 = 2 ^ (64 * 7) from rfl, wordSum_last]
  exact extract_wordSum (fun i => if i = 7 then w else mget 0 (s.ownerAt o).keyBuf i) hi rfl

theorem octlWrite_sets {o : Nat} {w : Word} (h8 : s.boot.state ≠ 8) (ho : o < 16) (hk : w.getLsbD 1 = true → (s.ownerAt o).keyvalid = true)
    (hl : w.getLsbD 1 = false → (s.ownerAt o).live = true → s.ownerBusy o = false) : ∃ t : State, exec (.octlWrite o w) s = .next t ∧
      (t.ownerAt o).circ = w.getLsbD 3 ∧ (t.ownerAt o).conv = w.getLsbD 2 ∧ (t.ownerAt o).live = w.getLsbD 1 := by
  have hallowed : ((w.getLsbD 1 && !(s.ownerAt o).keyvalid) || (!w.getLsbD 1 && (s.ownerAt o).live && s.ownerBusy o)) = false := by
    cases hw : w.getLsbD 1 with
    | true => simp [hk hw]
    | false => cases hlive : (s.ownerAt o).live with
      | true => simp [hl hw hlive]
      | false => simp
  rw [exec_octlWrite, execOctlWrite, if_neg h8, if_neg (by omega)]
  dsimp only
  rw [hallowed, if_neg Bool.false_ne_true]
  refine ⟨_, rfl, ?_⟩
  rw [ownerAt_onOwner_same]
  exact ⟨rfl, rfl, rfl⟩

/-! ## Handler images (R438) -/

theorem hvecWrite_fills {d : Nat} {w : Word} {i : Image} (h8 : s.boot.state ≠ 8) (hfree : ∀ k, k < 24 → (s.coreAt (24 * d + k)).pl.task = none)
    (hok : s.handlerOk (bitsOf w 0 32) = true) (hi : mget none s.images (bitsOf w 0 32) = some i) :
    ∃ t : State, exec (.hvecWrite d w) s = .next t ∧ (t.dieAt d).hvec.toNat = bitsOf w 0 32 ∧
      (t.dieAt d).hmem = s.imgWords (i.addr + 64) (s.imgHead i.addr).nwords := by
  have hplaced : ((List.range 24).any fun k => (s.coreAt (24 * d + k)).pl.task.isSome) = false := by
    simp only [List.any_eq_false, List.mem_range, Bool.not_eq_true, Option.isSome_eq_false_iff, Option.isNone_iff_eq_none]
    exact hfree
  rw [exec_hvecWrite, execHvecWrite, if_neg h8]
  dsimp only
  rw [hplaced, if_neg (by simp [hok])]
  refine ⟨_, rfl, ?_⟩
  rw [dieAt_onDie_same, hi]
  refine ⟨?_, rfl⟩
  rw [BitVec.toNat_ofNat, Nat.mod_eq_of_lt (by simp only [bitsOf]; exact BitVec.isLt _)]

/-! ## Placement tables (R430, R431) -/

theorem retable_placing (s : State) (t : Placing) : (s.retable t).placing = t :=
  List.foldlRecOn (motive := fun u : State => u.placing = t) _ _ rfl fun _ h _ _ => h

theorem tableRewriteCommit_completes (h8 : s.boot.state ≠ 8) : ∃ t : State, exec .tableRewriteCommit s = .next t ∧
    (s.placing.draining = true → t.placing = { s.placing with result := 1 }) ∧
    (s.placing.draining = false →
      (s.placing.stagedOk = false → t.placing = { s.placing with result := 2 }) ∧
      (s.placing.stagedOk = true → t.placing.regions = s.placing.stagedRegions ∧
        t.placing.modes = s.placing.stagedModes.map (fun e => (e.1, e.2.toNat)) ∧
        t.placing.active = (s.placing.active + 1) % 65536 ∧ t.placing.result = 0 ∧ t.placing.draining = true)) := by
  rw [exec_tableRewriteCommit, execTableRewriteCommit, if_neg h8]
  dsimp only
  cases hd : s.placing.draining with
  | true =>
    rw [if_pos rfl]
    exact ⟨_, rfl, fun _ => rfl, nofun⟩
  | false =>
    rw [if_neg nofun]
    cases hok : s.placing.stagedOk with
    | false =>
      rw [if_pos (by rfl)]
      exact ⟨_, rfl, nofun, fun _ => ⟨fun _ => rfl, nofun⟩⟩
    | true =>
      rw [if_neg (by simp)]
      refine ⟨_, rfl, nofun, fun _ => ⟨nofun, fun _ => ?_⟩⟩
      rw [retable_placing]
      exact ⟨rfl, rfl, rfl, rfl, rfl⟩

theorem tableRewriteDrained_completes (hd : s.placing.draining = true)
    (hdone : ∀ id ∈ s.placing.before, ∀ a, s.accAt id = some a → a.done = true) :
    ∃ t : State, exec .tableRewriteDrained s = .next t ∧ t.placing.drained = s.placing.active ∧ t.placing.draining = false := by
  rw [exec_tableRewriteDrained, execTableRewriteDrained]
  rw [if_pos]
  · exact ⟨_, rfl, rfl, rfl⟩
  · simp only [hd, Bool.true_and, Bool.not_eq_true', List.any_eq_false]
    intro id hid
    split
    next a ha => simp [hdone id hid a ha]
    next => exact Bool.false_ne_true

/-! ## Dirty bits (R423) -/

/-- The word of n bits. -/
def bitSum (p : Nat → Bool) (n : Nat) : Nat := (List.range n).foldl (fun v b => if p b then v + 2 ^ b else v) 0

theorem bitSum_succ (p : Nat → Bool) (n : Nat) : bitSum p (n + 1) = if p n then bitSum p n + 2 ^ n else bitSum p n := by
  rw [bitSum, List.range_succ, List.foldl_append]
  rfl

theorem bitSum_lt (p : Nat → Bool) (n : Nat) : bitSum p n < 2 ^ n := by
  induction n with
  | zero => exact Nat.one_pos
  | succ n ih =>
    rw [bitSum_succ, pow_succ]
    split <;> omega

theorem testBit_bitSum (p : Nat → Bool) {n b : Nat} (hb : b < n) : (bitSum p n).testBit b = p b := by
  induction n with
  | zero => exact absurd hb (Nat.not_lt_zero b)
  | succ n ih =>
    rw [bitSum_succ]
    rcases Nat.lt_succ_iff_lt_or_eq.1 hb with hlt | rfl
    · split
      · rw [Nat.add_comm, Nat.testBit_two_pow_add_gt hlt, ih hlt]
      · exact ih hlt
    · split
      next h => rw [Nat.add_comm, Nat.testBit_two_pow_add_eq, Nat.testBit_lt_two_pow (bitSum_lt p b), h]; rfl
      next h => rw [Nat.testBit_lt_two_pow (bitSum_lt p b), Bool.eq_false_iff.2 h]

/-- Bits cleared one after the other. -/
theorem mget_clearAll (l : List (Nat × Nat)) (m : SMap Bool) {g : Nat} (hg : mget false m g = false ∨ ∃ e ∈ l, e.2 = g) :
    mget false (l.foldl (fun d e => mset false d e.2 false) m) g = false := by
  induction l generalizing m with
  | nil => exact hg.resolve_right (by simp)
  | cons e l ih =>
    refine ih _ ?_
    rw [mget_mset]
    split
    next => exact .inl rfl
    next hne =>
      refine hg.imp_right ?_
      rintro ⟨x, hx, rfl⟩
      rcases List.mem_cons.1 hx with rfl | hx
      · exact absurd rfl hne
      · exact ⟨x, hx, rfl⟩

theorem dirtySnapshot_takes (h : Nat) {w : Word} (h8 : s.boot.state ≠ 8) (hz : bitsOf w 13 51 = 0) :
    ∃ t : State, exec (.dirtySnapshot h w) s = .next t ∧ (∀ a, t.mem.byte a = s.mem.byte a) ∧
      ∀ b, b < 64 → let g := rowGran s.placing h (64 * bitsOf w 0 13 + b)
        (mget 0 t.mem.dsnap h).getLsbD b = mget false s.mem.dirty g ∧ mget false t.mem.dirty g = false := by
  have hword : ((List.range 64).map fun b => (b, rowGran s.placing h (64 * bitsOf w 0 13 + b))).foldl
      (fun (n : Nat) e => if mget false s.mem.dirty e.2 then n + 2 ^ e.1 else n) 0 =
      bitSum (fun b => mget false s.mem.dirty (rowGran s.placing h (64 * bitsOf w 0 13 + b))) 64 := by
    rw [List.foldl_map, bitSum]
  have hmem {b : Nat} (hb : b < 64) : ∃ e ∈ (List.range 64).map fun b => (b, rowGran s.placing h (64 * bitsOf w 0 13 + b)),
      e.2 = rowGran s.placing h (64 * bitsOf w 0 13 + b) := ⟨_, List.mem_map.2 ⟨b, List.mem_range.2 hb, rfl⟩, rfl⟩
  rw [exec_dirtySnapshot, execDirtySnapshot, if_neg h8, if_neg (by simp [hz])]
  generalize (List.range 64).map (fun b => (b, rowGran s.placing h (64 * bitsOf w 0 13 + b))) = gs at hword hmem ⊢
  dsimp only
  rw [hword]
  refine ⟨_, rfl, fun _ => rfl, fun b hb => ⟨?_, mget_clearAll gs s.mem.dirty (.inr (hmem hb))⟩⟩
  dsimp only [State.onMem]
  rw [mget_mset_same, w64, BitVec.getLsbD_ofNat, testBit_bitSum _ hb, decide_eq_true hb, Bool.true_and]

end

/-- Settles O47, command by command and register by register. -/
theorem driverCommandsComplete : Obligations.DriverCommandsComplete := by
  intro s
  refine ⟨fun h8 => ⟨commands_recovery h8, fun o d h w => registers_recovery h8 o d h w⟩, fun h8 hbusy => ?_, unmapPinsDropped_ends,
    fun o w => keyInstall_installs w, fun o w => octlWrite_sets, fun d w i => hvecWrite_fills, tableRewriteCommit_completes,
    tableRewriteDrained_completes, fun h w => dirtySnapshot_takes h⟩
  exact ⟨registerImage_completes h8 hbusy, unregisterImage_completes h8 hbusy,
    fun ho => ⟨unmap_range h8 hbusy ho, fun c => unmap_page h8 hbusy ho⟩,
    ⟨fun u => relocate_copies h8 hbusy, fun u r => relocate_fails h8 hbusy, relocate_one h8 hbusy⟩,
    undealCommand_ends h8 hbusy, commitSvn_completes h8 hbusy⟩

end Sys2Proof.Machine
